-- ==== Sys2Proof/Word.lean ====
section
/-!
DEFINITION. The widths the manual uses for data it treats as bits: bytes, registers, instruction
words (R102) and mailbox messages (R318). Byte order is little-endian everywhere (R6).
-/
namespace Sys2Proof

/-- A byte of any store. -/
abbrev Byte := BitVec 8

/-- A vector lane, a handle, an accumulator element (R91, R111). -/
abbrev W32 := BitVec 32

/-- A scalar or address register, an event, a ring value (R91, R342). -/
abbrev W64 := BitVec 64

/-- A core instruction word (R102). -/
abbrev W128 := BitVec 128

/-- A mailbox message of 64 bytes (R318). -/
abbrev W512 := BitVec 512

end Sys2Proof
end

