-- ==== Sys2Proof/Syntax.lean ====
section
/-!
DEFINITION. The commands of the block: one constructor per row of spec/opcode_table.json, with the
row's operands. A core instruction names the core whose sequencer issues it (R102); a mailbox
operation names the page whose oldest message Getis takes (R318); a ring operation names the
context whose dispatched entry runs (R340); an inbound packet carries its header fields (R400).
In `dramApertureAccess` and `snpAck` the bytes come with the POISON mask of their 16-byte words
(R440, R444).
-/
namespace Sys2Proof

/-- Header of an inbound Weave packet (R400, R402): the port it arrives on, its link sequence and
acknowledgement, whether its CRC passed, and the transport fields. `off` is the 40-bit offset of
ADDR and `poison` the POISON mask. `stamp` is the stamp that its operation carries (R24). -/
structure Pkt where
  port   : Nat
  lseq   : Nat
  lack   : Nat
  crcOk  : Bool
  inStep : Bool
  ctx    : Nat
  core   : Nat
  dst    : Nat
  src    : Nat
  window : Nat
  reqId  : Nat
  poison : Nat
  off    : Nat
  step   : Nat
  stamp  : Nat
  deriving DecidableEq, Repr

/-- What Weave port training found (R396, R397): a reason value, the peer's module ID and port where
known, the peer's DOMAIN_TAG, lanes found inverted and whether the lane order was reversed. -/
structure TrainResult where
  reason     : Nat
  peerModule : Option Nat
  peerPort   : Option Nat
  peerTag    : W64
  polarity   : Nat
  reversed   : Bool
  deriving DecidableEq, Repr

/-- A DOMAIN message of kind ASSIGN (R413). -/
structure AssignMsg where
  master   : Nat
  tag      : W64
  topology : Nat
  sizeX    : Nat
  sizeY    : Nat
  sizeZ    : Nat
  parallel : Nat
  x        : Nat
  y        : Nat
  z        : Nat
  deriving DecidableEq, Repr

/-- One member of a job group (R418). -/
structure JgMember where
  module   : Nat
  ctx      : Nat
  rank     : Nat
  subgroup : Nat
  deriving DecidableEq, Repr

/-- A job-group definition (R417) as the tree carries it (R420); KIND 3 deletes. -/
structure JobGroupDef where
  group    : Nat
  kind     : Nat
  periodUs : Nat
  origin   : Nat
  stageUs  : Nat
  members  : List JgMember
  deriving DecidableEq, Repr

/-- What a patrol read finds in one granule or line (R151, R263). -/
inductive Finding where
  | clean | corrected | uncorrectable
  deriving DecidableEq, Repr

/-- PLDM base and platform requests the Rim controller serves (R477). -/
inductive PldmReq where
  | getTid
  | readSensor (sensor : Nat)
  | setThresholds (sensor : Nat) (warning critical : Int)
  | setEventReceiver (addr : Nat)
  deriving DecidableEq, Repr

/-- The commands, in the order of the opcode table. -/
inductive Instr where
  | halt (core : Nat)
  | tmma (core : Nat)
  | add (core : Nat)
  | sub (core : Nat)
  | mul (core : Nat)
  | and (core : Nat)
  | or (core : Nat)
  | xor (core : Nat)
  | shl (core : Nat)
  | shr (core : Nat)
  | sar (core : Nat)
  | minu (core : Nat)
  | maxu (core : Nat)
  | min (core : Nat)
  | max (core : Nat)
  | ldp (core : Nat)
  | lidx (core : Nat)
  | time (core : Nat)
  | vld (core : Nat)
  | vst (core : Nat)
  | accrd (core : Nat)
  | accwr (core : Nat)
  | vbcast (core : Nat)
  | vext (core : Nat)
  | vins (core : Nat)
  | vadd (core : Nat)
  | vsub (core : Nat)
  | vmul (core : Nat)
  | vfma (core : Nat)
  | vmax (core : Nat)
  | vmin (core : Nat)
  | vabs (core : Nat)
  | vneg (core : Nat)
  | vmuls (core : Nat)
  | vfmas (core : Nat)
  | vpairswap (core : Nat)
  | vmaskge (core : Nat)
  | rsum (core : Nat)
  | rsumsq (core : Nat)
  | rmax (core : Nat)
  | rmin (core : Nat)
  | ramax (core : Nat)
  | rtopk (core : Nat)
  | smxupd (core : Nat)
  | quant (core : Nat)
  | quantsr (core : Nat)
  | dequant (core : Nat)
  | exp2 (core : Nat)
  | log2 (core : Nat)
  | rcp (core : Nat)
  | rsqrt (core : Nat)
  | sigmoid (core : Nat)
  | tanh (core : Nat)
  | softplus (core : Nat)
  | mov (core : Nat)
  | setfull (core : Nat)
  | setempty (core : Nat)
  | waitfull (core : Nat)
  | waitempty (core : Nat)
  | test (core : Nat)
  | swaphalf (core : Nat)
  | push (core : Nat)
  | pop (core : Nat)
  | trypush (core : Nat)
  | trypop (core : Nat)
  | loop (core : Nat)
  | br (core : Nat)
  | waitev (core : Nat)
  | depmark (core : Nat)
  | stamp (core : Nat)
  | waitevResume (core : Nat)
  | flagReread (core : Nat)
  | tagWaitResume (core : Nat) (waiter : Nat)
  | hqWaitResume (core : Nat)
  | tagSetTakesEffect (core : Nat)
  | engineStop (core : Nat) (engine : Nat)
  | kernelStart (core : Nat)
  | kernelDone (core : Nat)
  | pieceIssue (core : Nat) (mover : Nat)
  | pieceLanding (core : Nat) (mover piece : Nat)
  | descDone (core : Nat) (mover : Nat)
  | tlbResume (stream : Nat)
  | finalSend (core : Nat) (mover : Nat)
  | creditTimeout (core : Nat) (ctx : Nat)
  | codecBlockDone (core : Nat) (mover piece : Nat)
  | attnUnitDone (core : Nat)
  | quantumEnd (core : Nat)
  | mbPost (page : Nat) (msg : W512)
  | doorbellWrite (ctx : Nat) (value : W64)
  | outPop (page : Nat)
  | registerWrite (page off : Nat) (value : W64)
  | ringFetch (ctx : Nat)
  | dispatch (ctx : Nat)
  | launch (ctx : Nat)
  | copy (ctx : Nat)
  | attn (ctx : Nat)
  | eventRecord (ctx : Nat)
  | eventWait (ctx : Nat)
  | stepBegin (ctx : Nat)
  | stepEnd (ctx : Nat)
  | floeOpInit (ctx : Nat)
  | floeOpBind (ctx : Nat)
  | floeOpRelease (ctx : Nat)
  | floeOpTruncate (ctx : Nat)
  | floeOpShare (ctx : Nat)
  | cadenceTick (ctx : Nat)
  | deadline (ctx : Nat)
  | abortDone (abort : Nat)
  | abortEscalate (abort : Nat)
  | ctxCreate (page : Nat)
  | ctxDestroy (page : Nat)
  | ctxResume (page : Nat)
  | ctxAbort (page : Nat)
  | ctxFloeConfig (page : Nat)
  | ctxInfo (page : Nat)
  | eventSet (page : Nat)
  | tuneOpen (page : Nat)
  | tuneClose (page : Nat)
  | coreBind (page : Nat)
  | coreUnbind (page : Nat)
  | partitionAssign (page : Nat)
  | sliceConfig (page : Nat)
  | modelInstall (page : Nat)
  | installEnd
  | modelInstallCancel (page : Nat)
  | modelRestorePlaced (page : Nat)
  | modelRestoreEnd
  | modelRemove (page : Nat)
  | modelRemoveEnd
  | modelGrant (page : Nat)
  | modelRevoke (page : Nat)
  | modelList (page : Nat)
  | modelDirectoryRead (page : Nat)
  | firnStatus (page : Nat)
  | variantBuild (page : Nat)
  | buildEnd
  | placedRecheckDone (part : Nat)
  | marginScan
  | scanDone
  | windowOpen (page : Nat)
  | windowClose (page : Nat)
  | domainConfig (page : Nat)
  | jobGroupSet (page : Nat)
  | jobGroupUnreachable
  | portStatus (page : Nat)
  | attest (page : Nat)
  | attestReportWritten
  | identityRead (page : Nat)
  | zeroiseVolatile (page : Nat)
  | zeroiseDecommission (page : Nat)
  | debugUnlock (page : Nat)
  | challengeIssue (page : Nat)
  | timeQuery (page : Nat)
  | traceRingConfig (page : Nat)
  | countersRead (page : Nat)
  | powerRead (page : Nat)
  | faultQueueConfig (page : Nat)
  | faultReply (page : Nat)
  | tlbInvalidate (page : Nat)
  | invalidateDone
  | faultBatchClose
  | migrateDone (part : Nat)
  | hostNoResponse (stream : Nat)
  | transResp (tag base size rights : Nat)
  | inval (ctx vaddr len : Nat)
  | write (h : Pkt) (group : Nat) (data : List Byte)
  | final (h : Pkt) (group : Nat) (value : W64) (count : Nat)
  | atomic (h : Pkt) (op : Nat) (value compare : W64)
  | enc (h : Pkt) (group frag : Nat) (last : Bool) (data : List Byte)
  | encReassemblyTimeout (buf : Nat)
  | resp (h : Pkt) (status count : Nat) (retry : Bool) (old : Option W64)
  | retryResend (core : Nat) (reqId : Nat)
  | remoteTimeout (core : Nat) (reqId : Nat)
  | groupExpired (idx : Nat)
  | nak (port : Nat) (lseq : Nat)
  | retryExhausted (port : Nat)
  | portUp (port : Nat) (t : TrainResult)
  | portRetrain (port : Nat)
  | timeMessageSend
  | timeMessage (port : Nat) (master : Nat) (tag : W64) (masterTime : Nat)
  | timeReply (port : Nat) (delay : Nat)
  | masterLost
  | timeDistribution
  | assign (port : Nat) (m : AssignMsg)
  | joined (port : Nat) (count : Nat)
  | domainReady
  | jobGroupDefinition (port : Nat) (d : JobGroupDef)
  | linkTrainingEnd (failedLanes : W32) (reversed : Bool)
  | linkRetrain
  | trelebNak (lseq : Nat)
  | recovery
  | recoveryEnd (failedLanes : W32) (reversed : Bool)
  | cmp (tag status : Nat)
  | cmpd (tag status poison : Nat)
  | completionTimeout (tag : Nat)
  | intrFailed (tag : Nat)
  | dramApertureAccess (tag off : Nat) (cache : Bool) (len : Nat) (data : Option (List Byte × Nat))
  | snpAck (line : Nat) (modified : Option (List Byte × Nat))
  | snoopTimeout (line : Nat)
  | trainDone (channel : Nat) (ok : Bool)
  | dramPatrolScrub (channel line : Nat) (finding : Finding)
  | scratchpadPatrolSweep (core : Nat) (tile : Bool) (granule : Nat) (finding : Finding)
  | watchdog (part : Nat) (engine : Nat)
  | heartbeat (part : Nat)
  | heartbeatLost (part : Nat)
  | tileResetRelease (part : Nat)
  | partitionResetEnd (part : Nat)
  | resetFailed (part : Nat)
  | rimStatus
  | logInfo
  | logRead (logSeq : Nat)
  | watchdogSet (mask ms : Nat)
  | partitionReset (part : Nat)
  | moduleReset (force : Bool)
  | mgmtRingSet (inbound outbound vector : Nat)
  | mgmtRingPoll
  | pldmPlatformMessage (r : PldmReq)
  | getVersion
  | getCapabilities
  | negotiateAlgorithms
  | vendorDefinedRequest (nonce : List Byte)
  | requestUpdate (len : Nat)
  | updateStageEnd (image : List Byte)
  | recoveryUpdate (image : List Byte)
  | rimLockstep
  | sensorSample (sensor : Nat) (reading : Int) (isOpen : Bool)
  | clamp (cause level : Nat)
  | clampRelease (cause level : Nat)
  | drbgReseed (ok : Bool)
  | entropyHealthFail (test : Nat)
  | inputApplied (mv : Nat)
  | powerUpStep (ok : Bool)
  | inputLost
  | undervoltageLockout
  | overvoltageLockout
  | inputTransient (peakMv : Nat)
  | eFuseTrip (collapsed : Bool)
  | railFault (rail kind reading : Nat)
  | senseOpen (rail : Nat)
  | pmicFault (channel status : Nat)
  | thermalTrip
  | engineInstructionCompletes (core : Nat) (engine : Nat)
  | idle (port : Nat) (lack : Nat)
  | trelebIdle (lack : Nat)
  | controlUncorrectable (part : Nat)
  | hubFault (cause : Nat)
  | rimStart
  | logRecordProgrammed
  | i3cDynamicAddress (addr : Nat)
  | stepUpTakesEffect (core : Nat)
  deriving DecidableEq, Repr

end Sys2Proof
end

