-- ==== Sys2Proof/Decode.lean ====
section
/-!
DEFINITION. The block has no instruction decoder: the rows of spec/opcode_table.json give no bits, so no word
spells a command. (The words the block itself decodes, of a core's program store and of its rings, are in
Machine/CoreDecode.lean and in the operations that read them.)
-/
namespace Sys2Proof

/-- The command a word of the opcode table spells: none, since no row of the table has bits. -/
def decodeTableWord (_nbits _w : Nat) : Option Instr := none

end Sys2Proof
end

