-- ==== Sys2Proof/Machine/SMap.lean ====
section
/-!
DEFINITION. Sparse stores: a list of key and value pairs with strictly rising keys that lists no
entry equal to what an unlisted key reads as. Every memory, register file and table of the machine
is held in this one canonical form, so that equal contents are equal data.
-/
namespace Sys2Proof

/-- A sparse table from Nat keys. -/
abbrev SMap (α : Type) := List (Nat × α)

/-- What key `k` holds; `d` is what an unlisted key reads as. -/
def SMap.get {α : Type} (d : α) : SMap α → Nat → α
  | [], _ => d
  | (j, v) :: t, k => if k = j then v else SMap.get d t k

/-- The table with `v` at `k`; writing the default removes the entry. -/
def SMap.set {α : Type} [DecidableEq α] (d : α) : SMap α → Nat → α → SMap α
  | [], k, v => if v = d then [] else [(k, v)]
  | (j, w) :: t, k, v =>
    if k < j then (if v = d then (j, w) :: t else (k, v) :: (j, w) :: t)
    else if k = j then (if v = d then t else (k, v) :: t)
    else (j, w) :: SMap.set d t k v

/-- The canonical form: keys above `lo` strictly rising, no default value listed. -/
def SMap.wfFrom {α : Type} [DecidableEq α] (d : α) : Option Nat → SMap α → Bool
  | _, [] => true
  | lo, (j, w) :: t =>
    (match lo with | none => true | some l => decide (l < j)) && decide (w ≠ d) && SMap.wfFrom d (some j) t

/-- The canonical form of a whole table. -/
def SMap.wf {α : Type} [DecidableEq α] (d : α) (m : SMap α) : Bool := SMap.wfFrom d none m

/-- Change what one key holds. -/
def SMap.modify {α : Type} [DecidableEq α] (d : α) (m : SMap α) (k : Nat) (f : α → α) : SMap α :=
  SMap.set d m k (f (SMap.get d m k))

/-- The table with `v` at `k`, for tables of records and registers: nothing is dropped. -/
def SMap.put {α : Type} : SMap α → Nat → α → SMap α
  | [], k, v => [(k, v)]
  | (j, w) :: t, k, v =>
    if k < j then (k, v) :: (j, w) :: t
    else if k = j then (k, v) :: t
    else (j, w) :: SMap.put t k v

/-- Keep only the entries whose key satisfies `p`. -/
def SMap.keep {α : Type} (m : SMap α) (p : Nat → Bool) : SMap α := m.filter (fun kv => p kv.1)

/-- A sorted set of Nat without repeats. -/
abbrev SSet := List Nat

/-- Membership. -/
def SSet.has (m : SSet) (k : Nat) : Bool := m.contains k

/-- Insert, keeping the order. -/
def SSet.insert : SSet → Nat → SSet
  | [], k => [k]
  | j :: t, k => if k < j then k :: j :: t else if k = j then j :: t else j :: SSet.insert t k

/-- Remove. -/
def SSet.erase (m : SSet) (k : Nat) : SSet := m.filter (fun j => j != k)

/-- Insert or remove by a Boolean. -/
def SSet.put (m : SSet) (k : Nat) (b : Bool) : SSet := if b then SSet.insert m k else SSet.erase m k

/-- A byte store: pairs of address and byte (the host's `Host.Cell`). -/
abbrev Mem := SMap Byte

/-- One byte of a store. A byte nothing has written reads zero: cold start and every scrub write
zeros with valid WCC (R171, R172, R267). -/
def Mem.byte (m : Mem) (a : Nat) : Byte := SMap.get 0#8 m a

/-- `n` bytes from `a`. -/
def Mem.bytes (m : Mem) (a : Nat) : Nat → List Byte
  | 0 => []
  | n + 1 => Mem.byte m a :: Mem.bytes m (a + 1) n

/-- Write a run of bytes from `a`. -/
def Mem.write (m : Mem) (a : Nat) : List Byte → Mem
  | [] => m
  | b :: t => Mem.write (SMap.set 0#8 m a b) (a + 1) t

/-- Drop everything in `[a, a + n)`: a scrub or a clear writes zeros (R172, R262). -/
def Mem.clear (m : Mem) (a n : Nat) : Mem := SMap.keep m (fun k => decide (k < a ∨ a + n ≤ k))

/-- Canonical form of a byte store. -/
def Mem.wf (m : Mem) : Bool := SMap.wf 0#8 m

/-- Little-endian value of a run of bytes (R6). -/
def leNat : List Byte → Nat
  | [] => 0
  | b :: t => b.toNat + 256 * leNat t

/-- `n` little-endian bytes of a value. -/
def natLe (n v : Nat) : List Byte :=
  match n with
  | 0 => []
  | k + 1 => BitVec.ofNat 8 (v % 256) :: natLe k (v / 256)

/-- Bits `[hi:lo]` of a value (R6). -/
def bits (v hi lo : Nat) : Nat := (v / 2 ^ lo) % 2 ^ (hi + 1 - lo)

/-- One bit of a value. -/
def bit (v i : Nat) : Bool := (v / 2 ^ i) % 2 == 1

/-- A field of a byte block: `n` little-endian bytes at offset `o`. -/
def fld (bs : List Byte) (o n : Nat) : Nat := leNat ((bs.drop o).take n)

/-- Every byte of `[o, o + n)` of a block is zero (a reserved field, R8). -/
def rsv (bs : List Byte) (o n : Nat) : Bool := fld bs o n == 0

/-- Two's complement reading of a `w`-bit value. -/
def signed (w v : Nat) : Int := if v < 2 ^ (w - 1) then (v : Int) else (v : Int) - (2 ^ w : Nat)

/-- Smallest multiple of `k` at or above `n`. -/
def roundUp (k n : Nat) : Nat := (n + (k - 1)) / k * k

/-- The first `n` elements of a list, padded with `d`. -/
def padTo {α : Type} (d : α) : Nat → List α → List α
  | 0, _ => []
  | n + 1, [] => d :: padTo d n []
  | n + 1, x :: t => x :: padTo d n t

/-- Overwrite a run of a list at offset `o`. -/
def patch {α : Type} (l : List α) (o : Nat) (v : List α) : List α :=
  l.take o ++ v ++ l.drop (o + v.length)

/-- Poison of a store after a write of `n` bytes at `a` in units of `u` bytes (R151, R254): a unit that
receives a poisoned byte is poisoned, a unit written in full is cleared, others keep their state. -/
def poisonAfter (u : Nat) (p : SSet) (a n : Nat) (bad : List Nat) : SSet :=
  if p.isEmpty && bad.isEmpty then p else
  let units := (List.range ((a + n + u - 1) / u - a / u)).map (fun i => a / u + i)
  units.foldl (fun p w =>
    if bad.any (fun i => (a + i) / u == w) then SSet.insert p w
    else if a ≤ w * u ∧ w * u + u ≤ a + n then SSet.erase p w else p) p

/-- Offsets of the bytes of `[a, a + n)` that lie in a poisoned unit. -/
def poisonedIn (u : Nat) (p : SSet) (a n : Nat) : List Nat :=
  if p.isEmpty then [] else (List.range n).filter (fun i => SSet.has p ((a + i) / u))

end Sys2Proof
end

