-- ==== Sys2Proof/Machine/Digest.lean ====
section
/-!
DEFINITION. The digests and checks the manual names: SHA-256 (R97, R211, R229, R503; R492 takes it from
FIPS 180-4) and CRC-32C (R254, R399, R400).
-/
namespace Sys2Proof

/-- Initial hash value. -/
def shaH0 : List W32 :=
  [0x6A09E667#32, 0xBB67AE85#32, 0x3C6EF372#32, 0xA54FF53A#32, 0x510E527F#32, 0x9B05688C#32, 0x1F83D9AB#32, 0x5BE0CD19#32]

/-- Round constants. -/
def shaK : List W32 :=
  [0x428A2F98#32, 0x71374491#32, 0xB5C0FBCF#32, 0xE9B5DBA5#32, 0x3956C25B#32, 0x59F111F1#32, 0x923F82A4#32, 0xAB1C5ED5#32,
   0xD807AA98#32, 0x12835B01#32, 0x243185BE#32, 0x550C7DC3#32, 0x72BE5D74#32, 0x80DEB1FE#32, 0x9BDC06A7#32, 0xC19BF174#32,
   0xE49B69C1#32, 0xEFBE4786#32, 0x0FC19DC6#32, 0x240CA1CC#32, 0x2DE92C6F#32, 0x4A7484AA#32, 0x5CB0A9DC#32, 0x76F988DA#32,
   0x983E5152#32, 0xA831C66D#32, 0xB00327C8#32, 0xBF597FC7#32, 0xC6E00BF3#32, 0xD5A79147#32, 0x06CA6351#32, 0x14292967#32,
   0x27B70A85#32, 0x2E1B2138#32, 0x4D2C6DFC#32, 0x53380D13#32, 0x650A7354#32, 0x766A0ABB#32, 0x81C2C92E#32, 0x92722C85#32,
   0xA2BFE8A1#32, 0xA81A664B#32, 0xC24B8B70#32, 0xC76C51A3#32, 0xD192E819#32, 0xD6990624#32, 0xF40E3585#32, 0x106AA070#32,
   0x19A4C116#32, 0x1E376C08#32, 0x2748774C#32, 0x34B0BCB5#32, 0x391C0CB3#32, 0x4ED8AA4A#32, 0x5B9CCA4F#32, 0x682E6FF3#32,
   0x748F82EE#32, 0x78A5636F#32, 0x84C87814#32, 0x8CC70208#32, 0x90BEFFFA#32, 0xA4506CEB#32, 0xBEF9A3F7#32, 0xC67178F2#32]

/-- One round over the eight working variables. -/
def shaRound (st : List W32) (k w : W32) : List W32 :=
  match st with
  | [a, b, c, d, e, f, g, h] =>
    let s1 := e.rotateRight 6 ^^^ e.rotateRight 11 ^^^ e.rotateRight 25
    let ch := (e &&& f) ^^^ (~~~e &&& g)
    let t1 := h + s1 + ch + k + w
    let s0 := a.rotateRight 2 ^^^ a.rotateRight 13 ^^^ a.rotateRight 22
    let mj := (a &&& b) ^^^ (a &&& c) ^^^ (b &&& c)
    [t1 + (s0 + mj), a, b, c, d + t1, e, f, g]
  | _ => st

/-- Message schedule: `w` holds the last sixteen words, oldest first. -/
def shaLoop : (fuel : Nat) → (ks w st : List W32) → List W32
  | 0, _, _, st => st
  | n + 1, k :: ks, w, st =>
    let w0 := w.getD 0 0#32
    let w1 := w.getD 1 0#32
    let w9 := w.getD 9 0#32
    let w14 := w.getD 14 0#32
    let s0 := w1.rotateRight 7 ^^^ w1.rotateRight 18 ^^^ (w1 >>> 3)
    let s1 := w14.rotateRight 17 ^^^ w14.rotateRight 19 ^^^ (w14 >>> 10)
    shaLoop n ks (w.drop 1 ++ [w0 + s0 + w9 + s1]) (shaRound st k w0)
  | _ + 1, [], _, st => st

/-- Big-endian words of a block. -/
def beWords : (n : Nat) → List Byte → List W32
  | 0, _ => []
  | n + 1, bs => BitVec.ofNat 32 (leNat (bs.take 4).reverse) :: beWords n (bs.drop 4)

/-- Compression of every 64-byte block. -/
def shaBlocks : (fuel : Nat) → List Byte → List W32 → List W32
  | 0, _, st => st
  | n + 1, bs, st =>
    let o := shaLoop 64 shaK (beWords 16 bs) st
    shaBlocks n (bs.drop 64) (List.zipWith (fun a b => a + b) st o)

/-- SHA-256 of a byte string. -/
def sha256 (m : List Byte) : List Byte :=
  let n := m.length
  let pad := (119 - n % 64) % 64
  let msg := m ++ [0x80#8] ++ List.replicate pad 0#8 ++ (natLe 8 (8 * n)).reverse
  (shaBlocks (msg.length / 64) msg shaH0).flatMap (fun w => (natLe 4 w.toNat).reverse)

/-- One byte into CRC-32C (reflected polynomial 0x82F63B78 of 0x1EDC_6F41). -/
def crcByte (c : W32) (b : Byte) : W32 :=
  (List.range 8).foldl (fun c _ => if c.getLsbD 0 then (c >>> 1) ^^^ 0x82F63B78#32 else c >>> 1) (c ^^^ b.setWidth 32)

/-- CRC-32C of a byte string. -/
def crc32c (m : List Byte) : W32 := ~~~(m.foldl crcByte 0xFFFFFFFF#32)

end Sys2Proof
end

