-- ==== Sys2Proof/Machine/Codec.lean ====
section
/-!
DEFINITION. The delta codec's data formats (R226–R233, R243, R244): code tables, blocks, their decoding and
their encoding. A failure is the reason value of R244.
-/
namespace Sys2Proof

/-- Decoded bytes of a full block (R228). -/
def blockLen : Nat := 16384

/-! ### Code tables -/

/-- The 256 code lengths of a 128-byte table (R232). -/
def tableLens (t : List Byte) : List Nat := t.flatMap (fun b => [b.toNat % 16, b.toNat / 16])

/-- A table is usable (R232): its lengths sum to 1, or one symbol is present with length 1. -/
def tableValid (lens : List Nat) : Bool :=
  let present := lens.filter (fun l => l != 0)
  (present.map (fun l => 2 ^ (15 - l))).sum == 2 ^ 15 || present == [1]

/-- Canonical codes (R232): (symbol, length, code) by rising length, then symbol. -/
def codeTable (lens : List Nat) : List (Nat × Nat × Nat) :=
  let sym := (List.range 15).flatMap (fun i => (lens.zipIdx.filter (fun ls => ls.1 == i + 1)).map (fun ls => (ls.2, i + 1)))
  (sym.foldl (fun (st : List (Nat × Nat × Nat) × Option (Nat × Nat)) s =>
    let code := match st.2 with
      | none => 0
      | some (pl, pc) => (pc + 1) * 2 ^ (s.2 - pl)
    (st.1 ++ [(s.1, s.2, code)], some (s.2, code))) ([], none)).1

/-- Bits of a byte string, each byte from bit 7 down (R231). -/
def bitsOf (bs : List Byte) : List Bool := bs.flatMap (fun b => (List.range 8).map (fun i => b.getLsbD (7 - i)))

/-- Take one symbol from the bits read so far and those left: the symbol and the rest, or a reason of R244. -/
def takeSym (codes : List (Nat × Nat × Nat)) : (len code : Nat) → List Bool → Except Nat (Nat × List Bool)
  | _, _, [] => .error 6
  | len, code, b :: rest =>
    let len := len + 1
    let code := 2 * code + (if b then 1 else 0)
    match codes.find? (fun c => c.2.1 == len && c.2.2 == code) with
    | some c => .ok (c.1, rest)
    | none =>
      if codes.any (fun c => decide (len < c.2.1) && c.2.2 / 2 ^ (c.2.1 - len) == code) then takeSym codes len code rest
      else .error 5

/-- Decode `n` symbols and consume every bit (R231). -/
def takeSyms (codes : List (Nat × Nat × Nat)) : (n : Nat) → List Bool → Except Nat (List Byte)
  | 0, [] => .ok []
  | 0, _ => .error 6
  | n + 1, bits =>
    match takeSym codes 0 0 bits with
    | .error e => .error e
    | .ok (s, rest) => match takeSyms codes n rest with
      | .error e => .error e
      | .ok l => .ok (BitVec.ofNat 8 s :: l)

/-! ### Blocks -/

/-- Fields of a block header (R230). -/
def bhDec (h : List Byte) : Nat := fld h 0 2
def bhComp (h : List Byte) : Nat := fld h 2 2
def bhFlags (h : List Byte) : Nat := fld h 4 1
def bhPad (h : List Byte) : Nat := fld h 5 1

/-- The header obeys R230 for a block of `len` decoded bytes. -/
def bhOk (h : List Byte) (len : Nat) : Bool :=
  let f := bhFlags h
  let c := bhComp h
  decide (1 ≤ len ∧ len ≤ blockLen) && rsv h 6 2 && !bit f 3 && decide ((if bit f 0 then 1 else 0) + (if bit f 1 then 1 else 0) + (if bit f 2 then 1 else 0) ≤ 1) &&
    bhDec h == len &&
    (if bit f 0 then c == len else if bit f 1 then c == 0 else if bit f 2 then decide (1 ≤ c ∧ c ≤ 16512)
     else decide (1 ≤ c ∧ c < len))

/-- Decode one block: header, the bytes from its payload on, and the table set (R230–R232, R244). -/
def decodeBlock (h data tables : List Byte) (len : Nat) : Except Nat (List Byte) :=
  let f := bhFlags h
  let pad := bhPad h
  let payload := data.take (bhComp h)
  if !bhOk h len then .error 3
  else if payload.length < bhComp h then .error 6
  else if bit f 0 ∨ bit f 1 then
    (if pad ≠ 0 then .error 7 else if bit f 0 then .ok (payload.take len) else .ok (List.replicate len 0#8))
  else
    let tb := if bit f 2 then payload.take 128 else (tables.drop (128 * bits f 7 4)).take 128
    let body := if bit f 2 then payload.drop 128 else payload
    let lens := tableLens tb
    if tb.length < 128 ∨ !tableValid lens then .error 4
    else
      let all := bitsOf body
      let cut := all.length - pad
      if 7 < pad ∨ (all.drop cut).any (fun b => b) then .error 7
      else takeSyms (codeTable lens) len (all.take cut)

/-- Apply a difference to a reference (R226) in units of `w` bits. -/
def applyDiff (w : Nat) (ref diff : List Byte) : List Byte :=
  if w < 8 then
    List.zipWith (fun r d => BitVec.ofNat 8 (((List.range (8 / w)).map (fun i =>
      (bits r.toNat (i * w + w - 1) (i * w) + bits d.toNat (i * w + w - 1) (i * w)) % 2 ^ w * 2 ^ (i * w))).sum)) ref diff
  else
    let k := w / 8
    ((List.range ((diff.length + k - 1) / k)).flatMap (fun u => natLe k (fld ref (u * k) k + fld diff (u * k) k))).take diff.length

/-- The difference of a variant from a reference (R226). -/
def makeDiff (w : Nat) (ref var : List Byte) : List Byte :=
  if w < 8 then
    List.zipWith (fun r d => BitVec.ofNat 8 (((List.range (8 / w)).map (fun i =>
      (bits d.toNat (i * w + w - 1) (i * w) + 2 ^ w - bits r.toNat (i * w + w - 1) (i * w)) % 2 ^ w * 2 ^ (i * w))).sum)) ref var
  else
    let k := w / 8
    ((List.range ((var.length + k - 1) / k)).flatMap (fun u =>
      natLe k (fld var (u * k) k + 256 ^ k - fld ref (u * k) k))).take var.length

/-! ### Building tables (R233) -/

/-- Counts of the 256 symbols. -/
def histogram (bs : List Byte) : List Nat :=
  (List.range 256).map (fun s => bs.countP (fun b => b.toNat == s))

/-- A node of the merge: weight, key and its leaves with their depths. -/
structure HNode where
  weight : Nat
  key    : Nat
  leaves : List (Nat × Nat)

/-- Insert a node by (weight, key). -/
def hInsert (n : HNode) : List HNode → List HNode
  | [] => [n]
  | m :: t => if n.weight < m.weight ∨ (n.weight = m.weight ∧ n.key < m.key) then n :: m :: t else m :: hInsert n t

/-- Merge the two least nodes until one is left. -/
def hMerge : (fuel : Nat) → List HNode → List HNode
  | 0, l => l
  | n + 1, x :: y :: t =>
    hMerge n (hInsert ⟨x.weight + y.weight, min x.key y.key, (x.leaves ++ y.leaves).map (fun l => (l.1, l.2 + 1))⟩ t)
  | _, l => l

/-- Depths of the leaves for a histogram. -/
def hDepths (h : List Nat) : List (Nat × Nat) :=
  let leaves := h.zipIdx.filter (fun c => c.1 != 0)
  match hMerge 256 (leaves.foldl (fun l c => hInsert ⟨c.1, c.2, [(c.2, 0)]⟩ l) []) with
  | n :: _ => n.leaves
  | [] => []

/-- Halve the counts until no code is longer than 15 bits. -/
def hLens : (fuel : Nat) → List Nat → List Nat
  | 0, _ => []
  | n + 1, h =>
    let d := hDepths h
    if d.any (fun x => decide (15 < x.2)) then hLens n (h.map (fun c => if c = 0 then 0 else max 1 (c / 2)))
    else (List.range 256).map (fun s => ((d.find? (fun x => x.1 == s)).map (·.2)).getD 0)

/-- The code lengths the builder derives (R233). -/
def buildLens (h : List Nat) : List Nat :=
  match (h.zipIdx.filter (fun c => c.1 != 0)).map (·.2) with
  | [] => List.replicate 256 0
  | [s] => (List.range 256).map (fun i => if i = s then 1 else 0)
  | _ => hLens 64 h

/-- The 128 bytes of a table (R232). -/
def tableBytes (lens : List Nat) : List Byte :=
  (List.range 128).map (fun i => BitVec.ofNat 8 (lens.getD (2 * i) 0 + 16 * lens.getD (2 * i + 1) 0))

/-! ### Encoding -/

/-- Bits into bytes, first bit in bit 7, with the number of unused bits. -/
def packBits (bs : List Bool) : List Byte × Nat :=
  let n := (bs.length + 7) / 8
  ((List.range n).map (fun i => BitVec.ofNat 8 (((List.range 8).map (fun j => if bs.getD (8 * i + j) false then 2 ^ (7 - j) else 0)).sum)),
    8 * n - bs.length)

/-- Code a block under a table. -/
def codeBits (lens : List Nat) (d : List Byte) : List Bool :=
  let codes := codeTable lens
  d.flatMap (fun b => match codes.find? (fun c => c.1 == b.toNat) with
    | some c => (List.range c.2.1).map (fun i => bit c.2.2 (c.2.1 - 1 - i))
    | none => [])

/-- A block header (R230). -/
def mkHeader (dec comp flags pad : Nat) : List Byte := natLe 2 dec ++ natLe 2 comp ++ natLe 1 flags ++ natLe 1 pad ++ natLe 2 0

/-- A stored block: header, payload and padding to 8 bytes (R228). -/
def storeBlock (h payload : List Byte) : List Byte := h ++ padTo 0#8 (roundUp 8 payload.length) payload

/-- Encode a block of a variant stream under its group's table (R237). -/
def encodeBlock (group : Nat) (lens : List Nat) (d : List Byte) : List Byte :=
  let n := d.length
  if d.all (fun b => b == 0#8) then mkHeader n 0 2 0
  else
    let pb := packBits (codeBits lens d)
    if pb.1.length < n then storeBlock (mkHeader n pb.1.length (16 * group) pb.2) pb.1
    else storeBlock (mkHeader n n 1 0) d

/-- Encode a block for Weave (R243): header and payload, the shortest of ZERO, RAW and INLINE. -/
def encodeInline (d : List Byte) : List Byte × List Byte :=
  let n := d.length
  if d.all (fun b => b == 0#8) then (mkHeader n 0 2 0, [])
  else
    let lens := buildLens (histogram d)
    let pb := packBits (codeBits lens d)
    if n ≤ 128 + pb.1.length then (mkHeader n n 1 0, d)
    else (mkHeader n (128 + pb.1.length) 4 pb.2, tableBytes lens ++ pb.1)

/-! ### Streams -/

/-- The stream header obeys R229 for a transfer of `len` bytes from block `first`. -/
def streamOk (h : List Byte) (first len : Nat) : Bool :=
  let d := fld h 8 8
  fld h 5 1 == 1 && [1, 2, 4, 8, 16, 32].contains (fld h 4 1) && decide (1 ≤ d ∧ d ≤ 2 ^ 32) &&
    fld h 0 4 == (d + blockLen - 1) / blockLen && decide (blockLen * first < d) && decide (blockLen * first + len ≤ d)

/-- Bytes of a whole encoded stream (R228, R229) of difference bytes `diff`; `own` are the variant's bytes. -/
def encodeStream (w group : Nat) (lens : List Nat) (tag : List Byte) (own diff : List Byte) : List Byte :=
  let n := diff.length
  let nb := (n + blockLen - 1) / blockLen
  let blocks := (List.range nb).map (fun i => encodeBlock group lens ((diff.drop (i * blockLen)).take blockLen))
  let start := 64 + roundUp 64 (4 * nb)
  let idx := (blocks.foldl (fun (st : List Nat × Nat) b => (st.1 ++ [st.2], st.2 + b.length)) ([], start)).1
  let total := start + (blocks.map List.length).sum
  natLe 4 nb ++ natLe 1 w ++ natLe 1 1 ++ natLe 2 0 ++ natLe 8 n ++ natLe 8 total ++ padTo 0#8 8 tag ++ padTo 0#8 32 own ++
    padTo 0#8 (roundUp 64 (4 * nb)) (idx.flatMap (natLe 4)) ++ blocks.flatten

end Sys2Proof
end

