-- ==== Sys2Proof/Config.lean ====
section
/-!
DEFINITION. What the manual leaves to the implementation or to another standard: free values with
no body, so that no proof can rest on a number. The approved algorithms of R492 are uninterpreted
functions (their standards, not this manual, define them).
-/
namespace Sys2Proof

/-- The n-th free byte: a value the manual leaves unspecified (R278, R288), drawn by counter. -/
opaque Config.freeByte : Nat → Byte

/-- The n-th 32 bytes the DRBG delivers (R492, R505). -/
opaque Config.drbgBytes : Nat → List Byte

/-- SLH-DSA-SHA2-128s verification of a signature over a message under a public key (R492). -/
opaque Config.slhVerify : (key msg sig : List Byte) → Bool

/-- The island's SLH-DSA signature over a message (R492, R503). -/
opaque Config.slhSign : (msg : List Byte) → List Byte

/-- Content key of a binding entry's ciphertext and wrapped key, where decapsulation and the AES-KW
integrity check pass (R500). -/
opaque Config.kemUnwrap : (ciphertext wrapped : List Byte) → Option (List Byte)

/-- Plaintext of one package chunk where its AES-256-GCM tag passes (R500): key, chunk index,
additional data, ciphertext and tag. -/
opaque Config.gcmOpen : (key : List Byte) → (index : Nat) → (aad ct tag : List Byte) → Option (List Byte)

/-- The module's identity record up to its signatures: ID_PUBKEY, KEM_EK, SERIAL, MFG_KEY, MFG_CERT
and ID_SIG in the order of R495 (17,360 bytes). -/
opaque Config.identityTail : List Byte

/-- SHA-256 digests of the boot ROM and of the vendor root key (R503). -/
opaque Config.bootRomDigest : List Byte

/-- SHA-256 of the vendor root key (R503). -/
opaque Config.vendorRootDigest : List Byte

/-- The vendor root public key in ROM (R493). -/
opaque Config.vendorRootKey : List Byte

/-- The retention estimate in days that a margin scan derives: the method is the module's own and
is not specified (R221). Arguments: the scan's number and the model ID. -/
opaque Config.retentionDays : Nat → Nat → Nat

/-- Serial number of the choice among parallel outcomes the manual leaves in no defined order. -/
opaque Config.choice : Nat → Nat

/-- Measured power and energy readings that the manual gives no rule for (R389, R482). -/
opaque Config.powerReading : Nat → Nat

/-- SEVERITY of a log code: R483 names the levels and no rule gives a code its level. -/
opaque Config.logSeverity : (code : Nat) → Nat

/-- Completion codes and fields of PLDM and SPDM answers, which their own standards define (R477, R502): by
request kind. -/
opaque Config.standardReply : (kind : Nat) → List Byte

/-- Lengths of the Rim and Getis components of a firmware image: no field of the header names them (R501). -/
opaque Config.imageParts : (image : List Byte) → Nat × Nat

/-- LAST_TRIGGER of a reset that zeroisation begins: R481 names no value for it. -/
opaque Config.zeroTrigger : Nat

end Sys2Proof
end

