-- ==== Sys2Proof/Machine/BoardState.lean ====
section
/-!
DEFINITION. The state of the Rim controller (R472–R487), the security island (R493, R497, R498, R502–R506) and the
power input (R512–R520).
-/
namespace Sys2Proof.Machine

/-- An event log record (R483) without its CHECK. -/
structure LogRec where
  stamp    : Nat
  seq      : Nat
  code     : Nat
  severity : Nat
  time     : Nat
  part     : Nat
  island   : Nat
  boot     : Nat
  arg      : Nat
  deriving DecidableEq, Repr

/-- A sensor (R475–R477): reading, OPEN, thresholds and which are crossed. -/
structure Sensor where
  reading  : Int := 0
  isOpen   : Bool := false
  warning  : Option Int := none
  critical : Option Int := none
  warnOn   : Bool := false
  critOn   : Bool := false
  deriving DecidableEq, Repr

/-- A firmware update under way (R487): stage 1–5, length asked for and the staged image. -/
structure Update where
  stage  : Nat
  len    : Nat
  image  : List Byte
  /-- Partition whose system reserve holds the staging. -/
  part   : Nat
  deriving DecidableEq, Repr

/-- The management rings (R478). -/
structure MgmtRing where
  inbound  : Nat
  outbound : Nat
  vector   : Nat
  inSeq    : Nat
  outSeq   : Nat
  deriving DecidableEq, Repr

/-- The Rim controller. `state` as R474. `image` is the flash's IMAGE and `running` the image that runs. Flash
contents (`image`, `log`, `logSeq`, `boot`, `retired`, `disabled`) survive cold starts. -/
structure Rim where
  state    : Nat := 0
  boot     : Nat := 0
  image    : List Byte := []
  imageValid : Bool := true
  running  : List Byte := []
  update   : Option Update := none
  /-- Why the controller starts: 1 cold start, 2 module reset, 3 lockstep (R484). -/
  why      : Nat := 0
  logQ     : List LogRec := []
  log      : List LogRec := []
  logSeq   : Nat := 0
  dropped  : Nat := 0
  overflow : Nat := 0
  sensors  : SMap Sensor := []
  receiver : Option Nat := none
  rings    : Option MgmtRing := none
  /-- MCTP packets read from the inbound ring and not yet answered. -/
  mail     : List (List Byte) := []
  /-- Messages sent to requesters and the event receiver, oldest first, and how many of them the outbound
  ring has carried. -/
  out      : List (List Byte) := []
  carried  : Nat := 0
  strap    : Nat := 7
  address  : Nat := 0
  i3c      : Option Nat := none
  tid      : Nat := 0
  /-- Retired partitions and successive cold starts each was disabled at (R465). -/
  retired  : SSet := []
  disabled : SMap Nat := []
  deriving DecidableEq, Repr

/-- An attestation request that waits for its signature (R502): page and tag, or the management path, its NONCE,
the unsigned report (empty until zeroisation ends, R508) and its buffer. -/
structure Attest where
  page   : Option Nat
  tag    : Nat
  nonce  : List Byte
  report : List Byte
  addr   : Nat
  len    : Nat
  at_    : Nat
  deriving DecidableEq, Repr

/-- A zeroisation or unlock that waits for its partition resets (R504, R506): 0 VOLATILE, 1 DECOMMISSION,
2 DEBUG_UNLOCK. -/
structure Zero where
  kind : Nat
  tag  : Nat
  deriving DecidableEq, Repr

/-- The security island. `state` as R498. -/
structure Sec where
  state    : Nat := 0
  unlocked : Bool := false
  unlocks  : Nat := 0
  floor    : Nat := 0
  decommissioned : Bool := false
  queue    : List Attest := []
  challenge : Option (List Byte × Nat) := none
  /-- Requests since the DRBG was last seeded (R492). -/
  requests : Nat := 0
  /-- The content key of the install, restore or build under way (R493). -/
  content  : Option (List Byte) := none
  zero     : Option Zero := none
  deriving DecidableEq, Repr

/-- The power input (R512) and the clamp (R515). `step` is the start-up step under way, 0 for none. -/
structure Power where
  state    : Nat := 0
  cause    : Nat := 0
  step     : Nat := 0
  inputMv  : Nat := 0
  ready    : Bool := false
  /-- Rails that are up (R513). -/
  rails    : SSet := []
  sense    : SSet := []
  /-- Channels whose PMIC is held off (R517). -/
  pmic     : SSet := []
  /-- Level asked for by each cause. -/
  asks     : SMap Nat := []
  level    : Nat := 0
  deriving DecidableEq, Repr

end Sys2Proof.Machine
end

