-- ==== Sys2Proof/Machine/Num.lean ====
section
/-!
DEFINITION. Number formats and their arithmetic (R44 to R69, R83, R124): values of codes, the one
rounding to nearest even over exact rationals, block-scaled conversion, the reduction group of the
tensor array and the stochastic generator.
-/
namespace Sys2Proof

/-- An element value: a NaN, an infinity, or the signed dyadic `± m · 2^e` (a zero keeps its sign). -/
inductive Val where
  | nan
  | inf (neg : Bool)
  | fin (neg : Bool) (m : Nat) (e : Int)
  deriving DecidableEq, Repr

/-- A floating-point format: width, fraction bits, exponent of the smallest subnormal, largest
finite magnitude code, and the codes of infinity and of the canonical NaN where it has them (R45, R49). -/
structure FloatFmt where
  width   : Nat
  frac    : Nat
  qmin    : Int
  maxCode : Nat
  inf     : Option Nat
  nan     : Option Nat
  deriving DecidableEq, Repr

def fp32 : FloatFmt := ⟨32, 23, -149, 0x7F7FFFFF, some 0x7F800000, some 0x7FC00000⟩
def bf16 : FloatFmt := ⟨16, 7, -133, 0x7F7F, some 0x7F80, some 0x7FC0⟩
def fp16 : FloatFmt := ⟨16, 10, -24, 0x7BFF, some 0x7C00, some 0x7E00⟩
def e4m3 : FloatFmt := ⟨8, 3, -9, 0x7E, none, some 0x7F⟩
def e5m2 : FloatFmt := ⟨8, 2, -16, 0x7B, some 0x7C, some 0x7E⟩
def e2m3 : FloatFmt := ⟨6, 3, -3, 0x1F, none, none⟩
def e3m2 : FloatFmt := ⟨6, 2, -4, 0x1F, none, none⟩
def e2m1 : FloatFmt := ⟨4, 1, -1, 0x7, none, none⟩
def fp64 : FloatFmt := ⟨64, 52, -1074, 0x7FEFFFFFFFFFFFFF, some 0x7FF0000000000000, some 0x7FF8000000000000⟩

/-- Element formats (R44). -/
inductive Elem where
  | fp32 | bf16 | fp16 | e4m3 | e5m2 | e2m3 | e3m2 | e2m1 | w2 | w1
  deriving DecidableEq, Repr

/-- The format a code names; 0xA to 0xF are reserved (R44). -/
def Elem.ofCode : Nat → Option Elem
  | 0 => some .fp32 | 1 => some .bf16 | 2 => some .fp16 | 3 => some .e4m3 | 4 => some .e5m2
  | 5 => some .e2m3 | 6 => some .e3m2 | 7 => some .e2m1 | 8 => some .w2 | 9 => some .w1
  | _ => none

/-- Bits of one element (R44). -/
def Elem.width : Elem → Nat
  | .fp32 => 32 | .bf16 => 16 | .fp16 => 16 | .e4m3 => 8 | .e5m2 => 8
  | .e2m3 => 6 | .e3m2 => 6 | .e2m1 => 4 | .w2 => 2 | .w1 => 1

/-- The floating-point format of an element, where it is one. -/
def Elem.float : Elem → Option FloatFmt
  | .fp32 => some Sys2Proof.fp32 | .bf16 => some Sys2Proof.bf16 | .fp16 => some Sys2Proof.fp16
  | .e4m3 => some Sys2Proof.e4m3 | .e5m2 => some Sys2Proof.e5m2 | .e2m3 => some Sys2Proof.e2m3
  | .e3m2 => some Sys2Proof.e3m2 | .e2m1 => some Sys2Proof.e2m1 | .w2 => none | .w1 => none

/-- Formats that carry block scales (R50, R58). -/
def Elem.narrow : Elem → Bool
  | .fp32 => false | .bf16 => false | .fp16 => false | _ => true

/-- Formats that must carry block scales (R58). -/
def Elem.needsScale : Elem → Bool
  | .fp32 => false | .bf16 => false | .fp16 => false | .e4m3 => false | .e5m2 => false | _ => true

/-- The value of a floating-point code (R45). -/
def FloatFmt.val (f : FloatFmt) (code : Nat) : Val :=
  let neg := code / 2 ^ (f.width - 1) % 2 == 1
  let c := code % 2 ^ (f.width - 1)
  if c ≤ f.maxCode then
    (let x := c / 2 ^ f.frac
     if x = 0 then .fin neg c f.qmin
     else .fin neg (c % 2 ^ f.frac + 2 ^ f.frac) (f.qmin + (x : Int) - 1))
  else if f.inf = some c then .inf neg else .nan

/-- The value of an element code (R45, R46). -/
def Elem.val (e : Elem) (code : Nat) : Val :=
  match e with
  | .w2 => (match code % 4 with | 0 => .fin true 3 (-1) | 1 => .fin true 1 (-1) | 2 => .fin false 1 (-1) | _ => .fin false 3 (-1))
  | .w1 => .fin (code % 2 == 0) 1 0
  | .fp32 => FloatFmt.val Sys2Proof.fp32 code
  | .bf16 => FloatFmt.val Sys2Proof.bf16 code
  | .fp16 => FloatFmt.val Sys2Proof.fp16 code
  | .e4m3 => FloatFmt.val Sys2Proof.e4m3 code
  | .e5m2 => FloatFmt.val Sys2Proof.e5m2 code
  | .e2m3 => FloatFmt.val Sys2Proof.e2m3 code
  | .e3m2 => FloatFmt.val Sys2Proof.e3m2 code
  | .e2m1 => FloatFmt.val Sys2Proof.e2m1 code

/-- The sign an element code gives to a zero under a zero block scale (R50). -/
def Elem.codeSign (e : Elem) (code : Nat) : Bool :=
  match e with
  | .w2 => code % 4 < 2
  | .w1 => code % 2 == 0
  | _ => code / 2 ^ (e.width - 1) % 2 == 1

/-- floor(log2(n / d)) for n, d > 0. -/
def floorLog2 (n d : Nat) : Int :=
  let k : Int := (Nat.log2 n : Int) - (Nat.log2 d : Int)
  let ok := if 0 ≤ k then decide (d * 2 ^ k.toNat ≤ n) else decide (d ≤ n * 2 ^ (-k).toNat)
  if ok then k else k - 1

/-- A rational as `n·2^q / d` with `q` folded in. -/
def scaleRat (n d : Nat) (q : Int) : Nat × Nat :=
  if 0 ≤ q then (n * 2 ^ q.toNat, d) else (n, d * 2 ^ (-q).toNat)

/-- The magnitude code nearest to n / d, ties to the even code (R60), without a range limit. -/
def FloatFmt.rneMag (f : FloatFmt) (n d : Nat) : Nat :=
  if n = 0 then 0 else
    let q := max (floorLog2 n d - (f.frac : Int)) f.qmin
    let (a, b) := scaleRat n d (-q)
    let k := a / b
    let r := a % b
    let k' := if b < 2 * r || (2 * r == b && k % 2 == 1) then k + 1 else k
    (q - f.qmin).toNat * 2 ^ f.frac + k'

/-- The sign bit of a format. -/
def FloatFmt.signBit (f : FloatFmt) (neg : Bool) : Nat := if neg then 2 ^ (f.width - 1) else 0

/-- Round the exact value ± n / d once into a format: overflow gives infinity where the format has
one and saturates where it has none (R60, R62). -/
def FloatFmt.round (f : FloatFmt) (neg : Bool) (n d : Nat) : Nat :=
  let c := f.rneMag n d
  let c' := if c ≤ f.maxCode then c else (match f.inf with | some i => i | none => f.maxCode)
  f.signBit neg + c'

/-- The canonical NaN code of a format (R49); a format without one has 0. -/
def FloatFmt.nanCode (f : FloatFmt) : Nat := f.nan.getD 0

/-- Convert a value into a floating-point format (R60 to R62). -/
def FloatFmt.ofVal (f : FloatFmt) : Val → Nat
  | .nan => f.nanCode
  | .inf neg => (match f.inf with
                 | some i => f.signBit neg + i
                 | none => (match f.nan with | some c => c | none => f.signBit neg + f.maxCode))
  | .fin neg m e => (let (n, d) := scaleRat m 1 e
                     f.round neg n d)

/-- The nearest integer, ties to even, of the signed rational n / d. -/
def rneInt (n : Int) (d : Nat) : Int :=
  let k := n / (d : Int)
  let r := n - k * d
  if (d : Int) < 2 * r || (2 * r == (d : Int) && k % 2 == 1) then k + 1 else k

/-- Convert a finite value into an element code (R60, R62, R63). -/
def Elem.ofVal (e : Elem) (v : Val) : Nat :=
  match e with
  | .w2 => (match v with
            | .fin neg m x =>
              (let (n, d) := scaleRat m 1 x
               let num : Int := 2 * (if neg then -(n : Int) else (n : Int)) + 3 * d
               (min 3 (max 0 (rneInt num (2 * d)))).toNat)
            | _ => 2)
  | .w1 => (match v with
            | .fin neg m _ => if m ≠ 0 ∧ neg = false then 1 else 0
            | _ => 1)
  | .fp32 => Sys2Proof.fp32.ofVal v
  | .bf16 => Sys2Proof.bf16.ofVal v
  | .fp16 => Sys2Proof.fp16.ofVal v
  | .e4m3 => Sys2Proof.e4m3.ofVal v
  | .e5m2 => Sys2Proof.e5m2.ofVal v
  | .e2m3 => Sys2Proof.e2m3.ofVal v
  | .e3m2 => Sys2Proof.e3m2.ofVal v
  | .e2m1 => Sys2Proof.e2m1.ofVal v

/-- A value is a zero of either sign. -/
def Val.isZero : Val → Bool
  | .fin _ m _ => m == 0
  | _ => false

/-- A NaN. -/
def Val.isNan : Val → Bool
  | .nan => true
  | _ => false

/-- An infinity or a NaN. -/
def Val.special : Val → Bool
  | .fin _ _ _ => false
  | _ => true

/-- The sign of a value. -/
def Val.neg : Val → Bool
  | .nan => false
  | .inf n => n
  | .fin n _ _ => n

/-- Flip the sign (NaN stays canonical, R49). -/
def Val.negate : Val → Val
  | .nan => .nan
  | .inf n => .inf (!n)
  | .fin n m e => .fin (!n) m e

/-- Drop the sign. -/
def Val.abs : Val → Val
  | .nan => .nan
  | .inf _ => .inf false
  | .fin _ m e => .fin false m e

/-- Exact product; NaN operands and infinity times zero give NaN (R49). -/
def Val.mul : Val → Val → Val
  | .nan, _ => .nan
  | _, .nan => .nan
  | .inf a, .inf b => .inf (a != b)
  | .inf a, .fin b m _ => if m = 0 then .nan else .inf (a != b)
  | .fin a m _, .inf b => if m = 0 then .nan else .inf (a != b)
  | .fin a m x, .fin b n y => .fin (a != b) (m * n) (x + y)

/-- Exact sum; infinities of opposite sign give NaN (R49). A sum of zeros keeps -0 only when both
are -0; an exact cancellation gives +0. -/
def Val.add : Val → Val → Val
  | .nan, _ => .nan
  | _, .nan => .nan
  | .inf a, .inf b => if a = b then .inf a else .nan
  | .inf a, .fin _ _ _ => .inf a
  | .fin _ _ _, .inf b => .inf b
  | .fin a m x, .fin b n y =>
    if m = 0 ∧ n = 0 then .fin (a && b) 0 0 else
      let e := min x y
      let p : Int := (m * 2 ^ (x - e).toNat : Nat)
      let q : Int := (n * 2 ^ (y - e).toNat : Nat)
      let t := (if a then -p else p) + (if b then -q else q)
      .fin (decide (t < 0)) t.natAbs e

/-- Order of two non-NaN values: `a < b` (zeros compare equal). -/
def Val.lt : Val → Val → Bool
  | .nan, _ => false
  | _, .nan => false
  | .inf a, .inf b => a && !b
  | .inf a, .fin _ _ _ => a
  | .fin _ _ _, .inf b => !b
  | .fin a m x, .fin b n y =>
    let e := min x y
    let p : Int := (m * 2 ^ (x - e).toNat : Nat)
    let q : Int := (n * 2 ^ (y - e).toNat : Nat)
    decide ((if a then -p else p) < (if b then -q else q))

/-- Maximum: NaN with a NaN operand; of +0 and -0 it is +0 (R124). -/
def Val.max (a b : Val) : Val :=
  if a.isNan || b.isNan then .nan
  else if a.isZero && b.isZero then .fin (a.neg && b.neg) 0 0
  else if a.lt b then b else a

/-- Minimum: NaN with a NaN operand; of +0 and -0 it is -0 (R124). -/
def Val.min (a b : Val) : Val :=
  if a.isNan || b.isNan then .nan
  else if a.isZero && b.isZero then .fin (a.neg || b.neg) 0 0
  else if b.lt a then b else a

/-- Value of an FP32 pattern. -/
def f32 (w : W32) : Val := fp32.val w.toNat

/-- Round a value once into FP32 (R60). -/
def toF32 (v : Val) : W32 := BitVec.ofNat 32 (fp32.ofVal v)

/-- The value rne_fp32(v). -/
def rne (v : Val) : Val := f32 (toF32 v)

/-- The exact quotient a / b rounded once into a format. A zero divisor does not arise where the
manual divides: every L2 is positive and finite (R53) and a zero scale takes its own branch (R64). -/
def divRound (f : FloatFmt) (a b : Val) : Nat :=
  match a, b with
  | .nan, _ => f.nanCode
  | _, .nan => f.nanCode
  | .inf _, .inf _ => f.nanCode
  | .inf n, .fin k _ _ => f.ofVal (.inf (n != k))
  | .fin n _ _, .inf k => f.ofVal (.fin (n != k) 0 0)
  | .fin n m x, .fin k p y =>
    if p = 0 then (if m = 0 then f.nanCode else f.ofVal (.inf (n != k)))
    else
      let (u, v) := scaleRat m p (x - y)
      f.round (n != k) u v

/-- rne_fp32(a / b). -/
def divF32 (a b : Val) : Val := fp32.val (divRound fp32 a b)

/-- 2^e as a value. -/
def pow2Val (e : Int) : Val := .fin false 1 e

/-- The value of an E8M0 scale byte; 0xFF is NaN (R50). -/
def e8m0Val (c : Nat) : Val := if c % 256 = 255 then .nan else pow2Val ((c % 256 : Nat) - 127 : Int)

/-- Block-scale formats (R50). -/
inductive BScale where
  | none | e8m0 | e4m3
  deriving DecidableEq, Repr

/-- BSCALE_FMT codes (R50). -/
def BScale.ofCode : Nat → Option BScale
  | 0 => some .none | 1 => some .e8m0 | 2 => some .e4m3 | _ => Option.none

/-- Value of a block-scale byte. -/
def BScale.val (b : BScale) (c : Nat) : Val :=
  match b with
  | .none => pow2Val 0
  | .e8m0 => e8m0Val c
  | .e4m3 => Sys2Proof.e4m3.val c

/-- NaN code of a block-scale format (R50, R64). -/
def BScale.nanCode : BScale → Nat
  | .none => 0 | .e8m0 => 0xFF | .e4m3 => 0x7F

/-- Element value with its block scale applied and L2 left out: a zero block scale gives a signed
zero whatever the code; a NaN block scale gives NaN (R50, R54, R55). -/
def scaledVal (e : Elem) (b : BScale) (code scale : Nat) : Val :=
  match b with
  | .none => e.val code
  | _ =>
    (let x := b.val scale
     if x.isZero then .fin (e.codeSign code != x.neg) 0 0
     else if x.isNan then .nan
     else (e.val code).mul x)

/-- L2 must be positive and finite (R53). -/
def l2Ok : Val → Bool
  | .fin n m _ => !n && m != 0
  | _ => false

/-- The decoded scale descriptor of R57. -/
structure ScaleDesc where
  elem   : Elem
  bscale : BScale
  l2Mode : Nat
  axis   : Nat
  l2     : W32
  bsOff  : Nat
  l2Off  : Nat
  stride : Nat
  deriving DecidableEq, Repr

/-- Decode and check a 32-byte scale descriptor against R57 and the combinations of R58. The stride
and the extent along the block axis are checked by the consumer. An L2_OFFSET of mode LINE that is no multiple of 4, as
R57 has it, refuses the descriptor for every consumer, a TMMA too (DESIGN CHOICE: R58 does not list it, and a TMMA does
not apply L2, R53). -/
def ScaleDesc.parse (bs : List Byte) : Option ScaleDesc :=
  match Elem.ofCode (fld bs 0 1), BScale.ofCode (fld bs 1 1) with
  | some e, some b =>
    (let m := fld bs 2 1
     let ax := fld bs 3 1
     let okMode := decide (m ≤ 2) && decide (ax ≤ 1) && rsv bs 28 4
     let okComb :=
       if e.narrow then (if e.needsScale then b != .none else true)
       else b == .none && m == 0
     let l2o := fld bs 16 8
     let okOff := m != 2 || l2o % 4 == 0
     if okMode && okComb && okOff then
       some ⟨e, b, m, ax, BitVec.ofNat 32 (fld bs 4 4), fld bs 8 8, l2o, fld bs 24 4⟩
     else none)
  | _, _ => none

/-- The pair rule of R59: which formats operand A takes and which B formats go with each. -/
def pairOk (a b : Elem) : Bool :=
  match a with
  | .bf16 | .fp16 => (match b with | .bf16 | .fp16 | .w2 | .w1 => true | _ => false)
  | .e4m3 | .e5m2 => (match b with | .e4m3 | .e5m2 | .w2 | .w1 => true | _ => false)
  | .e2m3 | .e3m2 => (match b with | .e2m3 | .e3m2 | .e2m1 => true | _ => false)
  | .e2m1 => (match b with | .e2m3 | .e3m2 | .e2m1 | .w2 | .w1 => true | _ => false)
  | _ => false

/-- Code of element `i` of densely packed element data that starts at the block's first byte (R47). -/
def packedCode (e : Elem) (bs : List Byte) (i : Nat) : Nat :=
  let w := e.width
  let o := i * w
  let v := fld bs (o / 8) 5
  bits v (o % 8 + w - 1) (o % 8)

/-- Pack element codes densely (R47). -/
def packCodes (e : Elem) (codes : List Nat) : List Byte :=
  let w := e.width
  let v := (codes.zipIdx.foldl (fun acc ci => acc + (ci.1 % 2 ^ w) * 2 ^ (ci.2 * w)) 0)
  natLe ((codes.length * w + 7) / 8) v

/-- emax and maxval of R64. -/
def Elem.emax : Elem → Int
  | .e4m3 => 8 | .e5m2 => 15 | .e2m3 => 2 | .e3m2 => 4 | .e2m1 => 2 | .w2 => 0 | .w1 => 0 | _ => 0

/-- Largest element value of R64. -/
def Elem.maxval : Elem → Val
  | .e4m3 => .fin false 448 0 | .e5m2 => .fin false 57344 0 | .e2m3 => .fin false 15 (-1)
  | .e3m2 => .fin false 28 0 | .e2m1 => .fin false 6 0 | .w2 => .fin false 3 (-1) | .w1 => .fin false 1 0
  | _ => .fin false 1 0

/-- The code given to every element when X = 0 (R64). -/
def Elem.zeroCode : Elem → Nat
  | .w2 => 2 | .w1 => 1 | _ => 0

/-- The deterministic choice of the block scale: scale code and value X (R64). -/
def blockScale (e : Elem) (b : BScale) (amax : Val) : Nat × Val :=
  match b with
  | .none => (0, pow2Val 0)
  | .e8m0 =>
    (let x : Int := match amax with
       | .fin _ m k => if m = 0 then -127 else (Nat.log2 m : Int) + k - e.emax
       | _ => -127
     let c := min 127 (max (-127) x)
     ((c + 127).toNat, pow2Val c))
  | .e4m3 =>
    (if amax.isZero then (0, .fin false 0 0)
     else
       let c := divRound Sys2Proof.e4m3 amax e.maxval
       let c' := if c = 0 then 1 else c
       (c', Sys2Proof.e4m3.val c'))

/-- The stochastic final step of R67 on the value q2, with `r` the 16 random bits. -/
def stochRound (f : FloatFmt) (q2 : Val) (r : Nat) : Nat :=
  match q2 with
  | .fin neg m x =>
    if m = 0 then f.signBit neg else
      let (n, d) := scaleRat m 1 x
      let q := max (floorLog2 n d - (f.frac : Int)) f.qmin
      let (a, b) := scaleRat n d (-q)
      let k := a / b
      let dd := (a % b) * 2 ^ 16 / b
      let above := match f.val f.maxCode with
        | .fin _ mm mx => Val.lt (.fin false mm mx) (.fin false m x)
        | _ => false
      if above then f.ofVal q2
      else
        let k' := if 2 ^ 16 ≤ dd + r then k + 1 else k
        let c := (q - f.qmin).toNat * 2 ^ f.frac + k'
        let c' := if c ≤ f.maxCode then c else (match f.inf with | some i => i | none => f.maxCode)
        f.signBit neg + c'
  | v => f.ofVal v

/-- The counter-based generator of R68 (arithmetic modulo 2^64). -/
def rand16 (seed : W64) (tag iter : Nat) (index : Nat) : Nat :=
  let x := seed ^^^ BitVec.ofNat 64 ((tag % 2 ^ 32) * 2 ^ 32 + iter % 2 ^ 32)
  let x := x + BitVec.ofNat 64 index * 0x9E3779B97F4A7C15#64
  let x := (x ^^^ (x >>> 30)) * 0xBF58476D1CE4E5B9#64
  let x := (x ^^^ (x >>> 27)) * 0x94D049BB133111EB#64
  let x := x ^^^ (x >>> 31)
  (x >>> 48).toNat

/-- One converted block: its scale code, its element codes, its q1 values, X, and whether the NaN
branch of R64 was taken. -/
structure QBlock where
  scale : Nat
  codes : List Nat
  q1    : List Val
  x     : Val
  nanBr : Bool
  deriving DecidableEq, Repr

/-- Convert one block under R64; `rnd j` gives the 16 random bits of element j for the stochastic
final step of R66 and R67, none for round to nearest. -/
def quantBlock (e : Elem) (b : BScale) (l2Mode : Nat) (l2 : Val) (v : List Val)
    (rnd : Option (Nat → Nat)) : QBlock :=
  let q1 := if l2Mode = 0 then v else v.map (fun t => divF32 t l2)
  let conv (q2 : Val) (j : Nat) : Nat :=
    match rnd, e.float with
    | some r, some f => stochRound f q2 (r j)
    | _, _ => e.ofVal q2
  match b with
  | .none => ⟨0, q1.zipIdx.map (fun qj => conv qj.1 qj.2), q1, pow2Val 0, false⟩
  | _ =>
    (if q1.any Val.special then ⟨b.nanCode, v.map (fun _ => 0), q1, .nan, true⟩
     else
       let amax := (q1.map Val.abs).foldl (fun m t => if m.lt t then t else m) (.fin false 0 0)
       let (sc, x) := blockScale e b amax
       let codes := if x.isZero then q1.map (fun _ => e.zeroCode)
         else q1.zipIdx.map (fun qj => conv (divF32 qj.1 x) qj.2)
       ⟨sc, codes, q1, x, false⟩)

/-- Leading position of a non-zero term (R83). -/
def Val.lead : Val → Option Int
  | .fin _ m e => if m = 0 then none else some ((Nat.log2 m : Int) + e)
  | _ => none

/-- A term truncated to the window whose last weight is 2^q (R83), as a signed count of 2^q. -/
def Val.trunc (q : Int) : Val → Int
  | .fin n m e =>
    (let k : Int := if q ≤ e then ((m * 2 ^ (e - q).toNat : Nat) : Int) else ((m / 2 ^ (q - e).toNat : Nat) : Int)
     if n then -k else k)
  | _ => 0

/-- One reduction group: the accumulator value and the exact products (R83). -/
def group (c : Val) (ps : List Val) : Val :=
  let ts := c :: ps
  if ts.any Val.isNan then .nan
  else
    let infs := ts.filter (fun t => match t with | .inf _ => true | _ => false)
    if infs.any Val.neg && infs.any (fun t => !t.neg) then .nan
    else match infs with
      | t :: _ => t
      | [] =>
        if ts.all Val.isZero then .fin (ts.all Val.neg) 0 0
        else
          let e := (ts.filterMap Val.lead).foldl (fun (m : Option Int) x => match m with | none => some x | some y => some (max y x)) none
          let q := e.getD 0 - 30
          let s := ts.foldl (fun (acc : Int) t => acc + t.trunc q) 0
          if s = 0 then .fin false 0 0
          else rne (.fin (decide (s < 0)) s.natAbs q)

/-- A dot product in the reference order of R84: groups of 32 products ascending. -/
def dotref (init : Val) : List (Val × Val) → Nat → Val
  | _, 0 => init
  | xs, n + 1 => dotref (group init ((xs.take 32).map (fun p => p.1.mul p.2))) (xs.drop 32) n

/-- One level of the fixed pairwise tree (R129). -/
def pairUp (op : Val → Val → Val) : List Val → List Val
  | a :: b :: t => op a b :: pairUp op t
  | l => l

/-- The fixed pairwise tree of R129 over a power-of-two count of lanes, in `n` levels. -/
def treeReduce (op : Val → Val → Val) : Nat → List Val → List Val
  | 0, l => l
  | n + 1, l => treeReduce op n (pairUp op l)

end Sys2Proof
end

