-- ==== Sys2Proof/Machine/CoreState.lean ====
section
/-!
DEFINITION. The state of one core: sequencer state of every context bound to it, program store,
scratchpad with tags and swap bits, handle queues, engine queues and the four stream movers
(R91, R95, R98, R119, R146, R152, R160, R173, R175, R193, R195).
-/
namespace Sys2Proof.Machine

/-- A stop report (R121), with the failing block index that R345 puts in the record. `other` is
FLAGS bit 1. -/
structure StopReport where
  status  : Nat := 0
  core    : Nat := 0
  cls     : Nat := 0
  precise : Bool := false
  other   : Bool := false
  pc      : Nat := 0
  detail  : Nat := 0
  movId   : Nat := 0
  block   : Nat := 0
  deriving DecidableEq, Repr

/-- One active loop level (R112, R113): remaining iterations, iteration index, first and last
instruction of the body, and the increments (selector, source register). -/
structure LoopLevel where
  remaining : Nat
  index     : Nat
  first     : Nat
  last      : Nat
  inc0      : Option (Nat × Nat)
  inc1      : Option (Nat × Nat)
  deriving DecidableEq, Repr

/-- The operand-hold register when valid (R79): element codes and block-scale codes of `cols`
columns of 32 elements, column by column. -/
structure Hold where
  cols   : Nat
  fmt    : Elem
  bscale : BScale
  codes  : List Nat
  scales : List Nat
  deriving DecidableEq, Repr

/-- What a waiting instruction waits for (R115, R119). -/
inductive Wait where
  | none | tag | hq | event | time
  /-- A FLAG wait whose word is in the tile buffer, the DRAM tier or Firn. -/
  | flag
  /-- A FLAG wait on a host word, re-read every 2 µs (R116). -/
  | flagHost
  deriving DecidableEq, Repr

/-- Sequencer state of one context on a core (R91), its accumulators and hold register (R90). The
entry of the context on the core is the live state; the others are its save area (R383). -/
structure SeqState where
  s     : SMap W64 := []
  a     : SMap W64 := []
  v     : SMap W32 := []
  pc    : Nat := 0
  loops : List LoopLevel := []
  acc   : SMap W32 := []
  hold  : Option Hold := Option.none
  wait  : Wait := .none
  kid   : Nat := 0
  /-- What the context's timer had counted, in ns, when the core last left the context (R458). -/
  held  : Nat := 0
  /-- Words that fail their WCC check uncorrectably (R91, R455): scalar and address registers by selector, 16-byte
  words of the vector registers and of the accumulators, and the hold register's copy. -/
  bad     : SSet := []
  vbad    : SSet := []
  accBad  : SSet := []
  holdBad : Bool := false
  /-- The instruction at the PC has issued and the loop increments after it wait for its result (R94). -/
  owes    : Bool := false
  deriving DecidableEq, Repr

/-- How far a kernel on a core has come (R100, R101). -/
inductive KState where
  | running | halted | stopped | aborted
  deriving DecidableEq, Repr

/-- One kernel on one core (R99, R101). `isCopy` marks the kernel of one instruction that a ring COPY
is (R338). `moverStop` is a failed transfer whose report has reached the sequencer. -/
structure Kernel where
  kid    : Nat
  ctx    : Nat
  seq    : Nat
  step   : Nat
  isCopy : Bool
  stoch  : Bool
  base   : Nat
  words  : Nat
  state  : KState
  report : StopReport
  stamp  : Nat
  /-- It has completed under R101 and waits for the launch's other cores. -/
  done   : Bool
  deriving DecidableEq, Repr

/-- An engine instruction that has issued and not yet completed (R119): the word and what issue
captured of registers, descriptors and swap bits (R74, R94, R193). -/
structure EngOp where
  id      : Nat
  ctx     : Nat
  kid     : Nat
  pc      : Nat
  word    : W128
  vals    : List Nat
  descA   : List Byte
  descB   : List Byte
  swap    : SSet
  granted : Bool
  deriving DecidableEq, Repr

/-- A SETFULL or SETEMPTY that has issued and waits for earlier compute accesses (R156). `slots` are
physical slots. -/
structure TagOp where
  id    : Nat
  ctx   : Nat
  full  : Bool
  slots : List Nat
  deriving DecidableEq, Repr

/-- Where one piece of a descriptor stands (R174, R175). -/
inductive PState where
  | pending
  /-- Its read of host memory is outstanding over Treleb, or a codec lane has it. -/
  | reading
  /-- Its data is in the staging storage. -/
  | fetched
  /-- Written or sent: it waits for acknowledgements, or to write a group that it shares with a neighbour (R186). -/
  | sent
  | landed
  deriving DecidableEq, Repr

/-- One piece: walk row, byte offset in the row, source address and length; `poison` lists the bytes
of `data` that came from a poisoned word. `side` are the scale bytes read with it for a conversion (R186), with their
poisoned bytes. The pieces of a descriptor that decodes are its blocks: then `data` is the decoded block and `err` the
reason of R244. `phys` is the physical address the read went to, and `kept` that no discard of R164 has come since the
read. -/
structure Piece where
  row    : Nat
  off    : Nat
  src    : Nat
  len    : Nat
  state  : PState
  data   : List Byte
  poison : List Nat
  side    : List Byte
  sideBad : List Nat
  /-- Reads of host memory, or remote or host writes, of the piece still unanswered. -/
  open_  : Nat
  /-- Domain time of the read's issue. -/
  at_    : Nat
  phys   : Nat
  kept   : Bool
  err    : Nat
  deriving DecidableEq, Repr

/-- One descriptor in a mover's queue (R173, R179): the copied bytes, resolved swap bits, the slots
whose tag tests have passed, and whether it is ended. -/
structure Desc where
  id      : Nat
  ctx     : Nat
  kid     : Nat
  step    : Nat
  pc      : Nat
  movId   : Nat
  raw     : List Byte
  swap    : SSet
  pieces  : List Piece
  srcSeen : SSet
  dstSeen : SSet
  /-- A destination wait has been traced (R199). -/
  waiting : Bool
  /-- FINAL or ATOMIC: sent to the fabric. Local FINAL: landed. -/
  sentOut : Bool
  /-- Response received (R403). -/
  acked   : Bool
  failed  : Bool
  /-- GROUP in force when the descriptor was accepted (R427). -/
  group   : Nat
  /-- The 64 bytes of the stream header as the codec read them, before the first block (R240). -/
  head    : List Byte := []
  /-- Physical slots that the last-write marker has set FULL (R154). -/
  marked  : SSet := []
  /-- Domain time at which it ended by a failure or an abort (R198, R200). -/
  endedAt : Nat := 0
  deriving DecidableEq, Repr

/-- A dependence mark in a mover's queue (R191). -/
structure Mark where
  id     : Nat
  ctx    : Nat
  markId : Nat
  full   : Bool
  mask   : Nat
  traced : Bool
  deriving DecidableEq, Repr

/-- A prefetch entry (R175): source space and context address of data a mover holds, its physical
address, the issue number of the descriptor that fetched it and the entry's own number in the order in which the core's
entries were made. -/
structure PfEntry where
  ctx    : Nat
  space  : Nat
  addr   : Nat
  phys   : Nat
  data   : List Byte
  desc   : Nat
  made   : Nat
  deriving DecidableEq, Repr

/-- A translation held in a TLB (R295, R299): context, virtual base, page size, physical base and
rights R, W, A. -/
structure TlbEnt where
  ctx  : Nat
  va   : Nat
  size : Nat
  pa   : Nat
  r    : Bool
  w    : Bool
  a    : Bool
  deriving DecidableEq, Repr

/-- Why a stream is parked (R301, R303). -/
inductive Park where
  | none
  /-- A walk is under way for this address; access bits as in R303. -/
  | walk (va acc : Nat)
  /-- A translation request is with the companion (R302). -/
  | host (va acc tag : Nat)
  /-- A pending fault. -/
  | fault (id : Nat)
  /-- An ATTN's access has failed with the status; its unit has still to end with it. -/
  | ended (va st : Nat)
  deriving DecidableEq, Repr

/-- One stream mover (R173). -/
structure Mover where
  queue    : List Desc := []
  /-- Ended descriptors whose pieces in flight have not yet freed their credits (R198, R200). -/
  dying    : List Desc := []
  marks    : List Mark := []
  prefetch : List PfEntry := []
  /-- Issue numbers of the dependence marks that selected this mover, for R192. -/
  markIds  : List Nat := []
  utlb     : List TlbEnt := []
  park     : Park := .none
  parkCtx  : Nat := 0
  /-- Issue number of the descriptor that parked the stream; 0 where an ATTN did. -/
  parkDesc : Nat := 0
  /-- Domain time since which the mover's timer does not count (R458). -/
  pausedAt : Option Nat := Option.none
  deriving DecidableEq, Repr

/-- An image resident in a program range (R97): digest, first word in the store, length and header
flags. -/
structure Resident where
  digest : List Byte
  base   : Nat
  words  : Nat
  entry  : Nat
  flags  : Nat
  deriving DecidableEq, Repr

/-- One binding of a context to a core (R378): slot range, program range, parameter page (R98) and the
images resident in the range. -/
structure Binding where
  ctx       : Nat
  pos       : Nat
  slotFirst : Nat
  slotCount : Nat
  progBase  : Nat
  progUnits : Nat
  params    : Mem
  /-- 16-byte words of the parameter page that fail their WCC check uncorrectably (R91). -/
  paramBad  : SSet := []
  resident  : List Resident
  deriving DecidableEq, Repr

/-- A LAUNCH waiting to start on a core (R100): the ring entry, the image as read, the parameter
block, rank and number of cores, and whether it was sent with WAIT_DONE (R194). -/
structure Waiting where
  ctx    : Nat
  seq    : Nat
  kid    : Nat
  step   : Nat
  rank   : Nat
  count  : Nat
  hdr    : List Byte
  words  : List W128
  params : List Byte
  wait   : Bool
  deriving DecidableEq, Repr

/-- A Weave packet of this module without its link fields (R400, R402): `payload` is the payload flits'
data. -/
structure Out where
  type    : Nat
  inStep  : Bool
  last    : Bool
  ctx     : Nat
  core    : Nat
  dst     : Nat
  src     : Nat
  window  : Nat
  reqId   : Nat
  poison  : Nat
  addr    : Nat
  step    : Nat
  payload : List Byte
  deriving DecidableEq, Repr

/-- A remote request of a core that has not been answered (R405, R406). `kind` 0 write, 1 FINAL,
2 ATOMIC, 3 ENC. `group` is the outbound group number and `target`, `window` its destination. -/
structure LiveReq where
  reqId   : Nat
  ctx     : Nat
  kind    : Nat
  mover   : Nat
  desc    : Nat
  piece   : Nat
  target  : Nat
  window  : Nat
  group   : Nat
  step    : Nat
  sentAt  : Nat
  /-- The packets of the request, for a resend (R428, R431). -/
  packets : List Out
  /-- A RETRY response has come; the request is sent again at this time. -/
  retryAt : Option Nat
  deriving DecidableEq, Repr

/-- An outbound group (R180, R427): for a context, target and window, the group number, the writes sent in
it, and whether it is the group in force. -/
structure OutGroup where
  ctx    : Nat
  target : Nat
  window : Nat
  group  : Nat
  count  : Nat
  cur    : Bool
  deriving DecidableEq, Repr

/-- A unit of ATTN work placed on a core (R287): the ring entry and the unit number. -/
structure AttnUnit where
  ctx  : Nat
  seq  : Nat
  unit : Nat
  deriving DecidableEq, Repr

/-- One core. Default values are those of cold start (R123, R171, R201, R392). -/
structure Core where
  /-- Sequencer state by context. -/
  seqs     : SMap SeqState := []
  /-- The context whose state is on the core, plus one; 0 for none. -/
  cur      : Nat := 0
  /-- POSITION at which the search for the next ready context begins (R383). -/
  lastPos  : Option Nat := Option.none
  kernels  : List Kernel := []
  waiting  : List Waiting := []
  units    : List AttnUnit := []
  prog     : SMap W128 := []
  /-- Program-store words that fail their WCC check uncorrectably (R95). -/
  progBad  : SSet := []
  /-- By kernel number: the registers, banks and hold register of an ended kernel whose engine instructions remain
  while the context's next kernel runs (R194). -/
  old      : SMap SeqState := []
  binds    : List Binding := []
  scratch  : Mem := []
  poison   : SSet := []
  tags     : SSet := []
  swap     : SSet := []
  hq       : SMap (List W32) := []
  array    : List EngOp := []
  vector   : List EngOp := []
  sfu      : List EngOp := []
  tagOps   : List TagOp := []
  movers   : SMap Mover := []
  shares   : Nat × Nat × Nat := (60, 20, 20)
  /-- Bytes issued in the last microsecond (R195): share class, time and bytes. -/
  spent    : List (Nat × Nat × Nat) := []
  quantum  : Nat := 100
  /-- The quantum that applies from the next switch (R383). -/
  quantumTo : Nat := 100
  sliceAt  : Nat := 0
  issueCtr : Nat := 1
  /-- Prefetch entries made so far: the model's own count, which tells the oldest (R175). -/
  pfCtr    : Nat := 0
  report   : StopReport := {}
  reqCtr   : Nat := 0
  live     : List LiveReq := []
  groups   : List OutGroup := []
  /-- Operating point in units of 100 MHz: now, and the one a change under way goes to (R25). -/
  point    : Nat := 8
  pointTo  : Nat := 8
  /-- Times of last progress: sequencer, array, vector, SFU (R458). -/
  seqProg  : Nat := 0
  arrProg  : Nat := 0
  vecProg  : Nat := 0
  sfuProg  : Nat := 0
  movProg  : SMap Nat := []
  /-- Time since when the running context has held the sequencer (R388). -/
  busyFrom : Nat := 0
  deriving DecidableEq, Repr

end Sys2Proof.Machine
end

