-- ==== Sys2Proof/Machine/FabricState.lean ====
section
/-!
DEFINITION. The state of the hub's links and of the partitions: domain time and trace (R28, R35, R38), the
Weave ports, windows, groups and domain (R398, R404, R412, R417, R421, R427, R431), the Treleb link (R437,
R439, R444, R449) and the partitions (R159, R160, R299, R384, R457, R466).
-/
namespace Sys2Proof.Machine

/-- A clock island's stamp state (R35, R36): its counter is the keeper plus `skew`. -/
structure Island where
  skew    : Int := 0
  last    : Nat := 0
  seq     : Nat := 0
  deriving DecidableEq, Repr

/-- A trace ring (R38, R39). `placed` is its physical address, `ever` that it was placed since cold
start (R42). -/
structure TraceRing where
  placed  : Option Nat := none
  log2    : Nat := 0
  stop    : Bool := false
  write   : Nat := 0
  dropped : Nat := 0
  ever    : Bool := false
  /-- Records that wait for a ring in host memory, oldest first, each with its island (R40): the head is the one that
  is outstanding over Treleb. -/
  wait    : List (Nat × List Byte) := []
  deriving DecidableEq, Repr

/-- Domain time (R28, R32). `state` 0 FREE_RUN, 1 LOCKING, 2 LOCKED, 3 HOLDOVER. -/
structure Time where
  keeper   : Nat := 0
  state    : Nat := 0
  lastSync : Nat := 0
  offset   : Int := 0
  holdover : Nat := 0
  /-- The time still to be slewed away (R33), and the domain time passed since the last nanosecond of it was. -/
  owed     : Int := 0
  acc      : Nat := 0
  distAt   : Nat := 0
  sentAt   : Nat := 0
  deriving DecidableEq, Repr

/-- A packet in a retry buffer (R404, R442). -/
structure Sent where
  lseq     : Nat
  bytes    : List Byte
  attempts : Nat
  nakAt    : Option Nat
  deriving DecidableEq, Repr

/-- A Weave port (R398, R404, R433). -/
structure Port where
  state      : Nat := 0
  reason     : Nat := 0
  peerModule : Option Nat := none
  peerPort   : Option Nat := none
  peerTag    : W64 := 0#64
  polarity   : Nat := 0
  reversed   : Bool := false
  corrected  : Nat := 0
  retries    : Nat := 0
  downs      : Nat := 0
  unroutable : Nat := 0
  changed    : Nat := 0
  discarded  : Nat := 0
  txSeq      : Nat := 0
  rxSeq      : Nat := 0
  rxAt       : Nat := 0
  buf        : List Sent := []
  delay      : Nat := 0
  downAt     : Nat := 0
  deriving DecidableEq, Repr

/-- An inbound window (R421, R422): peers as (module, context or any), and for a VIRT window the pages
held since open as (virtual base, size, DRAM-tier offset). -/
structure Window where
  id      : Nat
  ctx     : Nat
  tile    : Bool
  atomics : Bool
  base    : Nat
  len     : Nat
  peers   : List (Nat × Option Nat)
  pages   : List (Nat × Nat × Nat)
  deriving DecidableEq, Repr

/-- A FINAL held for its group (R166, R427). -/
structure HeldFinal where
  pkt   : Pkt
  value : W64
  count : Nat
  deriving DecidableEq, Repr

/-- An open group (R427): its key, landed count, step, held FINAL and time of its last packet. -/
structure GroupEnt where
  src    : Nat
  core   : Nat
  ctx    : Nat
  window : Nat
  group  : Nat
  step   : Nat
  inStep : Bool
  count  : Nat
  final  : Option HeldFinal
  lastAt : Nat
  deriving DecidableEq, Repr

/-- A reassembly buffer (R431). `bad` tells that a fragment carried a poisoned word. -/
structure EncBuf where
  pkt     : Pkt
  group   : Nat
  frags   : List (Nat × List Byte)
  last    : Option Nat
  firstAt : Nat
  bad     : Bool
  deriving DecidableEq, Repr

/-- An installed job group (R417, R420). -/
structure JobGroup where
  kind    : Nat
  period  : Nat
  origin  : Nat
  stage   : Nat
  members : List JgMember
  deriving DecidableEq, Repr

/-- Domain membership (R412, R414): state 0 NONE, 1 JOINING, 2 MEMBER, 3 MASTER, 4 MASTER_LOST, 5 CONFLICT. -/
structure Domain where
  state    : Nat := 0
  tag      : W64 := 0#64
  topology : Nat := 0
  sizeX    : Nat := 0
  sizeY    : Nat := 0
  sizeZ    : Nat := 0
  parallel : Nat := 0
  x        : Nat := 0
  y        : Nat := 0
  z        : Nat := 0
  master   : Nat := 0xFFFF
  idValid  : Bool := false
  moduleId : Nat := 0
  joined   : Nat := 0
  ready    : Bool := false
  assignAt : Nat := 0
  parent   : Option Nat := none
  /-- The job-group definition that waits for every module (R420), and how many have installed it. -/
  defining : Option (Nat × Nat) := none
  defAt    : Nat := 0
  deriving DecidableEq, Repr

/-- The Weave fabric. -/
structure Weave where
  ports   : SMap Port := []
  windows : List Window := []
  groups  : List GroupEnt := []
  encs    : List EncBuf := []
  /-- Inbound packets that wait for a snoop (R444). -/
  waiting : List Instr := []
  domain  : Domain := {}
  jobs    : SMap JobGroup := []
  expired : Nat := 0
  deriving DecidableEq, Repr

/-- What a Treleb request of the module is for (R449). -/
inductive ReqKind where
  /-- `at_` is the place of its bytes among those the piece reads. -/
  | pieceRead (core mover desc piece at_ : Nat)
  | pieceWrite (core mover desc piece : Nat)
  /-- The head of a context's completion writes (R344). -/
  | done (ctx : Nat)
  | intr (vector : Nat)
  /-- A trace record of an island for a ring (R40). -/
  | trace (ring island : Nat)
  /-- A host-served translation (R302) for the context, page and access of a parked stream. -/
  | transReq (stream ctx va acc : Nat)
  /-- One that a stream's lookahead asked for (R301). -/
  | transAhead (stream ctx va acc : Nat)
  /-- One for the path of a tile's front end, or of a FLAG wait of its cores (R299, R302). -/
  | transFront (part ctx va acc : Nat)
  deriving DecidableEq, Repr

/-- An outstanding request of the module (R441, R449). -/
structure Req where
  tag  : Nat
  kind : ReqKind
  addr : Nat
  len  : Nat
  data : List Byte
  bad  : List Nat
  at_  : Nat
  deriving DecidableEq, Repr

/-- A companion invalidation in arrival order (R447). -/
structure CompInval where
  ctx : Nat
  va  : Nat
  len : Nat
  at_ : Nat
  deriving DecidableEq, Repr

/-- The Treleb link (R437, R439, R442, R444). `state` 0 DOWN, 1 TRAINING, 2 UP, 3 RECOVERY. -/
structure Treleb where
  state      : Nat := 0
  width      : Nat := 0
  failed     : W32 := 0#32
  reversed   : Bool := false
  mmioBase   : W64 := 0#64
  dramBase   : W64 := 0#64
  err        : W64 := 0#64
  corrected  : Nat := 0
  retries    : Nat := 0
  recoveries : Nat := 0
  txSeq      : Nat := 0
  buf        : List Sent := []
  reqs       : List Req := []
  nextTag    : Nat := 0
  /-- Answers sent to companion requests, newest first: TAG, STATUS, data and POISON (R442). -/
  answers    : List (Nat × Nat × List Byte × Nat) := []
  /-- Lines with SNP_INV outstanding and when it was sent. -/
  snoops     : List (Nat × Nat) := []
  invals     : List CompInval := []
  downAt     : Nat := 0
  stale      : Nat := 0
  deriving DecidableEq, Repr

/-- An entry of the walk cache (R300): context, level, virtual prefix and the table it names. -/
structure WalkEnt where
  ctx   : Nat
  level : Nat
  va    : Nat
  table : Nat
  deriving DecidableEq, Repr

/-- Whom an invalidation answers (R307): the operator's message, the companion, or nobody but the unbinding or destruction
of a context that runs it. -/
inductive InvalFor where
  | operator | companion | context
  deriving DecidableEq, Repr

/-- An invalidation under way (R307): the pieces that still run under dropped entries, and whom it answers. -/
structure Invalidation where
  ctx   : Nat
  va    : Nat
  len   : Nat
  /-- (core, mover, descriptor, piece) of pieces translated under a dropped entry. -/
  wait  : List (Nat × Nat × Nat × Nat)
  whom  : InvalFor
  at_   : Nat
  deriving DecidableEq, Repr

/-- One partition (R376, R466). `state` 0 SERVING, 1 RESETTING, 2 DISABLED, 3 RETIRED. -/
structure Part where
  state     : Nat := 0
  tile      : Mem := []
  tilePoison : SSet := []
  tqs       : SMap (List W32) := []
  /-- Owner of each tile queue plus one, 0 for none. -/
  tqOwner   : SMap Nat := []
  /-- (context, first unit, units). -/
  ranges    : List (Nat × Nat × Nat) := []
  tlb       : List TlbEnt := []
  walks     : List WalkEnt := []
  snoop     : List Nat := []
  jobGroup  : Nat := 0xFFFF
  sliceW    : Nat := 270
  lanes     : Nat := 4
  beatAt    : Nat := 0
  beats     : Bool := false
  wdMs      : Nat := 50
  /-- A period set during a reset, 0 for none: it applies from step 8 (R489). -/
  wdNext    : Nat := 0
  resetAt   : Nat := 0
  trigger   : Nat := 0
  /-- 0 none, 1 in reset, 2 tile released, awaiting training and Getis. -/
  resetStep : Nat := 0
  newKeys   : Bool := false
  /-- Powered times of counted resets (R465). -/
  counted   : List Nat := []
  corrected : Nat := 0
  /-- CORRECTED as it stood at the start of the 100 ms of domain time numbered `corrMark` (R388). -/
  corrOld   : Nat := 0
  corrMark  : Nat := 0
  uncorr    : Nat := 0
  resets    : Nat := 0
  expiries  : Nat := 0
  /-- The XTS key pair in the key registers of its controllers: two keys of 32 bytes (R256). None before the first. -/
  keys      : List Byte := []
  deriving DecidableEq, Repr

end Sys2Proof.Machine
end

