-- ==== Sys2Proof/Machine/GetisState.lean ====
section
/-!
DEFINITION. The state Getis keeps in the hub mailbox complex: contexts with their rings, events,
steps and completions (R314, R326, R335, R342, R344, R352, R356), mailboxes (R318, R321, R322), aborts
(R369), tune sessions (R143), and the translation fault queue (R303, R304).
-/
namespace Sys2Proof.Machine

/-- How far an accepted ring entry has come (R340, R358): accepted, dispatched, started on its engines,
finished (with a provisional status inside a step) and completed. -/
inductive EState where
  | accepted | dispatched | started | finished | completed
  deriving DecidableEq, Repr

/-- An accepted ring entry (R337) not yet covered by the completed sequence number. `refused` is set
where R338 refuses it; `step` is the step it belongs to, 0 for none; `detail` is bytes 17–31 of its
record (R345). -/
structure Entry where
  seq     : Nat
  raw     : List Byte
  refused : Bool
  state   : EState
  step    : Nat
  status  : Nat
  detail  : List Byte
  stamp   : Nat
  /-- Set when the entry is in the scope of an abort under way. -/
  held    : Bool
  /-- A LAUNCH that has run on an image with STOCHASTIC set (R329). -/
  stoch   : Bool := false
  deriving DecidableEq, Repr

/-- States of a context's step (R356). -/
inductive StepState where
  | none | waiting | opened | committing | dropping | draining
  deriving DecidableEq, Repr

/-- Floe configuration of a context (R268). -/
structure FloeCfg where
  raw : List Byte
  deriving DecidableEq, Repr

/-- The step's appends to one sequence and layer (R274, R277): tokens appended, and the floes opened with
their L2 values (floe index, L2_K, L2_V). -/
structure Append where
  seqIdx : Nat
  layer  : Nat
  count  : Nat
  opened : List (Nat × Nat × Nat)
  deriving DecidableEq, Repr

/-- A tune session (R143): rank, base model and seed. -/
structure Tune where
  rank  : Nat
  model : Nat
  seed  : W64
  deriving DecidableEq, Repr

/-- A write of the completion path waiting its turn (R344): records, then the word, then the
interrupt. `kind` 1 DONE_WRITE, 2 RECORD_WRITE, 4 INTERRUPT (R348). -/
structure DoneWrite where
  kind : Nat
  addr : Nat
  data : List Byte
  seq  : Nat
  /-- The Treleb tag while the write is outstanding. -/
  tag  : Option Nat
  deriving DecidableEq, Repr

/-- An ATTN that has been dispatched and has not completed (R282, R287): the ring entry, the parameter block,
the batch entries once they are read, its cores, and once its units run, the working length of each batch entry, the units
(batch entry, first row), the next to deal, how many are done and the first failure (unit, status,
sequence). `blockSt` is the status of the read of the block; `proj` holds for each core the bytes of UK and UV that it
keeps (R287). -/
structure AttnRun where
  seq    : Nat
  block  : List Byte
  batch  : List (List Byte)
  cores  : List Nat
  begun  : Bool
  lens   : List Nat
  units  : List (Nat × Nat)
  next   : Nat
  done   : Nat
  failed : Option (Nat × Nat × Nat)
  blockSt : Nat := 0
  proj   : List (Nat × List Byte × List Byte) := []
  deriving DecidableEq, Repr

/-- A context (R316). Default values are those of NONE. -/
structure Ctx where
  /-- 0 NONE, 1 ACTIVE, 2 COMPLETION_HELD, 3 RESETTING, 4 DESTROYING. -/
  state     : Nat := 0
  part      : Nat := 0
  ringLog2  : Nat := 0
  recLog2   : Nat := 0
  vector    : Nat := 0xFF
  ptRoot    : Nat := 0
  ringBase  : Nat := 0
  doneAddr  : Nat := 0
  recBase   : Nat := 0
  firstSeq  : Nat := 1
  latch     : Nat := 0
  wake      : Bool := false
  gap       : Bool := false
  /-- The next doorbell write re-reads the slot once (R335). -/
  reread    : Bool := false
  fetchSlot : Nat := 0
  last      : Nat := 0
  skipped   : Nat := 0
  skipRun   : Nat := 0
  foundSeq  : Nat := 0
  entries   : List Entry := []
  doneSeq   : Nat := 0
  lastStatus : Nat := 0
  records   : Nat := 0
  doneQ     : List DoneWrite := []
  events    : SMap W64 := []
  grants    : SSet := []
  floe      : Option FloeCfg := none
  appends   : List Append := []
  attn      : List AttnRun := []
  tune      : Option Tune := none
  stepNo    : Nat := 0
  retired   : Nat := 0
  step      : StepState := .none
  stepSeq   : Nat := 0
  tick      : Nat := 0
  deadline  : Nat := 0
  dropWhy   : Nat := 0
  /-- Status that later entries of a draining step receive (R366). -/
  drainSt   : Nat := 0
  resetHold : Bool := false
  mbRepeats : Nat := 0
  entriesDone : Nat := 0
  committed : Nat := 0
  dropped   : Nat := 0
  stale     : Nat := 0
  faults    : Nat := 0
  parked    : Nat := 0
  overflow  : Bool := false
  /-- Host-served pages (number of 64 KiB page) that the companion has refused an operation of the front end which has
  not yet run again (R302). -/
  feDenied  : SSet := []
  busyNs    : Nat := 0
  uncorr    : Nat := 0
  clamps    : Nat := 0
  inWindow  : Nat := 0
  deriving DecidableEq, Repr

/-- A mailbox operation that has been taken and has not replied (R323): opcode, TAG, CONTEXT, payload and
what it still waits for. `aborts` are the aborts it waits on; `replied` is set once an escalated
operation has replied and only its notice is owed. -/
structure LongOp where
  opcode  : Nat
  tag     : Nat
  ctx     : Nat
  payload : List Byte
  aborts  : List Nat
  parts   : List Nat
  replied : Bool
  deriving DecidableEq, Repr

/-- One recorded message of R321: TAG and the reply once sent. -/
structure TagRec where
  tag   : Nat
  reply : Option (List Byte)
  deriving DecidableEq, Repr

/-- A mailbox (R318, R322). Default values are those of cold start. -/
structure Mbox where
  /-- The 64 bytes that MB_IN holds (R318). -/
  input    : W512 := 0#512
  inq      : List (List Byte) := []
  outq     : List (List Byte) := []
  notices  : List (List Byte) := []
  tags     : List TagRec := []
  busy     : Option LongOp := none
  /-- Operations that replied ABORT_ESCALATED and whose work follows the reset. -/
  after    : List LongOp := []
  overrun  : Bool := false
  lost     : Bool := false
  delivered : Nat := 0
  deriving DecidableEq, Repr

/-- An abort under way (R369). `kids` are the kernels it ends on (core, kernel) pairs, `drop` the reason
of R364 when it belongs to a dropped step, and `attn` the cores of the ATTNs it ends. -/
structure Abort where
  id     : Nat
  ctx    : Nat
  scope  : Nat
  seqs   : List Nat
  kids   : List (Nat × Nat)
  t0     : Nat
  drop   : Nat
  /-- Page whose operation waits for this abort, if any. -/
  page   : Option Nat
  attn   : List Nat
  deriving DecidableEq, Repr

/-- A pending fault (R303) with the state of its entry: written or not, waiting for room, cancelled. -/
structure PendFault where
  id      : Nat
  stamp   : Nat
  va      : Nat
  stream  : Nat
  ctx     : Nat
  kind    : Nat
  access  : Nat
  level   : Nat
  step    : Nat
  written : Bool
  noRoom  : Bool
  represented : Bool
  cancelled : Bool
  deriving DecidableEq, Repr

/-- A page migration under way (R308): the fault it answers, the host page, destination, size and
where the reply entry's STATUS lies. -/
structure Migration where
  fault  : Nat
  stream : Nat
  ctx    : Nat
  va     : Nat
  entryAt : Nat
  entry  : Nat
  host   : Nat
  dst    : Nat
  size   : Nat
  part   : Nat
  status : Nat
  deriving DecidableEq, Repr

/-- The fault queue (R304, R305) and migrations. Default values are those of cold start. -/
structure FaultQueue where
  queueAddr : Option Nat := none
  ctrlAddr  : Nat := 0
  vector    : Nat := 0
  write     : Nat := 0
  read      : Nat := 0
  overflowCount : Nat := 0
  batchId   : Nat := 0
  overflow  : Bool := false
  nextId    : Nat := 1
  pending   : List PendFault := []
  migrations : List Migration := []
  staleReplies : Nat := 0
  deriving DecidableEq, Repr

end Sys2Proof.Machine
end

