-- ==== Sys2Proof/Machine/StoreState.lean ====
section
/-!
DEFINITION. The state of the DRAM tier (R251, R253, R260, R264), of the Firn weight store with its models and running
operations (R206, R207, R211, R212, R217, R221), and of the codec's builder (R234, R237).
-/
namespace Sys2Proof.Machine

/-- A tagged range of the DRAM tier, or a host placement range: a placement region (R214) or a variant
region (R238) of a model. `present` is cleared while the region awaits the recheck or its build runs, and
`gone` lists the ranges of absent tensors. -/
structure Region where
  base    : Nat
  len     : Nat
  model   : Nat
  variant : Bool
  present : Bool
  gone    : List (Nat × Nat)
  deriving DecidableEq, Repr

/-- One DRAM channel (R249, R258, R260, R263, R481). -/
structure Chan where
  /-- The line of the channel that its patrol scrub reads next (R263, R267). -/
  scrubAt   : Nat := 0
  corrected : Nat := 0
  uncorr    : Nat := 0
  /-- Hottest DIMM reading in 1/16 °C. -/
  temp      : Int := 0
  refresh2x : Bool := false
  trainFail : Bool := false
  /-- Training failed once at this cold start and is tried again (R518). -/
  retried   : Bool := false
  /-- Trained since its partition last left reset. -/
  trained   : Bool := false
  /-- Parameters stored at cold start (R260). -/
  params    : Bool := false
  deriving DecidableEq, Repr

/-- The DRAM tier (R251): contents by DRAM-tier offset, the lines whose metadata has POISON = 1 (R254), the lines that
fail another check of a read, with the reason of R266 (R255: 1 WCC, 2 ADDR_CHECK, 3 CRC, 5 cipher disagreement), tagged
regions and channels. A line that no entry lists was stored with POISON = 0 and passes every check. -/
structure Dram where
  mem     : Mem := []
  poison  : SSet := []
  fails   : SMap Nat := []
  regions : List Region := []
  chans   : SMap Chan := []
  deriving DecidableEq, Repr

/-- A tensor entry of a directory (R212). -/
structure Tensor where
  hash     : List Byte
  place    : Nat
  rank     : Nat
  priority : Nat
  offset   : Nat
  length   : Nat
  dims     : List Byte
  scale    : List Byte
  digest   : List Byte
  deriving DecidableEq, Repr

/-- A model ID of Firn with its directory (R206, R211). `state` 0 FREE, 1 INSTALLING, 2 VERIFYING, 3 READY, 4
INCOMPLETE, 5 FAILED, 6 REMOVING. -/
structure Model where
  state   : Nat := 0
  flags   : Nat := 0
  digest  : List Byte := []
  pubKey  : List Byte := []
  stamp   : Nat := 0
  tensors : List Tensor := []
  extents : List Nat := []
  dramPart : Nat := 0xFF
  dramBase : Nat := 0
  dramLen  : Nat := 0
  hostBase : Nat := 0
  hostLen  : Nat := 0
  /-- Days left by the last scan that covered it (R221). -/
  days     : Option Nat := none
  deriving DecidableEq, Repr

/-- One copy of the directory set in the system area (R218): the models with their directories, and the extent owners. -/
structure DirSet where
  models : SMap Model := []
  owner  : SMap Nat := []
  deriving DecidableEq, Repr

/-- The install, restore or removal that runs (R216): `kind` 0 install, 1 restore, 2 removal. `doomed` is the
reason it will end with, once something has ended it. -/
structure FirnOp where
  kind    : Nat
  tag     : Nat
  model   : Nat
  payload : List Byte
  doomed  : Option Nat
  /-- Where the payload lies in host memory, its PAYLOAD_BYTES and CHUNK_COUNT, once the manifest is verified. -/
  body    : Nat
  bytes   : Nat
  chunks  : Nat
  deriving DecidableEq, Repr

/-- A running variant build (R237). -/
structure Build where
  tag     : Nat
  payload : List Byte
  doomed  : Bool
  deriving DecidableEq, Repr

/-- The Firn weight store (R202, R207). `owner` lists the owner of each allocated extent as the hub holds it, `programs`
the program count of each extent, and `models` the models that the hub works with. -/
structure Firn where
  /-- The generation counter and the two copies of the directory set (R218): the even one is in force at an even
  generation. -/
  gen     : Nat := 0
  even    : DirSet := {}
  odd     : DirSet := {}
  mem     : Mem := []
  poison  : SSet := []
  owner   : SMap Nat := []
  suspect : SSet := []
  programs : SMap Nat := []
  models  : SMap Model := []
  hostRegions : List Region := []
  op      : Option FirnOp := none
  build   : Option Build := none
  written : Nat := 0
  corrected : Nat := 0
  uncorr  : Nat := 0
  /-- Margin scans: time the last one began, the models one under way covers, the time of the last
  completed one and the number of scans begun (R221). -/
  scanAt   : Nat := 0
  scanning : Option (List Nat) := none
  lastScan : Nat := 0
  scans    : Nat := 0
  deriving DecidableEq, Repr

end Sys2Proof.Machine
end

