-- ==== Sys2Proof/Machine/State.lean ====
section
/-!
DEFINITION. The state of the module: the block and the queue of commands that wait, with the state right
after reset: cold and unpowered (R523).
-/
namespace Sys2Proof.Machine

/-- Why the machine stops with a fault. The manual describes what the block does at every command, so
nothing raises a fault: the type has no constructor. -/
inductive Fault where
  deriving DecidableEq, Repr

/-- Why a command has no meaning. -/
inductive Refusal where
  /-- Raised by `exec` for a command whose meaning is not written; safe, since no claim can be proved of
  what it would do. -/
  | notModelled (mnemonic : String)
  deriving DecidableEq, Repr

/-- Everything the manual gives the module. Register files and tables of records list what has been
written; what is not listed has its value at reset. -/
structure Block where
  time    : Time := {}
  islands : SMap Island := []
  rings   : SMap TraceRing := []
  cores   : SMap Core := []
  parts   : SMap Part := []
  ctxs    : SMap Ctx := []
  mboxes  : SMap Mbox := []
  aborts  : List Abort := []
  abortId : Nat := 1
  kidCtr  : Nat := 1
  faults  : FaultQueue := {}
  invals  : List Invalidation := []
  dram    : Dram := {}
  firn    : Firn := {}
  weave   : Weave := {}
  treleb  : Treleb := {}
  rim     : Rim := {}
  sec     : Sec := {}
  power   : Power := {}
  /-- Host memory as the companion's answers show it, and the ranges (base, length) at which no memory
  answers: the model's own fields, standing for the companion. -/
  hostMem : Mem := []
  hostAbsent : List (Nat × Nat) := []
  /-- The 16-byte words of host memory that the companion answers poisoned (R456): the model's own field. -/
  hostPoison : SSet := []
  /-- The module is halted (R467). -/
  halted  : Bool := false
  /-- The number of free values drawn so far: the model's own field. -/
  freeCtr : Nat := 0
  deriving DecidableEq, Repr

/-- The whole state: the block and the commands waiting, first in, first out. -/
structure State extends Block where
  pending : List Instr := []
  deriving DecidableEq, Repr

/-- The module right after reset: no input power, every register at its reset value (R523). -/
def State.reset : State := {}

/-- Run a change of the block as a command's whole effect; the queue is untouched. -/
def State.run (s : State) (f : Block → Block) : Host.Outcome State Fault Refusal :=
  .next { s with toBlock := f s.toBlock }

end Sys2Proof.Machine
end

