-- ==== Sys2Proof/Machine/Ops.lean ====
section
/-!
DEFINITION. The named operations over the block: accessors, stamps and trace records (R35, R36, R40), the
stores with their poison (R150, R151), the physical spaces and their checks (R202, R208, R214, R238, R251,
R294), the table walk (R296, R297) and host memory over Treleb (R443, R449).
-/
namespace Sys2Proof.Machine

/-! ### Accessors -/

def Block.core (b : Block) (c : Nat) : Core := SMap.get {} b.cores c
def Block.setCore (b : Block) (c : Nat) (x : Core) : Block := { b with cores := SMap.put b.cores c x }
def Block.modCore (b : Block) (c : Nat) (f : Core → Core) : Block := b.setCore c (f (b.core c))
def Block.part (b : Block) (p : Nat) : Part := SMap.get {} b.parts p
def Block.setPart (b : Block) (p : Nat) (x : Part) : Block := { b with parts := SMap.put b.parts p x }
def Block.modPart (b : Block) (p : Nat) (f : Part → Part) : Block := b.setPart p (f (b.part p))
def Block.ctx (b : Block) (n : Nat) : Ctx := SMap.get {} b.ctxs n
def Block.setCtx (b : Block) (n : Nat) (x : Ctx) : Block := { b with ctxs := SMap.put b.ctxs n x }
def Block.modCtx (b : Block) (n : Nat) (f : Ctx → Ctx) : Block := b.setCtx n (f (b.ctx n))
def Block.mbox (b : Block) (p : Nat) : Mbox := SMap.get {} b.mboxes p
def Block.setMbox (b : Block) (p : Nat) (x : Mbox) : Block := { b with mboxes := SMap.put b.mboxes p x }
def Block.modMbox (b : Block) (p : Nat) (f : Mbox → Mbox) : Block := b.setMbox p (f (b.mbox p))
def Block.port (b : Block) (p : Nat) : Port := SMap.get {} b.weave.ports p
def Block.setPort (b : Block) (p : Nat) (x : Port) : Block :=
  { b with weave := { b.weave with ports := SMap.put b.weave.ports p x } }
def Block.modPort (b : Block) (p : Nat) (f : Port → Port) : Block := b.setPort p (f (b.port p))
def Block.island (b : Block) (i : Nat) : Island := SMap.get {} b.islands i
def Block.setIsland (b : Block) (i : Nat) (x : Island) : Block := { b with islands := SMap.put b.islands i x }
def Block.ring (b : Block) (r : Nat) : TraceRing := SMap.get {} b.rings r
def Block.setRing (b : Block) (r : Nat) (x : TraceRing) : Block := { b with rings := SMap.put b.rings r x }
def Core.seq (k : Core) (ctx : Nat) : SeqState := SMap.get {} k.seqs ctx
def Core.setSeq (k : Core) (ctx : Nat) (x : SeqState) : Core := { k with seqs := SMap.put k.seqs ctx x }
def Core.mover (k : Core) (m : Nat) : Mover := SMap.get {} k.movers m
def Core.setMover (k : Core) (m : Nat) (x : Mover) : Core := { k with movers := SMap.put k.movers m x }
def Core.modMover (k : Core) (m : Nat) (f : Mover → Mover) : Core := k.setMover m (f (k.mover m))

/-- The binding of a context on a core. -/
def Core.bind? (k : Core) (ctx : Nat) : Option Binding := k.binds.find? (fun x => x.ctx == ctx)

/-- The partition of a core (R11). -/
def partOf (core : Nat) : Nat := core / 4

/-- The module's ID as its own addresses and packets carry it (R294, R317). -/
def Block.self (b : Block) : Nat := b.weave.domain.moduleId

/-- Draw a free value's serial number. -/
def Block.draw (b : Block) : Nat × Block := (b.freeCtr, { b with freeCtr := b.freeCtr + 1 })

/-- Add one to a saturating 64-bit counter. -/
def satInc (n : Nat) : Nat := if n + 1 < 2 ^ 64 then n + 1 else n

/-- Add to a saturating 64-bit counter. -/
def satAdd (n k : Nat) : Nat := min (n + k) (2 ^ 64 - 1)

/-! ### Islands, stamps and trace records -/

def arrIsl (core : Nat) : Nat := 0x100 + core
def movIsl (core : Nat) : Nat := 0x200 + core
def fabIsl (tile : Nat) : Nat := 0x300 + tile
def dramIsl (ch : Nat) : Nat := 0x400 + ch
def firnIsl (stack : Nat) : Nat := 0x500 + stack
def hubIsl : Nat := 0x600
def weaveIsl (port : Nat) : Nat := 0x700 + port
def trelebIsl : Nat := 0x800
def rimIsl : Nat := 0x900
def secIsl : Nat := 0xA00

/-- The trace ring that takes an island's records (R38). -/
def ringOf (isl : Nat) : Nat :=
  let i := isl % 256
  if isl / 256 = 1 ∨ isl / 256 = 2 then i / 4
  else if isl / 256 = 3 then i
  else if isl / 256 = 4 then i / 6
  else 4

/-- An island's stamp counter (R29, R30). -/
def Block.counter (b : Block) (isl : Nat) : Nat := ((b.time.keeper : Int) + (b.island isl).skew).toNat

/-- The stamp of an event in an island (R35) and the block with `last` advanced. `carried` is the
largest stamp carried in, 0 if none. -/
def Block.stamp (b : Block) (isl carried : Nat) : Nat × Block :=
  let i := b.island isl
  let s := max (b.counter isl) (max i.last (carried + 1))
  (s, b.setIsland isl { i with last := s })

/-- A transfer crosses from one island to another with the stamp of its operation, and its arrival there is stamped (R24,
R35). The operation is the event that `src` stamped last. -/
def Block.cross (b : Block) (src dst : Nat) : Block := if src = dst then b else (b.stamp dst (b.island src).last).2

/-- A transfer crosses to each of a list of islands. -/
def Block.crossTo (b : Block) (src : Nat) (dsts : List Nat) : Block := dsts.foldl (fun b d => b.cross src d) b

/-- Transfers of several islands reach one. -/
def Block.crossFrom (b : Block) (srcs : List Nat) (dst : Nat) : Block := srcs.foldl (fun b s => b.cross s dst) b

/-- A trace record's 32 bytes (R36). -/
def traceBytes (stamp self isl seq event ctx flags step arg : Nat) : List Byte :=
  natLe 8 stamp ++ natLe 2 self ++ natLe 2 isl ++ natLe 4 seq ++ natLe 2 event ++ natLe 1 ctx ++
    natLe 1 flags ++ natLe 4 step ++ natLe 8 arg

/-- Lines that are delivered poisoned (R255): POISON is set, or another check of the read fails. -/
def Dram.bad (d : Dram) : SSet := d.fails.foldl (fun p l => SSet.insert p l.1) d.poison

/-- A line lies in a range, in part at least. -/
def lineIn (l off n : Nat) : Bool := decide (off < l * 64 + 64 ∧ l * 64 < off + n)

/-- A write to the DRAM tier lands (R150, R255): a line written in part whose read for the merge fails a check is stored
poisoned, and every line written passes the other checks. -/
def Block.dramWrite (b : Block) (off : Nat) (data : List Byte) (bad : List Nat) : Block :=
  let d := b.dram
  { b with dram := { d with
      mem := Mem.write d.mem off data
      poison := poisonAfter 64 ((d.fails.filter (fun l => lineIn l.1 off data.length)).foldl (fun p l => SSet.insert p l.1) d.poison) off
        data.length bad
      fails := d.fails.filter (fun l => !lineIn l.1 off data.length) } }

/-- A channel of a DRAM-tier offset (R252). -/
def chanOf (o : Nat) : Nat := 6 * (o / 2 ^ 40) + o % 2 ^ 40 / 4096 % 6

/-- Host memory can be reached: the link is UP, or in RECOVERY, after which its packets go on (R437, R448). -/
def Block.hostUp (b : Block) : Bool := b.treleb.state == 2 || b.treleb.state == 3

/-- Host memory answers at every byte of a range (R449). -/
def Block.hostAnswers (b : Block) (a n : Nat) : Bool :=
  b.hostAbsent.all (fun r => decide (a + n ≤ r.1 ∨ r.1 + r.2 ≤ a))

/-- A module write to host memory lands (R443). -/
def Block.hostWrite (b : Block) (a : Nat) (data : List Byte) (bad : List Nat) : Block :=
  { b with hostMem := Mem.write b.hostMem a data, hostPoison := poisonAfter 16 b.hostPoison a data.length bad }

/-- Write bytes at a physical address of SPACE 0x0 or 0x2 without further checks: trace rings and the
module's own records. -/
def Block.ownWrite (b : Block) (pa : Nat) (data : List Byte) : Block :=
  if bits pa 51 48 = 0 then b.dramWrite (bits pa 47 0) data [] else b.hostWrite (bits pa 47 0) data []

def Block.ownRead (b : Block) (pa n : Nat) : List Byte :=
  if bits pa 51 48 = 0 then Mem.bytes b.dram.mem (bits pa 47 0) n else Mem.bytes b.hostMem (bits pa 47 0) n

/-- A Treleb packet (R441). Its LACK is filled in each time it leaves, and stands here as 0. -/
def trelebPacket (type len lseq attr tag addr poison : Nat) (payload : List Byte) : List Byte :=
  natLe 1 type ++ natLe 1 len ++ natLe 3 lseq ++ natLe 1 attr ++ natLe 2 tag ++ natLe 6 addr ++ natLe 2 poison ++
    padTo 0#8 (roundUp 16 payload.length) payload

/-- Flits that hold the bytes of an access (R441). -/
def flits (addr len : Nat) : Nat := (addr + len + 15) / 16 - addr / 16

/-- POISON of the payload flits that hold given offsets (R441). -/
def flitMask (bad : List Nat) : Nat := ((List.range 16).map (fun i => if bad.any (fun j => j / 16 == i) then 2 ^ i else 0)).sum

/-- A request as a packet (R441, R442): reads name whole flits, and 8 bytes are written by HALF. -/
def Req.packet (r : Req) (lseq : Nat) : List Byte :=
  match r.kind with
  | .pieceRead _ _ _ _ _ => trelebPacket 0x10 (flits r.addr r.len) lseq 0 r.tag (r.addr / 16 * 16) 0 []
  | .intr _ => trelebPacket 0x30 0 lseq 0 r.tag r.addr 0 []
  | .transReq _ ctx _ _ | .transAhead _ ctx _ _ | .transFront _ ctx _ _ => trelebPacket 0x20 0 lseq ctx r.tag r.addr 0 []
  | .pieceWrite _ _ _ _ | .done _ | .trace _ _ =>
    trelebPacket 0x11 ((r.data.length + 15) / 16) lseq (if r.data.length = 8 then 2 else 0) r.tag r.addr (flitMask r.bad) r.data

/-- A packet without an answer of its own, or an answer, joins the link's retry buffer (R442). -/
def Treleb.put (t : Treleb) (packet : Nat → List Byte) : Treleb :=
  { t with txSeq := (t.txSeq + 1) % 4096, buf := t.buf ++ [⟨t.txSeq, packet t.txSeq, 0, none⟩] }

/-- Send a Treleb request (R441): a tag, the link's retry buffer and the list of outstanding requests. -/
def Block.request (b : Block) (kind : ReqKind) (addr len : Nat) (data : List Byte) (bad : List Nat) : Block :=
  let t := b.treleb
  let r : Req := ⟨t.nextTag, kind, addr, len, data, bad, b.time.keeper⟩
  { b with treleb := { (t.put r.packet) with nextTag := (t.nextTag + 1) % 65536, reqs := t.reqs ++ [r] } }

/-- Count a record as dropped in its ring (R40): DROPPED in the control block follows (R39). -/
def Block.traceDrop (b : Block) (r : Nat) : Block :=
  let g := b.ring r
  let b := match g.placed with | none => b | some pa => b.ownWrite (pa + 16) (natLe 8 (g.dropped + 1))
  b.setRing r { g with dropped := g.dropped + 1 }

/-- Where a ring's next record goes (R39). -/
def TraceRing.next (g : TraceRing) (pa : Nat) : Nat := pa + 64 + g.write % 2 ^ g.log2 * 32

/-- A record lands in its ring and is counted (R39): the record, then WRITE_INDEX. -/
def Block.traceLand (b : Block) (r : Nat) (rec : List Byte) : Block :=
  let g := b.ring r
  match g.placed with
  | none => b
  | some pa => ((b.ownWrite (g.next pa) rec).ownWrite pa (natLe 8 (g.write + 1))).setRing r { g with write := g.write + 1 }

/-- A trace record of a ring is outstanding over Treleb. -/
def Block.traceSent (b : Block) (r : Nat) : Bool :=
  b.treleb.reqs.any (fun q => match q.kind with | .trace r' _ => r' == r | _ => false)

/-- Send the oldest record that waits for a ring in host memory, once the one before it has been answered: records land in
the order in which they were produced (R40). -/
def Block.traceSend (b : Block) (r : Nat) : Block :=
  let g := b.ring r
  match g.placed, g.wait with
  | some pa, w :: _ => if b.traceSent r then b else b.request (.trace r w.1) (bits (g.next pa) 47 0) 32 w.2 []
  | _, _ => b

/-- Records that wait when their ring is placed anew go to the new place. -/
def Block.traceMoved (b : Block) (r : Nat) : Block :=
  let g := b.ring r
  match g.placed with
  | none => b
  | some pa =>
    if bits pa 51 48 = 0 then g.wait.foldl (fun b w => b.traceLand r w.2) (b.setRing r { g with wait := [] }) else b.traceSend r

/-- The write of a ring's oldest waiting record is answered: it has landed, or it is dropped and counted; the next goes
out. A record whose ring has been placed anew meanwhile is counted nowhere. -/
def Block.traceAnswer (b : Block) (r addr : Nat) (data : List Byte) (ok : Bool) : Block :=
  let g := b.ring r
  let mine := g.placed.any (fun pa => bits (g.next pa) 47 0 == addr) && g.wait.head?.any (fun w => w.2 == data)
  let b := if mine then
      (let b := b.setRing r { g with wait := g.wait.drop 1 }
       if ok then b.traceLand r data else b.traceDrop r)
    else if ok then b.hostWrite addr data [] else b
  b.traceSend r

/-- Queue a log record (R483, R485): a full queue first loses a waiting INFO record, else the new record. -/
def Block.log (b : Block) (stamp code part isl arg : Nat) : Block :=
  let r := b.rim
  let rec_ : LogRec := ⟨stamp, (r.logSeq + 1) % 2 ^ 32, code, Config.logSeverity code % 5, b.time.state, part, isl, r.boot, arg % 2 ^ 64⟩
  let put (q : List LogRec) : Block := { b with rim := { r with logQ := q ++ [rec_], logSeq := (r.logSeq + 1) % 2 ^ 32 } }
  let drop (q : List LogRec) : Rim := { r with logQ := q, dropped := r.dropped + 1, overflow := r.overflow + 1 }
  if r.logQ.length < 512 then put r.logQ
  else match r.logQ.findIdx? (fun x => x.severity == 0) with
    | some i =>
      let q := r.logQ.eraseIdx i
      { b with rim := { drop (q ++ [rec_]) with logSeq := (r.logSeq + 1) % 2 ^ 32 } }
    | none => { b with rim := drop r.logQ }

/-- The trace codes that the log also takes (R484). -/
def logged (code : Nat) : Bool :=
  [0x0301, 0x0302, 0x0305, 0x0321, 0x0323, 0x0325, 0x0401, 0x0402].contains code ||
    decide ((0x0420 ≤ code ∧ code ≤ 0x0423) ∨ (0x0601 ≤ code ∧ code ≤ 0x060A) ∨ (0x0700 ≤ code ∧ code ≤ 0x0702))

/-- PARTITION of a log record for an island's event. -/
def islPart (isl : Nat) : Nat :=
  let i := isl % 256
  if isl / 256 = 1 ∨ isl / 256 = 2 then i / 4 else if isl / 256 = 3 then i else if isl / 256 = 4 then i / 6 else 0xFF

/-- An island produces a trace record with a stamp already taken (R36, R40, R42), and the log takes it where
R484 says so. -/
def Block.emitAt (b : Block) (stamp isl event ctx step arg : Nat) : Block :=
  let b := if logged event then b.log stamp event (if event / 256 = 6 ∧ event ≠ 0x060A then bits arg 19 16 else islPart isl) isl arg else b
  let r := ringOf isl
  let g := b.ring r
  if !g.ever then b
  else
    let i := b.island isl
    let b := b.setIsland isl { i with seq := (i.seq + 1) % 2 ^ 32 }
    match g.placed with
    | none => b
    | some pa =>
      let flags := (if b.time.state = 3 then 1 else 0) + (if b.time.state ≤ 1 then 2 else 0)
      let rec_ := traceBytes stamp b.self isl i.seq event ctx flags (step % 2 ^ 32) (arg % 2 ^ 64)
      let behind := g.write + g.wait.length - leNat (b.ownRead (pa + 8) 8)
      if (g.stop ∧ 2 ^ g.log2 ≤ behind) ∨ 16 ≤ (g.wait.filter (fun w => w.1 == isl)).length then b.traceDrop r
      else if bits pa 51 48 = 0 then b.traceLand r rec_
      else (b.setRing r { g with wait := g.wait ++ [(isl, rec_)] }).traceSend r

/-- An event in an island: its stamp is taken and its record produced. What it depends on has crossed into the island
before (`Block.cross`). -/
def Block.emit (b : Block) (isl event ctx step arg : Nat) : Block :=
  let sb := b.stamp isl 0
  sb.2.emitAt sb.1 isl event ctx step arg

/-- Islands that each produce the same record at once: none of the records depends on another. -/
def Block.emitEach (b : Block) (isls : List Nat) (event ctx step arg : Nat) : Block :=
  isls.foldl (fun b i => b.emit i event ctx step arg) b

/-- The step number an event of a context carries (R36, R352): 0 outside a step. -/
def Ctx.curStep (x : Ctx) : Nat := if x.step = .none then 0 else x.stepNo

/-- An event of a context. -/
def Block.emitCtx (b : Block) (isl event ctx arg : Nat) : Block :=
  b.emit isl event ctx ((b.ctx ctx).curStep) arg

/-- The keeper's last value (R28): at the end of its 64 bits it stays there, since time never runs backward (R33; DESIGN
CHOICE: R28 gives no outcome). -/
def timeEnd : Nat := 2 ^ 64 - 1

/-- Nanoseconds of domain time in which a keeper under correction gains or loses one (R33): the rate is off by 1,000 ppm. -/
def Time.slewEvery (t : Time) : Nat := if 0 < t.owed then 1001 else 999

/-- Domain time goes on by `n` ns (R28, R33): what is owed is slewed away as it passes. -/
def Time.pass (t : Time) (n : Nat) : Time :=
  let t := { t with keeper := min (t.keeper + n) timeEnd }
  if t.owed = 0 then t
  else
    let done := min t.owed.natAbs ((t.acc + n) / t.slewEvery)
    let left : Int := if 0 < t.owed then t.owed - done else t.owed + done
    { t with owed := left, acc := if left = 0 then 0 else (t.acc + n) % t.slewEvery }

/-- The rate correction now applied, in parts per billion (R32, R33). -/
def Time.slewPpb (t : Time) : Int := if t.owed = 0 then 0 else if 0 < t.owed then 1000000 else -1000000

/-- Domain time reaches at least `t`: an event that the manual places at a due time has come. -/
def Block.advanceTo (b : Block) (t : Nat) : Block := { b with time := b.time.pass (t - b.time.keeper) }

/-- The hub is out of reset: the keeper counts (R28, R518). -/
def Block.hubRuns (b : Block) : Bool := b.power.state == 3 && !b.halted && (b.power.step == 0 || decide (5 ≤ b.power.step))

/-! ### Scratchpad and tile buffer -/

/-- Physical scratchpad address of a logical one under swap bits (R193). -/
def physAddr (swap : SSet) (a : Nat) : Nat :=
  let slot := a / 16384
  if SSet.has swap (slot / 2) then (if slot % 2 = 0 then a + 16384 else a - 16384) else a

/-- Bytes of a logical scratchpad range under swap bits. -/
def Core.scratchBytes (k : Core) (swap : SSet) (a n : Nat) : List Byte :=
  if swap.isEmpty then Mem.bytes k.scratch a n
  else (List.range n).map (fun i => Mem.byte k.scratch (physAddr swap (a + i)))

/-- Offsets of the poisoned bytes of a logical scratchpad range. -/
def Core.scratchBad (k : Core) (swap : SSet) (a n : Nat) : List Nat :=
  if k.poison.isEmpty then []
  else (List.range n).filter (fun i => SSet.has k.poison (physAddr swap (a + i) / 16))

/-- Pieces of a logical range that lie in one slot each: (offset, length). -/
def slotRuns (a n : Nat) : List (Nat × Nat) :=
  (List.range ((a + n + 16383) / 16384 - a / 16384)).map (fun i =>
    let lo := max a ((a / 16384 + i) * 16384)
    let hi := min (a + n) ((a / 16384 + i + 1) * 16384)
    (lo - a, hi - lo))

/-- A write to a logical scratchpad range (R150, R151). -/
def Core.scratchWrite (k : Core) (swap : SSet) (a : Nat) (data : List Byte) (bad : List Nat) : Core :=
  (slotRuns a data.length).foldl (fun k r =>
    let pa := physAddr swap (a + r.1)
    { k with
      scratch := Mem.write k.scratch pa ((data.drop r.1).take r.2)
      poison := poisonAfter 16 k.poison pa r.2
        ((bad.filter (fun i => decide (r.1 ≤ i ∧ i < r.1 + r.2))).map (fun i => i - r.1)) }) k

/-- The logical slots that a byte range touches. -/
def slotsOf (a n : Nat) : List Nat :=
  if n = 0 then [] else (List.range ((a + n - 1) / 16384 + 1 - a / 16384)).map (fun i => a / 16384 + i)

/-- Physical slot of a logical one (R193). -/
def physSlot (swap : SSet) (s : Nat) : Nat :=
  if SSet.has swap (s / 2) then (if s % 2 = 0 then s + 1 else s - 1) else s

/-- A scratchpad range lies in the slot range of a binding (R152). -/
def Binding.holds (x : Binding) (a n : Nat) : Bool :=
  decide (x.slotFirst * 16384 ≤ a ∧ a + n ≤ (x.slotFirst + x.slotCount) * 16384)

/-- The tile range of a context on a tile (R159): byte base and length. -/
def Part.rangeOf (p : Part) (ctx : Nat) : Nat × Nat :=
  match p.ranges.find? (fun r => r.1 == ctx) with
  | some r => (r.2.1 * 65536, r.2.2 * 65536)
  | none => (0, 0)

/-- A write to a tile buffer at a byte of the buffer. -/
def Part.tileWrite (p : Part) (a : Nat) (data : List Byte) (bad : List Nat) : Part :=
  { p with tile := Mem.write p.tile a data, tilePoison := poisonAfter 16 p.tilePoison a data.length bad }

/-! ### Physical spaces -/

/-- A DRAM-tier range has memory outside the system reserve (R251). -/
def dramUsable (off n : Nat) : Bool :=
  decide (off < 2 ^ 42 ∧ off % 2 ^ 40 + n ≤ 0x8FC0000000)

/-- The statuses of R349 that checks answer. -/
def stOK : Nat := 0x00
def stLate : Nat := 0x10
def stAborted : Nat := 0x11
def stEscalated : Nat := 0x12
def stFault : Nat := 0x20
def stRights : Nat := 0x21
def stDecode : Nat := 0x30
def stClosed : Nat := 0x31
def stTimeout : Nat := 0x32
def stData : Nat := 0x40
def stReset : Nat := 0x41
def stInvalid : Nat := 0x50
def stGap : Nat := 0x51
def stNoGrant : Nat := 0x60
/-- Not a status: the access waits until its partition serves again (R303). -/
def stWait : Nat := 0x100
/-- Not a status: the access waits for the companion's answer (R302). -/
def stAsk : Nat := 0x101

/-- The status codes of the module's own interfaces (R349). -/
def statuses : List Nat := [0x00, 0x10, 0x11, 0x12, 0x20, 0x21, 0x30, 0x31, 0x32, 0x40, 0x41, 0x50, 0x51, 0x60]

/-- A status of R349 that no rule names for an outcome: a free choice among them. -/
def Block.anyStatus (b : Block) : Nat × Block :=
  let d := b.draw
  (statuses.getD (Config.choice d.1 % statuses.length) 0, d.2)

/-- A model granted to a context and in a state that lets it be read (R208). -/
def Block.mayRead (b : Block) (ctx model : Nat) : Bool :=
  SSet.has (b.ctx ctx).grants model &&
    (let st := (SMap.get {} b.firn.models model).state; st == 3 || st == 4)

/-- No part of a range belongs to an absent tensor or a region that awaits its recheck (R214). -/
def Region.readable (r : Region) (a n : Nat) : Bool := r.present && r.gone.all (fun g => decide (a + n ≤ g.1 ∨ g.1 + g.2 ≤ a))

/-- The tagged DRAM region that a range meets. -/
def Block.regionAt (b : Block) (off n : Nat) : Option Region :=
  b.dram.regions.find? (fun r => decide (off < r.base + r.len ∧ r.base < off + n))

/-- Check of an access to a tagged range of the DRAM tier (R214, R238): `stOK` or the status it fails with. -/
def Block.regionCheck (b : Block) (ctx off n : Nat) (wr : Bool) : Nat :=
  match b.regionAt off n with
  | none => stOK
  | some r =>
    if r.variant then (if SSet.has (b.ctx ctx).grants r.model && r.present then stOK else stNoGrant)
    else if wr then stRights
    else if !b.mayRead ctx r.model then stNoGrant
    else if !r.readable off n then stData else stOK

/-- Check of an access to the DRAM tier: `stOK` or the status it fails with. What the partition's state does not decide
is refused also while the partition resets. -/
def Block.dramCheck (b : Block) (ctx off n : Nat) (wr : Bool) : Nat :=
  let st := (b.part (off / 2 ^ 40)).state
  let c := b.regionCheck ctx off n wr
  if !dramUsable off n then stRights
  else if 2 ≤ st then (if wr then stRights else stData)
  else if st = 1 ∧ (c = stOK ∨ c = stData) then stWait else c

/-- Check of a Firn read (R202, R208). -/
def Block.firnCheck (b : Block) (ctx off n : Nat) : Nat :=
  if 0xBFC0000000 < off + n then stRights
  else
    let o := SMap.get 0 b.firn.owner (off / 2097152)
    if o = 0 ∨ !b.mayRead ctx o then stNoGrant else stOK

/-- Check of host memory under R208 for host-placed tensors (R214). -/
def Block.hostCheck (b : Block) (ctx a n : Nat) (wr : Bool) : Nat :=
  match b.firn.hostRegions.find? (fun r => decide (a < r.base + r.len ∧ r.base < a + n)) with
  | none => stOK
  | some r => if wr then stRights else if !b.mayRead ctx r.model then stNoGrant
              else if !r.readable a n then stData else stOK

/-- What a physical range read delivers: bytes and the offsets that are poisoned. -/
structure Rd where
  data : List Byte
  bad  : List Nat
  deriving DecidableEq, Repr

/-- Check of a physical access by a context: SPACE, module and the space's own rules (R176, R294). -/
def Block.physCheck (b : Block) (ctx pa n : Nat) (wr : Bool) : Nat :=
  if bits pa 63 52 ≠ b.self then stRights
  else match bits pa 51 48 with
    | 0 => b.dramCheck ctx (bits pa 47 0) n wr
    | 1 => if wr then stRights else b.firnCheck ctx (bits pa 47 0) n
    | 2 => b.hostCheck ctx (bits pa 47 0) n wr
    | _ => stRights

/-- A checked physical range read at once. Host memory that does not answer reads as an uncorrectable
word. -/
def Block.physRead (b : Block) (pa n : Nat) : Except Nat Rd :=
  let o := bits pa 47 0
  match bits pa 51 48 with
  | 0 => .ok ⟨Mem.bytes b.dram.mem o n, poisonedIn 64 b.dram.bad o n⟩
  | 1 => .ok ⟨Mem.bytes b.firn.mem o n, poisonedIn 16 b.firn.poison o n⟩
  | _ => if b.hostUp ∧ b.hostAnswers o n then .ok ⟨Mem.bytes b.hostMem o n, poisonedIn 16 b.hostPoison o n⟩
         else .error stData

/-! ### The table walk -/

/-- What a walk ends with (R297, R303). -/
inductive Walk where
  | page (e : TlbEnt)
  | host
  | fault (kind level : Nat) (entryAt entry : Nat)
  /-- The table entry at this offset cannot be read: DATA_UNCORRECTABLE. -/
  | dead (at_ : Nat)
  /-- Wait for a RESETTING partition. -/
  | wait
  deriving DecidableEq, Repr

/-- Page size mapped at a level (R296). -/
def levelSize : Nat → Nat
  | 1 => 2 ^ 30
  | 2 => 2 ^ 21
  | _ => 2 ^ 16

/-- Index of an address at a level (R296). -/
def levelIndex (level va : Nat) : Nat :=
  match level with
  | 0 => bits va 55 39
  | 1 => bits va 38 30
  | 2 => bits va 29 21
  | _ => bits va 20 16

/-- Alignment of the table that a TABLE entry of a level names (R296). -/
def tableAlign : Nat → Nat
  | 2 => 256
  | _ => 4096

/-- Size of the table that a TABLE entry of a level names. -/
def tableSize : Nat → Nat
  | 2 => 256
  | _ => 4096

/-- A page of a PAGE or MIGR entry is malformed (R297). -/
def pageBad (level e : Nat) : Bool :=
  level == 0 || (bits e 47 8 * 256) % levelSize level != 0 || bits e 6 5 != 0

/-- The walk from a table at a level, with the TABLE entries it used (R297, R300). It waits for a table of a RESETTING
partition (R303). -/
def Block.walkFrom (b : Block) (ctx va : Nat) : (fuel level table : Nat) → List WalkEnt → Walk × List WalkEnt
  | 0, _, table, acc => (.dead table, acc)
  | fuel + 1, level, table, acc =>
    let at_ := table + 8 * levelIndex level va
    let p := b.part (at_ / 2 ^ 40)
    if 2 ≤ p.state then (.dead at_, acc)
    else if p.state = 1 then (.wait, acc)
    else if SSet.has b.dram.bad (at_ / 64) then (.dead at_, acc)
    else
      let e := leNat (Mem.bytes b.dram.mem at_ 8)
      let addr := bits e 47 8 * 256
      match bits e 1 0 with
      | 0 =>
        if !bit e 7 then (.fault 1 level at_ e, acc)
        else if pageBad level e || bits e 51 48 != 2 then (.fault 3 level at_ e, acc)
        else (.fault 2 level at_ e, acc)
      | 1 =>
        if level = 3 ∨ bits e 63 48 ≠ 0 ∨ bits e 7 2 ≠ 0 ∨ addr % tableAlign level ≠ 0 ∨
            !dramUsable addr (tableSize level) then (.fault 3 level at_ e, acc)
        else b.walkFrom ctx va fuel (level + 1) addr (⟨ctx, level + 1, va / 2 ^ 16, addr⟩ :: acc)
      | 2 =>
        if pageBad level e || bit e 7 || decide (3 < bits e 51 48) then (.fault 3 level at_ e, acc)
        else
          let sz := levelSize level
          (.page ⟨ctx, va / sz * sz, sz, bits e 63 48 * 2 ^ 48 + addr, bit e 2, bit e 3, bit e 4⟩, acc)
      | _ => if bits e 63 2 ≠ 0 then (.fault 3 level at_ e, acc) else (.host, acc)

/-- A full walk of a context's tables on the front end's own path. -/
def Block.walk (b : Block) (ctx va : Nat) : Walk × List WalkEnt :=
  b.walkFrom ctx va 4 0 (b.ctx ctx).ptRoot []

/-- An entry of a TLB that holds an address of a context. -/
def tlbFind (l : List TlbEnt) (ctx va : Nat) : Option TlbEnt :=
  l.find? (fun e => e.ctx == ctx && decide (e.va ≤ va ∧ va < e.va + e.size))

/-- Access bits of R303: 1 read, 2 write, 4 atomic. -/
def TlbEnt.allows (e : TlbEnt) (acc : Nat) : Bool :=
  (!bit acc 0 || e.r) && (!bit acc 1 || e.w) && (!bit acc 2 || e.a)

/-- Runs of a virtual range that do not cross a 4 KiB boundary: (offset, length). -/
def pageRuns (a n : Nat) : List (Nat × Nat) :=
  (List.range ((a + n + 4095) / 4096 - a / 4096)).map (fun i =>
    let lo := max a ((a / 4096 + i) * 4096)
    let hi := min (a + n) ((a / 4096 + i + 1) * 4096)
    (lo - a, hi - lo))

end Sys2Proof.Machine
end

