-- ==== Sys2Proof/Machine/Front.lean ====
section
/-!
DEFINITION. What a read from the large stores leaves behind (R205, R223, R266), host memory as the front end and Getis reach
it (R443, R449), and the front end's own path of translation (R299, R302, R303, R341).
-/
namespace Sys2Proof.Machine

/-! ### What a read delivers (R205, R223, R266) -/

/-- The island whose store holds a physical address: a DRAM channel, a Firn stack, or the link to host memory. -/
def memIsl (pa : Nat) : Nat :=
  let o := bits pa 47 0
  match bits pa 51 48 with
  | 0 => dramIsl (chanOf o)
  | 1 => firnIsl (o / 4096 % 4)
  | _ => trelebIsl

/-- Why a line is delivered poisoned (R266): the first of the checks of R255 that it fails. -/
def Dram.reason (d : Dram) (l : Nat) : Nat :=
  let f := SMap.get 0 d.fails l
  if f = 0 ∨ (3 < f ∧ SSet.has d.poison l) then 4 else f

/-- A poisoned line leaves the DRAM tier (R266): one record for each poisoned line of the ranges read. -/
def Block.tracePoison (b : Block) (pa n : Nat) : Block :=
  let bad := b.dram.bad
  if bits pa 51 48 ≠ 0 ∨ bad.isEmpty then b
  else
    let o := bits pa 47 0
    ((List.range ((o + n + 63) / 64 - o / 64)).map (fun i => o / 64 + i)).foldl (fun b l =>
      if SSet.has bad l then b.emit (dramIsl (chanOf (l * 64))) 0x0301 0xFF 0 (chanOf (l * 64) + b.dram.reason l * 2 ^ 8 + l * 2 ^ 16)
      else b) b

/-- An uncorrectable Firn word has been delivered (R205): its extent becomes SUSPECT. -/
def Block.firnPoison (b : Block) (pa n : Nat) : Block :=
  let o := bits pa 47 0
  let bad := if bits pa 51 48 = 1 then poisonedIn 16 b.firn.poison o n else []
  if bad.isEmpty then b
  else
    let exts := (bad.map (fun i => (o + i) / 2097152)).eraseDups
    let b := { b with firn := { b.firn with uncorr := b.firn.uncorr + 1 } }
    exts.foldl (fun b e =>
      if SSet.has b.firn.suspect e then b
      else
        let b := { b with firn := { b.firn with suspect := SSet.insert b.firn.suspect e } }
        b.emit (memIsl pa) 0x0321 0xFF 0 (SMap.get 0 b.firn.owner e + e * 2 ^ 8)) b

/-- A physical range has been delivered to its reader. -/
def Block.delivered (b : Block) (pa n : Nat) : Block := (b.tracePoison pa n).firnPoison pa n

/-- An access is denied for want of a grant (R208, R214, R238): the model is the owner of the extent or of the range. -/
def Block.grantDenied (b : Block) (ctx pa n : Nat) : Block :=
  let o := bits pa 47 0
  let e := o / 2097152
  let arg := match bits pa 51 48 with
    | 1 => SMap.get 0 b.firn.owner e + e * 2 ^ 8
    | 0 => ((b.regionAt o n).map (·.model)).getD 0
    | _ => ((b.firn.hostRegions.find? (fun r => decide (o < r.base + r.len ∧ r.base < o + n))).map (·.model)).getD 0
  b.emit (if bits pa 51 48 = 2 then hubIsl else memIsl pa) 0x0320 ctx ((b.ctx ctx).curStep) arg

/-! ### Host memory at once (R443, R449)

An access of Getis, of the front end or of the Rim controller to host memory ends within the command that makes it: the
command stands for the time until its answer. -/

/-- HOST_ERROR (R451): an access ended under R449, with the status of its outcome where R449 names one. -/
def Block.hostError (b : Block) (st? : Option Nat) (addr : Nat) : Block :=
  let s := match st? with | some s => (s, b) | none => b.anyStatus
  s.2.emit trelebIsl 0x0421 0xFF 0 (s.1 + addr % 2 ^ 48 * 2 ^ 8)

/-- A write to host memory; the second part tells whether it landed. -/
def Block.hostPut (b : Block) (a : Nat) (data : List Byte) : Block × Bool :=
  if b.hostUp ∧ b.hostAnswers a data.length then (b.hostWrite a data [], true) else (b.hostError none a, false)

/-- A read of host memory. An answer with a poisoned word is an uncorrectable read to the module's own readers (R456). -/
def Block.hostGet (b : Block) (a n : Nat) : Option (List Byte) :=
  if b.hostUp ∧ b.hostAnswers a n ∧ (poisonedIn 16 b.hostPoison a n).isEmpty then some (Mem.bytes b.hostMem a n) else none

/-- A read of host memory that was not answered is recorded. -/
def Block.hostMissed (b : Block) (a n : Nat) : Block :=
  if b.hostUp ∧ b.hostAnswers a n then b else b.hostError none a

/-- Read host memory: `f` goes on with the bytes, or `no` where there are none. -/
def Block.hostRead (b : Block) (a n : Nat) (no : Block → Block) (f : List Byte → Block) : Block :=
  match b.hostGet a n with
  | some d => f d
  | none => no (b.hostMissed a n)

/-! ### The front end's own path (R299, R302, R341) -/

/-- Translate an address on the front end's own path: the physical address or a status. A host-served address translates
where the companion's answer is held for the context; it faults where the companion has refused it, and else waits. -/
def Block.feAddr (b : Block) (ctx va acc : Nat) : Except Nat Nat :=
  if va / 2 ^ 56 ≠ 0 then .error stFault
  else
    let use (e : TlbEnt) : Except Nat Nat := if e.allows acc then .ok (e.pa + (va - e.va)) else .error stRights
    match (b.walk ctx va).1 with
    | .page e => use e
    | .host => match tlbFind (b.part (b.ctx ctx).part).tlb ctx va with
      | some e => use e
      | none => .error (if SSet.has (b.ctx ctx).feDenied (va / 2 ^ 16) then stFault else stAsk)
    | .fault _ _ _ _ => .error stFault
    | .dead _ => .error stData
    | .wait => .error stWait

/-- A run of a virtual range that lies in one page: its physical address where the context may make the access, or the
status that stands against it with the physical address, if it got so far. -/
def Block.feRun (b : Block) (ctx va n acc : Nat) : Except (Nat × Option Nat) Nat :=
  match b.feAddr ctx va acc with
  | .error e => .error (e, none)
  | .ok pa =>
    let c := b.physCheck ctx pa n (bit acc 1)
    if c = stOK then .ok pa else .error (c, some pa)

/-- Read a virtual range of a context. -/
def Block.feRead (b : Block) (ctx va n : Nat) : Except Nat (List Byte) :=
  (pageRuns va n).foldl (fun r p =>
    match r with
    | .error e => .error e
    | .ok l =>
      match b.feRun ctx (va + p.1) p.2 1 with
      | .error e => .error e.1
      | .ok pa => match b.physRead pa p.2 with
        | .error e => .error e
        | .ok rd => if rd.bad.isEmpty then .ok (l ++ rd.data) else .error stData) (.ok [])

/-- Write a virtual range of a context: the block and the status. -/
def Block.feWrite (b : Block) (ctx va : Nat) (data : List Byte) : Block × Nat :=
  (pageRuns va data.length).foldl (fun r p =>
    if r.2 ≠ stOK then r
    else
      let b := r.1
      match b.feRun ctx (va + p.1) p.2 2 with
      | .error e => (b, e.1)
      | .ok pa =>
        let d := (data.drop p.1).take p.2
        if bits pa 51 48 = 0 then (b.dramWrite (bits pa 47 0) d [], stOK)
        else match b.hostPut (bits pa 47 0) d with
          | (b, true) => (b, stOK)
          | (b, false) => (b, stRights)) (b, stOK)

/-- A host-served translation is asked for, unless the same one is outstanding (R302). -/
def Block.askTrans (b : Block) (kind : ReqKind) (va acc : Nat) : Block :=
  if b.treleb.reqs.any (fun r => r.kind == kind) then b else b.request kind (va / 2 ^ 16 + acc * 2 ^ 40) 0 [] []

/-- The first thing that stands against accesses of ranges (address, length) to come, if it is one that passes: a wait, or
the companion's answer for an address. -/
def Block.feStall (b : Block) (ctx : Nat) (ranges : List (Nat × Nat)) (acc : Nat) : Option (Option Nat) :=
  ranges.findSome? (fun r => (pageRuns r.1 r.2).findSome? (fun p =>
    match b.feRun ctx (r.1 + p.1) p.2 acc with
    | .error (e, _) => if e = stAsk then some (some (r.1 + p.1)) else if e = stWait then some none else none
    | .ok _ => none))

/-- An operation of the front end waits for what stands against accesses to come: it asks the companion where that is its
answer (R302). Otherwise `f` goes on. -/
def Block.feGate (b : Block) (ctx : Nat) (ranges : List (Nat × Nat)) (acc : Nat) (f : Block) : Block :=
  match b.feStall ctx ranges acc with
  | none => f
  | some none => b
  | some (some va) => b.askTrans (.transFront (b.ctx ctx).part ctx (va / 2 ^ 16 * 2 ^ 16) acc) va acc

/-- What a front-end access that fails leaves behind: poison that was delivered, a host access that was not answered, a
grant that was missing; and a refusal of the companion has been used. -/
def Block.feFailed (b : Block) (ctx va n acc : Nat) : Block :=
  let b := b.modCtx ctx (fun x => { x with feDenied := [] })
  ((pageRuns va n).foldl (fun (r : Block × Bool) p =>
    let b := r.1
    if r.2 then r
    else match b.feRun ctx (va + p.1) p.2 acc with
      | .error (e, at_) => (match at_ with
        | some pa => if e = stNoGrant then b.grantDenied ctx pa p.2 else b
        | none => (match (b.walk ctx (va + p.1)).1 with | .dead t => b.tracePoison t 8 | _ => b), true)
      | .ok pa => if bit acc 1 then (b, bits pa 51 48 != 0 && !(b.hostUp && b.hostAnswers (bits pa 47 0) p.2))
        else match b.physRead pa p.2 with
        | .error e => (b.hostError (some e) (bits pa 47 0), true)
        | .ok rd => if rd.bad.isEmpty then (b, false) else (b.delivered pa p.2, true)) (b, false)).1

/-- The front end has read a range: what it does next follows what wrote it (R35). -/
def Block.feSeen (b : Block) (ctx va n : Nat) : Block :=
  let isls := (pageRuns va n).filterMap (fun p => match b.feAddr ctx (va + p.1) 1 with
    | .ok pa => some (memIsl pa)
    | .error _ => none)
  b.crossFrom isls.eraseDups (fabIsl (b.ctx ctx).part)

/-- An operation of the front end reads a virtual range: it waits where it must, `no` goes on with a status, or `f` with the
bytes. -/
def Block.feThrough (b : Block) (ctx va n : Nat) (no : Block → Nat → Block) (f : Block → List Byte → Block) : Block :=
  b.feGate ctx [(va, n)] 1 (match b.feRead ctx va n with
    | .ok d => f (b.feSeen ctx va n) d
    | .error st => no (b.feFailed ctx va n 1) st)

end Sys2Proof.Machine
end

