-- ==== Sys2Proof/Machine/EngineQueue.lean ====
section
/-!
DEFINITION. Words of instructions as fields (R102), and the engine queues (R119): what an engine instruction reads and
writes of registers and banks, and which of the queued ones executes (R77, R94).
-/
namespace Sys2Proof.Machine

/-- A field of a word. -/
def wf_ (w : W128) (hi lo : Nat) : Nat := bits w.toNat hi lo

/-- The class of an instruction word (R102). -/
def wordClass (w : W128) : Nat := bits w.toNat 127 124

/-- The engines of a core: 0 array, 1 vector engine, 2 SFU. -/
def Core.engineQ (k : Core) : Nat → List EngOp
  | 0 => k.array
  | 1 => k.vector
  | _ => k.sfu

/-- Store an engine queue. -/
def Core.setEngineQ (k : Core) (e : Nat) (l : List EngOp) : Core :=
  match e with
  | 0 => { k with array := l }
  | 1 => { k with vector := l }
  | _ => { k with sfu := l }

/-- Depth of an engine queue (R119). -/
def engineDepth : Nat → Nat
  | 0 => 4
  | _ => 8

/-- An engine queue has no free place: issue waits (R119). -/
def Core.engineFull (k : Core) (e : Nat) : Bool := decide (engineDepth e ≤ (k.engineQ e).length)

/-- Operation of a queued word. -/
def EngOp.op (o : EngOp) : Nat := match wordClass o.word with
  | 0x1 => 0x100
  | 0x3 => 0x300 + wf_ o.word 123 120
  | _ => 0x200 + wf_ o.word 123 116

/-- Vector registers and accumulator banks (100 + bank) that an engine instruction reads (R94, R77). -/
def EngOp.reads (o : EngOp) : List Nat :=
  let va := wf_ o.word 110 106
  let vb := wf_ o.word 105 101
  let vc := wf_ o.word 100 96
  match o.op with
  | 0x100 => [100 + wf_ o.word 123 122]
  | 0x220 => [] | 0x221 => [va] | 0x222 => [100 + wf_ o.word 89 88] | 0x223 => [va] | 0x224 => []
  | 0x225 => [va] | 0x226 => []
  | 0x230 => [va, vb] | 0x231 => [va, vb] | 0x232 => [va, vb] | 0x233 => [va, vb, vc] | 0x234 => [va, vb] | 0x235 => [va, vb]
  | 0x239 => [va, vb] | 0x248 => [va, vb] | 0x252 => []
  | n => if 0x300 ≤ n then [wf_ o.word 114 110] else [va]

/-- Vector registers and banks that an engine instruction writes. -/
def EngOp.writes (o : EngOp) : List Nat :=
  let vd := wf_ o.word 115 111
  match o.op with
  | 0x100 => [100 + wf_ o.word 123 122]
  | 0x221 => [] | 0x223 => [100 + wf_ o.word 89 88] | 0x225 => [] | 0x250 => [] | 0x251 => []
  | 0x245 => [vd, wf_ o.word 100 96]
  | 0x248 => [vd, wf_ o.word 105 101, wf_ o.word 100 96]
  | n => if 0x300 ≤ n then [wf_ o.word 119 115] else [vd]

/-- Two engine instructions of one context meet in a register or bank. -/
def EngOp.conflicts (o p : EngOp) : Bool :=
  o.ctx == p.ctx && (p.writes.any (fun x => o.reads.contains x || o.writes.contains x) || p.reads.any (fun x => o.writes.contains x))

/-- No earlier instruction of another queue holds the head back (R77, R94). -/
def Core.mayRun (k : Core) (o : EngOp) : Bool :=
  (k.array ++ k.vector ++ k.sfu).all (fun p => !(decide (p.id < o.id) && o.conflicts p))

/-- A queued instruction waits for no tag: it names none, or its tags have been met (R153, R155). -/
def EngOp.untagged (o : EngOp) : Bool :=
  o.granted || (match wordClass o.word with
    | 0x1 => wf_ o.word 117 116 == 0 && (bit o.word.toNat 120 || wf_ o.word 115 114 == 0)
    | 0x2 => wf_ o.word 83 82 == 0
    | _ => true)

/-- The instruction an engine executes: the head of its queue, once nothing holds it (R90, R134). -/
def Core.executing (k : Core) (e : Nat) : Option EngOp :=
  (k.engineQ e).head?.filter (fun o => k.mayRun o && o.untagged)

/-- The engines hold no instruction of a context. -/
def Core.engineIdle (k : Core) (ctx : Nat) : Bool :=
  (k.array ++ k.vector ++ k.sfu).all (fun o => o.ctx != ctx)

/-- The sequencer state that a queued instruction works on: its context's, or what is left of its own kernel's where a
later kernel runs (R194). -/
def Core.engSeq (k : Core) (o : EngOp) : SeqState :=
  match k.old.find? (fun x => x.1 == o.kid) with
  | some x => x.2
  | none => k.seq o.ctx

/-- Store it. -/
def Core.setEngSeq (k : Core) (o : EngOp) (q : SeqState) : Core :=
  if k.old.any (fun x => x.1 == o.kid) then { k with old := SMap.put k.old o.kid q } else k.setSeq o.ctx q

/-- An ended kernel's state is dropped once no engine instruction of it remains. -/
def Core.trimOld (k : Core) : Core :=
  { k with old := k.old.filter (fun x => (k.array ++ k.vector ++ k.sfu).any (fun o => o.kid == x.1)) }

end Sys2Proof.Machine
end

