-- ==== Sys2Proof/Machine/Abort.lean ====
section
/-!
DEFINITION. Ending work: cancelling mover descriptors (R198, R200), ending a kernel's issue (R369 steps 1–3),
retiring a step (R362, R367) and accepting an abort (R368, R369).
-/
namespace Sys2Proof.Machine

/-- Operation code of a ring entry (R337). -/
def Entry.op (e : Entry) : Nat := fld e.raw 8 1
/-- FLAGS of a ring entry (R337). -/
def Entry.flags (e : Entry) : Nat := fld e.raw 9 1

/-- The accepted entry of a SEQ. -/
def Ctx.entry? (x : Ctx) (seq : Nat) : Option Entry := x.entries.find? (fun e => e.seq == seq)

/-- Change the entry of a SEQ. -/
def Ctx.modEntry (x : Ctx) (seq : Nat) (f : Entry → Entry) : Ctx :=
  { x with entries := x.entries.map (fun e => if e.seq = seq then f e else e) }

/-- Credits that a piece takes (R175, R240): one for each 4 KiB. -/
def Piece.credits (p : Piece) : Nat := (p.len + 4095) / 4096

/-- Credits that a descriptor's pieces hold (R175). -/
def Desc.inFlight (d : Desc) : Nat :=
  ((d.pieces.filter (fun p => p.state == .reading || p.state == .fetched || p.state == .sent)).map Piece.credits).sum

/-- Pieces of an ended descriptor whose credit only an answer frees (R198, R200). -/
def Desc.owed (d : Desc) : Bool :=
  d.pieces.any (fun p => p.state == .reading || p.state == .sent) || (d.sentOut && !d.acked)

/-- A piece has nothing left to do. -/
def Piece.end_ (p : Piece) : Piece := { p with state := .landed, data := [], poison := [], side := [], sideBad := [], open_ := 0 }

/-- A descriptor ends: nothing further of it is issued, fetched data is discarded and only what an answer
must free stays. -/
def Desc.end_ (d : Desc) (now : Nat) : Desc :=
  { d with
    failed := true
    endedAt := now
    pieces := d.pieces.map (fun p => if (p.state = .reading ∨ p.state = .sent) ∧ p.open_ ≠ 0 then p else p.end_) }

/-- End the descriptors of a mover that satisfy `p`. -/
def Mover.cancel (m : Mover) (now : Nat) (p : Desc → Bool) : Mover :=
  let gone := m.queue.filter p
  { m with
    queue := m.queue.filter (fun d => !p d)
    dying := m.dying ++ ((gone.map (fun d => d.end_ now)).filter Desc.owed) }

/-- A mover's timer counts again after a pause (R458): the time of the pause is left out of its count. -/
def Core.resumeTimer (k : Core) (m now : Nat) : Core :=
  let v := k.mover m
  match v.pausedAt with
  | none => k
  | some t =>
    let k := k.modMover m (fun v => { v with pausedAt := Option.none })
    let p := SMap.get 0 k.movProg m
    if v.queue.head?.map (·.id) = some v.parkDesc then { k with movProg := SMap.put k.movProg m (p + (now - max t p)) } else k

/-- A parked stream's wait is abandoned: its fault, if any, stays queued and is marked (R200, R311). -/
def Block.unpark (b : Block) (core m : Nat) : Block :=
  let mv := (b.core core).mover m
  let b := b.modCore core (fun k => (k.resumeTimer m b.time.keeper).modMover m (fun v => { v with park := .none }))
  match mv.park with
  | .fault id =>
    let b := { b with faults := { b.faults with
      pending := b.faults.pending.filterMap (fun (f : PendFault) =>
        if f.id = id then (if f.written then none else some { f with cancelled := true }) else some f) } }
    b.modCtx mv.parkCtx (fun x => { x with parked := x.parked - 1 })
  | _ => b

/-- A wait of a core's first stream that an ATTN of a context has made is abandoned (R311). -/
def Block.unparkAttn (b : Block) (core ctx : Nat) : Block :=
  let v := (b.core core).mover 0
  if v.park ≠ .none ∧ v.parkDesc = 0 ∧ v.parkCtx = ctx then b.unpark core 0 else b

/-- An earlier entry of the ring has a claim on a core (R100, R288, R340): an ATTN that has not completed, or a LAUNCH or a
COPY that is dispatched and has not been executed. -/
def Ctx.holdsCore (x : Ctx) (core seq : Nat) : Bool :=
  x.attn.any (fun a => decide (a.seq < seq) && a.cores.contains core) ||
    x.entries.any (fun y => decide (y.seq < seq) && y.state == .dispatched && !y.refused &&
      ((y.op == 1 && bit (fld y.raw 32 2) core) || (y.op == 2 && fld y.raw 24 1 == core)))

/-- Cancel the descriptors of a core that satisfy `p`, with their parked streams and trace records (R199, R200). The
pieces discarded that CANCELLED counts are all that have not landed, those never issued and those already sent among
them (DESIGN CHOICE: R199 does not say which it counts). -/
def Block.cancelMovers (b : Block) (core : Nat) (p : Desc → Bool) : Block :=
  (List.range 4).foldl (fun b m =>
    let mv := (b.core core).mover m
    let gone := mv.queue.filter p
    if gone.isEmpty then b
    else
      let b := if mv.park ≠ .none ∧ gone.any (fun d => d.id == mv.parkDesc) then b.unpark core m else b
      let b := b.modCore core (fun k => k.modMover m (fun v => v.cancel b.time.keeper p))
      gone.foldl (fun b d =>
        b.emitCtx (movIsl core) 0x0108 d.ctx
          (d.movId + m * 2 ^ 16 + (d.pieces.filter (fun q => q.state != .landed)).length % 1024 * 2 ^ 24)) b) b

/-- Domain time that a context held the sequencer of a core is added to its counter (R388). -/
def Block.bank (b : Block) (core : Nat) : Block :=
  let k := b.core core
  if k.cur = 0 then b
  else
    let b := b.modCtx (k.cur - 1) (fun x => { x with busyNs := x.busyNs + (b.time.keeper - k.busyFrom) })
    b.modCore core (fun k => { k with busyFrom := b.time.keeper })

/-- The engine instructions of a kernel that an abort leaves to complete: those that an engine executes (R90, R134). -/
def Core.keepExecuting (k : Core) (kid : Nat) : Core :=
  let run (e : Nat) : List EngOp := (k.engineQ e).filter (fun o => o.kid != kid || k.executing e == some o)
  { k with array := run 0, vector := run 1, sfu := run 2 }

/-- The class of the instruction at a PC of a kernel. -/
def Core.classAt (k : Core) (ker : Kernel) (pc : Nat) : Nat := wordClass (SMap.get 0#128 k.prog (ker.base + pc))

/-- A kernel's issue ends by an abort on one core (R101, R369): its report, engine work, tag requests and mover work. A
launch that has not started there ends with a report too, whose PC is the entry point (DESIGN CHOICE: R101 gives it
none). The PC of a kernel that has halted is its HALT's. -/
def Block.abortKernel (b : Block) (core kid : Nat) (other : Bool) : Block :=
  let k := b.core core
  let rep (cls pc : Nat) : StopReport :=
    { status := stAborted, core := core, cls := cls, precise := false, other := other, pc := pc, detail := 0, movId := 0, block := 0 }
  match k.kernels.find? (fun x => x.kid == kid) with
  | none =>
    match k.waiting.find? (fun w => w.kid == kid) with
    | none => b
    | some w =>
      let e := fld w.hdr 4 4
      b.modCore core (fun k => { k with waiting := k.waiting.filter (fun w => w.kid != kid), report := rep (wordClass (w.words.getD e 0#128)) e })
  | some ker =>
    if ker.isCopy then (b.modCore core (fun k => { k with
        kernels := k.kernels.map (fun x => if x.kid = kid ∧ x.state = .halted then { x with state := .aborted, report := rep 4 0 } else x) })).cancelMovers
          core (fun d => d.kid == kid)
    else
      let q := k.seq ker.ctx
      let mine := q.kid == kid
      let running := ker.state == .running
      let ends := running || ker.state == .halted
      let r := if running then rep (k.classAt ker q.pc) q.pc else rep 0 ker.report.pc
      let b := b.bank core
      let b := b.modCore core (fun k =>
        let k := { (k.keepExecuting kid) with
          kernels := k.kernels.map (fun x => if x.kid = kid ∧ ends then { x with state := .aborted, report := r } else x)
          tagOps := if mine then k.tagOps.filter (fun o => o.ctx != ker.ctx) else k.tagOps
          report := if ends ∧ k.kernels.all (fun x => decide (x.kid ≤ kid) || x.isCopy) then r else k.report }
        if mine then k.setSeq ker.ctx { q with wait := .none } else k)
      let b := b.cancelMovers core (fun d => d.kid == kid)
      if running then b.emitCtx (arrIsl core) 0x0203 ker.ctx (q.pc + stAborted * 2 ^ 48) else b

/-- A carried step number is above RETIRED (R367). -/
def stepAbove (c retired : Nat) : Bool :=
  let d := (c % 2 ^ 32 + 2 ^ 32 - retired % 2 ^ 32) % 2 ^ 32
  decide (1 ≤ d ∧ d < 2 ^ 31)

/-- The owner of an open window. -/
def Block.windowOwner (b : Block) (w : Nat) : Option Nat := (b.weave.windows.find? (fun x => x.id == w)).map (·.ctx)

/-- Group entries whose step the owner has retired are freed; held FINALs count as STALE (R367, R428). -/
def Block.retireGroups (b : Block) (ctx : Nat) : Block :=
  let ret := (b.ctx ctx).retired
  let dead (g : GroupEnt) : Bool := b.windowOwner g.window == some ctx && g.inStep && g.step != 0 && !stepAbove g.step ret
  let held := (b.weave.groups.filter (fun g => dead g && g.final.isSome)).length
  let b := { b with weave := { b.weave with groups := b.weave.groups.filter (fun g => !dead g) } }
  b.modCtx ctx (fun x => { x with stale := x.stale + held })

/-- Trace of a step or an abort in the context's front end (R374). -/
def Block.emitStep (b : Block) (event ctx lo hi : Nat) : Block :=
  let x := b.ctx ctx
  b.emit (fabIsl x.part) event ctx x.curStep (lo + hi * 256)

/-- The SEQ of the STEP_END that the open step's entries run up to, if accepted (R357). -/
def Ctx.endOf (x : Ctx) : Option Nat :=
  (x.entries.find? (fun e => decide (x.stepSeq < e.seq) && e.op == 7 && !e.refused)).map (·.seq)

/-- An entry belongs to the context's present step (R357, R366). -/
def Ctx.inStep (x : Ctx) (e : Entry) : Bool :=
  x.step != .none && decide (x.stepSeq ≤ e.seq) &&
    (match x.endOf with | none => true | some n => decide (e.seq ≤ n))

/-- Kernels of a context that serve the given entries: (core, kernel). -/
def Block.kidsOf (b : Block) (ctx : Nat) (seqs : List Nat) : List (Nat × Nat) :=
  (List.range 16).foldl (fun l c =>
    l ++ ((b.core c).kernels.filter (fun k => k.ctx == ctx && seqs.contains k.seq)).map (fun k => (c, k.kid))
      ++ ((b.core c).waiting.filter (fun w => w.ctx == ctx && seqs.contains w.seq)).map (fun w => (c, w.kid))) []

/-- Accept an abort (R369 steps 1–3) of the entries `seqs` and kernels `kids`: `scope` 0 KERNEL, 1 STEP, 2
CONTEXT; `drop` the reason of R364 where a step is dropped; `page` the mailbox that waits; `other` marks
the reports of R101. -/
def Block.acceptAbort (b : Block) (ctx scope : Nat) (seqs : List Nat) (kids : List (Nat × Nat)) (drop : Nat)
    (page : Option Nat) (other : Bool) : Block :=
  let b := b.emitStep 0x0503 ctx scope 0
  let gone := (b.ctx ctx).attn.filter (fun a => seqs.contains a.seq)
  let b := b.modCtx ctx (fun x => { x with
    entries := x.entries.map (fun e => if seqs.contains e.seq ∧ e.state ≠ .completed then { e with held := true } else e)
    attn := x.attn.filter (fun a => !gone.any (fun g => g.seq == a.seq)) })
  let b := kids.foldl (fun b ck => (b.crossTo (fabIsl (partOf ck.1)) [arrIsl ck.1, movIsl ck.1]).abortKernel ck.1 ck.2 other) b
  let b := (List.range 16).foldl (fun b c =>
    b.modCore c (fun k => { k with units := k.units.filter (fun u => !(u.ctx == ctx && seqs.contains u.seq)) })) b
  let run := (gone.filter (·.begun)).flatMap (·.cores)
  let b := run.foldl (fun b c => b.unparkAttn c ctx) b
  { b with aborts := b.aborts ++ [⟨b.abortId, ctx, scope, seqs, kids, b.time.keeper, drop, page, run⟩]
           abortId := b.abortId + 1 }

/-- The step retires by a drop (R362 step 1): RETIRED rises, the reason is traced and stale discarding
starts. -/
def Block.retireStep (b : Block) (ctx why : Nat) : Block :=
  let b := b.emitStep 0x0502 ctx why 0
  let b := b.modCtx ctx (fun x => { x with
    retired := x.stepNo, step := .dropping, dropWhy := why, dropped := x.dropped + 1 })
  b.retireGroups ctx

/-- Entries of the present step that have not finished (R368). -/
def Ctx.unfinished (x : Ctx) : List Nat :=
  (x.entries.filter (fun e => x.inStep e && e.state != .finished && e.state != .completed)).map (·.seq)

/-- Drop the context's step for a reason of R364 (R362): it retires at once and the implicit abort at step
scope is accepted. -/
def Block.dropStep (b : Block) (ctx why : Nat) (page : Option Nat) : Block :=
  let x := b.ctx ctx
  if x.step = .waiting ∨ x.step = .opened then
    let b := b.retireStep ctx why
    let seqs := (b.ctx ctx).unfinished
    b.acceptAbort ctx 1 seqs (b.kidsOf ctx seqs) why page false
  else b

/-- Abort a context (R368): every entry not completed and any step in WAITING or OPEN. -/
def Block.abortCtx (b : Block) (ctx : Nat) (page : Option Nat) : Block :=
  let x := b.ctx ctx
  let b := if x.step = .waiting ∨ x.step = .opened then b.retireStep ctx 3 else b
  let seqs := ((b.ctx ctx).entries.filter (fun e => e.state != .completed)).map (·.seq)
  let kids := (List.range 16).foldl (fun l c =>
    l ++ ((b.core c).kernels.filter (fun k => k.ctx == ctx)).map (fun k => (c, k.kid))
      ++ ((b.core c).waiting.filter (fun w => w.ctx == ctx)).map (fun w => (c, w.kid))) []
  b.acceptAbort ctx 2 seqs kids 3 page false

end Sys2Proof.Machine
end

