-- ==== Sys2Proof/Machine/Completion.lean ====
section
/-!
DEFINITION. Entries finishing and completing (R344, R358), completion records, words and interrupts (R345,
R446), and how a kernel stops (R101, R120, R121, R198).
-/
namespace Sys2Proof.Machine

/-- Raise an interrupt vector (R446): one unanswered INTR carries every raise. -/
def Block.raiseVector (b : Block) (v : Nat) : Block :=
  if b.treleb.reqs.any (fun r => r.kind == .intr v) then b else b.request (.intr v) v 0 [] []

/-- Send the next write of the completion path, if none is outstanding (R344, R346). -/
def Block.sendDone (b : Block) (ctx : Nat) : Block :=
  let x := b.ctx ctx
  if x.state = 2 ∨ x.resetHold then b
  else match x.doneQ with
  | [] => b
  | w :: rest =>
    if w.tag.isSome then b
    else if w.kind = 4 then (b.raiseVector x.vector).modCtx ctx (fun x => { x with doneQ := rest })
    else
      let tag := b.treleb.nextTag
      let b := b.request (.done ctx) w.addr w.data.length w.data []
      b.modCtx ctx (fun x => { x with doneQ := { w with tag := some tag } :: rest })

/-- A completion record (R345). -/
def recordBytes (e : Entry) : List Byte := natLe 8 e.seq ++ natLe 8 e.stamp ++ natLe 1 e.status ++ padTo 0#8 15 e.detail

/-- The completed sequence number rises as far as it can (R344): records, word, LAST_STATUS and the
interrupt are queued in that order. -/
def Block.riseDone (b : Block) (ctx : Nat) : Block :=
  let x := b.ctx ctx
  let cov := x.entries.takeWhile (fun e => e.state == .completed)
  match cov.getLast? with
  | none => b
  | some top =>
    let recs := if x.recLog2 = 0 then [] else cov.filter (fun e => (bit e.flags 1 && !e.refused) || e.status != 0)
    let recW : List DoneWrite := recs.mapIdx (fun i e =>
      ⟨2, x.recBase + 32 * ((x.records + i) % 2 ^ x.recLog2), recordBytes e, e.seq, none⟩)
    let wordW : DoneWrite := ⟨1, x.doneAddr, natLe 8 top.seq, top.seq, none⟩
    let irq := cov.any (fun e => bit e.flags 0) && x.vector != 0xFF
    let irqW : List DoneWrite := if irq then [⟨4, 0, [], top.seq, none⟩] else []
    let bad := cov.filter (fun e => e.status != 0)
    let b := b.setCtx ctx { x with
      entries := x.entries.drop cov.length
      records := x.records + recs.length
      doneSeq := top.seq
      lastStatus := (bad.getLast?.map (·.status)).getD x.lastStatus
      doneQ := x.doneQ ++ recW ++ [wordW] ++ irqW }
    b.sendDone ctx

/-- An entry completes with a final status (R344, R350): its record and the trace carry one stamp (R19). -/
def Block.completeEntry (b : Block) (ctx seq status : Nat) : Block :=
  let x := b.ctx ctx
  match x.entry? seq with
  | none => b
  | some e =>
    if e.state = .completed then b
    else
      let b := b.emitCtx (fabIsl x.part) 0x0006 ctx seq
      b.modCtx ctx (fun x => { x.modEntry seq (fun e =>
          { e with state := .completed, status := status, stamp := (b.island (fabIsl x.part)).last, held := false }) with
        entriesDone := x.entriesDone + 1 })

/-- An entry finishes (R358): inside a step it takes a provisional status, and a failure drops the step
(R364); an entry held by an abort keeps its status until the abort completes; otherwise it completes. -/
def Block.finishEntry (b : Block) (ctx seq status : Nat) (detail : List Byte) : Block :=
  let x := b.ctx ctx
  match x.entry? seq with
  | none => b
  | some e =>
    if e.state = .finished ∨ e.state = .completed then b
    else
      let b := b.modCtx ctx (fun x => x.modEntry seq (fun e =>
        { e with state := .finished, status := status, detail := detail }))
      if x.inStep e ∧ (x.step = .waiting ∨ x.step = .opened) then
        (if status = stOK then b else b.dropStep ctx 2 none)
      else if e.held ∨ (x.inStep e ∧ (x.step = .dropping ∨ x.step = .committing)) then b
      else (b.completeEntry ctx seq status).riseDone ctx

/-- Bytes 1–15 of a stop report as a record carries them (R121, R345). -/
def StopReport.bytes (r : StopReport) : List Byte :=
  natLe 1 r.core ++ natLe 1 r.cls ++ natLe 1 ((if r.precise then 1 else 0) + (if r.other then 2 else 0)) ++
    natLe 4 r.pc ++ natLe 2 r.detail ++ natLe 2 r.movId ++ natLe 4 r.block

/-- The front ends see what a core's array island has done. -/
def Block.crossFront (b : Block) (core : Nat) : Block := b.cross (arrIsl core) (fabIsl (partOf core))

/-- A kernel stops with a status other than OK on one core (R101, R120): KERNEL_STOP, the report, and the abort of the
launch's other cores. A failed transfer also ends the movers' remaining work for the kernel there (R198), and a newer
kernel of the context on the core (R194). `at_` is the stamp of the failing transfer's DESC_FAIL; the record's own
stamp orders the other stops (R101). -/
def Block.stopKernel (b : Block) (core kid : Nat) (at_ : Option Nat) (rep : StopReport) : Block :=
  let k := b.core core
  match k.kernels.find? (fun x => x.kid == kid) with
  | none => b
  | some ker =>
    if ker.state = .stopped ∨ ker.state = .aborted then b
    else
      let b := if ker.state = .running then b.bank core else b
      let arg := (if rep.detail = 0xA then rep.movId else rep.detail) % 65536
      let b := b.emit (arrIsl core) 0x0202 ker.ctx ker.step (rep.pc + arg * 2 ^ 32 + rep.status * 2 ^ 48)
      let stamp := at_.getD (b.island (arrIsl core)).last
      let b := b.modCore core (fun k =>
        let k := { k with
          kernels := k.kernels.map (fun x => if x.kid = kid then { x with state := .stopped, report := rep, stamp := stamp } else x)
          report := if k.kernels.all (fun x => decide (x.kid ≤ kid)) then rep else k.report }
        let q := k.seq ker.ctx
        if q.kid = kid then k.setSeq ker.ctx { q with wait := .none } else k)
      let b := if rep.detail = 0xA then b.cancelMovers core (fun d => d.kid == kid) else b
      let b := b.crossFront core
      let others := (b.kidsOf ker.ctx [ker.seq]).filter (fun ck => ck.1 != core)
      let live := others.filter (fun ck => match (b.core ck.1).kernels.find? (fun x => x.kid == ck.2) with
        | some x => (x.state == .running || x.state == .halted) && !x.done
        | none => true)
      let b := if live.isEmpty then b else b.acceptAbort ker.ctx 0 [] live 0 none true
      let newer := ((b.core core).kernels.filter (fun x => x.ctx == ker.ctx && decide (kid < x.kid) &&
        (x.state == .running || x.state == .halted) && !x.done && !x.isCopy)).map (fun x => (core, x.kid))
      if rep.detail ≠ 0xA ∨ newer.isEmpty ∨ ker.isCopy then b
      else
        let seqs := ((b.core core).kernels.filter (fun x => newer.any (fun n => n.2 == x.kid))).map (·.seq)
        b.acceptAbort ker.ctx 0 seqs (b.kidsOf ker.ctx seqs) 0 none false

/-- A poisoned word has reached a consumer of a context (R388, R455, R469). -/
def Block.poisonSeen (b : Block) (isl part ctx step : Nat) : Block :=
  let b := b.modCtx ctx (fun x => { x with uncorr := x.uncorr + 1 })
  let b := b.modPart part (fun p => { p with uncorr := p.uncorr + 1 })
  b.emit isl 0x0601 ctx step (isl + part * 2 ^ 16 + 2 ^ 32)

/-- A precise stop of the kernel on a core at the instruction at its PC (R120). -/
def Block.preciseStop (b : Block) (core ctx status detail : Nat) : Block :=
  let k := b.core core
  let q := k.seq ctx
  match k.kernels.find? (fun x => x.kid == q.kid) with
  | none => b
  | some ker =>
    let b := if status = stData then b.poisonSeen (arrIsl core) (partOf core) ctx ker.step else b
    b.stopKernel core q.kid none
      { status := status, core := core, cls := wordClass (SMap.get 0#128 k.prog (ker.base + q.pc)), precise := true,
        other := false, pc := q.pc, detail := detail, movId := 0, block := 0 }

/-- An engine stop at an issued instruction (R120): the engine instructions issued after it are discarded. A kernel that
has completed on the core is stopped too while its launch is open; after that only the records and the core's report
tell of it (DESIGN CHOICE: R101 lets a kernel complete with engine instructions left and names no outcome). -/
def Block.engineStopAt (b : Block) (core : Nat) (o : EngOp) (status detail : Nat) : Block :=
  let b := b.modCore core (fun k => { k with
    array := k.array.filter (fun x => !(x.kid == o.kid && decide (o.id ≤ x.id)))
    vector := k.vector.filter (fun x => !(x.kid == o.kid && decide (o.id ≤ x.id)))
    sfu := k.sfu.filter (fun x => !(x.kid == o.kid && decide (o.id ≤ x.id))) })
  let b := if status = stData then b.poisonSeen (arrIsl core) (partOf core) o.ctx (b.ctx o.ctx).curStep else b
  let rep : StopReport := { status := status, core := core, cls := wordClass o.word, precise := false, other := false, pc := o.pc,
                            detail := detail, movId := 0, block := 0 }
  if (b.core core).kernels.any (fun x => x.kid == o.kid) then b.stopKernel core o.kid none rep
  else (b.modCore core (fun k => { k with report := if k.kernels.isEmpty then rep else k.report })).emitCtx (arrIsl core) 0x0202 o.ctx
    (rep.pc + rep.detail * 2 ^ 32 + rep.status * 2 ^ 48)

/-- A transfer fails (R197, R198): DESC_FAIL, and the kernel makes a mover stop. What its pieces in flight are owed stays
as it stands in the queue. -/
def Block.failDesc (b : Block) (core m : Nat) (d : Desc) (status block : Nat) : Block :=
  let d := (((b.core core).mover m).queue.find? (fun x => x.id == d.id)).getD d
  let sb := b.stamp (movIsl core) 0
  let b := sb.2.emitAt sb.1 (movIsl core) 0x0102 d.ctx d.step (d.movId + m * 2 ^ 16 + status * 2 ^ 48)
  let b := if status = stData then b.poisonSeen (movIsl core) (partOf core) d.ctx d.step else b
  let b := if ((b.core core).mover m).park ≠ .none ∧ ((b.core core).mover m).parkDesc = d.id then b.unpark core m else b
  let b := b.modCore core (fun k => k.modMover m (fun v =>
    { v with queue := v.queue.filter (fun x => x.id != d.id)
             dying := v.dying ++ [d.end_ b.time.keeper].filter Desc.owed }))
  (b.cross (movIsl core) (arrIsl core)).stopKernel core d.kid (some sb.1)
    { status := status, core := core, cls := 4, precise := false, other := false, pc := d.pc, detail := 0xA,
      movId := d.movId, block := block }

end Sys2Proof.Machine
end

