-- ==== Sys2Proof/Machine/CoreDecode.lean ====
section
/-!
DEFINITION. The 128-bit instruction word (R102–R118, R127, R128): which instruction a word is, which words are
refused as BAD_WORD, and the fields that the meanings use.
-/
namespace Sys2Proof.Machine

/-- A 7-bit selector names a register (R93). -/
def selOk (n : Nat) : Bool := decide (n < 80)

/-- MOD of a vector form (R128). -/
def modOf (w : W128) : Nat := wf_ w 31 0

/-- MOD fields that a vector operation does not use are zero, and PK is allowed with it (R128, R144). -/
def modOk (op m : Nat) : Bool :=
  if op = 0x50 ∨ op = 0x51 ∨ op = 0x52 then
    bits m 31 28 == 0 && (op == 0x51 || bits m 27 22 == 0) && (op == 0x50 || bits m 21 17 == 0)
  else
    let usesSeg := decide (op = 0x3B ∨ (0x40 ≤ op ∧ op ≤ 0x48))
    let usesFmt := decide (op = 0x20 ∨ op = 0x21)
    let pkOk := usesFmt || decide (0x30 ≤ op ∧ op ≤ 0x39)
    bits m 31 25 == 0 && (op == 0x3A || !bit m 24) && (op == 0x45 || bits m 23 18 == 0) &&
      (usesSeg || bits m 17 15 == 0) && (pkOk || !bit m 14) && (usesFmt || bits m 13 10 == 0) &&
      (!(op == 0x22 || op == 0x23 || op == 0x25 || op == 0x26) || bits m 9 0 == 0)

/-- Assigned vector operations (R127). -/
def vecOps : List Nat :=
  [0x20, 0x21, 0x22, 0x23, 0x24, 0x25, 0x26, 0x30, 0x31, 0x32, 0x33, 0x34, 0x35, 0x36, 0x37, 0x38, 0x39, 0x3A, 0x3B,
   0x40, 0x41, 0x42, 0x43, 0x44, 0x45, 0x48, 0x50, 0x51, 0x52]

/-- Which instruction a word is: CLASS × 256 + operation; none for a word that R102 refuses. -/
def wordId (w : W128) : Option Nat :=
  let z (hi lo : Nat) : Bool := wf_ w hi lo == 0
  let ok (c : Bool) (n : Nat) : Option Nat := if c then some n else none
  match wordClass w with
  | 0x0 => ok (z 123 0) 0x000
  | 0x1 => ok (z 57 0 && wf_ w 117 116 != 3 && wf_ w 115 114 != 3) 0x100
  | 0x2 =>
    let op := wf_ w 123 116
    if op < 0x20 then
      ok (decide (op ≤ 0x0F) && z 93 64 && selOk (wf_ w 115 109) && selOk (wf_ w 108 102) && selOk (wf_ w 101 95)) (0x200 + op)
    else ok (vecOps.contains op && z 81 64 && wf_ w 83 82 != 3 && modOk op (modOf w)) (0x200 + op)
  | 0x3 => ok (decide (wf_ w 123 120 ≤ 6) && z 99 96 && z 63 0) (0x300 + wf_ w 123 120)
  | 0x4 => ok (z 75 0) 0x400
  | 0x5 => ok (decide (wf_ w 123 120 ≤ 5) && z 88 0 && selOk (wf_ w 95 89)) (0x500 + wf_ w 123 120)
  | 0x6 => ok (z 104 0) (0x600 + wf_ w 123 122)
  | 0x7 => ok (z 122 120 && z 69 64 && z 31 0 && selOk (wf_ w 103 97) && selOk (wf_ w 89 83)) 0x700
  | 0x8 => ok (z 86 64) 0x800
  | 0x9 => ok (z 97 0) 0x900
  | 0xA => ok (z 101 0) 0xA00
  | 0xB => ok (z 102 0) 0xB00
  | _ => none

/-- Scalar register read; s0 is zero (R91). -/
def SeqState.sreg (q : SeqState) (n : Nat) : W64 := if n = 0 then 0#64 else SMap.get 0#64 q.s n

/-- Address register read. -/
def SeqState.areg (q : SeqState) (n : Nat) : W64 := SMap.get 0#64 q.a n

/-- Read by selector (R93). -/
def SeqState.sel (q : SeqState) (n : Nat) : W64 := if n < 64 then q.sreg n else q.areg (n - 64)

/-- Scalar register write; a write to s0 is discarded (R91). The word written carries valid check bits. -/
def SeqState.setS (q : SeqState) (n : Nat) (v : W64) : SeqState :=
  if n = 0 then q else { q with s := SMap.put q.s n v, bad := SSet.erase q.bad n }

/-- Address register write. -/
def SeqState.setA (q : SeqState) (n : Nat) (v : W64) : SeqState :=
  { q with a := SMap.put q.a n v, bad := SSet.erase q.bad (64 + n) }

/-- Write by selector (R93). -/
def SeqState.setSel (q : SeqState) (n : Nat) (v : W64) : SeqState :=
  if n < 64 then q.setS n v else q.setA (n - 64) v

/-- One lane of a vector register. -/
def SeqState.lane (q : SeqState) (v i : Nat) : W32 := SMap.get 0#32 q.v (v * 512 + i)

/-- All 512 lanes of a vector register. -/
def SeqState.vreg (q : SeqState) (v : Nat) : List W32 := (List.range 512).map (q.lane v)

/-- Write the first lanes of a vector register. -/
def SeqState.setLanes (q : SeqState) (v first : Nat) (l : List W32) : SeqState :=
  { q with
    v := (l.foldl (fun (st : Nat × SMap W32) x => (st.1 + 1, SMap.put st.2 (v * 512 + st.1) x)) (first, q.v)).2
    vbad := poisonAfter 16 q.vbad ((v * 512 + first) * 4) (4 * l.length) [] }

/-- Element of an accumulator bank (R72). -/
def SeqState.accAt (q : SeqState) (bank row col : Nat) : W32 := SMap.get 0#32 q.acc (bank * 16384 + row * 128 + col)

/-- Write one element of an accumulator bank. -/
def SeqState.setAcc (q : SeqState) (bank row col : Nat) (v : W32) : SeqState :=
  { q with acc := SMap.put q.acc (bank * 16384 + row * 128 + col) v }

/-- The first `n` elements of a row of a bank have been written: their whole words carry valid check bits (R89). -/
def SeqState.accWritten (q : SeqState) (bank row n : Nat) : SeqState :=
  { q with accBad := poisonAfter 16 q.accBad ((bank * 16384 + row * 128) * 4) (4 * n) [] }

/-- The increments of a loop level (R112, R113). Where INC1 reads or writes INC0's destination, INC0 is applied first and
INC1 sees its result (DESIGN CHOICE: R113 gives no order). -/
def LoopLevel.bump (l : LoopLevel) (q : SeqState) : SeqState :=
  let inc (o : Option (Nat × Nat)) (q : SeqState) : SeqState :=
    match o with
    | none => q
    | some (d, s) => q.setSel d (q.sel d + q.sreg s)
  inc l.inc1 (inc l.inc0 q)

/-- Instruction `e` of the body has executed: the iterations that end there (R113), then the next PC. -/
def SeqState.endAt (q : SeqState) (e : Nat) : (levels : List LoopLevel) → SeqState
  | [] => { q with loops := [], pc := (e + 1) % 32768 }
  | l :: rest =>
    if l.last = e then
      let q := l.bump q
      if 1 < l.remaining then
        { q with loops := { l with remaining := l.remaining - 1, index := l.index + 1 } :: rest, pc := l.first }
      else q.endAt e rest
    else { q with loops := l :: rest, pc := (e + 1) % 32768 }

/-- The instruction at the PC has executed without branching. -/
def SeqState.advance (q : SeqState) : SeqState := q.endAt q.pc q.loops

/-- Selectors of the registers that the increments after the instruction at the PC read and write (R94, R113). -/
def SeqState.endSels (q : SeqState) : List Nat :=
  (q.loops.takeWhile (fun l => l.last == q.pc)).flatMap (fun l =>
    (l.inc0.toList ++ l.inc1.toList).flatMap (fun p => [p.1, p.2]))

/-- What an issue command works on: the context on the core, its kernel, binding and word. -/
structure Run where
  ctx  : Nat
  ker  : Kernel
  bind : Binding
  word : W128
  q    : SeqState
  deriving DecidableEq, Repr

/-- The kernel that a core's sequencer runs, if it may issue: the module is up, the partition serves and
the kernel has not ended (R100, R120). -/
def Block.running (b : Block) (core : Nat) : Option Run :=
  let k := b.core core
  if 16 ≤ core ∨ b.halted ∨ (b.part (partOf core)).state ≠ 0 ∨ k.cur = 0 then none
  else
    let ctx := k.cur - 1
    let q := k.seq ctx
    match k.kernels.find? (fun x => x.kid == q.kid), k.bind? ctx with
    | some ker, some bd =>
      if ker.state = .running ∧ !ker.isCopy ∧ !q.owes then
        let lim := (bd.progBase + bd.progUnits) * 2048
        let w := if ker.base + q.pc < lim then SMap.get 0#128 k.prog (ker.base + q.pc) else 0#128
        some ⟨ctx, ker, bd, w, q⟩
      else none
    | _, _ => none

/-- Scalar registers that queued VEXTs of a kernel will write (R94). -/
def Core.sPending (k : Core) (kid : Nat) : List Nat :=
  (k.vector.filter (fun o => o.kid == kid && wordId o.word == some 0x225)).map (fun o => wf_ o.word 95 90)

/-- s registers that a word reads or writes (R94). -/
def wordRegs (w : W128) : List Nat :=
  let selS (n : Nat) : List Nat := if n < 64 then [n] else []
  match wordClass w with
  | 0x1 => [wf_ w 93 88, wf_ w 87 82, wf_ w 73 68, wf_ w 67 62]
  | 0x2 => if wf_ w 123 116 < 0x20 then selS (wf_ w 115 109) ++ selS (wf_ w 108 102) ++ (if bit w.toNat 94 then [] else selS (wf_ w 101 95))
           else [wf_ w 95 90] ++ (if wf_ w 123 116 = 0x51 then [wf_ w 27 22] else [])
  | 0x5 => [wf_ w 119 114] ++ (if wf_ w 123 120 = 4 then selS (wf_ w 95 89) else [])
  | 0x6 => [wf_ w 116 111, wf_ w 110 105]
  | 0x7 => selS (wf_ w 103 97) ++ [wf_ w 95 90] ++ selS (wf_ w 89 83) ++ [wf_ w 81 76, wf_ w 75 70]
  | 0x8 => [wf_ w 119 114, wf_ w 113 108]
  | 0x9 => [wf_ w 103 98]
  | 0xB => [wf_ w 108 103]
  | _ => []

/-- Selectors of the registers whose values a word uses (R93, R105–R118). -/
def wordReads (w : W128) : List Nat :=
  let wh (c : Bool) (l : List Nat) : List Nat := if c then l else []
  let b (i : Nat) : Bool := bit w.toNat i
  let a (hi lo : Nat) : Nat := 64 + wf_ w hi lo
  let op := wf_ w 123 116
  match wordClass w with
  | 0x1 => [a 97 94, wf_ w 93 88, wf_ w 87 82, a 81 78] ++ wh (!b 120) [a 77 74, wf_ w 73 68, wf_ w 67 62, a 61 58]
  | 0x2 =>
    if op < 0x20 then wh (op < 0x0E) [wf_ w 108 102] ++ wh (op < 0x0F && !b 94) [wf_ w 101 95]
    else wh ([0x26, 0x38, 0x39, 0x3B, 0x48, 0x50, 0x51, 0x52].contains op) [wf_ w 95 90] ++
      wh ([0x20, 0x21, 0x50, 0x51, 0x52].contains op) [a 87 84] ++ wh (decide (0x50 ≤ op)) [64 + bits (modOf w) 16 13] ++
      wh (op == 0x50 && bit (modOf w) 21) [64 + bits (modOf w) 20 17] ++ wh (op == 0x51) [bits (modOf w) 27 22]
  | 0x4 => [a 121 118] ++ wh (b 101) [a 100 97] ++ wh (b 96) [a 95 92]
  | 0x5 => [wf_ w 119 114]
  | 0x6 => wh (!b 122) [wf_ w 116 111]
  | 0x7 => wh (b 123) [wf_ w 75 70]
  | 0x8 => wh (wf_ w 123 120 != 0) ([wf_ w 119 114] ++ wh (!b 107) [wf_ w 113 108])
  | 0x9 => [wf_ w 103 98] ++ wh (wf_ w 123 122 == 1) [a 107 104]
  | 0xB => [wf_ w 108 103]
  | _ => []

/-- The program-store word at the PC fails its WCC check (R95). -/
def Core.wordBad (k : Core) (r : Run) : Bool :=
  SSet.has k.progBad (r.ker.base + r.q.pc) && decide (r.ker.base + r.q.pc < (r.bind.progBase + r.bind.progUnits) * 2048)

/-- A register that the word, or a loop increment after it, reads or writes awaits the result of a queued VEXT (R94). -/
def Core.interlocked (k : Core) (r : Run) : Bool :=
  (wordRegs r.word ++ r.q.endSels).any (fun s => s != 0 && (k.sPending r.ker.kid).contains s)

/-- A register that the word, or a loop increment after it, reads fails its WCC check (R91, R121). -/
def Run.regBad (r : Run) : Bool := (wordReads r.word ++ r.q.endSels).any (fun s => SSet.has r.q.bad s)

/-- Issue the word at the PC as the instruction `id` (R102, R119): a word that cannot be read or is refused stops the
kernel, another instruction's word leaves the block alone, a register interlock holds issue (R94), and a register
that cannot be read stops the kernel (R121). -/
def Block.issue (b : Block) (core id : Nat) (f : Run → Block) : Block :=
  match b.running core with
  | none => b
  | some r =>
    if (b.core core).wordBad r then b.preciseStop core r.ctx stData 9
    else match wordId r.word with
    | none => b.preciseStop core r.ctx stInvalid 1
    | some n =>
      if n ≠ id then b
      else if (b.core core).interlocked r then b
      else if r.regBad then b.preciseStop core r.ctx stData 9
      else f r

/-- An instruction has issued: sequencer state is stored and the timer restarts (R458). -/
def Block.issued (b : Block) (core ctx : Nat) (q : SeqState) : Block :=
  b.modCore core (fun k => { k.setSeq ctx { q with wait := .none } with seqProg := b.time.keeper })

/-- Issue is held: the sequencer waits (R119). -/
def Block.waitOn (b : Block) (core ctx : Nat) (w : Wait) : Block :=
  b.modCore core (fun k => k.setSeq ctx { k.seq ctx with wait := w })

end Sys2Proof.Machine
end

