-- ==== Sys2Proof/Machine/Control.lean ====
section
/-!
DEFINITION. Control of a core's sequencer: HALT, LOOP, BR, WAITEV, DEPMARK and STAMP (R104, R112–R118), waits and
their resumption (R116), time slicing (R383), and a kernel's start and completion (R97–R101).
-/
namespace Sys2Proof.Machine

/-! ### Time slicing (R383) -/

/-- A context whose work on some core is under abort: no switch to or from it (R391). -/
def Block.aborting (b : Block) (ctx : Nat) : Bool := b.aborts.any (fun a => a.ctx == ctx)

/-- A kernel of the context runs on the core. -/
def Core.runs (k : Core) (ctx : Nat) : Bool :=
  k.kernels.any (fun x => x.ctx == ctx && x.state == .running && !x.isCopy && x.kid == (k.seq ctx).kid)

/-- A context is ready on a core (R383). -/
def Core.ready (k : Core) (ctx : Nat) : Bool :=
  k.runs ctx || k.units.any (fun u => u.ctx == ctx) || k.waiting.any (fun w => w.ctx == ctx)

/-- The core's sequencer is held by the context on it. -/
def Core.busy (k : Core) : Bool :=
  k.cur != 0 && (k.runs (k.cur - 1) || k.units.any (fun u => u.ctx == k.cur - 1))

/-- The next ready context in ascending POSITION after the one that ran last, wrapping from 7 to 0. -/
def Block.nextReady (b : Block) (core : Nat) : Option Binding :=
  let k := b.core core
  let start := match k.lastPos with | some p => p + 1 | none => 0
  let order := (List.range 8).map (fun i => (start + i) % 8)
  order.findSome? (fun p => k.binds.find? (fun x => x.pos == p && k.ready x.ctx && !b.aborting x.ctx))

/-- Discard prefetch entries of a core's movers (R164). Data fetched and not yet landed stays with its piece
and becomes no entry (R175). -/
def Core.dropPrefetch (k : Core) (p : PfEntry → Bool) : Core :=
  (List.range 4).foldl (fun k m => k.modMover m (fun v => { v with
    prefetch := v.prefetch.filter (fun e => !p e)
    queue := v.queue.map (fun d => { d with pieces := d.pieces.map (fun x =>
      if x.kept ∧ p ⟨d.ctx, bits (fld d.raw 1 1) 3 0, x.src, x.phys, x.data, d.id, 0⟩ then { x with kept := false } else x) }) })) k

/-- The core may take up a context's work: another context on it is not under abort (R391) and has no engine instruction
left, which a switch waits for (R90, R145). -/
def Block.mayTake (b : Block) (core ctx : Nat) : Bool :=
  let c := (b.core core).cur
  c == 0 || c == ctx + 1 || ((b.core core).engineIdle (c - 1) && !b.aborting (c - 1))

/-- Put a context's state on the core: SLICE_OUT and SLICE_IN where the context changes (R122, R383). -/
def Block.switchTo (b : Block) (core : Nat) (bd : Binding) : Block :=
  let k := b.core core
  if k.cur = bd.ctx + 1 then b.modCore core (fun k => { k with sliceAt := b.time.keeper, lastPos := some bd.pos, quantum := k.quantumTo })
  else
    let b := b.bank core
    let now := b.time.keeper
    let b := if k.cur = 0 ∨ !k.busy then b else b.modCore core (fun k => k.setSeq (k.cur - 1) { k.seq (k.cur - 1) with held := now - k.seqProg })
    let b := if k.cur = 0 then b else b.emitCtx (arrIsl core) 0x0205 (k.cur - 1) (k.seq (k.cur - 1)).pc
    let b := b.modCore core (fun k => { (k.dropPrefetch (fun _ => true)) with
      cur := bd.ctx + 1, lastPos := some bd.pos, sliceAt := b.time.keeper, quantum := k.quantumTo, busyFrom := b.time.keeper, seqProg := now - (k.seq bd.ctx).held })
    if k.cur = 0 then b else b.emitCtx (arrIsl core) 0x0206 bd.ctx ((b.core core).seq bd.ctx).pc

/-! ### Kernel start and completion -/

/-- Words of a program image in its range: those already resident by digest, or placed after the images
already there, which are dropped when the range has no room (R95, R97). -/
def Core.load (k : Core) (bd : Binding) (w : Waiting) : Core × Binding × Resident :=
  let digest := (w.hdr.drop 16).take 32
  match bd.resident.find? (fun r => r.digest == digest) with
  | some r => (k, bd, r)
  | none =>
    let lo := bd.progBase * 2048
    let end_ := bd.resident.foldl (fun a r => max a (r.base + r.words)) lo
    let fits := decide (end_ + w.words.length ≤ lo + bd.progUnits * 2048)
    let base := if fits then end_ else lo
    let prog0 := if fits then k.prog else SMap.keep k.prog (fun i => decide (i < lo ∨ lo + bd.progUnits * 2048 ≤ i))
    let prog := (w.words.foldl (fun (st : Nat × SMap W128) x => (st.1 + 1, SMap.set 0#128 st.2 st.1 x)) (base, prog0)).2
    let bad := k.progBad.filter (fun i => decide (i < base ∨ base + w.words.length ≤ i))
    let r : Resident := ⟨digest, base, w.words.length, fld w.hdr 4 4, fld w.hdr 9 1⟩
    let bd := { bd with resident := (if fits then bd.resident else []) ++ [r] }
    ({ k with prog := prog, progBad := bad, binds := k.binds.map (fun x => if x.ctx = bd.ctx then bd else x) }, bd, r)

/-- A swap bit is cleared in a context's slot range (R194, R201). -/
def Core.clearSwap (k : Core) (bd : Binding) : Core :=
  { k with swap := k.swap.filter (fun p => decide (2 * p + 1 < bd.slotFirst ∨ bd.slotFirst + bd.slotCount ≤ 2 * p)) }

/-- The state of a context's last kernel on the core is kept while engine instructions of it remain (R194). -/
def Core.keepOld (k : Core) (ctx : Nat) : Core :=
  let q := k.seq ctx
  if (k.array ++ k.vector ++ k.sfu).any (fun o => o.kid == q.kid) then { k with old := SMap.put k.old q.kid q } else k

/-- Start a waiting kernel on a core (R97–R100): the image, the parameter page and the state of R99. -/
def Block.startKernel (b : Block) (core : Nat) (bd : Binding) (w : Waiting) : Block :=
  let b := (b.switchTo core bd).modCore core (·.keepOld w.ctx)
  let ld := (b.core core).load bd w
  let q : SeqState := { s := [(1, BitVec.ofNat 64 w.rank), (2, BitVec.ofNat 64 w.count), (3, BitVec.ofNat 64 bd.slotFirst),
      (4, BitVec.ofNat 64 bd.slotCount), (5, BitVec.ofNat 64 w.step), (6, BitVec.ofNat 64 w.seq),
      (7, BitVec.ofNat 64 (w.ctx + core * 2 ^ 8 + partOf core * 2 ^ 16 + b.self * 2 ^ 32))]
                        pc := fld w.hdr 4 4, kid := w.kid }
  let ker : Kernel := ⟨w.kid, w.ctx, w.seq, w.step, false, bit (fld w.hdr 9 1) 0, ld.2.2.base, ld.2.2.words, .running, {}, 0, false⟩
  let b := b.setCore core (((ld.1.setSeq w.ctx q).dropPrefetch (fun _ => true)).clearSwap bd)
  let b := b.modCore core (fun k => { k with
    kernels := k.kernels ++ [ker]
    waiting := k.waiting.filter (fun x => x.kid != w.kid)
    binds := k.binds.map (fun x => if x.ctx = w.ctx then { x with params := Mem.write [] 0 w.params, paramBad := [] } else x)
    seqProg := b.time.keeper, busyFrom := b.time.keeper })
  (b.cross (fabIsl (partOf core)) (arrIsl core)).emit (arrIsl core) 0x0200 w.ctx w.step (fld w.hdr 4 4)

/-- Give a free core to the next ready context (R100, R383): its waiting kernel starts, or its saved state
is put on the core. -/
def Block.takeNext (b : Block) (core : Nat) : Block :=
  match b.nextReady core with
  | none => b
  | some bd =>
    let k := b.core core
    if !b.mayTake core bd.ctx then b
    else if k.runs bd.ctx ∨ k.units.any (fun u => u.ctx == bd.ctx) then b.switchTo core bd
    else match k.waiting.find? (fun w => w.ctx == bd.ctx) with
      | none => b
      | some w => if (b.ctx bd.ctx).holdsCore core w.seq then b else b.startKernel core bd w

/-- The module serves commands of a core. -/
def Block.coreUp (b : Block) (core : Nat) : Bool :=
  decide (core < 16) && !b.halted && (b.part (partOf core)).state == 0

/-- KERNEL_START (R100): a core freed of the previous kernel takes the next. -/
def execKernelStart (core : Nat) (s : State) : Host.Outcome State Fault Refusal :=
  s.run (fun b => if b.coreUp core ∧ !(b.core core).busy then b.takeNext core else b)

/-- QUANTUM_END (R383): the core switches to the next ready context, if another is ready. -/
def execQuantumEnd (core : Nat) (s : State) : Host.Outcome State Fault Refusal :=
  s.run (fun b =>
    let k := b.core core
    if !b.coreUp core ∨ k.cur = 0 ∨ b.aborting (k.cur - 1) then b
    else
      let b := b.advanceTo (k.sliceAt + k.quantum * 1000)
      match b.nextReady core with
      | none => b
      | some bd => if bd.ctx + 1 = k.cur then b.modCore core (fun k => { k with sliceAt := b.time.keeper })
                   else b.takeNext core)

/-- Cores on which a launch still has work. -/
def Block.launchOpen (b : Block) (ctx seq : Nat) : Bool :=
  (List.range 16).any (fun c => (b.core c).kernels.any (fun x => x.ctx == ctx && x.seq == seq && !x.done) ||
    (b.core c).waiting.any (fun w => w.ctx == ctx && w.seq == seq))

/-- The launch's first stop (R101): the lowest stamp, then the lowest core, among stops that are neither OK
nor ABORTED. -/
def Block.firstStop (b : Block) (ctx seq : Nat) : Option StopReport :=
  let all := (List.range 16).foldl (fun l c => l ++ (b.core c).kernels.filter (fun x => x.ctx == ctx && x.seq == seq)) []
  let stops := all.filter (fun x => x.state == .stopped)
  let best := stops.foldl (fun (o : Option Kernel) x => match o with
    | none => some x
    | some y => if x.stamp < y.stamp then some x else some y) none
  match best with
  | some x => some x.report
  | none => (all.find? (fun x => x.state == .aborted)).map (·.report)

/-- Once a launch has completed on every core, its entry finishes with the status of R101. -/
def Block.launchDone (b : Block) (ctx seq : Nat) : Block :=
  if b.launchOpen ctx seq then b
  else
    let rep := b.firstStop ctx seq
    let b := (List.range 16).foldl (fun b c => b.modCore c (fun k =>
      { k with kernels := k.kernels.filter (fun x => !(x.ctx == ctx && x.seq == seq)) })) b
    match rep with
    | none => b.finishEntry ctx seq stOK []
    | some r => b.finishEntry ctx seq r.status r.bytes

/-- A kernel's transfers on a core have ended (R101). -/
def Core.drained (k : Core) (kid : Nat) : Bool :=
  (List.range 4).all (fun m => ((k.mover m).queue ++ (k.mover m).dying).all (fun d => d.kid != kid))

/-- A kernel completes on a core (R101): KERNEL_DONE, and the launch with it where it was the last. -/
def Block.kernelDone (b : Block) (core : Nat) (ker : Kernel) : Block :=
  let b := b.emit (arrIsl core) 0x0204 ker.ctx ker.step (ker.report.pc + ker.report.detail * 2 ^ 32 + ker.report.status * 2 ^ 48)
  let b := b.modCore core (fun k => { k with kernels := k.kernels.map (fun x => if x.kid = ker.kid then { x with done := true } else x) })
  (b.crossFront core).launchDone ker.ctx ker.seq

/-- KERNEL_DONE (R101): the oldest kernel of the core that has halted or stopped with its transfers ended. -/
def execKernelDone (core : Nat) (s : State) : Host.Outcome State Fault Refusal :=
  s.run (fun b =>
    if !b.coreUp core then b
    else
      let k := b.core core
      match k.kernels.find? (fun x => (x.state == .halted || x.state == .stopped) && !x.done && k.drained x.kid) with
      | none => b
      | some ker => b.kernelDone core ker)

/-- HALT ends issue (R104): KERNEL_HALT, and the context yields the core at once (R383). -/
def Block.halt (b : Block) (core : Nat) : Block :=
  b.issue core 0x000 (fun r =>
    let rep : StopReport := { status := 0, core := core, cls := 0, precise := false, other := false, pc := r.q.pc,
                              detail := 0, movId := 0, block := 0 }
    let b := (b.issued core r.ctx r.q).bank core
    let b := b.modCore core (fun k => { k with
      kernels := k.kernels.map (fun x => if x.kid = r.ker.kid then { x with state := .halted, report := rep } else x)
      report := rep })
    let b := b.emit (arrIsl core) 0x0201 r.ctx r.ker.step r.q.pc
    match b.nextReady core with
    | some bd => if (b.core core).runs bd.ctx ∧ b.mayTake core bd.ctx then b.switchTo core bd else b
    | none => b)

def execHalt (core : Nat) (s : State) : Host.Outcome State Fault Refusal := s.run (·.halt core)

/-! ### LOOP, BR -/

/-- LOOP opens a loop level or skips the body (R112, R113). Where several fields are bad, BAD_FIELD comes before BAD_FLOW
(DESIGN CHOICE: R121 gives no order). -/
def Block.loop (b : Block) (core : Nat) : Block :=
  b.issue core 0x700 (fun r =>
    let w := r.word
    let count := if bit w.toNat 123 then (r.q.sreg (wf_ w 75 70)).toNat else wf_ w 63 32
    let len := wf_ w 119 104
    let last := r.q.pc + len
    let inc (en dhi dlo shi slo : Nat) : Option (Nat × Nat) := if bit w.toNat en then some (wf_ w dhi dlo, wf_ w shi slo) else none
    if len = 0 ∨ 32767 < len ∨ 2 ^ 32 ≤ count then b.preciseStop core r.ctx stInvalid 2
    else if r.ker.words ≤ last ∨ (r.q.loops.head?.any (fun l => decide (l.last < last))) then b.preciseStop core r.ctx stInvalid 3
    else if count = 0 then b.issued core r.ctx (r.q.endAt last r.q.loops)
    else if 4 ≤ r.q.loops.length then b.preciseStop core r.ctx stInvalid 3
    else b.issued core r.ctx { r.q with
      loops := ⟨count, 0, r.q.pc + 1, last, inc 96 103 97 95 90, inc 82 89 83 81 76⟩ :: r.q.loops
      pc := r.q.pc + 1 })

def execLoop (core : Nat) (s : State) : Host.Outcome State Fault Refusal := s.run (·.loop core)

/-- The branch condition (R114). -/
def brTaken (cond : Nat) (x y : W64) : Bool :=
  match cond with
  | 0 => true
  | 1 => x == y
  | 2 => x != y
  | 3 => decide (x.toNat < y.toNat)
  | 4 => decide (y.toNat ≤ x.toNat)
  | 5 => decide (x.toInt < y.toInt)
  | _ => decide (y.toInt ≤ x.toInt)

/-- BR (R113, R114). -/
def Block.br (b : Block) (core : Nat) : Block :=
  b.issue core 0x800 (fun r =>
    let w := r.word
    let cond := wf_ w 123 120
    let y := if bit w.toNat 107 then BitVec.ofNat 64 (wf_ w 63 0) else r.q.sreg (wf_ w 113 108)
    let target : Int := (r.q.pc : Int) + signed 20 (wf_ w 106 87)
    if 6 < cond then b.preciseStop core r.ctx stInvalid 2
    else if !brTaken cond (r.q.sreg (wf_ w 119 114)) y then b.issued core r.ctx r.q.advance
    else if target < 0 ∨ (r.ker.words : Int) ≤ target then b.preciseStop core r.ctx stInvalid 3
    else
      let t := target.toNat
      b.issued core r.ctx { r.q with
        loops := r.q.loops.dropWhile (fun l => decide (t < l.first ∨ l.last < t)), pc := t })

def execBr (core : Nat) (s : State) : Host.Outcome State Fault Refusal := s.run (·.br core)

/-! ### WAITEV -/

/-- Read the flag word of a WAITEV FLAG (R92, R116): its value, and the island whose store holds it. -/
def Block.readFlag (b : Block) (core ctx : Nat) (a : W64) : Except Nat (Nat × Nat) :=
  let o := bits a.toNat 55 0
  if bits a.toNat 63 56 = 1 then
    let p := b.part (partOf core)
    let rg := p.rangeOf ctx
    if rg.2 < o + 8 then .error stRights
    else if (poisonedIn 16 p.tilePoison (rg.1 + o) 8).isEmpty then .ok (leNat (Mem.bytes p.tile (rg.1 + o) 8), fabIsl (partOf core))
    else .error stData
  else
    match b.feRun ctx o 8 1 with
    | .error e => .error e.1
    | .ok pa => match b.physRead pa 8 with
      | .error e => .error e
      | .ok rd => if rd.bad.isEmpty then .ok (leNat rd.data, memIsl pa) else .error stData

/-- The read of a flag word cannot be made: it waits for a translation or a partition, or the kernel stops. -/
def Block.flagFails (b : Block) (core ctx : Nat) (a : W64) (st : Nat) : Block :=
  let o := bits a.toNat 55 0
  if stWait ≤ st then (b.feGate ctx [(o, 8)] 1 b).waitOn core ctx .flag
  else (if bits a.toNat 63 56 = 1 then b else b.feFailed ctx o 8 1).preciseStop core ctx st 0xB

/-- Evaluate the WAITEV at the PC (R115, R116): it stops the kernel, holds issue or lets it go on; an acquire
wait discards the core's prefetch entries (R168). BAD_FIELD comes before FLAG_ALIGN (DESIGN CHOICE: R121 gives no order). -/
def Block.waitev (b : Block) (core : Nat) : Block :=
  b.issue core 0x900 (fun r =>
    let w := r.word
    let kind := wf_ w 123 122
    let acq := bit w.toNat 121
    let eq := bit w.toNat 120
    let v := (r.q.sreg (wf_ w 103 98)).toNat
    let a := r.q.areg (wf_ w 107 104)
    let go (isl : Nat) (acq : Bool) : Block :=
      let b := b.cross isl (arrIsl core)
      let b := if acq then b.modCore core (·.dropPrefetch (fun _ => true)) else b
      b.issued core r.ctx r.q.advance
    if kind = 3 ∨ (kind ≠ 1 ∧ (acq ∨ eq)) then b.preciseStop core r.ctx stInvalid 2
    else if kind = 0 then
      (if v ≤ (SMap.get 0#64 (b.ctx r.ctx).events (wf_ w 119 108)).toNat then go (fabIsl (partOf core)) false else b.waitOn core r.ctx .event)
    else if kind = 2 then
      (if v ≤ b.counter (arrIsl core) then go (arrIsl core) false else b.waitOn core r.ctx .time)
    else if 1 < bits a.toNat 63 56 then b.preciseStop core r.ctx stInvalid 2
    else if a.toNat % 8 ≠ 0 then b.preciseStop core r.ctx stInvalid 6
    else match b.readFlag core r.ctx a with
      | .error e => b.flagFails core r.ctx a e
      | .ok (x, isl) =>
        if (if eq then x == v else decide (v ≤ x)) then go isl acq
        else b.waitOn core r.ctx (if isl = trelebIsl then .flagHost else .flag))

def execWaitev (core : Nat) (s : State) : Host.Outcome State Fault Refusal := s.run (·.waitev core)

/-- The wait that a core's sequencer is in. -/
def Block.waitAt (b : Block) (core : Nat) : Wait := ((b.core core).seq ((b.core core).cur - 1)).wait

/-- WAITEV_RESUME (R116): a waiting WAITEV evaluates its condition afresh. -/
def execWaitevResume (core : Nat) (s : State) : Host.Outcome State Fault Refusal :=
  s.run (fun b => match b.waitAt core with
    | .event | .time | .flag => b.waitev core
    | _ => b)

/-- FLAG_REREAD (R116): a WAITEV on a host word reads it again. -/
def execFlagReread (core : Nat) (s : State) : Host.Outcome State Fault Refusal :=
  s.run (fun b => match b.waitAt core with
    | .flagHost => b.waitev core
    | _ => b)

/-! ### DEPMARK, STAMP -/

/-- DEPMARK places a mark in the selected movers' queues (R117, R191). -/
def Block.depmark (b : Block) (core : Nat) : Block :=
  b.issue core 0xA00 (fun r =>
    let w := r.word
    if 1 < wf_ w 119 118 then b.preciseStop core r.ctx stInvalid 2
    else
      let mask := wf_ w 123 120
      let b := (b.cross (arrIsl core) (movIsl core)).modCore core (fun k =>
        let k := (List.range 4).foldl (fun k m => if bit mask m then
          k.modMover m (fun v => { v with
            marks := v.marks ++ [⟨k.issueCtr, r.ctx, wf_ w 117 102, wf_ w 119 118 == 1, mask, false⟩]
            markIds := v.markIds ++ [k.issueCtr] }) else k) k
        { k with issueCtr := k.issueCtr + 1 })
      b.issued core r.ctx r.q.advance)

def execDepmark (core : Nat) (s : State) : Host.Outcome State Fault Refusal := s.run (·.depmark core)

/-- STAMP writes a kernel trace record (R118). -/
def Block.stampOp (b : Block) (core : Nat) : Block :=
  b.issue core 0xB00 (fun r =>
    let w := r.word
    let b := b.emit (arrIsl core) (0x8000 + wf_ w 123 109) r.ctx r.ker.step (r.q.sreg (wf_ w 108 103)).toNat
    b.issued core r.ctx r.q.advance)

def execStamp (core : Nat) (s : State) : Host.Outcome State Fault Refusal := s.run (·.stampOp core)

end Sys2Proof.Machine
end

