-- ==== Sys2Proof/Machine/TagQueue.lean ====
section
/-!
DEFINITION. Slot tags, slot pairs and handle queues (R110, R111, R152–R157, R160, R165, R193).
-/
namespace Sys2Proof.Machine

/-- Tags of physical slots: FULL slots are listed. -/
def Core.full (k : Core) (slot : Nat) : Bool := SSet.has k.tags slot

/-- Set tags of physical slots. -/
def Core.setTags (k : Core) (slots : List Nat) (full : Bool) : Core :=
  { k with tags := slots.foldl (fun t s => SSet.put t s full) k.tags }

/-- The slots that a TAG word names (R110): none where a field is out of range or a slot lies outside the
context's range, with the DETAIL and status of the stop. BAD_FIELD comes before SLOT_RANGE (DESIGN CHOICE: R121 gives no
order). -/
def tagSlots (r : Run) : Except (Nat × Nat) (List Nat) :=
  let w := r.word
  let count := wf_ w 102 96
  let first := (r.q.sreg (wf_ w 119 114) + BitVec.ofNat 64 (wf_ w 113 103)).toNat
  let op := wf_ w 123 120
  if count = 0 ∨ 64 < count ∨ (op = 5 ∧ (count % 2 ≠ 0 ∨ first % 2 ≠ 0)) then .error (stInvalid, 2)
  else if first < r.bind.slotFirst ∨ r.bind.slotFirst + r.bind.slotCount < first + count then .error (stRights, 7)
  else .ok ((List.range count).map (fun i => first + i))

/-- Issue a TAG instruction over its slots. -/
def Block.tagIssue (b : Block) (core op : Nat) (f : Run → List Nat → Block) : Block :=
  b.issue core (0x500 + op) (fun r =>
    match tagSlots r with
    | .error e => b.preciseStop core r.ctx e.1 e.2
    | .ok slots => f r slots)

/-- SETFULL and SETEMPTY issue and wait outside the sequencer for earlier compute accesses (R156). -/
def Block.tagSet (b : Block) (core op : Nat) (full : Bool) : Block :=
  b.tagIssue core op (fun r slots =>
    let b := b.modCore core (fun k => { k with
      tagOps := k.tagOps ++ [⟨k.issueCtr, r.ctx, full, slots.map (physSlot k.swap)⟩], issueCtr := k.issueCtr + 1 })
    b.issued core r.ctx r.q.advance)

/-- WAITFULL and WAITEMPTY hold issue until every named slot has the tag (R155, R156). -/
def Block.tagWait (b : Block) (core op : Nat) (full : Bool) : Block :=
  b.tagIssue core op (fun r slots =>
    let k := b.core core
    if slots.all (fun s => k.full (physSlot k.swap s) == full) then b.issued core r.ctx r.q.advance
    else b.waitOn core r.ctx .tag)

/-- TEST returns the tags as they stand (R110, R156). -/
def Block.tagTest (b : Block) (core : Nat) : Block :=
  b.tagIssue core 4 (fun r slots =>
    let k := b.core core
    let mask := (slots.mapIdx (fun i s => if k.full (physSlot k.swap s) then 2 ^ i else 0)).sum
    b.issued core r.ctx ((r.q.setSel (wf_ r.word 95 89) (BitVec.ofNat 64 mask)).advance))

/-- SWAPHALF flips the swap bit of each pair named (R193). -/
def Block.swapHalf (b : Block) (core : Nat) : Block :=
  b.tagIssue core 5 (fun r slots =>
    let pairs := (slots.filter (fun s => s % 2 == 0)).map (fun s => s / 2)
    let b := b.modCore core (fun k => { k with swap := pairs.foldl (fun t p => SSet.put t p (!SSet.has t p)) k.swap })
    b.issued core r.ctx r.q.advance)

def execSetfull (core : Nat) (s : State) : Host.Outcome State Fault Refusal := s.run (·.tagSet core 0 true)
def execSetempty (core : Nat) (s : State) : Host.Outcome State Fault Refusal := s.run (·.tagSet core 1 false)
def execWaitfull (core : Nat) (s : State) : Host.Outcome State Fault Refusal := s.run (·.tagWait core 2 true)
def execWaitempty (core : Nat) (s : State) : Host.Outcome State Fault Refusal := s.run (·.tagWait core 3 false)
def execTest (core : Nat) (s : State) : Host.Outcome State Fault Refusal := s.run (·.tagTest core)
def execSwaphalf (core : Nat) (s : State) : Host.Outcome State Fault Refusal := s.run (·.swapHalf core)

/-- No array, vector or SFU instruction issued before `id` is unfinished (R156, R165, R191). -/
def Core.computeDone (k : Core) (id : Nat) : Bool := (k.array ++ k.vector ++ k.sfu).all (fun o => decide (id < o.id))

/-- TAG_SET_TAKES_EFFECT (R156): the oldest SETFULL or SETEMPTY whose earlier compute accesses are done. -/
def execTagSetTakesEffect (core : Nat) (s : State) : Host.Outcome State Fault Refusal :=
  s.run (fun b =>
    if !b.coreUp core then b
    else b.modCore core (fun k =>
      match k.tagOps with
      | [] => k
      | t :: rest => if k.computeDone t.id then { (k.setTags t.slots t.full) with tagOps := rest } else k))

/-! ### Handle queues -/

/-- A queue of QSEL as seen by a context (R111, R160): its handles, or the refusal of an unassigned tile
queue. -/
def Block.queueOf (b : Block) (core : Nat) (bd : Binding) (qsel : Nat) : Option (List W32) :=
  if qsel < 16 then some (SMap.get [] (b.core core).hq (bd.pos * 16 + qsel))
  else
    let p := b.part (partOf core)
    if SMap.get 0 p.tqOwner (qsel - 16) = bd.ctx + 1 then some (SMap.get [] p.tqs (qsel - 16)) else none

/-- Store a queue of QSEL. -/
def Block.setQueue (b : Block) (core : Nat) (bd : Binding) (qsel : Nat) (l : List W32) : Block :=
  if qsel < 16 then b.modCore core (fun k => { k with hq := SMap.put k.hq (bd.pos * 16 + qsel) l })
  else b.modPart (partOf core) (fun p => { p with tqs := SMap.put p.tqs (qsel - 16) l })

/-- What a core's sequencer puts into a tile queue crosses to the fabric island (R24). -/
def Block.crossQueue (b : Block) (core qsel : Nat) : Block := if qsel < 16 then b else b.cross (arrIsl core) (fabIsl (partOf core))

/-- What it takes from one crosses back. -/
def Block.queueCross (b : Block) (core qsel : Nat) : Block := if qsel < 16 then b else b.cross (fabIsl (partOf core)) (arrIsl core)

/-- PUSH and TRYPUSH (R111, R165): both wait for earlier compute accesses; PUSH also waits for room. -/
def Block.hqPush (b : Block) (core op : Nat) (try_ : Bool) : Block :=
  b.issue core (0x600 + op) (fun r =>
    let w := r.word
    let qsel := wf_ w 121 117
    match b.queueOf core r.bind qsel with
    | none => b.preciseStop core r.ctx stRights 8
    | some l =>
      let room := decide (l.length < 64)
      if !(b.core core).computeDone (b.core core).issueCtr ∨ (!room ∧ !try_) then b.waitOn core r.ctx .hq
      else
        let b := if room then (b.crossQueue core qsel).setQueue core r.bind qsel (l ++ [(r.q.sreg (wf_ w 116 111)).setWidth 32]) else b
        let q := if try_ then r.q.setS (wf_ w 110 105) (if room then 1#64 else 0#64) else r.q
        b.issued core r.ctx q.advance)

/-- POP and TRYPOP (R111, R165): a handle popped from a tile queue discards the prefetch entries of the tile
buffer (R164). Where DATA and OK of a TRYPOP name one register, OK is written last (DESIGN CHOICE: R111 gives no order). -/
def Block.hqPop (b : Block) (core op : Nat) (try_ : Bool) : Block :=
  b.issue core (0x600 + op) (fun r =>
    let w := r.word
    let qsel := wf_ w 121 117
    match b.queueOf core r.bind qsel with
    | none => b.preciseStop core r.ctx stRights 8
    | some [] =>
      if try_ then b.issued core r.ctx ((r.q.setS (wf_ w 110 105) 0#64).advance) else b.waitOn core r.ctx .hq
    | some (h :: rest) =>
      let b := (b.queueCross core qsel).setQueue core r.bind qsel rest
      let b := if 16 ≤ qsel then b.modCore core (·.dropPrefetch (fun e => e.space == 1)) else b
      let q := r.q.setS (wf_ w 116 111) (h.setWidth 64)
      b.issued core r.ctx ((if try_ then q.setS (wf_ w 110 105) 1#64 else q).advance))

def execPush (core : Nat) (s : State) : Host.Outcome State Fault Refusal := s.run (·.hqPush core 0 false)
def execPop (core : Nat) (s : State) : Host.Outcome State Fault Refusal := s.run (·.hqPop core 1 false)
def execTrypush (core : Nat) (s : State) : Host.Outcome State Fault Refusal := s.run (·.hqPush core 2 true)
def execTrypop (core : Nat) (s : State) : Host.Outcome State Fault Refusal := s.run (·.hqPop core 3 true)

/-- HQ_WAIT_RESUME (R111): a waiting PUSH, POP or TRYPUSH tests its queue again. -/
def execHqWaitResume (core : Nat) (s : State) : Host.Outcome State Fault Refusal :=
  s.run (fun b => match b.waitAt core with
    | .hq => match (b.running core).map (fun r => wordId r.word) with
      | some (some 0x600) => b.hqPush core 0 false
      | some (some 0x601) => b.hqPop core 1 false
      | some (some 0x602) => b.hqPush core 2 true
      | _ => b
    | _ => b)

end Sys2Proof.Machine
end

