-- ==== Sys2Proof/Machine/Engine.lean ====
section
/-!
DEFINITION. The engine queues (R119): what an engine instruction reads and writes of registers, banks and
tagged scratchpad, and when the head of a queue may execute (R77, R94, R153, R155).
-/
namespace Sys2Proof.Machine

/-- Enter an engine instruction into its queue, and leave the sequencer at `q` (R119). -/
def Block.enqueue (b : Block) (core e : Nat) (r : Run) (vals : List Nat) (da db : List Byte) (q : SeqState) : Block :=
  let k := b.core core
  let o : EngOp := ⟨k.issueCtr, r.ctx, r.ker.kid, r.q.pc, r.word, vals, da, db, k.swap, false⟩
  let fresh := (k.engineQ e).isEmpty
  let b := b.modCore core (fun k => { (k.setEngineQ e (k.engineQ e ++ [o])) with
    issueCtr := k.issueCtr + 1
    arrProg := if e = 0 ∧ fresh then b.time.keeper else k.arrProg
    vecProg := if e = 1 ∧ fresh then b.time.keeper else k.vecProg
    sfuProg := if e = 2 ∧ fresh then b.time.keeper else k.sfuProg })
  b.issued core r.ctx q

/-- Issue an instruction to engine `e`: it waits while the engine's queue is full (R119), and only then is read and
checked. -/
def Block.engineIssue (b : Block) (core id e : Nat) (f : Run → Block) : Block :=
  b.issue core id (fun r => if (b.core core).engineFull e then b else f r)

/-! ### Operand geometry -/

/-- Byte address of an element of a packed row, its bit offset and how many bytes hold it (R47). Addresses wrap modulo
2^64 before any range test, as the arithmetic of R93 does (DESIGN CHOICE: R74 says nothing of a wrap). -/
def elemSpan (base stride w row col : Nat) : Nat × Nat × Nat :=
  ((base + row * stride + col * w / 8) % 2 ^ 64, col * w % 8, (col * w % 8 + w + 7) / 8)

/-- Code of an element read from the scratchpad. -/
def Core.elemCode (k : Core) (swap : SSet) (base stride w row col : Nat) : Nat :=
  let s := elemSpan base stride w row col
  leNat (k.scratchBytes swap s.1 s.2.2) / 2 ^ s.2.1 % 2 ^ w

/-- Bytes of a run of `n` elements of one row: address, modulo 2^64 as in `elemSpan`, and length. -/
def rowSpan (base stride w row col n : Nat) : Nat × Nat :=
  let a := (base + row * stride + col * w / 8) % 2 ^ 64
  (a, (col * w % 8 + n * w + 7) / 8)

/-- Address of the block scale of a row and column (R57), modulo 2^64 as in `elemSpan`. -/
def scaleAddr (d : ScaleDesc) (base row col : Nat) : Nat :=
  (base + d.bsOff + (if d.axis = 0 then row * d.stride + col / 32 else row / 32 * d.stride + col)) % 2 ^ 64

/-- One operand of a TMMA: its descriptor, base, stride and origin, how many rows or columns take part, and
whether it is stored with K along its rows. -/
structure Operand where
  d    : ScaleDesc
  base : Nat
  stride : Nat
  org  : Nat
  n    : Nat
  kRow : Bool

/-- First row and first column of an origin (R72). -/
def Operand.row (o : Operand) : Nat := bits o.org 31 0
def Operand.col (o : Operand) : Nat := bits o.org 63 32
/-- First K position. -/
def Operand.k0 (o : Operand) : Nat := if o.kRow then o.col else o.row

/-- Row and column of operand line `i` at K position `j`. -/
def Operand.at_ (o : Operand) (i j : Nat) : Nat × Nat :=
  if o.kRow then (o.row + i, o.col + j) else (o.row + j, o.col + i)

/-- Byte ranges of the elements that the array reads (R73, R74). -/
def Operand.elemRanges (o : Operand) : List (Nat × Nat) :=
  let w := o.d.elem.width
  if o.kRow then (List.range o.n).map (fun i => rowSpan o.base o.stride w (o.row + i) o.col 32)
  else (List.range 32).map (fun j => rowSpan o.base o.stride w (o.row + j) o.col o.n)

/-- Byte ranges of the block scales that the array reads. -/
def Operand.scaleRanges (o : Operand) : List (Nat × Nat) :=
  if o.d.bscale = .none then []
  else if o.kRow then (List.range o.n).map (fun i => (scaleAddr o.d o.base (o.row + i) o.col, 1))
  else [(scaleAddr o.d o.base o.row o.col, o.n)]

/-- Bytes of one stored row through the last element read (R74). -/
def Operand.storedRow (o : Operand) : Nat :=
  ((if o.kRow then o.col + 32 else o.col + o.n) * o.d.elem.width + 7) / 8

/-- Bytes of one scale row through the last scale read (R58). -/
def Operand.scaleRow (o : Operand) : Nat := if o.kRow then o.col / 32 + 1 else o.col + o.n

/-- Codes of an operand: line by line, 32 each. -/
def Core.operandCodes (k : Core) (swap : SSet) (o : Operand) : List Nat :=
  (List.range (o.n * 32)).map (fun x =>
    let rc := o.at_ (x / 32) (x % 32)
    k.elemCode swap o.base o.stride o.d.elem.width rc.1 rc.2)

/-- Block-scale codes of an operand, one for each line. -/
def Core.operandScales (k : Core) (swap : SSet) (o : Operand) : List Nat :=
  if o.d.bscale = .none then []
  else (List.range o.n).map (fun i =>
    let rc := o.at_ i 0
    leNat (k.scratchBytes swap (scaleAddr o.d o.base rc.1 rc.2) 1))

/-- Every range lies in the binding's slots (R152). -/
def Binding.holdsAll (bd : Binding) (l : List (Nat × Nat)) : Bool := l.all (fun r => bd.holds r.1 r.2)

/-- A poisoned byte lies in some range. -/
def Core.anyBad (k : Core) (swap : SSet) (l : List (Nat × Nat)) : Bool :=
  !k.poison.isEmpty && l.any (fun r => !(k.scratchBad swap r.1 r.2).isEmpty)

/-- Physical slots that ranges touch. -/
def slotsOfRanges (swap : SSet) (l : List (Nat × Nat)) : List Nat :=
  (l.flatMap (fun r => (slotsOf r.1 r.2).map (physSlot swap))).eraseDups

/-! ### TMMA -/

/-- The A operand of a TMMA word (R72, R105). -/
def tmmaA (w : W128) (vals : List Nat) (d : ScaleDesc) : Operand :=
  ⟨d, vals.getD 0 0, vals.getD 1 0, vals.getD 2 0, wf_ w 113 106, true⟩

/-- The B operand of a TMMA word read from the scratchpad. -/
def tmmaB (w : W128) (vals : List Nat) (d : ScaleDesc) : Operand :=
  ⟨d, vals.getD 3 0, vals.getD 4 0, vals.getD 5 0, wf_ w 105 98, bit w.toNat 118⟩

/-- Columns and formats that the hold register will have after every earlier TMMA of the kernel (R74). -/
def Core.holdAhead (k : Core) (ctx : Nat) : Option (Nat × Elem × BScale) :=
  match (k.array.filter (fun o => o.kid == (k.seq ctx).kid && bit o.word.toNat 119)).getLast? with
  | some o => (ScaleDesc.parse o.descB).map (fun d => (wf_ o.word 105 98, d.elem, d.bscale))
  | none => (k.seq ctx).hold.map (fun h => (h.cols, h.fmt, h.bscale))

/-- The checks of orders 1–6 of R89: the status and DETAIL of the first that fails. -/
def tmmaCheck (k : Core) (r : Run) (vals : List Nat) (da db : List Byte) : Option (Nat × Nat) :=
  let w := r.word
  let rows := wf_ w 113 106
  let cols := wf_ w 105 98
  let held := bit w.toNat 120
  let sda := (r.q.areg (wf_ w 81 78)).toNat
  let sdb := (r.q.areg (wf_ w 61 58)).toNat
  if rows = 0 ∨ 128 < rows ∨ cols = 0 ∨ 128 < cols ∨ (held ∧ bit w.toNat 119) then some (stInvalid, 4)
  else if !r.bind.holds sda 32 ∨ (!held ∧ !r.bind.holds sdb 32) then some (stRights, 7)
  else if !(k.scratchBad k.swap sda 32).isEmpty ∨ (!held ∧ !(k.scratchBad k.swap sdb 32).isEmpty) then some (stData, 9)
  else match ScaleDesc.parse da with
  | none => some (stInvalid, 4)
  | some d1 =>
    let oa := tmmaA w vals d1
    let badA := d1.axis ≠ 0 ∨ (d1.bscale ≠ .none ∧ d1.stride < oa.scaleRow)
    let geomA := oa.k0 % 32 ≠ 0 ∨ oa.base % 64 ≠ 0 ∨ oa.stride < oa.storedRow
    if held then
      match k.holdAhead r.ctx with
      | none => some (stInvalid, 4)
      | some h =>
        if badA ∨ !pairOk d1.elem h.2.1 ∨ h.1 < cols then some (stInvalid, 4)
        else if geomA then some (stInvalid, 4)
        else if !r.bind.holdsAll (oa.elemRanges ++ oa.scaleRanges) then some (stRights, 7)
        else none
    else match ScaleDesc.parse db with
      | none => some (stInvalid, 4)
      | some d2 =>
        let ob := tmmaB w vals d2
        let badB := d2.axis ≠ (if ob.kRow then 0 else 1) ∨ (d2.bscale ≠ .none ∧ d2.stride < ob.scaleRow)
        let geomB := ob.k0 % 32 ≠ 0 ∨ ob.base % 64 ≠ 0 ∨ ob.stride < ob.storedRow
        if badA ∨ badB ∨ !pairOk d1.elem d2.elem then some (stInvalid, 4)
        else if geomA ∨ geomB then some (stInvalid, 4)
        else if !r.bind.holdsAll (oa.elemRanges ++ oa.scaleRanges ++ ob.elemRanges ++ ob.scaleRanges) then some (stRights, 7)
        else none

/-- TMMA issues (R74, R89, R105): descriptors are read and every check is made at issue. -/
def Block.tmma (b : Block) (core : Nat) : Block :=
  b.engineIssue core 0x100 0 (fun r =>
    let k := b.core core
    let w := r.word
    let vals := [(r.q.areg (wf_ w 97 94)).toNat, (r.q.sreg (wf_ w 93 88)).toNat, (r.q.sreg (wf_ w 87 82)).toNat,
                 (r.q.areg (wf_ w 77 74)).toNat, (r.q.sreg (wf_ w 73 68)).toNat, (r.q.sreg (wf_ w 67 62)).toNat]
    let da := k.scratchBytes k.swap (r.q.areg (wf_ w 81 78)).toNat 32
    let db := k.scratchBytes k.swap (r.q.areg (wf_ w 61 58)).toNat 32
    match tmmaCheck k r vals da db with
    | some e => b.preciseStop core r.ctx e.1 e.2
    | none => b.enqueue core 0 r vals da db r.q.advance)

/-- Element values with block scales applied of one line of 32 (R54, R55). -/
def lineVals (e : Elem) (s : BScale) (codes scales : List Nat) (i : Nat) : List Val :=
  ((codes.drop (i * 32)).take 32).map (fun c => scaledVal e s c (scales.getD i 0))

/-- A TMMA writes its results (R73, R79, R83). -/
def tmmaRun (k : Core) (o : EngOp) : Core :=
  let q := k.engSeq o
  let w := o.word
  let rows := wf_ w 113 106
  let cols := wf_ w 105 98
  let bank := wf_ w 123 122
  match ScaleDesc.parse o.descA with
  | none => k
  | some d1 =>
    let oa := tmmaA w o.vals d1
    let ac := k.operandCodes o.swap oa
    let asc := k.operandScales o.swap oa
    let h : Option Hold :=
      if bit w.toNat 120 then q.hold
      else (ScaleDesc.parse o.descB).map (fun d2 =>
        let ob := tmmaB w o.vals d2
        ⟨cols, d2.elem, d2.bscale, k.operandCodes o.swap ob, k.operandScales o.swap ob⟩)
    match h with
    | none => k
    | some h =>
      let bl := (List.range cols).map (lineVals h.fmt h.bscale h.codes h.scales)
      let q' := (List.range rows).foldl (fun q' i =>
        let al := lineVals d1.elem d1.bscale ac asc i
        (bl.foldl (fun (st : Nat × SeqState) bv =>
          let init := if bit w.toNat 121 then Val.fin false 0 0 else f32 (q.accAt bank i st.1)
          let v := group init ((al.zip bv).map (fun p => p.1.mul p.2))
          (st.1 + 1, st.2.setAcc bank i st.1 (toF32 v))) (0, q'.accWritten bank i cols)).2) q
      k.setEngSeq o (if bit w.toNat 119 then { q' with hold := some h, holdBad := false } else q')

/-! ### Vector and special-function instructions -/

/-- NELEM, SEG width and PK of a vector word's MOD (R128). -/
def nelem (w : W128) : Nat := bits (modOf w) 9 0
def segW (w : W128) : Nat := 32 * 2 ^ bits (modOf w) 17 15
def quantSegW (w : W128) : Nat := 32 * 2 ^ bits (modOf w) 12 10
def isPk (w : W128) : Bool := bit (modOf w) 14

/-- IMM32 sign-extended (R127). -/
def simm (w : W128) : Int := signed 32 (wf_ w 63 32)

/-- Scratchpad address of VLD and VST: a[AB] plus the sign-extended IMM32. -/
def vecAddr (a : Nat) (w : W128) : Nat := (((a : Int) + simm w) % (2 ^ 64 : Nat)).toNat

/-- Bytes of an element of VLD and VST; packed lanes are four bytes. -/
def vecFmt (w : W128) : Option FloatFmt := (Elem.ofCode (bits (modOf w) 13 10)).bind (fun e =>
  match e with | .fp32 => some fp32 | .bf16 => some bf16 | .fp16 => some fp16 | .e4m3 => some e4m3 | .e5m2 => some e5m2 | _ => none)

/-- Whether a VLD or VST names the lanes' own format, FP32: then nothing is converted and the 32 bits move
unchanged (DEDUCED: R60 and R62 speak of a conversion, and FP32 lanes stored as FP32 need none). -/
def vecRaw (w : W128) : Bool := (vecFmt w).any (fun f => f.width == 32)

/-- Bytes per lane of VLD and VST. -/
def laneBytes (w : W128) : Nat := if isPk w then 4 else match vecFmt w with | some f => f.width / 8 | none => 4

/-- The issue-time checks of a vector form (R142, R144): status and DETAIL of the first that fails. -/
def vecCheck (b : Block) (r : Run) : Option (Nat × Nat) :=
  let w := r.word
  let op := wf_ w 123 116
  let m := modOf w
  let n := nelem w
  let imm := wf_ w 63 32
  let a := (r.q.areg (wf_ w 87 84)).toNat
  let bad : Option (Nat × Nat) := some (stInvalid, 2)
  if op = 0x50 ∨ op = 0x51 ∨ op = 0x52 then
    let sd := (r.q.areg (bits m 16 13)).toNat
    let st := (r.q.areg (bits m 20 17)).toNat
    let c0 := bits (r.q.sreg (wf_ w 95 90)).toNat 63 32
    if n < 32 ∨ 512 < n ∨ n % 32 ≠ 0 ∨ 4 < bits m 12 10 ∨ c0 % 32 ≠ 0 then bad
    else if op = 0x50 ∧ bit m 21 ∧ st % 64 ≠ 0 then bad
    else if op = 0x51 ∧ (!r.ker.stoch ∨ (b.ctx r.ctx).tune.isNone) then bad
    else if !r.bind.holds sd 32 ∨ (op = 0x50 ∧ bit m 21 ∧ !r.bind.holds st 32) then some (stRights, 7)
    else none
  else if op = 0x22 ∨ op = 0x23 then (if 31 < imm then bad else none)
  else if op = 0x25 ∨ op = 0x26 then (if 511 < imm then bad else none)
  else if n = 0 ∨ 512 < n then bad
  else if op = 0x20 ∨ op = 0x21 then
    match vecFmt w with
    | none => bad
    | some f =>
      let ad := vecAddr a w
      if isPk w ∧ bits m 13 10 ≠ 1 then bad
      else if ad % (f.width / 8) ≠ 0 then bad
      else if !r.bind.holds ad (n * laneBytes w) then some (stRights, 7)
      else none
  else if (op = 0x3B ∨ 0x40 ≤ op) ∧ 4 < bits m 17 15 then bad
  else if op = 0x45 ∧ (bits m 23 18 = 0 ∨ 32 < bits m 23 18 ∨ segW w < bits m 23 18 ∨ wf_ w 115 111 = wf_ w 100 96) then bad
  else if op = 0x48 ∧ !([wf_ w 115 111, wf_ w 105 101, wf_ w 100 96, wf_ w 110 106].Nodup : Bool) then bad
  else none

/-- Where issue of a vector form leaves the sequencer. A VEXT that writes a register of the increments after it holds them
back until it has written it (R94). -/
def Run.vecNext (r : Run) : SeqState :=
  let sa := wf_ r.word 95 90
  if wf_ r.word 123 116 = 0x25 ∧ sa ≠ 0 ∧ r.q.endSels.contains sa then { r.q with owes := true } else r.q.advance

/-- A vector form issues to the vector engine (R106, R127): s[SA], a[AB], a[SDA], a[STA] and s[TI] are captured. -/
def Block.vecIssue (b : Block) (core op : Nat) : Block :=
  b.engineIssue core (0x200 + op) 1 (fun r =>
    match vecCheck b r with
    | some e => b.preciseStop core r.ctx e.1 e.2
    | none =>
      let w := r.word
      let m := modOf w
      b.enqueue core 1 r [(r.q.sreg (wf_ w 95 90)).toNat, (r.q.areg (wf_ w 87 84)).toNat, (r.q.areg (bits m 16 13)).toNat,
        (r.q.areg (bits m 20 17)).toNat, (r.q.sreg (bits m 27 22)).toNat] [] [] r.vecNext)

/-- An SFU instruction issues (R108). -/
def Block.sfuIssue (b : Block) (core fn : Nat) : Block :=
  b.engineIssue core (0x300 + fn) 2 (fun r =>
    let n := wf_ r.word 109 100
    if n = 0 ∨ 512 < n then b.preciseStop core r.ctx stInvalid 2
    else b.enqueue core 2 r [] [] [] r.q.advance)

end Sys2Proof.Machine
end

