-- ==== Sys2Proof/Machine/Geometry.lean ====
section
/-!
DEFINITION. A mover descriptor's fields (R177–R180, R239), where its walk and its conversion read and write (R181, R186,
R187), and how far its pieces have come: landing, acknowledgement and last-write markers (R154, R175, R184, R185).
-/
namespace Sys2Proof.Machine

/-! ### Fields -/

def Desc.op (d : Desc) : Nat := fld d.raw 0 1
def Desc.srcSp (d : Desc) : Nat := bits (fld d.raw 1 1) 3 0
def Desc.dstSp (d : Desc) : Nat := bits (fld d.raw 1 1) 7 4
def Desc.xform (d : Desc) : Nat := fld d.raw 3 1
def Desc.convert (d : Desc) : Bool := bit d.xform 0
def Desc.transpose (d : Desc) : Bool := bit d.xform 1
def Desc.codec (d : Desc) : Nat := bits d.xform 3 2
def Desc.esize (d : Desc) : Nat := 2 ^ bits d.xform 5 4
def Desc.flags (d : Desc) : Nat := fld d.raw 4 2
def Desc.srcTag (d : Desc) : Nat := bits d.flags 1 0
def Desc.dstTag (d : Desc) : Nat := bits d.flags 3 2
def Desc.push (d : Desc) : Bool := bit d.flags 4
def Desc.qsel (d : Desc) : Nat := bits (fld d.raw 6 1) 4 0
def Desc.src (d : Desc) : Nat := fld d.raw 8 8
def Desc.dst (d : Desc) : Nat := fld d.raw 16 8
def Desc.xlen (d : Desc) : Nat := fld d.raw 24 4
def Desc.yc (d : Desc) : Nat := fld d.raw 28 2
def Desc.zc (d : Desc) : Nat := fld d.raw 30 2
def Desc.stride (d : Desc) (o : Nat) : Int := signed 32 (fld d.raw o 4)
def Desc.window (d : Desc) : Nat := fld d.raw 52 2
def Desc.target (d : Desc) : Nat := bits (fld d.raw 54 2) 11 0
/-- DECODE or BASE_PLUS_DIFF. -/
def Desc.decodes (d : Desc) : Bool := d.codec == 1 || d.codec == 2
/-- Codec extension (R239). -/
def Desc.ext (d : Desc) : List Byte := (d.raw.drop 64).take 64
def Desc.tableAddr (d : Desc) : Nat := fld d.ext 0 8
def Desc.refAddr (d : Desc) : Nat := fld d.ext 8 8
def Desc.scaleBase (d : Desc) : Nat := fld d.ext 16 8
def Desc.firstBlock (d : Desc) : Nat := fld d.ext 24 4
/-- Scale descriptors of a conversion (R179). -/
def Desc.cvtBytes (d : Desc) : List Byte := d.raw.drop (if d.codec = 0 then 64 else 128)
def Desc.srcScale (d : Desc) : Option ScaleDesc := ScaleDesc.parse (d.cvtBytes.take 32)
def Desc.dstScale (d : Desc) : Option ScaleDesc := ScaleDesc.parse ((d.cvtBytes.drop 32).take 32)

/-- Rows of the walk. -/
def Desc.rows (d : Desc) : Nat := d.yc * d.zc

/-- Address of a row (R181), modulo 2^64. -/
def Desc.rowAt (d : Desc) (base ys zs q : Nat) : Nat :=
  (((base : Int) + (q / d.yc : Nat) * d.stride zs + (q % d.yc : Nat) * d.stride ys) % (2 ^ 64 : Nat)).toNat
def Desc.srcRow (d : Desc) (q : Nat) : Nat := d.rowAt d.src 32 36 q
def Desc.dstRow (d : Desc) (q : Nat) : Nat := d.rowAt d.dst 40 44 q

/-- Source and destination bytes of a 32-element group (R47). -/
def groupBytes (s : ScaleDesc) : Nat := 4 * s.elem.width

/-- Destination bytes of a row. -/
def Desc.dstLen (d : Desc) : Nat :=
  if d.convert then match d.srcScale, d.dstScale with
    | some s, some t => d.xlen / groupBytes s * groupBytes t
    | _, _ => 0
  else d.xlen

/-- Code mapping applies (R186). -/
def codeMap (s t : ScaleDesc) : Bool :=
  s.bscale == t.bscale && s.bscale != .none && s.l2Mode == 0 && t.l2Mode == 0 &&
    (match s.elem with
     | .w1 | .w2 => [Elem.e2m1, .e2m3, .e3m2, .e4m3, .e5m2].contains t.elem
     | .e2m1 => [Elem.e2m3, .e3m2, .e4m3, .e5m2].contains t.elem
     | .e3m2 => [Elem.e4m3, .e5m2].contains t.elem
     | .e2m3 => t.elem == .e4m3
     | _ => false)

/-! ### Groups and ranges -/

/-- Groups of a row that a piece touches. -/
def Desc.groupsOf (d : Desc) (p : Piece) : List Nat :=
  match d.srcScale with
  | some s =>
    let gs := groupBytes s
    (List.range ((p.off + p.len + gs - 1) / gs - p.off / gs)).map (fun i => p.off / gs + i)
  | none => []

/-- Destination ranges of a piece as its geometry gives them (R183). -/
def Desc.dstRanges (d : Desc) (p : Piece) : List (Nat × Nat) :=
  if d.convert then match d.dstScale with
    | some t => (d.groupsOf p).flatMap (fun g => (d.dstRow p.row + g * groupBytes t, groupBytes t) ::
        (if t.bscale = .none then [] else [((d.dst + t.bsOff + p.row * t.stride + g) % 2 ^ 64, 1)]))
    | none => []
  else if d.transpose then
    (List.range ((p.off + p.len - 1) / d.esize + 1 - p.off / d.esize)).map (fun j =>
      (d.dst + (p.off / d.esize + j) * 4096 + p.row * d.esize, d.esize))
  else [((d.dstRow p.row + p.off) % 2 ^ 64, p.len)]

/-- RET_ADDR of an ATOMIC whose old value has not come back (R180). -/
def Desc.retDue (d : Desc) : List (Nat × Nat) :=
  if d.op = 2 ∧ !d.acked ∧ fld d.raw 24 4 ≠ 0xFFFFFFFF then [(fld d.raw 24 4, 8)] else []

/-! ### Progress -/

/-- Change one piece of a descriptor. -/
def Desc.setPiece (d : Desc) (i : Nat) (f : Piece → Piece) : Desc :=
  { d with pieces := d.pieces.mapIdx (fun j p => if j = i then f p else p) }

/-- Every write has been made or sent: later descriptors of the mover may land (R184). -/
def Desc.passed (d : Desc) : Bool :=
  if d.op = 0 then d.pieces.all (fun p => p.state == .landed || p.state == .sent) else d.sentOut

/-- Every piece has been written or acknowledged (R185). -/
def Desc.landed (d : Desc) : Bool := if d.op = 0 then d.pieces.all (fun p => p.state == .landed) else d.acked

/-- Change one descriptor of a mover, queued or ended; an ended one that owes nothing more goes. -/
def Mover.modDesc (v : Mover) (id : Nat) (f : Desc → Desc) : Mover :=
  { v with queue := v.queue.map (fun d => if d.id = id then f d else d)
           dying := (v.dying.map (fun d => if d.id = id then f d else d)).filter Desc.owed }

/-- Two pieces hold bytes of one group of a conversion (R186). -/
def Desc.shares (d : Desc) (p q : Piece) : Bool :=
  d.convert && p.row == q.row && (d.groupsOf p).any (d.groupsOf q).contains

/-- Pieces whose writes are all made and answered, and whose neighbours' are, have landed (R175, R186). -/
def Desc.settle (d : Desc) : Desc :=
  let clear (q : Piece) : Bool := q.state == .landed || (q.state == .sent && q.open_ == 0)
  { d with pieces := d.pieces.map (fun p =>
      if p.state = .sent ∧ p.open_ = 0 ∧ d.pieces.all (fun q => !d.shares p q || clear q) then p.end_ else p) }

/-- The pieces that leave together with a piece: those of its 16 KiB block under ENCODE (R243). -/
def Desc.together (d : Desc) (i j : Nat) : Bool :=
  let off (k : Nat) : Nat := ((d.pieces[k]?).map (·.off)).getD 0
  i == j || (d.codec == 3 && off i / blockLen == off j / blockLen)

/-- One write of a piece has been answered. -/
def Desc.ackPiece (d : Desc) (i : Nat) : Desc :=
  Desc.settle { d with pieces := d.pieces.mapIdx (fun j p => if d.together i j ∧ p.state = .sent then { p with open_ := p.open_ - 1 } else p) }

/-- Last-write markers of a mover's descriptors: a slot turns FULL once every write of the descriptor to it has landed, and
every old value that an earlier ATOMIC of the mover returns to it. Each marker acts once for a slot. -/
def Core.dstMarkers (k : Core) (m : Nat) : Core :=
  (k.mover m).queue.foldl (fun k d =>
    if d.op ≠ 0 ∨ d.dstSp ≠ 0 ∨ d.dstTag ≠ 2 then k
    else
      let slots (l : List Piece) : List Nat := l.flatMap (fun x => slotsOfRanges d.swap (d.dstRanges x))
      let busy := slots (d.pieces.filter (fun x => x.state != .landed)) ++
        ((k.mover m).queue.filter (fun e => decide (e.id < d.id))).flatMap (fun e => slotsOfRanges e.swap e.retDue)
      let due := ((slots (d.pieces.filter (fun x => x.state == .landed))).eraseDups).filter (fun s => !busy.contains s && !SSet.has d.marked s)
      if due.isEmpty then k
      else (k.setTags due true).modMover m (fun v => v.modDesc d.id (fun d => { d with marked := due.foldl SSet.insert d.marked }))) k

end Sys2Proof.Machine
end

