-- ==== Sys2Proof/Machine/Packet.lean ====
section
/-!
DEFINITION. Weave packets (R400, R402), routing (R393, R408–R411), the link's retry buffer (R404), and how a
requester takes a response (R367, R403, R405).
-/
namespace Sys2Proof.Machine

/-- A packet as it goes on a link (R400). -/
def Out.bytes (o : Out) (vc lseq lack : Nat) : List Byte :=
  let hdr := natLe 1 o.type ++ natLe 1 ((if o.inStep then 1 else 0) + 2 * vc + (if o.last then 4 else 0)) ++
    natLe 3 (lseq + lack * 4096) ++ natLe 1 o.ctx ++ natLe 2 (o.dst + o.core * 4096) ++ natLe 2 o.src ++ natLe 2 o.window ++
    natLe 2 o.reqId ++ natLe 2 o.poison ++ natLe 8 o.addr ++ natLe 4 o.step
  let pl := padTo 0#8 (roundUp 16 o.payload.length) o.payload
  hdr ++ natLe 4 (crc32c (hdr ++ natLe 4 0 ++ pl)).toNat ++ pl

/-! ### Topology (R408, R409) -/

/-- Size of the domain along a dimension. -/
def Domain.size (d : Domain) : Nat → Nat
  | 0 => d.sizeX | 1 => d.sizeY | _ => d.sizeZ

/-- Coordinate of a module ID along a dimension. -/
def Domain.coord (d : Domain) (id : Nat) : Nat → Nat
  | 0 => id % d.sizeX
  | 1 => id / d.sizeX % d.sizeY
  | _ => id / (d.sizeX * d.sizeY)

/-- Module ID at coordinates (R409). -/
def Domain.idAt (d : Domain) (x y z : Nat) : Nat := x + d.sizeX * (y + d.sizeY * z)

/-- Modules of the domain. -/
def Domain.modules (d : Domain) : Nat := d.sizeX * d.sizeY * d.sizeZ

/-- Neighbour of a module in a direction (R409). -/
def Domain.neighbour (d : Domain) (id dir : Nat) : Nat :=
  let mv (dim : Nat) : Nat :=
    let c := d.coord id dim
    if dir / 2 = dim then (if dir % 2 = 0 then (c + 1) % d.size dim else (c + d.size dim - 1) % d.size dim) else c
  d.idAt (mv 0) (mv 1) (mv 2)

/-- Number of directions a topology uses (R408). -/
def topoDirs : Nat → Nat
  | 0 => 2 | 1 => 4 | _ => 6

/-- Direction of a packet's next hop (R410): the first dimension in which it must move. -/
def Domain.route (d : Domain) (here dst : Nat) : Option Nat :=
  (List.range 3).findSome? (fun dim =>
    let h := d.coord here dim
    let t := d.coord dst dim
    if h = t then none
    else some (if (t + d.size dim - h) % d.size dim ≤ d.size dim / 2 then 2 * dim else 2 * dim + 1))

/-- Dateline class of the next hop (R410): 1 once the packet has crossed the wrap of its dimension. -/
def Domain.vc (d : Domain) (src here dir : Nat) : Nat :=
  let dim := dir / 2
  let s := d.coord src dim
  let n := d.coord (d.neighbour here dir) dim
  if dir % 2 = 0 then (if n < s then 1 else 0) else (if s < n then 1 else 0)

/-- Ports of a direction (R393). -/
def Domain.dirPorts (d : Domain) (dir : Nat) : List Nat := (List.range d.parallel).map (fun i => 3 * dir + i)

/-- The UP port of a direction with the shortest retry buffer; ties to the lower number (R410). -/
def Block.pickPort (b : Block) (dir : Nat) : Option Nat :=
  ((b.weave.domain.dirPorts dir).filter (fun p => (b.port p).state == 2)).foldl (fun o p => match o with
    | none => some p
    | some q => if (b.port p).buf.length < (b.port q).buf.length then some p else some q) none

/-- Put a packet on a port: its link sequence and the retry buffer (R404). -/
def Block.portSend (b : Block) (p vc : Nat) (o : Out) : Block :=
  b.modPort p (fun t => { t with
    txSeq := (t.txSeq + 1) % 4096
    buf := t.buf ++ [⟨t.txSeq, o.bytes vc t.txSeq ((t.rxSeq + 4095) % 4096), 0, none⟩] })

/-- Send or forward a packet (R410, R411): a direction without an UP port discards it. -/
def Block.sendOut (b : Block) (o : Out) : Block :=
  let d := b.weave.domain
  match d.route b.self o.dst with
  | none => b
  | some dir => match b.pickPort dir with
    | some p => b.portSend p (d.vc o.src b.self dir) o
    | none =>
      let b := b.modPort (3 * dir) (fun t => { t with unroutable := satInc t.unroutable })
      b.emit (weaveIsl (3 * dir)) 0x040B o.ctx o.step (3 * dir + o.window * 2 ^ 16)

/-- Drop what LACK covers from a retry buffer (R404). -/
def ackedBuf (size lack : Nat) (buf : List Sent) : List Sent :=
  buf.dropWhile (fun s => decide ((lack + size - s.lseq) % size < size / 2))

/-- A flit or packet arrives on an UP port with its link fields (R404): LACK frees packets; a packet is taken
only in order and with a good CRC, and its operation's stamp with it (R24, R35). -/
def Block.linkAccept (b : Block) (h : Pkt) : Block × Bool :=
  let t := b.port h.port
  if t.state ≠ 2 ∨ b.halted then (b, false)
  else
    let ok := h.crcOk && h.lseq == t.rxSeq
    let b := b.setPort h.port { t with
      buf := ackedBuf 4096 h.lack t.buf
      rxAt := b.time.keeper
      rxSeq := if ok then (t.rxSeq + 1) % 4096 else t.rxSeq }
    (if ok then ((b.stamp (weaveIsl h.port) h.stamp).2).cross (weaveIsl h.port) hubIsl else b, ok)

/-! ### The snoop filter (R444) -/

/-- Lines of a DRAM-tier range that the companion may hold. -/
def Block.snooped (b : Block) (off n : Nat) : List Nat :=
  let f := (b.part (off / 2 ^ 40)).snoop
  if f.isEmpty then []
  else ((List.range ((off + n + 63) / 64 - off / 64)).map (fun i => off / 64 + i)).filter (fun l => f.contains l)

/-- Send SNP_INV for lines with none outstanding. The aperture address of a line is its address in the companion's map
(DEDUCED: R442 says aperture address, R440 where the aperture lies). -/
def Block.snoopSend (b : Block) (lines : List Nat) : Block :=
  lines.foldl (fun b l =>
    let t := b.treleb
    if t.snoops.any (fun s => s.1 == l) then b
    else
      let pk (q : Nat) : List Byte := trelebPacket 0x40 0 q 0 0 (bits t.dramBase.toNat 47 42 * 2 ^ 42 + l * 64) 0 []
      { b with treleb := { (t.put pk) with snoops := t.snoops ++ [(l, b.time.keeper)] } }) b

/-! ### Responses at the requester -/

/-- A live request of a core. -/
def Core.req? (k : Core) (reqId : Nat) : Option LiveReq := k.live.find? (fun r => r.reqId == reqId)

/-- A response to one live request (R403, R405): acknowledgement, NACK, old value or RETRY. -/
def Block.applyResp (b : Block) (core reqId st : Nat) (retry : Bool) (old : Option W64) : Block :=
  match (b.core core).req? reqId with
  | none => b
  | some r =>
    if retry then
      b.modCore core (fun k => { k with live := k.live.map (fun x =>
        if x.reqId = reqId then { x with retryAt := some (b.time.keeper + 2000) } else x) })
    else
      let b := b.modCore core (fun k => { k with live := k.live.filter (fun x => x.reqId != reqId) })
      let d? := ((b.core core).mover r.mover).queue.find? (fun d => d.id == r.desc)
      let b := if st ≠ 0 ∨ r.kind ≠ 2 then b else match d?, old with
        | some d, some v =>
          let a := fld d.raw 24 4
          if a = 0xFFFFFFFF then b
          else (b.crossTo hubIsl [movIsl core, arrIsl core]).modCore core (fun k => k.scratchWrite d.swap a (natLe 8 v.toNat) [])
        | _, _ => b
      let b := b.modCore core (fun k => k.modMover r.mover (fun v => v.modDesc r.desc (fun d =>
        if r.kind = 1 ∨ r.kind = 2 then { d with acked := true } else d.ackPiece r.piece)))
      let b := b.modCore core (fun k => { k with movProg := SMap.put k.movProg r.mover b.time.keeper })
      if st = 0 then (b.cross hubIsl (movIsl core)).modCore core (fun k => k.dstMarkers r.mover)
      else
        let b := b.emit hubIsl 0x0404 r.ctx r.step (st * 2 ^ 8 + r.window * 2 ^ 16)
        match d? with
        | none => b
        | some _ => match ((b.core core).mover r.mover).queue.find? (fun d => d.id == r.desc) with
          | none => b
          | some d => (b.cross hubIsl (movIsl core)).failDesc core r.mover d st (if r.kind = 3 then ((d.pieces[r.piece]?).map (·.off)).getD 0 / blockLen else 0)

end Sys2Proof.Machine
end

