-- ==== Sys2Proof/Machine/Inbound.lean ====
section
/-!
DEFINITION. Inbound Weave requests at the destination hub: the checks of R424, landings, groups and flagged final
writes (R166, R427, R428), atomics (R430) and encoded blocks (R431).
-/
namespace Sys2Proof.Machine

/-- What the hub does with an inbound request: a response (status, RETRY, old value), none, or it waits for
a snoop (R444). -/
inductive InRes where
  | resp (st : Nat) (retry : Bool) (old : Option W64)
  | silent
  | wait
  deriving DecidableEq, Repr

/-- Where a byte of a window lies: in a tile buffer, or at a DRAM-tier offset. -/
inductive Spot where
  | tile (part a : Nat)
  | dram (off : Nat)
  deriving DecidableEq, Repr

/-- An open window. -/
def Block.window? (b : Block) (id : Nat) : Option Window := b.weave.windows.find? (fun w => w.id == id)

/-- A byte of a window: its range in the owner's tile, or the page held since the open (R422). -/
def Block.spot (b : Block) (w : Window) (off : Nat) : Spot :=
  if w.tile then
    let p := (b.ctx w.ctx).part
    .tile p (((b.part p).rangeOf w.ctx).1 + w.base + off)
  else
    let va := w.base + off
    match w.pages.find? (fun p => decide (p.1 ≤ va ∧ va < p.1 + p.2.1)) with
    | some p => .dram (p.2.2 + (va - p.1))
    | none => .dram 0

/-- Runs of a window range in one page each: offset in the range and length. -/
def winRuns (w : Window) (off n : Nat) : List (Nat × Nat) := pageRuns (w.base + off) n

/-- Filtered lines that a write of a window range meets. -/
def Block.winSnooped (b : Block) (w : Window) (off n : Nat) : List Nat :=
  if w.tile then [] else (winRuns w off n).flatMap (fun r => match b.spot w (off + r.1) with
    | .dram a => b.snooped a r.2
    | .tile _ _ => [])

/-- What stands against an access of the hub to a window range at its stores, beside the window's own checks: a placed or
tagged range of the DRAM tier (R214, R238, R265), a partition that is out of service, or one that resets, for which the
access waits (R303). A response names no grant (R403), so its want is a missing right (DEDUCED). -/
def Block.winCheck (b : Block) (w : Window) (off n : Nat) : Nat :=
  if w.tile then stOK else ((winRuns w off n).findSome? (fun r => match b.spot w (off + r.1) with
    | .tile _ _ => none
    | .dram a =>
      let c := b.dramCheck w.ctx a r.2 true
      if c = stOK then none else some (if c = stWait then stWait else stRights))).getD stOK

/-- Bytes land in a window (R150, R424). -/
def Block.winWrite (b : Block) (w : Window) (off : Nat) (data : List Byte) (bad : List Nat) : Block :=
  (winRuns w off data.length).foldl (fun b r =>
    let d := (data.drop r.1).take r.2
    let bd := (bad.filter (fun i => decide (r.1 ≤ i ∧ i < r.1 + r.2))).map (fun i => i - r.1)
    match b.spot w (off + r.1) with
    | .tile p a => (b.cross hubIsl (fabIsl p)).modPart p (fun t => t.tileWrite a d bd)
    | .dram a => (b.cross hubIsl (dramIsl (chanOf a))).dramWrite a d bd) b

/-- Eight bytes of a window with their poison. -/
def Block.winWord (b : Block) (w : Window) (off : Nat) : Nat × Bool :=
  match b.spot w off with
  | .tile p a => (leNat (Mem.bytes (b.part p).tile a 8), !(poisonedIn 16 (b.part p).tilePoison a 8).isEmpty)
  | .dram a => (leNat (Mem.bytes b.dram.mem a 8), !(poisonedIn 64 b.dram.bad a 8).isEmpty)

/-- The old value of an atomic leaves its store: a poisoned line of the DRAM tier is recorded (R266). -/
def Block.winRead (b : Block) (w : Window) (off : Nat) : Block :=
  match b.spot w off with
  | .tile p _ => b.cross (fabIsl p) hubIsl
  | .dram a => (b.tracePoison a 8).cross (dramIsl (chanOf a)) hubIsl

/-- A prefetch entry of a core has its source in a window's range (R166). -/
def Block.inWindow (b : Block) (w : Window) (core : Nat) (e : PfEntry) : Bool :=
  let n := max e.data.length 1
  if w.tile then
    let p := (b.ctx w.ctx).part
    let lo := ((b.part p).rangeOf w.ctx).1 + w.base
    e.space == 1 && partOf core == p && decide (e.phys < lo + w.len ∧ lo < e.phys + n)
  else
    e.space == 2 && bits e.phys 51 48 == 0 && w.pages.any (fun p =>
      let lo := max p.1 w.base
      let hi := min (p.1 + p.2.1) (w.base + w.len)
      let a := bits e.phys 47 0
      decide (a < p.2.2 + (hi - p.1) ∧ p.2.2 + (lo - p.1) < a + n))

/-- Count a packet discarded as stale for a context (R367). -/
def Block.countStale (b : Block) (ctx : Nat) : Block := b.modCtx ctx (fun x => { x with stale := x.stale + 1 })

/-- The checks of R424 in order, for `n` bytes at `off`. -/
def Block.inCheck (b : Block) (h : Pkt) (off n : Nat) (atomic : Bool) : Block × Option InRes × Option Window :=
  match b.window? h.window with
  | none => (b, some (.resp stClosed false none), none)
  | some w =>
    let x := b.ctx w.ctx
    if h.inStep ∧ h.step ≠ 0 ∧ !stepAbove h.step x.retired then
      ((b.emit hubIsl 0x0506 w.ctx x.curStep (h.step * 256)).countStale w.ctx, some .silent, none)
    else if (b.part x.part).state = 1 then
      (if h.port < 18 then b.modPort h.port (fun p => { p with discarded := min (p.discarded + 1) (2 ^ 64 - 1) }) else b, some .silent, none)
    else if !(w.peers.any (fun p => p.1 == h.src && (match p.2 with | none => true | some c => c == h.ctx))) then
      (b, some (.resp stRights false none), none)
    else if w.len < off + n ∨ (atomic ∧ !w.atomics) then (b, some (.resp stRights false none), none)
    else (b, none, some w)

/-- Answer a request: over a port, or at once at this module's own core (R409). -/
def Block.answer (b : Block) (h : Pkt) (st : Nat) (retry : Bool) (old : Option W64) : Block :=
  let b := if st = 0 then b else b.emit hubIsl 0x0403 h.ctx h.step (h.port % 18 + st * 2 ^ 8 + h.window * 2 ^ 16)
  if h.src = b.self then b.applyResp h.core h.reqId st retry old
  else b.sendOut { type := 0x20, inStep := h.inStep, last := false, ctx := h.ctx, core := h.core, dst := h.src, src := b.self,
                   window := h.window, reqId := h.reqId, poison := 0, addr := st + (if retry then 2 ^ 16 else 0), step := h.step,
                   payload := match old with | some v => natLe 8 v.toNat ++ natLe 8 0 | none => [] }

/-! ### Groups (R427, R428) -/

/-- A group entry is the one a packet names. -/
def GroupEnt.is (g : GroupEnt) (h : Pkt) (group : Nat) : Bool :=
  g.src == h.src && g.core == h.core && g.ctx == h.ctx && g.window == h.window && g.group == group

/-- The group of a packet exists, or one may be started. -/
def Block.groupRoom (b : Block) (h : Pkt) (group : Nat) : Bool :=
  b.weave.groups.any (fun g => g.is h group) || decide (b.weave.groups.length < 8192)

/-- Change the group of a packet, starting it where it is new. -/
def Block.modGroup (b : Block) (h : Pkt) (group : Nat) (f : GroupEnt → GroupEnt) : Block :=
  let gs := b.weave.groups
  let fresh : GroupEnt := ⟨h.src, h.core, h.ctx, h.window, group, h.step, h.inStep, 0, none, b.time.keeper⟩
  let gs := if gs.any (fun g => g.is h group) then gs else gs ++ [fresh]
  { b with weave := { b.weave with groups := gs.map (fun g => if g.is h group then { f g with lastAt := b.time.keeper } else g) } }

/-- A final write whose group is whole is released (R166): prefetch entries of the range go, the flag lands, the
source is answered and the entry is freed. -/
def Block.releaseFinal (b : Block) (w : Window) (h : Pkt) (value : W64) (group : Nat) : Block :=
  let b := (List.range 16).foldl (fun b c => b.modCore c (·.dropPrefetch (b.inWindow w c))) b
  let b := b.winWrite w h.off (natLe 8 value.toNat) (if bit h.poison 0 then List.range 8 else [])
  let b := { b with weave := { b.weave with groups := b.weave.groups.filter (fun g => !g.is h group) } }
  let b := b.emit hubIsl 0x0407 w.ctx h.step (h.port % 18 + w.id * 2 ^ 16 + group * 2 ^ 32)
  b.answer h stOK false none

/-- A held final write whose count is met is released. -/
def Block.tryRelease (b : Block) (w : Window) (h : Pkt) (group : Nat) : Block :=
  match b.weave.groups.find? (fun g => g.is h group) with
  | some g => match g.final with
    | some f => if f.count = g.count then b.releaseFinal w f.pkt f.value group else b
    | none => b
  | none => b

/-- Flag lines that a release would write and the companion holds. -/
def Block.heldSnoops (b : Block) (w : Window) (h : Pkt) (group : Nat) : List Nat :=
  match b.weave.groups.find? (fun g => g.is h group) with
  | some g => match g.final with | some f => b.winSnooped w f.pkt.off 8 | none => []
  | none => []

/-! ### The four requests -/

/-- An inbound WRITE (R424, R427). -/
def Block.inWrite (b : Block) (h : Pkt) (group : Nat) (data : List Byte) : Block × InRes :=
  match b.inCheck h h.off data.length false with
  | (b, some r, _) => (b, r)
  | (b, none, none) => (b, .silent)
  | (b, none, some w) =>
    let lines := b.winSnooped w h.off data.length ++ b.heldSnoops w h group
    let c := b.winCheck w h.off data.length
    if c = stWait then (b, .wait)
    else if c ≠ stOK then (b, .resp c false none)
    else if !lines.isEmpty then (b.snoopSend lines, .wait)
    else if !b.groupRoom h group then (b, .resp stOK true none)
    else
      let bad := (List.range data.length).filter (fun i => bit h.poison (i / 16))
      let b := b.winWrite w h.off data bad
      let b := b.modCtx w.ctx (fun x => { x with inWindow := x.inWindow + data.length })
      let b := b.modGroup h group (fun g => { g with count := g.count + 1 })
      (b.tryRelease w h group, .resp stOK false none)

/-- An inbound FINAL (R166, R427). -/
def Block.inFinal (b : Block) (h : Pkt) (group : Nat) (value : W64) (count : Nat) : Block × InRes :=
  match b.inCheck h h.off 8 false with
  | (b, some r, _) => (b, r)
  | (b, none, none) => (b, .silent)
  | (b, none, some w) =>
    let lines := b.winSnooped w h.off 8
    let c := b.winCheck w h.off 8
    if c = stWait then (b, .wait)
    else if c ≠ stOK then (b, .resp c false none)
    else if !lines.isEmpty then (b.snoopSend lines, .wait)
    else if !b.groupRoom h group then (b, .resp stOK true none)
    else
      let b := b.modGroup h group (fun g => { g with final := some ⟨h, value, count⟩ })
      let met := b.weave.groups.any (fun g => g.is h group && g.count == count)
      let b := b.modCtx w.ctx (fun x => { x with inWindow := x.inWindow + 8 })
      if met then (b.releaseFinal w h value group, .silent)
      else (b.emit hubIsl 0x0406 w.ctx h.step (h.port % 18 + w.id * 2 ^ 16 + group * 2 ^ 32), .silent)

/-- The new value of an atomic (R180). -/
def atomicNew (op : Nat) (old value compare : W64) : W64 :=
  match op % 4 with
  | 0 => old + value
  | 1 => if value.toNat < old.toNat then value else old
  | 2 => if old.toNat < value.toNat then value else old
  | _ => if old = compare then value else old

/-- An inbound ATOMIC (R430): a poisoned word is left as it is and refused. -/
def Block.inAtomic (b : Block) (h : Pkt) (op : Nat) (value compare : W64) : Block × InRes :=
  match b.inCheck h h.off 8 true with
  | (b, some r, _) => (b, r)
  | (b, none, none) => (b, .silent)
  | (b, none, some w) =>
    let lines := b.winSnooped w h.off 8
    let c := b.winCheck w h.off 8
    if c = stWait then (b, .wait)
    else if c ≠ stOK then (b, .resp c false none)
    else if !lines.isEmpty then (b.snoopSend lines, .wait)
    else
      let o := b.winWord w h.off
      let b := b.winRead w h.off
      if o.2 then (b, .resp stData false none)
      else
        let old := BitVec.ofNat 64 o.1
        let b := b.modCtx w.ctx (fun x => { x with inWindow := x.inWindow + 8 })
        (b.winWrite w h.off (natLe 8 (atomicNew op old value compare).toNat) [], .resp stOK false (some old))

/-- A reassembly buffer is the one of a packet. -/
def EncBuf.is (e : EncBuf) (h : Pkt) : Bool :=
  e.pkt.src == h.src && e.pkt.core == h.core && e.pkt.ctx == h.ctx && e.pkt.reqId == h.reqId

/-- Bytes of a block once every fragment is there. -/
def EncBuf.whole (e : EncBuf) : Option (List Byte) :=
  match e.last with
  | none => none
  | some n =>
    if (List.range (n + 1)).all (fun i => e.frags.any (fun f => f.1 == i)) then
      some ((List.range (n + 1)).flatMap (fun i => ((e.frags.find? (fun f => f.1 == i)).map (·.2)).getD []))
    else none

/-- An encoded block fails at this hub (R247): the record names the block by its place in the window (DEDUCED: a packet
carries no other index), and the reason of R244, 0 for a poisoned one. -/
def Block.inFail (b : Block) (w : Window) (h : Pkt) (st reason : Nat) : Block × InRes :=
  (b.emit hubIsl 0x0332 w.ctx h.step (h.off / blockLen % 2 ^ 32 + reason * 2 ^ 32), .resp st false none)

/-- A whole encoded block lands, or fails (R243, R245, R431): its header, then the bytes received after it. -/
def Block.inBlock (b : Block) (w : Window) (h : Pkt) (group : Nat) (bad : Bool) (blk : List Byte) : Block × InRes :=
  let free (b : Block) : Block := { b with weave := { b.weave with encs := b.weave.encs.filter (fun e => !e.is h) } }
  let hd := blk.take 8
  let n := bhDec hd
  let lines := b.winSnooped w h.off n ++ b.heldSnoops w h group
  let c := b.winCheck w h.off n
  if bad ∧ (!bhOk hd n ∨ w.len < h.off + n) then (free b).inFail w h stData 0
  else if !bhOk hd n then (free b).inFail w h stDecode 3
  else if w.len < h.off + n then (free b, .resp stRights false none)
  else if c = stWait then (b, .wait)
  else if c ≠ stOK then (free b, .resp c false none)
  else if !lines.isEmpty then (b.snoopSend lines, .wait)
  else if bad then ((free b).winWrite w h.off (List.replicate n 0#8) (List.range n)).inFail w h stData 0
  else match decodeBlock hd (blk.drop 8) [] n with
    | .error e => (free b).inFail w h stDecode e
    | .ok out =>
      let b := (free b).winWrite w h.off out []
      let b := b.modCtx w.ctx (fun x => { x with inWindow := x.inWindow + n })
      let b := b.modGroup h group (fun g => { g with count := g.count + 1 })
      (b.tryRelease w h group, .resp stOK false none)

/-- An inbound ENC fragment (R243, R431): reassembly, and for a whole block its decoding and landing. -/
def Block.inEnc (b : Block) (h : Pkt) (group frag : Nat) (last : Bool) (data : List Byte) : Block × InRes :=
  match b.inCheck h h.off 0 false with
  | (b, some r, _) => (b, r)
  | (b, none, none) => (b, .silent)
  | (b, none, some w) =>
    if !b.groupRoom h group then (b, .resp stOK true none)
    else
      let es := b.weave.encs
      if !es.any (fun e => e.is h) ∧ 64 ≤ es.length then (b, .resp stOK true none)
      else
        let es := if es.any (fun e => e.is h) then es else es ++ [⟨h, group, [], none, b.time.keeper, false⟩]
        let es := es.map (fun e => if e.is h then
          { e with frags := if e.frags.any (fun f => f.1 == frag) then e.frags else e.frags ++ [(frag, data)]
                   last := if last then some frag else e.last, bad := e.bad || h.poison != 0 } else e)
        let b := ({ b with weave := { b.weave with encs := es } }).modGroup h group id
        match es.find? (fun e => e.is h) with
        | none => (b, .silent)
        | some e => match e.whole with
          | none => (b, .silent)
          | some blk => b.inBlock w h group e.bad blk

/-- Run an inbound request at the hub: answer it, leave it, or let it wait for its snoop. -/
def Block.hubRun (b : Block) (i : Instr) : Block :=
  let fin (h : Pkt) (r : Block × InRes) : Block :=
    match r.2 with
    | .resp st rt old => r.1.answer h st rt old
    | .silent => r.1
    | .wait => { r.1 with weave := { r.1.weave with waiting := r.1.weave.waiting ++ [i] } }
  match i with
  | .write h g d => fin h (b.inWrite h g d)
  | .final h g v c => fin h (b.inFinal h g v c)
  | .atomic h op v c => fin h (b.inAtomic h op v c)
  | .enc h g f l d => fin h (b.inEnc h g f l d)
  | _ => b

/-- A packet of this module to itself as the hub takes it, over no port (R409). -/
def Out.instr (o : Out) : Option Instr :=
  let h : Pkt := ⟨18, 0, 0, true, o.inStep, o.ctx, o.core, o.dst, o.src, o.window, o.reqId, o.poison, bits o.addr 39 0, o.step, 0⟩
  match o.type with
  | 0x10 => some (.write h (bits o.addr 55 48) o.payload)
  | 0x11 => some (.final h (bits o.addr 55 48) (BitVec.ofNat 64 (fld o.payload 0 8)) (fld o.payload 8 4))
  | 0x12 => some (.atomic h (bits o.addr 41 40) (BitVec.ofNat 64 (fld o.payload 0 8)) (BitVec.ofNat 64 (fld o.payload 8 8)))
  | 0x13 => some (.enc h (bits o.addr 55 48) (bits o.addr 47 40) o.last o.payload)
  | _ => none

/-- Send one request packet: to this module's own hub, or over a port. -/
def Block.transmit (b : Block) (o : Out) : Block :=
  if o.dst = b.self then match o.instr with | some i => b.hubRun i | none => b
  else b.sendOut o

/-- Send a live request: it is live from its sending (R405). -/
def Block.sendLive (b : Block) (core : Nat) (r : LiveReq) : Block :=
  let b := b.modCore core (fun k => { k with live := k.live ++ [r], reqCtr := (k.reqCtr + 1) % 65536 })
  r.packets.foldl (fun b o => b.transmit o) b

end Sys2Proof.Machine
end

