-- ==== Sys2Proof/Machine/Descriptor.lean ====
section
/-!
DEFINITION. Mover descriptors: the checks at MOV issue (R182, R186, R187, R189), the pieces of the walk (R174, R181), and
MOV (R109) and ring COPY descriptors alike.
-/
namespace Sys2Proof.Machine

/-! ### The checks at issue (R182) -/

/-- The span of a walk over rows of `len` bytes: lowest address and end, from the corners. -/
def Desc.span (d : Desc) (base ys zs len : Nat) : Int × Int :=
  let c (y z : Nat) : Int := (base : Int) + z * d.stride zs + y * d.stride ys
  let l := [c 0 0, c (d.yc - 1) 0, c 0 (d.zc - 1), c (d.yc - 1) (d.zc - 1)]
  (l.foldl min (c 0 0), l.foldl max (c 0 0) + len)

/-- A conversion's descriptor is usable for rows of `n` groups (R58, R182, R186). -/
def cvtOk (s : ScaleDesc) (n : Nat) : Bool :=
  (s.bscale == .none || (s.axis == 0 && decide (n ≤ s.stride))) && (s.l2Mode != 1 || l2Ok (f32 s.l2))

/-- XFORM, spaces and DIMS are a combination of R189. -/
def Desc.comboOk (d : Desc) : Bool :=
  let plain := decide (d.srcSp ≤ 2)
  let one := fld d.raw 2 1 == 1
  match d.codec with
  | 0 =>
    if d.convert && d.transpose then false
    else if d.convert then plain && decide (d.dstSp ≤ 2)
    else if d.transpose then plain && d.dstSp == 0 && fld d.raw 2 1 == 2
    else plain && decide (d.dstSp ≤ 3)
  | 3 => !d.convert && !d.transpose && plain && d.dstSp == 3 && one
  | _ => !d.transpose && d.srcSp == 2 && decide (d.dstSp ≤ 1) && one

/-- Fields of a COPY obey R177–R182, R186, R187 and R239. -/
def Desc.copyOk (d : Desc) : Bool :=
  let dims := fld d.raw 2 1
  let total := d.xlen * d.yc * d.zc
  decide (d.srcSp ≤ 3) && decide (d.dstSp ≤ 3) && decide (1 ≤ dims ∧ dims ≤ 3) && bits d.xform 7 6 == 0 &&
    bits d.xform 5 4 != 3 && (d.transpose || bits d.xform 5 4 == 0) && bits d.flags 15 5 == 0 &&
    decide (d.srcTag ≤ 2) && decide (d.dstTag ≤ 2) && (d.srcSp == 0 || d.srcTag == 0) && (d.dstSp == 0 || d.dstTag == 0) &&
    bits (fld d.raw 6 1) 7 5 == 0 && rsv d.raw 7 1 && rsv d.raw 56 8 && bits (fld d.raw 54 2) 15 12 == 0 &&
    (d.dstSp == 3 || d.window == 0) &&
    decide (1 ≤ d.xlen ∧ d.xlen ≤ 2 ^ 24) && decide (1 ≤ d.yc) && decide (1 ≤ d.zc) && (dims != 1 || d.yc == 1) &&
    (dims == 3 || d.zc == 1) && decide (total ≤ 2 ^ 32) && d.comboOk &&
    (d.srcSp != 2 || decide (d.src < 2 ^ 56)) && (d.dstSp != 2 || decide (d.dst < 2 ^ 56)) &&
    (!d.transpose || (d.dst % 4096 == 0 && d.stride 40 == 4096 && d.xlen % 64 == 0 && decide (d.xlen ≤ 4096) &&
      d.yc * d.esize % 64 == 0 && decide (d.yc * d.esize ≤ 4096))) &&
    (d.codec == 0 || (rsv d.ext 28 36 &&
      (if d.codec == 3 then d.tableAddr == 0 && d.firstBlock == 0 else decide (d.tableAddr < 2 ^ 56)) &&
      (if d.codec == 2 then decide (d.refAddr < 2 ^ 56) else d.refAddr == 0) &&
      (if d.convert then decide (d.scaleBase < 2 ^ 56) else d.scaleBase == 0))) &&
    (!d.convert || (match d.srcScale, d.dstScale with
      | some s, some t => d.xlen % groupBytes s == 0 && cvtOk s (d.xlen / groupBytes s) && cvtOk t (d.xlen / groupBytes s) &&
          (d.codec == 0 || codeMap s t)
      | _, _ => false))

/-- Fields of a FINAL or ATOMIC obey R180. -/
def Desc.flagOk (d : Desc) : Bool :=
  let atomic := d.op == 2
  d.srcSp == 0 && fld d.raw 2 1 == 1 && d.xform == 0 && (d.flags == 0 || d.flags == 16) && bits (fld d.raw 6 1) 7 5 == 0 &&
    rsv d.raw 7 1 && d.dst % 8 == 0 && bits (fld d.raw 54 2) 15 12 == 0 && (d.dstSp == 3 || d.window == 0) &&
    (if atomic then
      d.dstSp == 3 && (fld d.raw 24 4 == 0xFFFFFFFF || fld d.raw 24 4 % 8 == 0) && decide (fld d.raw 28 1 ≤ 3) &&
        rsv d.raw 29 19 && (fld d.raw 28 1 == 3 || rsv d.raw 56 8)
     else decide (1 ≤ d.dstSp ∧ d.dstSp ≤ 3) && rsv d.raw 24 24 && rsv d.raw 56 8 && (d.dstSp != 2 || decide (d.dst < 2 ^ 56)))

/-- SCRATCH or TILE ranges that a descriptor reaches, as (space, lowest address, end). -/
def Desc.reach (d : Desc) : List (Nat × Int × Int) :=
  if d.op ≠ 0 then
    (if d.dstSp = 1 then [(1, (d.dst : Int), (d.dst : Int) + 8)] else []) ++
      (if d.op = 2 ∧ fld d.raw 24 4 ≠ 0xFFFFFFFF then [(0, (fld d.raw 24 4 : Int), (fld d.raw 24 4 : Int) + 8)] else [])
  else
    let sc (sp base : Nat) (s : Option ScaleDesc) : List (Nat × Int × Int) :=
      match d.srcScale, s with
      | some ss, some x =>
        (if x.bscale = .none then [] else
          let a : Int := ((base + x.bsOff) % 2 ^ 64 : Nat)
          [(sp, a, a + ((d.rows - 1) * x.stride + d.xlen / groupBytes ss : Nat))]) ++
        (if x.l2Mode = 2 then let a : Int := ((base + x.l2Off) % 2 ^ 64 : Nat); [(sp, a, a + (4 * d.rows : Nat))] else [])
      | _, _ => []
    let src := (d.srcSp, d.span d.src 32 36 d.xlen)
    let dst := if d.transpose then (d.dstSp, ((d.dst : Int), (d.dst : Int) + ((d.xlen / d.esize - 1) * 4096 + d.yc * d.esize : Nat)))
               else (d.dstSp, d.span d.dst 40 44 d.dstLen)
    [src, dst] ++ (if d.convert then (if d.decodes then [] else sc d.srcSp d.src d.srcScale) ++ sc d.dstSp d.dst d.dstScale else [])

/-- A reached range lies in the context's slot range or tile range (R152, R159, R182). -/
def reachOk (bd : Binding) (tileLen : Nat) (r : Nat × Int × Int) : Bool :=
  match r.1 with
  | 0 => decide ((bd.slotFirst * 16384 : Nat) ≤ r.2.1 ∧ r.2.2 ≤ ((bd.slotFirst + bd.slotCount) * 16384 : Nat))
  | 1 => decide (0 ≤ r.2.1 ∧ r.2.2 ≤ (tileLen : Int))
  | _ => true

/-- The refusal of a descriptor (R182): status and DETAIL. -/
def Block.descRefusal (b : Block) (core : Nat) (bd : Binding) (d : Desc) : Option (Nat × Nat) :=
  let ok := match d.op with | 0 => d.copyOk | 1 | 2 => d.flagOk | _ => false
  if !ok then some (stInvalid, 2)
  else if !d.reach.all (reachOk bd ((b.part (partOf core)).rangeOf bd.ctx).2) then some (stRights, 7)
  else if d.push ∧ (b.queueOf core bd d.qsel).isNone then some (stRights, 8)
  else none

/-! ### Pieces (R174, R181, R240) -/

/-- A piece that has not been issued. -/
def freshPiece (row off src len : Nat) : Piece := ⟨row, off, src, len, .pending, [], [], [], [], 0, 0, 0, false, 0⟩

/-- Blocks of 16 KiB of `n` bytes: offset and length. -/
def blockRuns (n : Nat) : List (Nat × Nat) :=
  (List.range ((n + blockLen - 1) / blockLen)).map (fun i => (i * blockLen, min blockLen (n - i * blockLen)))

/-- The pieces of a COPY in walk order. What decodes goes block by block; an ENCODE reads each of its blocks piece by
piece (R174, R243). -/
def Desc.mkPieces (d : Desc) : List Piece :=
  if d.op ≠ 0 then []
  else if d.decodes then (blockRuns d.xlen).map (fun r => freshPiece 0 r.1 ((d.src + r.1) % 2 ^ 64) r.2)
  else if d.codec ≠ 0 then (blockRuns d.xlen).flatMap (fun w =>
    (pageRuns (d.src + w.1) w.2).map (fun r => freshPiece 0 (w.1 + r.1) (d.src + w.1 + r.1) r.2))
  else (List.range d.rows).flatMap (fun q =>
    (pageRuns (d.srcRow q) d.xlen).map (fun r => freshPiece q r.1 (d.srcRow q + r.1) r.2))

/-! ### Accepting a descriptor -/

/-- The outbound group in force for a target and window (R180). -/
def Core.groupFor (k : Core) (ctx target window : Nat) : Option OutGroup :=
  k.groups.find? (fun g => g.cur && g.ctx == ctx && g.target == target && g.window == window)

/-- Enter a descriptor into a mover's queue (R180, R182): its pieces, and its group; a FINAL closes the
group. -/
def Core.accept (k : Core) (m : Nat) (d : Desc) : Core :=
  let k := if d.dstSp ≠ 3 ∨ d.op = 2 ∨ (k.groupFor d.ctx d.target d.window).isSome then k
           else { k with groups := k.groups ++ [⟨d.ctx, d.target, d.window, 0, 0, true⟩] }
  let g := ((k.groupFor d.ctx d.target d.window).map (·.group)).getD 0
  let d : Desc := { d with id := k.issueCtr, group := g, pieces := d.mkPieces }
  let k : Core := if d.dstSp = 3 ∧ d.op = 1 then
      { k with groups := k.groups.map (fun x => if x.cur ∧ x.ctx = d.ctx ∧ x.target = d.target ∧ x.window = d.window
                 then { x with cur := false } else x) ++ [⟨d.ctx, d.target, d.window, (g + 1) % 256, 0, true⟩] }
    else k
  { k.modMover m (fun v => { v with queue := v.queue ++ [d] }) with issueCtr := k.issueCtr + 1 }

/-- A descriptor enters the queue, and the timer of a mover that held none starts (R458). -/
def Core.acceptAt (k : Core) (now m : Nat) (d : Desc) : Core :=
  let k' := k.accept m d
  if (k.mover m).queue.isEmpty then { k' with movProg := SMap.put k'.movProg m now } else k'

/-- Bytes of a transfer in units of 4 KiB, rounded up. -/
def Desc.units (d : Desc) : Nat := if d.op = 0 then (d.xlen * d.rows + 4095) / 4096 else 1

/-- Trace argument of a descriptor (R199). -/
def Desc.arg (d : Desc) (m : Nat) : Nat := d.movId + m * 2 ^ 16

/-- A descriptor before acceptance. -/
def newDesc (ctx kid step pc movId : Nat) (raw : List Byte) (swap : SSet) : Desc :=
  ⟨0, ctx, kid, step, pc, movId, raw, swap, [], [], [], false, false, false, false, 0, [], [], 0⟩

/-- The bytes of a descriptor in scratchpad: the main part and the extensions its XFORM asks for (R179). -/
def descLen (raw : List Byte) : Nat :=
  if fld raw 0 1 ≠ 0 then 64 else 64 + (if bits (fld raw 3 1) 3 2 = 0 then 0 else 64) + (if bit (fld raw 3 1) 0 then 64 else 0)

/-- MOV issues a descriptor (R109, R182). -/
def Block.mov (b : Block) (core : Nat) : Block :=
  b.issue core 0x400 (fun r =>
    let k := b.core core
    let w := r.word
    let m := wf_ w 123 122
    let a := ((r.q.areg (wf_ w 121 118)).toNat + 64 * wf_ w 117 102) % 2 ^ 64
    if 64 ≤ (k.mover m).queue.length then b
    else if a % 64 ≠ 0 then b.preciseStop core r.ctx stInvalid 2
    else if !r.bind.holds a 64 then b.preciseStop core r.ctx stRights 7
    else
      let main := k.scratchBytes k.swap a 64
      let len := descLen main
      if !r.bind.holds a len then b.preciseStop core r.ctx stRights 7
      else if !(k.scratchBad k.swap a len).isEmpty then b.preciseStop core r.ctx stData 9
      else
        let raw := k.scratchBytes k.swap a len
        let raw := if bit w.toNat 101 then patch raw 8 (natLe 8 (r.q.areg (wf_ w 100 97)).toNat) else raw
        let raw := if bit w.toNat 96 then patch raw 16 (natLe 8 (r.q.areg (wf_ w 95 92)).toNat) else raw
        let d := newDesc r.ctx r.ker.kid r.ker.step r.q.pc (wf_ w 91 76) raw k.swap
        match b.descRefusal core r.bind d with
        | some e => b.preciseStop core r.ctx e.1 e.2
        | none =>
          let b := (b.cross (arrIsl core) (movIsl core)).modCore core (fun k => k.acceptAt b.time.keeper m d)
          let b := b.emit (movIsl core) 0x0100 r.ctx r.ker.step (d.arg m + d.units % 2 ^ 24 * 2 ^ 24)
          b.issued core r.ctx r.q.advance)

def execMov (core : Nat) (s : State) : Host.Outcome State Fault Refusal := s.run (·.mov core)

end Sys2Proof.Machine
end

