-- ==== Sys2Proof/Machine/Stream.lean ====
section
/-!
DEFINITION. How a mover reads and writes its spaces: its translation stream (R299, R301), the checks of a physical
access (R176, R197, R294), the snoop filter (R444), the bandwidth shares (R195) and what a read delivers at once and asks
of host memory (R441, R443).
-/
namespace Sys2Proof.Machine

/-- A lookup of a stream. -/
inductive Xl where
  | ok (pa : Nat)
  | miss
  | bad (st : Nat)
  deriving DecidableEq, Repr

/-- Use an entry for an access. -/
def TlbEnt.use (e : TlbEnt) (va acc : Nat) : Xl := if e.allows acc then .ok (e.pa + (va - e.va)) else .bad stRights

/-- Look an address up in the stream's micro-TLB, then in the tile TLB (R299). -/
def Block.lookup (b : Block) (core m ctx va acc : Nat) : Xl :=
  if 2 ^ 56 ≤ va then .bad stFault
  else match tlbFind ((b.core core).mover m).utlb ctx va with
    | some e => e.use va acc
    | none => match tlbFind (b.part (partOf core)).tlb ctx va with
      | some e => e.use va acc
      | none => .miss

/-- A hit makes its entry the most recently used of the micro-TLB; a tile TLB hit fills it (R299). -/
def Block.touch (b : Block) (core m ctx va : Nat) : Block :=
  let u := ((b.core core).mover m).utlb
  match tlbFind u ctx va with
  | some e => b.modCore core (fun k => k.modMover m (fun v => { v with utlb := e :: u.filter (fun x => x != e) }))
  | none => match tlbFind (b.part (partOf core)).tlb ctx va with
    | some e => b.modCore core (fun k => k.modMover m (fun v => { v with utlb := (e :: u).take 32 }))
    | none => b

/-- An access goes through the stream at each of its runs (address, length, physical address). -/
def Block.touchRuns (b : Block) (core m ctx : Nat) (runs : List (Nat × Nat × Nat)) : Block :=
  runs.foldl (fun b r => b.touch core m ctx r.1) b

/-- Enter a translation in the tile TLB and the micro-TLB of a stream (R299, R302). -/
def Block.fillTlb (b : Block) (core m : Nat) (e : TlbEnt) : Block :=
  let b := b.modPart (partOf core) (fun p => { p with tlb := (e :: p.tlb.filter (fun x => x != e)).take 4096 })
  b.modCore core (fun k => k.modMover m (fun v => { v with utlb := (e :: v.utlb.filter (fun x => x != e)).take 32 }))

/-- Enter the TABLE entries a walk used in the partition's walk cache (R300). -/
def Block.fillWalks (b : Block) (p : Nat) (l : List WalkEnt) : Block :=
  b.modPart p (fun t => { t with walks := (l ++ t.walks.filter (fun w => !l.contains w)).take 512 })

/-- Range of addresses that a table of a level serves (R296). -/
def tableSpan : Nat → Nat
  | 1 => 2 ^ 39
  | 2 => 2 ^ 30
  | _ => 2 ^ 21

/-- A walk-cache entry serves an address (R300). -/
def WalkEnt.serves (w : WalkEnt) (ctx va : Nat) : Bool :=
  w.ctx == ctx && w.va * 2 ^ 16 / tableSpan w.level == va / tableSpan w.level

/-- A hub walk for a stream (R297, R300): it starts at the deepest table that the walk cache names. -/
def Block.streamWalk (b : Block) (core ctx va : Nat) : Walk × List WalkEnt :=
  let ws := (b.part (partOf core)).walks.filter (fun w => w.serves ctx va)
  match ws.find? (fun w => w.level == 3), ws.find? (fun w => w.level == 2), ws.find? (fun w => w.level == 1) with
  | some w, _, _ => b.walkFrom ctx va 1 3 w.table []
  | none, some w, _ => b.walkFrom ctx va 2 2 w.table []
  | none, none, some w => b.walkFrom ctx va 3 1 w.table []
  | none, none, none => b.walkFrom ctx va 4 0 (b.ctx ctx).ptRoot []

/-! ### Islands -/

/-- The island of a space a core's mover reads or writes: its own array island for the scratchpad, the tile's fabric
island, or those of the physical runs. -/
def spaceIsls (core space : Nat) (runs : List (Nat × Nat × Nat)) : List Nat :=
  match space with
  | 0 => [arrIsl core]
  | 1 => [fabIsl (partOf core)]
  | _ => (runs.map (fun r => memIsl r.2.2)).eraseDups

/-! ### Bandwidth shares (R195) -/

/-- Percent of a share class: 0 READ, 1 WRITE, 2 REMOTE. -/
def Core.share (k : Core) : Nat → Nat
  | 0 => k.shares.1 | 1 => k.shares.2.1 | _ => k.shares.2.2

/-- Bytes of a class may be issued now. -/
def Block.shareFree (b : Block) (core cls n : Nat) : Bool :=
  let k := b.core core
  let used := ((k.spent.filter (fun s => s.1 == cls && decide (b.time.keeper < s.2.1 + 1000))).map (fun s => s.2.2)).sum
  n == 0 || decide (used + n ≤ k.share cls * 10000 + 4096)

/-- Bytes of a class are issued. -/
def Block.shareSpend (b : Block) (core cls n : Nat) : Block :=
  if n = 0 then b
  else b.modCore core (fun k => { k with
    spent := k.spent.filter (fun s => decide (b.time.keeper < s.2.1 + 1000)) ++ [(cls, b.time.keeper, n)] })

/-- A physical address lies across the die-to-die link from a core: everything but its own tile's DRAM. -/
def acrossLink (core pa : Nat) : Bool := bits pa 51 48 != 0 || bits pa 47 40 != partOf core

/-- Bytes of runs that cross the die-to-die link (R195). -/
def linkBytes (core : Nat) (runs : List (Nat × Nat × Nat)) : Nat :=
  ((runs.filter (fun r => acrossLink core r.2.2)).map (fun r => r.2.1)).sum

/-! ### What an access must have -/

/-- What stands against a set of accesses of a stream: a miss, a failure (with the physical run it met, if any), a wait,
or nothing, with the physical runs (address, length, physical address). -/
inductive Need where
  | miss (va : Nat)
  | bad (st : Nat) (at_ : Option (Nat × Nat))
  | hold
  | snoop (lines : List Nat)
  | go (runs : List (Nat × Nat × Nat))
  deriving DecidableEq, Repr

/-- Check the VIRT ranges (address, length) of an access under access bits `acc`: translation first, then the space's
own rules, then the snoop filter. -/
def Block.needs (b : Block) (core m ctx : Nat) (ranges : List (Nat × Nat)) (wr : Bool) : Need :=
  let acc := if wr then 2 else 1
  ranges.foldl (fun st r => (pageRuns r.1 r.2).foldl (fun st p => match st with
    | .go l =>
      (match b.lookup core m ctx (r.1 + p.1) acc with
       | .miss => .miss (r.1 + p.1)
       | .bad e => .bad e none
       | .ok pa =>
         let c := b.physCheck ctx pa p.2 wr
         if c = stWait then .hold
         else if c ≠ stOK ∧ !(c = stData ∧ !wr) then .bad c (some (pa, p.2))
         else
           let lines := if bits pa 51 48 = 0 then b.snooped (bits pa 47 0) p.2 else []
           if lines.isEmpty then .go (l ++ [(r.1 + p.1, p.2, pa)]) else .snoop lines)
    | s => s) st) (.go [])

/-- A stream parks on a miss and a walk starts (R301). -/
def Block.parkOn (b : Block) (core m : Nat) (d : Desc) (va acc : Nat) : Block :=
  if ((b.core core).mover m).park ≠ .none then b
  else
    let b := b.emit (movIsl core) 0x0103 d.ctx d.step (d.arg m + bits va 39 16 * 2 ^ 24)
    b.modCore core (fun k => k.modMover m (fun v => { v with park := .walk va acc, parkCtx := d.ctx, parkDesc := d.id }))

/-- Go on with an access of a descriptor where nothing stands against it; `block` is the index that a failure reports. -/
def Block.access (b : Block) (core m : Nat) (d : Desc) (ranges : List (Nat × Nat)) (wr : Bool) (block : Nat)
    (f : List (Nat × Nat × Nat) → Block) : Block :=
  match b.needs core m d.ctx ranges wr with
  | .miss va => b.parkOn core m d va (if wr then 2 else 1)
  | .bad st at_ =>
    let b := match at_ with | some p => (if st = stNoGrant then b.grantDenied d.ctx p.1 p.2 else b) | none => b
    b.failDesc core m d st block
  | .hold => b
  | .snoop l => b.snoopSend l
  | .go runs => f runs

/-! ### What a read delivers -/

/-- Bytes read, with the poisoned ones, and the runs (place, physical address, length) that host memory has still to
deliver: zeros stand there. -/
structure Got where
  data : List Byte
  bad  : List Nat
  host : List (Nat × Nat × Nat)
  deriving DecidableEq, Repr

/-- One read after another. -/
def Got.then_ (g h : Got) : Got :=
  let n := g.data.length
  ⟨g.data ++ h.data, g.bad ++ h.bad.map (fun i => n + i), g.host ++ h.host.map (fun r => (n + r.1, r.2))⟩

/-- `n` bytes none of which is good. -/
def Got.lost (n : Nat) : Got := ⟨List.replicate n 0#8, List.range n, []⟩

/-- The packets of a Treleb access (R441): at most 16 flits each, offset and length. -/
def trelebRuns (a n : Nat) : List (Nat × Nat) :=
  (List.range ((a + n + 255) / 256 - a / 256)).map (fun i =>
    let lo := max a ((a / 256 + i) * 256)
    let hi := min (a + n) ((a / 256 + i + 1) * 256)
    (lo - a, hi - lo))

/-- A physical run read for a context. -/
def Block.gotPhys (b : Block) (ctx pa n : Nat) : Got :=
  if b.physCheck ctx pa n false = stData then Got.lost n
  else match bits pa 51 48 with
    | 0 => ⟨Mem.bytes b.dram.mem (bits pa 47 0) n, poisonedIn 64 b.dram.bad (bits pa 47 0) n, []⟩
    | 1 => ⟨Mem.bytes b.firn.mem (bits pa 47 0) n, poisonedIn 16 b.firn.poison (bits pa 47 0) n, []⟩
    | _ => ⟨List.replicate n 0#8, [], (trelebRuns pa n).map (fun r => (r.1, bits (pa + r.1) 47 0, r.2))⟩

/-- A range of a space read for a descriptor, whose VIRT addresses translate. -/
def Block.got (b : Block) (core m : Nat) (d : Desc) (space a n : Nat) : Got :=
  match space with
  | 0 => let k := b.core core; ⟨k.scratchBytes d.swap a n, k.scratchBad d.swap a n, []⟩
  | 1 =>
    let p := b.part (partOf core)
    let base := (p.rangeOf d.ctx).1
    ⟨Mem.bytes p.tile (base + a) n, poisonedIn 16 p.tilePoison (base + a) n, []⟩
  | _ => (pageRuns a n).foldl (fun g r => g.then_ (match b.lookup core m d.ctx (a + r.1) 1 with
      | .ok pa => b.gotPhys d.ctx pa r.2
      | _ => Got.lost r.2)) ⟨[], [], []⟩

/-- Several ranges (space, address, length) read one after another. -/
def Block.gotAll (b : Block) (core m : Nat) (d : Desc) (l : List (Nat × Nat × Nat)) : Got :=
  l.foldl (fun g r => g.then_ (b.got core m d r.1 r.2.1 r.2.2)) ⟨[], [], []⟩

/-- What a read of a codec sees of host memory: the bytes as they stand at its issue (DEDUCED: R443 gives a read the
latest value, and the codec's index tells it where to read on). -/
def Block.gotSeen (b : Block) (g : Got) : Got :=
  ⟨g.host.foldl (fun l r => patch l r.1 (Mem.bytes b.hostMem r.2.1 r.2.2)) g.data,
   g.bad ++ g.host.flatMap (fun r => (poisonedIn 16 b.hostPoison r.2.1 r.2.2).map (fun i => r.1 + i)), g.host⟩

/-- Ask host memory for what a read of a piece lacks. -/
def Block.askHost (b : Block) (core m id i : Nat) (host : List (Nat × Nat × Nat)) : Block :=
  host.foldl (fun b r => b.request (.pieceRead core m id i r.1) r.2.1 r.2.2 [] []) b

end Sys2Proof.Machine
end

