-- ==== Sys2Proof/Machine/CodecRead.lean ====
section
/-!
DEFINITION. A descriptor's conversion geometry (R186), changes of pieces, and the codec's reads: the stream header, a
block with its index entry, table and reference, and its decoding (R239–R245).
-/
namespace Sys2Proof.Machine

/-- Change one descriptor of a mover, queued or ended. -/
def Block.modDesc (b : Block) (core m id : Nat) (f : Desc → Desc) : Block :=
  b.modCore core (fun k => k.modMover m (fun v => v.modDesc id f))

/-- Change one piece of a descriptor, queued or ended. -/
def Block.modPiece (b : Block) (core m id i : Nat) (f : Piece → Piece) : Block :=
  b.modDesc core m id (fun d => d.setPiece i f)

/-- The mover of a core has made progress (R458). -/
def Block.movStep (b : Block) (core m : Nat) : Block :=
  b.modCore core (fun k => { k with movProg := SMap.put k.movProg m b.time.keeper })

/-! ### Geometry of a conversion (R186) -/

/-- Where the source block scale of a group lies: space and address. -/
def Desc.srcScaleAt (d : Desc) (s : ScaleDesc) (q g : Nat) : Nat × Nat :=
  if d.decodes then (2, scaleAddr s d.scaleBase q (32 * g)) else (d.srcSp, scaleAddr s d.src q (32 * g))

/-- Where the line scale of a row lies, against a tensor's base. -/
def lineAt (s : ScaleDesc) (base q : Nat) : Nat := (base + s.l2Off + 4 * q) % 2 ^ 64

/-- Scale bytes of the source that are read with a piece (R186), as (space, address, length): the block scale of each
group, then the line scale. -/
def Desc.srcSide (d : Desc) (p : Piece) : List (Nat × Nat × Nat) :=
  match d.convert, d.srcScale with
  | true, some s =>
    (if s.bscale = .none then [] else (d.groupsOf p).map (fun g => let a := d.srcScaleAt s p.row g; (a.1, a.2, 1))) ++
      (if s.l2Mode = 2 then [(d.srcSp, lineAt s d.src p.row, 4)] else [])
  | _, _ => []

/-- The destination's line scale, read with a piece (R65). -/
def Desc.dstSide (d : Desc) (p : Piece) : List (Nat × Nat × Nat) :=
  match d.convert, d.dstScale with
  | true, some t => if t.l2Mode = 2 then [(d.dstSp, lineAt t d.dst p.row, 4)] else []
  | _, _ => []

/-- Ranges of a list that lie in one space. -/
def inSpace (space : Nat) (l : List (Nat × Nat × Nat)) : List (Nat × Nat) := (l.filter (fun r => r.1 == space)).map (fun r => r.2)

/-- Ranges of the source space that a piece reads: elements, and for a conversion the scales of its groups. -/
def Desc.srcRanges (d : Desc) (p : Piece) : List (Nat × Nat) := (p.src, p.len) :: inSpace d.srcSp (d.srcSide p)

/-! ### The stream and its blocks -/

/-- Bytes of a VIRT range as the codec sees them; host memory that does not answer is bad (R449). -/
def Block.seen (b : Block) (core m : Nat) (d : Desc) (a n : Nat) : Got :=
  let g := b.got core m d 2 a n
  let h := b.gotSeen g
  { h with bad := h.bad ++ (g.host.filter (fun r => !(b.hostUp && b.hostAnswers r.2.1 r.2.2))).flatMap (fun r =>
      (List.range r.2.2).map (fun i => r.1 + i)) }

/-- Address of the index word of block `n` (R227). -/
def Desc.idxAt (d : Desc) (n : Nat) : Nat := d.src + 64 + 4 * n

/-- Address at which the index says that block `n` begins. -/
def Block.blockAt (b : Block) (core m : Nat) (d : Desc) (n : Nat) : Nat := d.src + leNat (b.seen core m d (d.idxAt n) 4).data

/-- Where block `n` lies in a stream stored in order (R228): after the index, or after the block before it. -/
def Block.blockDue (b : Block) (core m : Nat) (d : Desc) (n : Nat) : Nat :=
  if n = 0 then d.src + 64 + roundUp 64 (4 * fld d.head 0 4)
  else
    let a := b.blockAt core m d (n - 1)
    a + 8 + roundUp 8 (bhComp (b.seen core m d a 8).data)

/-- Ranges of the index and of the block before that block `n` needs. -/
def Block.indexRanges (b : Block) (core m : Nat) (d : Desc) (n : Nat) : List (Nat × Nat) :=
  (d.idxAt n, 4) :: (if n = 0 then [] else [(d.idxAt (n - 1), 4), (b.blockAt core m d (n - 1), 8)])

/-- Decoded length of block `n`. -/
def Desc.blockDec (d : Desc) (n : Nat) : Nat := min blockLen (fld d.head 8 8 - blockLen * n)

/-- The block is coded under a table of the table set: its number (R230). -/
def codedTable (h : List Byte) : Option Nat := if bits (bhFlags h) 2 0 = 0 then some (bits (bhFlags h) 7 4) else none

/-- Landed length of block `i` of a transfer. -/
def Desc.blockWant (d : Desc) (i : Nat) : Nat := ((d.pieces[i]?).map (·.len)).getD 0

/-- Ranges that block `i` of a descriptor reads beyond the index: its header, and where that obeys R230 its payload, the
table it names, the reference of the bytes that land, and their scales. -/
def Block.blockRanges (b : Block) (core m : Nat) (d : Desc) (i : Nat) : List (Nat × Nat) :=
  let n := d.firstBlock + i
  let a := b.blockAt core m d n
  if !(b.seen core m d (d.idxAt n) 4).bad.isEmpty ∨ a ≠ b.blockDue core m d n then []
  else
    let h := b.seen core m d a 8
    (a, 8) :: (if !h.bad.isEmpty ∨ !bhOk h.data (d.blockDec n) then [] else
      (if bhComp h.data = 0 then [] else [(a + 8, bhComp h.data)]) ++
        (match codedTable h.data with | some t => [(d.tableAddr + 128 * t, 128)] | none => []) ++
        (if d.codec = 2 then [(d.refAddr + blockLen * i, d.blockWant i)] else []) ++
        inSpace 2 (d.srcSide ((d.pieces[i]?).getD (freshPiece 0 0 0 0))))

/-- Decode block `i` (R244, R245): its landed bytes, their poisoned offsets and the reason of R244 (0 none). A poisoned
word decides before a reason does; with a reason nothing lands. -/
def Block.codecDecode (b : Block) (core m : Nat) (d : Desc) (i : Nat) : List Byte × List Nat × Nat :=
  let n := d.firstBlock + i
  let want := d.blockWant i
  let len := d.blockDec n
  let poisoned : List Byte × List Nat × Nat := (List.replicate want 0#8, List.range want, 0)
  let a := b.blockAt core m d n
  let h := b.seen core m d a 8
  if !(b.seen core m d (d.idxAt n) 4).bad.isEmpty then poisoned
  else if a ≠ b.blockDue core m d n then ([], [], 3)
  else if !h.bad.isEmpty then poisoned
  else if !bhOk h.data len then ([], [], 3)
  else
    let pl := b.seen core m d (a + 8) (bhComp h.data)
    let tb : Got := match codedTable h.data with
      | some t => let g := b.seen core m d (d.tableAddr + 128 * t) 128; { g with data := List.replicate (128 * t) 0#8 ++ g.data }
      | none => ⟨[], [], []⟩
    let ref : Got := if d.codec = 2 then b.seen core m d (d.refAddr + blockLen * i) want else ⟨[], [], []⟩
    if !pl.bad.isEmpty ∨ !tb.bad.isEmpty then poisoned
    else match decodeBlock h.data pl.data tb.data len with
      | .error e => ([], ref.bad, e)
      | .ok out =>
        let bad := if ref.bad.isEmpty then [] else (List.range want).filter (fun j => ref.bad.any (fun x => x / 16 == j / 16))
        (if d.codec = 2 then applyDiff (fld d.head 4 1) ref.data (out.take want) else out.take want, bad, 0)

/-- Codec blocks of a partition on decode lanes (R241). -/
def Block.lanesBusy (b : Block) (p : Nat) : Nat :=
  ((List.range 4).map (fun c => ((List.range 4).map (fun m =>
    ((((b.core (4 * p + c)).mover m).queue.filter Desc.decodes).map (fun d =>
      (d.pieces.filter (fun x => x.state == .reading)).length)).sum)).sum)).sum

/-- A block, or with it the stream, fails (R244, R247). -/
def Block.decodeFail (b : Block) (core m : Nat) (d : Desc) (st n reason : Nat) : Block :=
  (b.emit hubIsl 0x0330 d.ctx d.step (n % 2 ^ 32 + reason * 2 ^ 32)).failDesc core m d st n

/-- BASE_TAG of a stream header suits the transfer (R240): it names the model that owns the reference's first extent, or
there is none. -/
def Block.baseTagOk (b : Block) (d : Desc) (head : List Byte) (refPa : Nat) : Bool :=
  let tag := (head.drop 24).take 8
  if d.codec = 1 then leNat tag == 0
  else leNat tag != 0 && tag == ((SMap.get {} b.firn.models (SMap.get 0 b.firn.owner (bits refPa 47 0 / 2097152))).digest).take 8

/-- Before the first block (R240, R244): the stream header is read and checked, and BASE_TAG compared. `f` goes on with
the header. -/
def Block.codecOpen (b : Block) (core m : Nat) (d : Desc) (f : Desc → Block → Block) : Block :=
  if !d.head.isEmpty then f d b
  else b.access core m d [(d.src, 64)] false d.firstBlock (fun runs =>
    let h := b.seen core m d d.src 64
    let b := (runs.foldl (fun b r => b.delivered r.2.2 r.2.1) b).touchRuns core m d.ctx runs
    if !h.bad.isEmpty then b.decodeFail core m d stData d.firstBlock 0
    else if !streamOk h.data d.firstBlock d.xlen then b.decodeFail core m d stDecode d.firstBlock 1
    else
      let go (b : Block) (pa : Nat) : Block :=
        if !b.baseTagOk d h.data pa then b.decodeFail core m d stDecode d.firstBlock 2
        else f { d with head := h.data } (b.modDesc core m d.id (fun d => { d with head := h.data }))
      if d.codec = 1 then go b 0
      else b.access core m d [(d.refAddr, 1)] false d.firstBlock (fun rr => match rr.head? with
        | some r => if bits r.2.2 51 48 ≠ 1 then b.failDesc core m d stRights d.firstBlock else go b r.2.2
        | none => b))

/-- A lane takes block `i` of a descriptor (R240–R242): what it reads through the mover's stream, and its decoding. -/
def Block.codecIssue (b : Block) (core m : Nat) (d : Desc) (i : Nat) (p : Piece) : Block :=
  if (b.part (partOf core)).lanes ≤ b.lanesBusy (partOf core) ∨ !b.shareFree core 0 p.len then b
  else b.codecOpen core m d (fun d b =>
    let n := d.firstBlock + i
    b.access core m d (b.indexRanges core m d n ++ b.blockRanges core m d i) false n (fun runs =>
      let refs := runs.filter (fun r => d.codec == 2 && decide (d.refAddr ≤ r.1 ∧ r.1 < d.refAddr + d.xlen))
      if refs.any (fun r => bits r.2.2 51 48 != 1) then b.failDesc core m d stRights n
      else
        let o := b.codecDecode core m d i
        let s := (b.gotAll core m d (d.srcSide p))
        let s := b.gotSeen s
        let host := (runs.filter (fun r => bits r.2.2 51 48 == 2)).flatMap (fun r => (trelebRuns r.2.2 r.2.1).map (fun x =>
          (0, bits (r.2.2 + x.1) 47 0, x.2)))
        let b := (b.shareSpend core 0 p.len).touchRuns core m d.ctx runs
        let b := runs.foldl (fun b r => b.delivered r.2.2 r.2.1) b
        let b := b.crossFrom ((runs.map (fun r => memIsl r.2.2)).eraseDups) hubIsl
        (b.modPiece core m d.id i (fun x => { x with
          state := .reading, data := o.1, poison := o.2.1, err := o.2.2, side := s.data, sideBad := s.bad, open_ := host.length
          at_ := b.time.keeper })).askHost core m d.id i host))

end Sys2Proof.Machine
end

