-- ==== Sys2Proof/Machine/Movers.lean ====
section
/-!
DEFINITION. The stream movers' reads: order behind their own writes (R163), dependence marks, credits and prefetch entries
(R164, R174, R175, R190–R192), lookahead (R301), source tags (R154, R183) and the issue of a piece.
-/
namespace Sys2Proof.Machine

/-! ### Order within one mover (R163) -/

/-- Granules that ranges of a space cover, as (store, first, end): a VIRT range counts under its address and, where it
translates, under its physical address. -/
def Block.grains (b : Block) (core m : Nat) (d : Desc) (space : Nat) (l : List (Nat × Nat)) : List (Nat × Nat × Nat) :=
  let g (key a n : Nat) : Nat × Nat × Nat := (key, a / 64, (a + n + 63) / 64)
  match space with
  | 0 => l.flatMap (fun r => (slotRuns r.1 r.2).map (fun s => g 0 (physAddr d.swap (r.1 + s.1)) s.2))
  | 1 => l.map (fun r => g 1 (((b.part (partOf core)).rangeOf d.ctx).1 + r.1) r.2)
  | 2 => l.flatMap (fun r => (pageRuns r.1 r.2).flatMap (fun p =>
      g (3 + d.ctx) (r.1 + p.1) p.2 :: (match b.lookup core m d.ctx (r.1 + p.1) 0 with | .ok pa => [g 2 pa p.2] | _ => [])))
  | _ => []

/-- Two lists of granules meet. -/
def grainsMeet (l k : List (Nat × Nat × Nat)) : Bool :=
  l.any (fun x => k.any (fun y => x.1 == y.1 && decide (x.2.1 < y.2.2 ∧ y.2.1 < x.2.2)))

/-- Granules that a descriptor has still to write in one space. -/
def Block.writesDue (b : Block) (core m : Nat) (d : Desc) (space : Nat) : List (Nat × Nat × Nat) :=
  if d.op = 0 then (if d.dstSp ≠ space then [] else
    (d.pieces.filter (fun p => p.state != .landed && !(d.failed && p.state != .sent))).flatMap (fun p => b.grains core m d space (d.dstRanges p)))
  else (if d.op = 1 ∧ d.dstSp = space ∧ !d.acked then b.grains core m d space [(d.dst, 8)] else []) ++
    (if space = 0 then b.grains core m d 0 d.retDue else [])

/-- A read of a mover meets a granule that an earlier descriptor of the mover has still to write: the mover's accesses
to one granule keep its queue order (R163). -/
def Block.readWaits (b : Block) (core m : Nat) (d : Desc) (l : List (Nat × Nat × Nat)) : Bool :=
  let v := (b.core core).mover m
  (v.queue ++ v.dying).any (fun e => decide (e.id < d.id) && (List.range 3).any (fun sp =>
    let mine := inSpace sp l
    !mine.isEmpty && grainsMeet (b.grains core m d sp mine) (b.writesDue core m e sp)))

/-- A landing meets a granule in which the old value of an earlier ATOMIC of the mover has still to land (R163). -/
def Block.landWaits (b : Block) (core m : Nat) (d : Desc) (l : List (Nat × Nat)) : Bool :=
  d.dstSp == 0 && ((b.core core).mover m).queue.any (fun e =>
    decide (e.id < d.id) && grainsMeet (b.grains core m d 0 l) (b.grains core m e 0 e.retDue))

/-! ### Credits, marks and prefetch entries -/

/-- Every write of descriptors issued before a mark on the movers it selects has landed, and for FULL every
earlier compute access is complete (R191). -/
def Core.markMet (k : Core) (x : Mark) : Bool :=
  (List.range 4).all (fun m => !bit x.mask m ||
    ((k.mover m).queue ++ (k.mover m).dying).all (fun d => decide (x.id < d.id) || d.landed || (d.failed && d.pieces.all (fun p => p.state != .sent)))) &&
    (!x.full || k.computeDone x.id)

/-- The next piece to issue: the first pending piece in queue order. -/
def Mover.nextPending (v : Mover) : Option (Desc × Nat × Piece) :=
  v.queue.findSome? (fun d => (d.pieces.zipIdx.find? (fun x => x.1.state == .pending)).map (fun x => (d, x.2, x.1)))

/-- Credits held on a mover (R175). -/
def Mover.credits (v : Mover) : Nat := ((v.queue ++ v.dying).map Desc.inFlight).sum

/-- Credits of a core's pool in use. -/
def Core.credits (k : Core) : Nat := ((List.range 4).map (fun m => (k.mover m).credits)).sum

/-- The prefetch entries of a core. -/
def Core.entries (k : Core) : List PfEntry := (List.range 4).flatMap (fun m => (k.mover m).prefetch)

/-- The pool takes back the storage that it needs, entry by entry, the one made first of them all first (R175; an entry is
made when its piece's data has been written). -/
def Core.trimPrefetch (k : Core) : Core :=
  let excess := k.credits + k.entries.length - 512
  if excess = 0 then k
  else
    let cut := ((k.entries.map (·.made)).mergeSort).getD (excess - 1) 0
    (List.range 4).foldl (fun k m => k.modMover m (fun v => { v with prefetch := v.prefetch.filter (fun e => decide (cut < e.made)) })) k

/-- The prefetch entry that serves a piece (R192): every byte that it needs of its source, scales included, lies in it. -/
def Mover.serves (v : Mover) (d : Desc) (p : Piece) : Option PfEntry :=
  if (d.srcSp ≠ 1 ∧ d.srcSp ≠ 2) ∨ d.codec ≠ 0 then none
  else v.prefetch.find? (fun e => e.ctx == d.ctx && e.space == d.srcSp && decide (e.desc < d.id) &&
    (d.srcRanges p).all (fun r => decide (e.addr ≤ r.1 ∧ r.1 + r.2 ≤ e.addr + e.data.length)) &&
    !v.markIds.any (fun i => decide (e.desc < i ∧ i < d.id)))

/-- Ranges read from a prefetch entry. -/
def PfEntry.got (e : PfEntry) (l : List (Nat × Nat)) : Got :=
  ⟨l.flatMap (fun r => (e.data.drop (r.1 - e.addr)).take r.2), [], []⟩

/-- A landed piece's staging becomes a prefetch entry (R175). One with an uncorrectable word is discarded (R164). -/
def Block.keepEntry (b : Block) (core m : Nat) (d : Desc) (p : Piece) : Block :=
  if !p.kept ∨ d.codec ≠ 0 ∨ (d.srcSp ≠ 1 ∧ d.srcSp ≠ 2) ∨ !p.poison.isEmpty then b
  else b.modCore core (fun k => Core.trimPrefetch { (k.modMover m (fun v => { v with
    prefetch := v.prefetch ++ [⟨d.ctx, d.srcSp, p.src, p.phys, p.data, d.id, k.pfCtr⟩] })) with pfCtr := k.pfCtr + 1 })

/-- A mark holds the descriptor's reads: RUNAHEAD_STOP is written once (R190, R199). -/
def Block.markStop (b : Block) (core m : Nat) (d : Desc) (x : Mark) : Block :=
  if x.traced then b
  else
    let b := b.emit (movIsl core) 0x0105 d.ctx d.step (d.arg m + x.markId * 2 ^ 32)
    b.modCore core (fun k => k.modMover m (fun v => { v with marks := v.marks.map (fun y => if y.id = x.id then { y with traced := true } else y) }))

/-! ### Lookahead (R301) -/

/-- Look up a page that a stream will reach: a miss is walked without parking, and what would fault has no effect. -/
def Block.ahead (b : Block) (core m ctx va acc : Nat) : Block :=
  match b.lookup core m ctx va 0 with
  | .miss => match b.streamWalk core ctx va with
    | (.page e, ws) => (b.fillWalks (partOf core) ws).fillTlb core m e
    | (.host, ws) => (b.fillWalks (partOf core) ws).askTrans (.transAhead (core * 4 + m) ctx (va / 2 ^ 16 * 2 ^ 16) acc) va acc
    | _ => b
  | _ => b

/-- The next address of a list that lies outside the page of an address as the stream holds it. -/
def Block.nextPage (b : Block) (core m ctx here : Nat) (l : List Nat) : Option Nat :=
  match tlbFind ((b.core core).mover m).utlb ctx here with
  | some e => l.find? (fun x => !decide (e.va ≤ x ∧ x < e.va + e.size))
  | none => none

/-- Look ahead to the next pages that the descriptor's walk will reach, of its source, its destination and what the codec
reads (R301). -/
def Block.lookAhead (b : Block) (core m : Nat) (d : Desc) (i : Nat) (p : Piece) : Block :=
  let rest := d.pieces.zipIdx.filter (fun x => decide (i < x.2) && x.1.state == .pending)
  let go (b : Block) (here : Nat) (l : List Nat) (acc : Nat) : Block := match b.nextPage core m d.ctx here l with
    | some va => b.ahead core m d.ctx va acc
    | none => b
  if d.decodes then
    let b := go b (b.blockAt core m d (d.firstBlock + i)) (rest.map (fun x => b.blockAt core m d (d.firstBlock + x.2))) 1
    if d.codec = 2 then go b (d.refAddr + blockLen * i) (rest.map (fun x => d.refAddr + blockLen * x.2)) 1 else b
  else
    let b := if d.srcSp = 2 then go b p.src (rest.map (fun x => x.1.src)) 1 else b
    let dest (x : Piece) : Nat := ((d.dstRanges x).head?.map (·.1)).getD 0
    if d.dstSp = 2 then go (b.ahead core m d.ctx (dest p) 2) (dest p) (rest.map (fun x => dest x.1)) 2 else b

/-! ### Issue -/

/-- Source tags of the slots a read touches for the first time (R183): none where one is not FULL. -/
def Core.srcTags (k : Core) (d : Desc) (ranges : List (Nat × Nat)) : Option SSet :=
  if d.srcSp ≠ 0 ∨ d.srcTag = 0 then some d.srcSeen
  else
    let slots := (slotsOfRanges d.swap ranges).filter (fun s => !SSet.has d.srcSeen s)
    if slots.all k.full then some (slots.foldl SSet.insert d.srcSeen) else none

/-- Last-read markers of a descriptor (R154): a slot whose reads are all done returns EMPTY. -/
def Block.srcMarkers (b : Block) (core m id i : Nat) : Block :=
  match ((b.core core).mover m).queue.find? (fun d => d.id == id) with
  | none => b
  | some d =>
    if d.srcSp ≠ 0 ∨ d.srcTag ≠ 2 then b
    else match d.pieces[i]? with
      | none => b
      | some p =>
        let rest := d.pieces.filter (fun x => x.state == .pending)
        let busy := rest.flatMap (fun x => slotsOfRanges d.swap (d.srcRanges x))
        let free := (slotsOfRanges d.swap (d.srcRanges p)).filter (fun s => !busy.contains s)
        b.modCore core (fun k => k.setTags free false)

/-- The remote target of a descriptor exists (R409). -/
def Block.targetOk (b : Block) (d : Desc) : Bool :=
  b.weave.domain.idValid && decide (d.target < b.weave.domain.modules)

/-- Read a piece: from a prefetch entry, or from its source, with its scales (R174, R186, R192). What host memory holds is
asked for. -/
def Block.readPiece (b : Block) (core m : Nat) (d : Desc) (i : Nat) (p : Piece) (seen : SSet) (served : Option PfEntry) : Block :=
  let src : List (Nat × Nat × Nat) := (d.srcSp, p.src, p.len) :: d.srcSide p
  let reads := (if served.isSome then [] else src) ++ d.dstSide p
  if b.readWaits core m d reads then b
  else b.access core m d (inSpace 2 reads) false 0 (fun runs =>
    let n := linkBytes core runs
    if !b.shareFree core 0 n then b
    else
      let g := (match served with | some e => e.got (src.map Prod.snd) | none => b.gotAll core m d src).then_ (b.gotAll core m d (d.dstSide p))
      let pa := match served, runs.head? with
        | some e, _ => e.phys + (p.src - e.addr)
        | none, some r => r.2.2
        | none, none => ((b.part (partOf core)).rangeOf d.ctx).1 + p.src
      let b := (b.shareSpend core 0 n).modDesc core m d.id (fun d => { d with srcSeen := seen })
      let b := b.touchRuns core m d.ctx runs
      let b := runs.foldl (fun b r => b.delivered r.2.2 r.2.1) b
      let b := b.crossFrom ((reads.flatMap (fun r => spaceIsls core r.1 runs)).eraseDups) (movIsl core)
      let b := match served with
        | some _ => b.emit (movIsl core) 0x0106 d.ctx d.step (d.arg m + p.len % 2 ^ 24 * 2 ^ 24)
        | none => b
      let b := (b.modPiece core m d.id i (fun x => { x with
        state := if g.host.isEmpty then .fetched else .reading, open_ := g.host.length, at_ := b.time.keeper, phys := pa
        kept := served.isNone, data := g.data.take p.len, poison := g.bad.filter (fun j => decide (j < p.len))
        side := g.data.drop p.len, sideBad := (g.bad.filter (fun j => decide (p.len ≤ j))).map (fun j => j - p.len) })).askHost core m d.id i g.host
      ((b.lookAhead core m d i p).srcMarkers core m d.id i).modCore core (·.trimPrefetch))

/-- Issue the read of one piece whose way is free (R174, R175). -/
def Block.issuePiece (b : Block) (core m : Nat) (d : Desc) (i : Nat) (p : Piece) : Block :=
  match (b.core core).srcTags d (d.srcRanges p) with
  | none => b
  | some seen =>
    if d.dstSp = 3 ∧ !b.targetOk d then b.failDesc core m d stRights 0
    else if d.decodes then
      let b' := b.codecIssue core m d i p
      if (((b'.core core).mover m).queue.find? (fun x => x.id == d.id)).any (fun x => (x.pieces[i]?).any (fun q => q.state == .reading))
      then (b'.lookAhead core m d i p).modCore core (·.trimPrefetch) else b'
    else b.readPiece core m d i p seen (((b.core core).mover m).serves d p)

/-- PIECE_ISSUE (R174, R190): the next piece of a mover in queue order, within credits and marks. -/
def Block.pieceIssue (b : Block) (core m : Nat) : Block :=
  let k := b.core core
  let v := k.mover m
  if !b.coreUp core ∨ 4 ≤ m ∨ v.park ≠ .none then b
  else match v.nextPending with
    | none => b
    | some (d, i, p) =>
      match v.marks.find? (fun x => decide (x.id < d.id) && !k.markMet x) with
      | some x => b.markStop core m d x
      | none =>
        if 256 < v.credits + p.credits ∨ 512 < k.credits + p.credits then b
        else b.issuePiece core m d i p

def execPieceIssue (core mover : Nat) (s : State) : Host.Outcome State Fault Refusal := s.run (·.pieceIssue core mover)

end Sys2Proof.Machine
end

