-- ==== Sys2Proof/Machine/Landing.lean ====
section
/-!
DEFINITION. A piece's landing with its transforms (R183–R188), remote writes, FINAL and ATOMIC (R180, R405, R427), the end
of a read (R443, R449), completion (R185) and the end of credits (R198, R200).
-/
namespace Sys2Proof.Machine

/-! ### What a piece writes -/

/-- The writes of a piece at its destination: address, bytes and poisoned offsets, and whether a word was poisoned; or
the status it fails with. -/
inductive Landing where
  | writes (l : List (Nat × List Byte × List Nat)) (bad : Bool)
  | fail (st : Nat)
  deriving DecidableEq, Repr

/-- Pieces of a row that overlap a run of it, with their numbers. -/
def Desc.cover (d : Desc) (q lo n : Nat) : List (Piece × Nat) :=
  d.pieces.zipIdx.filter (fun x => x.1.row == q && decide (x.1.off < lo + n ∧ lo < x.1.off + x.1.len))

/-- Bytes of a run of a row from fetched pieces, with poisoned offsets. -/
def coverBytes (cs : List (Piece × Nat)) (lo n : Nat) : List Byte × List Nat :=
  let at_ (j : Nat) : Option (Piece × Nat) := cs.find? (fun c => decide (c.1.off ≤ lo + j ∧ lo + j < c.1.off + c.1.len))
  ((List.range n).map (fun j => match at_ j with | some c => c.1.data.getD (lo + j - c.1.off) 0#8 | none => 0#8),
   (List.range n).filter (fun j => match at_ j with | some c => c.1.poison.contains (lo + j - c.1.off) | none => false))

/-- The line scale of a mode, where it is LINE at a place of the scale bytes read with a piece (R53). -/
def Piece.line (p : Piece) (s : ScaleDesc) (at_ : Nat) : Val × Bool :=
  match s.l2Mode with
  | 0 => (.fin false 1 0, true)
  | 1 => (f32 s.l2, true)
  | _ => (fp32.val (leNat ((p.side.drop at_).take 4)), p.sideBad.all (fun j => !decide (at_ ≤ j ∧ j < at_ + 4)))

/-- Convert one group (R186): destination elements and, with a block scale, its code. A value goes into a format without
scales in one rounding (R54, R65). -/
def convertGroup (s t : ScaleDesc) (src : List Byte) (sc : Nat) (l2s l2t : Val) : List Byte × Nat :=
  let codes := (List.range 32).map (packedCode s.elem src)
  if codeMap s t then (packCodes t.elem (codes.map (fun c => t.elem.ofVal (s.elem.val c))), sc)
  else
    let v := codes.map (fun c => let x := (scaledVal s.elem s.bscale c sc).mul l2s; if t.bscale = .none ∧ t.l2Mode = 0 then x else rne x)
    let qb := quantBlock t.elem t.bscale t.l2Mode l2t v none
    (packCodes t.elem qb.codes, qb.scale)

/-- The writes of a converted piece (R186): the groups that it completes. A group that it shares with a neighbour is written
by the later of them. -/
def Desc.convertPiece (d : Desc) (i : Nat) (p : Piece) : Landing :=
  match d.srcScale, d.dstScale with
  | some s, some t =>
    let gs := groupBytes s
    let gd := groupBytes t
    let groups := d.groupsOf p
    let ns := if s.bscale = .none then 0 else groups.length
    let src := p.line s ns
    let dst := p.line t (ns + (if s.l2Mode = 2 then 4 else 0))
    if (src.2 ∧ s.l2Mode = 2 ∧ !l2Ok src.1) ∨ (dst.2 ∧ t.l2Mode = 2 ∧ !l2Ok dst.1) then .fail stInvalid
    else
      let mine := groups.zipIdx.filter (fun g => (d.cover p.row (g.1 * gs) gs).all (fun c => c.2 == i || c.1.state == .sent))
      let one (g : Nat × Nat) : List (Nat × List Byte × List Nat) × Bool :=
        let e := coverBytes (d.cover p.row (g.1 * gs) gs) (g.1 * gs) gs
        let bad := !e.2.isEmpty || (s.bscale != .none && p.sideBad.contains g.2) || !src.2 || !dst.2
        let o := convertGroup s t e.1 (if s.bscale = .none then 0 else leNat ((p.side.drop g.2).take 1)) src.1 dst.1
        ((d.dstRow p.row + g.1 * gd, o.1, if bad then List.range o.1.length else []) ::
          (if t.bscale = .none then [] else
            [((d.dst + t.bsOff + p.row * t.stride + g.1) % 2 ^ 64, natLe 1 o.2, if bad then [0] else [])]), bad)
      .writes (mine.flatMap (fun g => (one g).1)) (mine.any (fun g => (one g).2))
  | _, _ => .fail stInvalid

/-- The writes of a piece in its destination space. -/
def Desc.landing (d : Desc) (i : Nat) (p : Piece) : Landing :=
  if d.convert then d.convertPiece i p
  else if d.transpose then
    let es := d.esize
    .writes ((List.range p.len).map (fun x =>
      let o := p.off + x
      (d.dst + o / es * 4096 + p.row * es + o % es, [p.data.getD x 0#8], if p.poison.contains x then [0] else []))) (!p.poison.isEmpty)
  else .writes [((d.dstRow p.row + p.off) % 2 ^ 64, p.data, p.poison)] (!p.poison.isEmpty)

/-! ### Landing on this module or in host memory -/

/-- Perform the writes of a piece: the block and how many host writes are now outstanding. -/
def Block.landWrites (b : Block) (core m : Nat) (d : Desc) (i : Nat) (l : List (Nat × List Byte × List Nat)) : Block × Nat :=
  l.foldl (fun r w =>
    let b := r.1
    match d.dstSp with
    | 0 => (b.modCore core (fun k => k.scratchWrite d.swap w.1 w.2.1 w.2.2), r.2)
    | 1 =>
      let base := ((b.part (partOf core)).rangeOf d.ctx).1
      (b.modPart (partOf core) (fun t => t.tileWrite (base + w.1) w.2.1 w.2.2), r.2)
    | _ => (pageRuns w.1 w.2.1.length).foldl (fun r x =>
        match r.1.lookup core m d.ctx (w.1 + x.1) 2 with
        | .ok pa =>
          let bad (lo n : Nat) : List Nat := (w.2.2.filter (fun j => decide (lo ≤ j ∧ j < lo + n))).map (fun j => j - lo)
          if bits pa 51 48 = 0 then (r.1.dramWrite (bits pa 47 0) ((w.2.1.drop x.1).take x.2) (bad x.1 x.2), r.2)
          else
            let ps := trelebRuns pa x.2
            (ps.foldl (fun b y => b.request (.pieceWrite core m d.id i) (bits (pa + y.1) 47 0) y.2
              ((w.2.1.drop (x.1 + y.1)).take y.2) (bad (x.1 + y.1) y.2)) r.1, r.2 + ps.length)
        | _ => r) r) (b, 0)

/-- A landing waits on a destination tag: DEST_WAIT is written once (R184, R199). -/
def Block.destWait (b : Block) (core m : Nat) (d : Desc) (slot : Nat) : Block :=
  if d.waiting then b
  else
    let b := b.emit (movIsl core) 0x0107 d.ctx d.step (d.arg m + slot * 2 ^ 24)
    b.modDesc core m d.id (fun d => { d with waiting := true })

/-- A piece whose way is free is written; `slots` have passed their tag test. With a poisoned word its descriptor fails
(R198). -/
def Block.landPiece (b : Block) (core m : Nat) (d : Desc) (i : Nat) (p : Piece) (slots : List Nat)
    (l : List (Nat × List Byte × List Nat)) (bad : Bool) (runs : List (Nat × Nat × Nat)) : Block :=
  if !b.shareFree core 1 (linkBytes core runs) then b
  else
    let b := (b.shareSpend core 1 (linkBytes core runs)).touchRuns core m d.ctx runs
    let b := b.modDesc core m d.id (fun d => { d with dstSeen := slots.foldl SSet.insert d.dstSeen, waiting := false })
    let b := b.crossTo (movIsl core) (spaceIsls core d.dstSp runs)
    let w := b.landWrites core m d i l
    let b := w.1.keepEntry core m d p
    let b := b.modDesc core m d.id (fun d => (d.setPiece i (fun x => { x with state := .sent, open_ := w.2 })).settle)
    let b := b.movStep core m
    if !bad then b.modCore core (fun k => k.dstMarkers m)
    else if d.decodes then b.decodeFail core m d stData (d.firstBlock + i) 0
    else b.failDesc core m d stData 0

/-- A piece reaches a destination on this module or in host memory (R183, R184, R198). -/
def Block.landLocal (b : Block) (core m : Nat) (d : Desc) (i : Nat) (p : Piece) : Block :=
  let ranges := d.dstRanges p
  let slots := if d.dstSp = 0 ∧ d.dstTag ≠ 0 then (slotsOfRanges d.swap ranges).filter (fun s => !SSet.has d.dstSeen s) else []
  match slots.find? (b.core core).full with
  | some s => b.destWait core m d s
  | none =>
    if b.landWaits core m d ranges then b
    else match d.landing i p with
    | .fail st => b.failDesc core m d st 0
    | .writes l bad =>
      if d.dstSp = 2 then b.access core m d (l.map (fun w => (w.1, w.2.1.length))) true 0 (b.landPiece core m d i p slots l bad)
      else b.landPiece core m d i p slots l bad []

/-! ### Remote writes -/

/-- The 16 KiB block of an ENCODE that a piece belongs to: its offset, and its pieces with their numbers in order. -/
def Desc.blockOf (d : Desc) (p : Piece) : Nat × List (Piece × Nat) :=
  let n := p.off / blockLen
  (n * blockLen, d.pieces.zipIdx.filter (fun x => x.1.off / blockLen == n))

/-- The packets of a piece of a remote COPY (R402, R431): WRITEs of up to 256 B, each its own request, or one
request of ENC fragments for the block of an ENCODE. A destination offset beyond the packet's 40 bits is taken modulo 2^40
(DESIGN CHOICE: R176 gives it no outcome). Every flit of an encoded block with a poisoned source word says so (DESIGN
CHOICE: R243 names no flit). -/
def Block.remotePackets (b : Block) (core : Nat) (d : Desc) (p : Piece) : List (Nat × List Out) :=
  let k := b.core core
  let base (type reqId poison addr : Nat) (last : Bool) (pl : List Byte) : Out :=
    { type := type, inStep := d.step != 0, last := last, ctx := d.ctx, core := core, dst := d.target, src := b.self,
      window := d.window, reqId := reqId % 65536, poison := poison, addr := addr, step := d.step % 2 ^ 32, payload := pl }
  if d.codec = 3 then
    let blk := d.blockOf p
    let off := (d.dst + blk.1) % 2 ^ 40
    let e := encodeInline (blk.2.flatMap (fun x => x.1.data))
    let bad := blk.2.any (fun x => !x.1.poison.isEmpty)
    let bytes := e.1 ++ e.2
    let n := (bytes.length + 255) / 256
    [(3, (List.range n).map (fun i =>
      let pl := (bytes.drop (256 * i)).take 256
      base 0x13 k.reqCtr (if bad then 2 ^ ((pl.length + 15) / 16) - 1 else 0) (off + i * 2 ^ 40 + d.group * 2 ^ 48) (i + 1 == n) pl))]
  else
    let off := (d.dstRow p.row + p.off) % 2 ^ 40
    (List.range ((p.len + 255) / 256)).map (fun i =>
      let pl := (p.data.drop (256 * i)).take 256
      let mask := ((List.range 16).filter (fun f => p.poison.any (fun j => j / 16 == 16 * i + f))).map (fun f => 2 ^ f)
      (0, [base 0x10 (k.reqCtr + i) mask.sum ((off + 256 * i) % 2 ^ 40 + (pl.length - 1) * 2 ^ 40 + d.group * 2 ^ 48) false pl]))

/-- Count writes sent in a group (R180). -/
def Core.countGroup (k : Core) (d : Desc) (n : Nat) : Core :=
  { k with groups := k.groups.map (fun g => if g.ctx = d.ctx ∧ g.target = d.target ∧ g.window = d.window ∧ g.group = d.group
      then { g with count := g.count + n } else g) }

/-- A piece leaves for another module's window (R175, R180, R195). The block of an ENCODE leaves once every piece of it has
been read. -/
def Block.landRemote (b : Block) (core m : Nat) (d : Desc) (i : Nat) (p : Piece) : Block :=
  let reqs := b.remotePackets core d p
  let mates : List (Piece × Nat) := if d.codec = 3 then (d.blockOf p).2 else [(p, i)]
  let n := (mates.map (fun x => x.1.len)).sum
  if !b.targetOk d then b.failDesc core m d stRights 0
  else if mates.any (fun x => x.1.state != .fetched) then b
  else if 512 < (b.core core).live.length + reqs.length ∨ !b.shareFree core 2 n then b
  else
    let b := (b.shareSpend core 2 n).keepEntry core m d p
    let b := b.modDesc core m d.id (fun d => mates.foldl (fun d x => d.setPiece x.2 (fun y =>
      { y with state := .sent, open_ := reqs.length, data := [] })) d)
    let b := b.modCore core (fun k => k.countGroup d reqs.length)
    let b := (b.movStep core m).cross (movIsl core) hubIsl
    let b := reqs.foldl (fun b r => b.sendLive core
      ⟨(b.core core).reqCtr, d.ctx, r.1, m, d.id, i, d.target, d.window, d.group, d.step, b.time.keeper, r.2, none⟩) b
    if mates.all (fun x => x.1.poison.isEmpty) then b
    else match ((b.core core).mover m).queue.find? (fun x => x.id == d.id) with
      | some d => b.failDesc core m d stData (if d.codec = 3 then p.off / blockLen else 0)
      | none => b

/-! ### The commands -/

/-- The first descriptor of a mover whose landings are not over (R184). -/
def Mover.landHead (v : Mover) : Option Desc := v.queue.find? (fun d => !d.passed)

/-- Piece `i` of the descriptor whose landings are under way. -/
def Block.landNext (b : Block) (core m i : Nat) (f : Desc → Piece → Block) : Block :=
  if !b.coreUp core ∨ 4 ≤ m then b
  else match ((b.core core).mover m).landHead with
    | none => b
    | some d => match d.pieces[i]? with
      | none => b
      | some p => f d p

/-- PIECE_LANDING (R175, R184): piece `i` of the mover's landing descriptor. -/
def Block.pieceLanding (b : Block) (core m i : Nat) : Block :=
  b.landNext core m i (fun d p =>
    if p.state ≠ .fetched ∨ d.decodes then b
    else if d.dstSp = 3 then b.landRemote core m d i p
    else b.landLocal core m d i p)

def execPieceLanding (core mover piece : Nat) (s : State) : Host.Outcome State Fault Refusal :=
  s.run (·.pieceLanding core mover piece)

/-- CODEC_BLOCK_DONE (R240, R244, R245): a lane has decoded a block; it lands whole or fails the descriptor. -/
def Block.codecBlockDone (b : Block) (core m i : Nat) : Block :=
  b.landNext core m i (fun d p =>
    let n := d.firstBlock + i
    if p.state ≠ .reading ∨ p.open_ ≠ 0 ∨ !d.decodes then b
    else if p.err = 0 then (b.cross hubIsl (movIsl core)).landLocal core m d i p
    else if p.poison.isEmpty then b.decodeFail core m d stDecode n p.err
    else b.decodeFail core m d stData n p.err)

def execCodecBlockDone (core mover piece : Nat) (s : State) : Host.Outcome State Fault Refusal :=
  s.run (·.codecBlockDone core mover piece)

/-! ### Host memory answers (R443, R449) -/

/-- Bytes of a piece's read arrive at a place among those it reads: elements, then scales. -/
def Piece.arrive (p : Piece) (at_ : Nat) (data : List Byte) (bad : List Nat) : Piece :=
  let all := patch (p.data ++ p.side) at_ data
  let bd := p.poison ++ p.sideBad.map (fun j => p.len + j) ++ bad.map (fun j => at_ + j)
  { p with
    data := all.take p.len, side := all.drop p.len
    poison := bd.filter (fun j => decide (j < p.len)), sideBad := (bd.filter (fun j => decide (p.len ≤ j))).map (fun j => j - p.len) }

/-- A read of a piece is answered: with the bytes of host memory, those at the places `poison` poisoned, or, where it fails,
with poisoned ones.
With its last answer the piece is fetched, or its block can be decoded. -/
def Block.readBack (b : Block) (core m id i at_ addr len : Nat) (ok : Bool) (poison : List Nat) : Block :=
  let v := (b.core core).mover m
  let bad := if ok then poisonedIn 16 b.hostPoison addr len ++ poison else List.range len
  let data := if ok then Mem.bytes b.hostMem addr len else List.replicate len 0#8
  match v.queue.find? (fun d => d.id == id) with
  | none =>
    if v.dying.any (fun d => d.id == id) then b.modDesc core m id (fun d => (d.setPiece i (fun p =>
      if 1 < p.open_ then { p with open_ := p.open_ - 1 } else p.end_)).settle)
    else { b with treleb := { b.treleb with stale := min (b.treleb.stale + 1) (2 ^ 64 - 1) } }
  | some d =>
    (b.cross trelebIsl (movIsl core)).modPiece core m id i (fun p =>
      if p.state ≠ .reading ∨ p.open_ = 0 then p
      else if d.decodes then
        (if bad.isEmpty then { p with open_ := p.open_ - 1 }
         else { p with open_ := p.open_ - 1, err := 0, data := List.replicate p.len 0#8, poison := List.range p.len })
      else
        let p := p.arrive at_ data bad
        { p with open_ := p.open_ - 1, state := if p.open_ = 1 then .fetched else .reading })

/-! ### FINAL and ATOMIC (R180, R167, R429) -/

/-- Every write of a FINAL's group has been sent. -/
def Core.groupSent (k : Core) (d : Desc) : Bool :=
  (List.range 4).all (fun m => (k.mover m).queue.all (fun x =>
    x.op != 0 || x.dstSp != 3 || x.ctx != d.ctx || x.target != d.target || x.window != d.window || x.group != d.group || x.passed))

/-- Every write issued earlier on the core in the same context has landed (R167), those of ended descriptors that are still
unanswered among them. -/
def Core.earlierLanded (k : Core) (d : Desc) : Bool :=
  (List.range 4).all (fun m => (k.mover m).queue.all (fun x => x.ctx != d.ctx || decide (d.id ≤ x.id) || x.landed) &&
    (k.mover m).dying.all (fun x => x.ctx != d.ctx || decide (d.id ≤ x.id) ||
      (x.pieces.all (fun p => p.state != .sent) && (!x.sentOut || x.acked))))

/-- A remote FINAL or ATOMIC is sent. -/
def Block.flagRemote (b : Block) (core m : Nat) (d : Desc) : Block :=
  let k := b.core core
  let g := ((k.groups.find? (fun g => g.ctx == d.ctx && g.target == d.target && g.window == d.window && g.group == d.group)).map (·.count)).getD 0
  let finals := (k.live.filter (fun r => r.kind == 1)).length
  if !b.targetOk d then b.failDesc core m d stRights 0
  else if (d.op = 1 ∧ (!k.groupSent d ∨ 64 ≤ finals)) ∨ 512 ≤ k.live.length ∨ !b.shareFree core 2 8 then b
  else
    let val := (d.raw.drop 8).take 8
    let o : Out := { type := if d.op = 1 then 0x11 else 0x12, inStep := d.step != 0, last := false, ctx := d.ctx, core := core,
                     dst := d.target, src := b.self, window := d.window, reqId := k.reqCtr, poison := 0,
                     addr := d.dst % 2 ^ 40 + (if d.op = 1 then d.group * 2 ^ 48 else fld d.raw 28 1 * 2 ^ 40),
                     step := d.step % 2 ^ 32
                     payload := val ++ (if d.op = 1 then natLe 4 g ++ natLe 4 0 else (d.raw.drop 56).take 8) }
    let b := (b.shareSpend core 2 8).cross (movIsl core) hubIsl
    let b := b.modCore core (fun k => { k.modMover m (fun v => v.modDesc d.id (fun d => { d with sentOut := true })) with
      groups := if d.op = 1 then k.groups.filter (fun g => !(!g.cur && g.ctx == d.ctx && g.target == d.target && g.window == d.window && g.group == d.group))
                else k.groups })
    b.sendLive core ⟨k.reqCtr, d.ctx, d.op, m, d.id, 0, d.target, d.window, d.group, d.step, b.time.keeper, [o], none⟩

/-- The flag of a local FINAL lands (R167). -/
def Block.flagLocal (b : Block) (core m : Nat) (d : Desc) : Block :=
  let data := (d.raw.drop 8).take 8
  let done (b : Block) : Block := (b.modDesc core m d.id (fun d => { d with sentOut := true, acked := true })).movStep core m
  if !(b.core core).earlierLanded d then b
  else if d.dstSp = 1 then
    let base := ((b.part (partOf core)).rangeOf d.ctx).1
    done ((b.cross (movIsl core) (fabIsl (partOf core))).modPart (partOf core) (fun t => t.tileWrite (base + d.dst) data []))
  else b.access core m d [(d.dst, 8)] true 0 (fun runs => match runs.head? with
    | none => b
    | some r =>
      if bits r.2.2 51 48 ≠ 0 then b.failDesc core m d stRights 0
      else
        let n := linkBytes core runs
        if !b.shareFree core 1 n then b
        else done ((((b.shareSpend core 1 n).touchRuns core m d.ctx runs).cross (movIsl core) (memIsl r.2.2)).dramWrite (bits r.2.2 47 0) data []))

/-- FINAL_SEND (R180): the FINAL or ATOMIC at the head of a mover's landings is sent or its flag lands. -/
def Block.finalSend (b : Block) (core m : Nat) : Block :=
  if !b.coreUp core ∨ 4 ≤ m then b
  else match ((b.core core).mover m).landHead with
    | none => b
    | some d => if d.op = 0 then b else if d.dstSp = 3 then b.flagRemote core m d else b.flagLocal core m d

def execFinalSend (core mover : Nat) (s : State) : Host.Outcome State Fault Refusal := s.run (·.finalSend core mover)

/-! ### Completion and abort -/

/-- The push of a descriptor that completes (R165, R185): none where it waits for room. -/
def Block.descPush (b : Block) (core : Nat) (d : Desc) : Option Block :=
  if !d.push then some b
  else match (b.core core).bind? d.ctx with
    | none => some b
    | some bd => match b.queueOf core bd d.qsel with
      | none => some b
      | some l =>
        if 64 ≤ l.length then none
        else some ((b.cross (movIsl core) (if d.qsel < 16 then arrIsl core else fabIsl (partOf core))).setQueue core bd d.qsel
          (l ++ [BitVec.ofNat 32 (fld d.raw 48 4)]))

/-- DESC_DONE (R185): the oldest descriptor of a mover completes with its push; a ring COPY's entry finishes
with it (R338). -/
def Block.descDone (b : Block) (core m : Nat) : Block :=
  if !b.coreUp core ∨ 4 ≤ m then b
  else match ((b.core core).mover m).queue with
    | [] => b
    | d :: _ =>
      if !d.landed then b
      else match b.descPush core d with
        | none => b
        | some b =>
          let b := b.emit (movIsl core) 0x0101 d.ctx d.step (d.arg m)
          let b := (b.modCore core (fun k => k.modMover m (fun v => { v with queue := v.queue.drop 1 }))).movStep core m
          match (b.core core).kernels.find? (fun x => x.kid == d.kid && x.isCopy) with
          | none => b
          | some ker =>
            let b := b.modCore core (fun k => { k with kernels := k.kernels.filter (fun x => x.kid != ker.kid) })
            (b.cross (movIsl core) (fabIsl (partOf core))).finishEntry ker.ctx ker.seq stOK []

def execDescDone (core mover : Nat) (s : State) : Host.Outcome State Fault Refusal := s.run (·.descDone core mover)

/-- Ended descriptors of a context on a core whose answers are still owed. -/
def Core.dyingOf (k : Core) (ctx : Nat) : List Desc :=
  (List.range 4).flatMap (fun m => (k.mover m).dying.filter (fun d => d.ctx == ctx))

/-- CREDIT_TIMEOUT (R198, R200 step 3): 200 µs after descriptors of a context ended on a core, by an abort or a failure, the
credits they still hold are freed and their requests retired. -/
def Block.creditTimeout (b : Block) (core ctx : Nat) : Block :=
  match (((b.core core).dyingOf ctx).map (·.endedAt)).min? with
  | none => b
  | some t =>
    let b := b.advanceTo (t + 200000)
    let due (d : Desc) : Bool := d.ctx == ctx && decide (d.endedAt + 200000 ≤ b.time.keeper)
    b.modCore core (fun k =>
      let gone := ((k.dyingOf ctx).filter due).map (·.id)
      let k := (List.range 4).foldl (fun k m => k.modMover m (fun v => { v with dying := v.dying.filter (fun d => !due d) })) k
      { k with live := k.live.filter (fun r => !gone.contains r.desc) })

def execCreditTimeout (core ctx : Nat) (s : State) : Host.Outcome State Fault Refusal := s.run (·.creditTimeout core ctx)

end Sys2Proof.Machine
end

