-- ==== Sys2Proof/Machine/Mail.lean ====
section
/-!
DEFINITION. The mailboxes (R318–R325): posting, taking, replies, repeats and unsolicited messages, and the
buffers that operations read and write (R319).
-/
namespace Sys2Proof.Machine

/-- Getis runs: start-up is complete and the hub is not halted (R438, R467). -/
def Block.getisUp (b : Block) : Bool := b.power.ready && !b.halted

/-! ### Messages (R319) -/

def mOp (m : List Byte) : Nat := fld m 0 2
def mTag (m : List Byte) : Nat := fld m 2 2
def mCtx (m : List Byte) : Nat := fld m 4 1
def mFlags (m : List Byte) : Nat := fld m 5 1
def mLen (m : List Byte) : Nat := fld m 6 2
def mPl (m : List Byte) : List Byte := m.drop 8

/-- A reply or unsolicited message. -/
def mbBytes (op tag ctx flags st : Nat) (pl : List Byte) : List Byte :=
  natLe 2 op ++ natLe 2 tag ++ natLe 1 ctx ++ natLe 1 flags ++ natLe 1 pl.length ++ natLe 1 st ++ padTo 0#8 56 pl

/-- The opcodes of R324 that a context page takes. -/
def opOnCtx (op : Nat) : Bool :=
  [0x0104, 0x0105, 0x0106, 0x0107, 0x0108, 0x0109, 0x0307, 0x0308, 0x0401, 0x0402, 0x0501, 0x0502, 0x0601, 0x0603, 0x0604].contains op

/-- The opcodes of R324 that the admin page takes. -/
def opOnAdmin (op : Nat) : Bool :=
  decide ((0x0101 ≤ op ∧ op ≤ 0x0104) ∨ op = 0x0106 ∨ (0x0201 ≤ op ∧ op ≤ 0x0204) ∨ (0x0301 ≤ op ∧ op ≤ 0x030A) ∨
    (0x0403 ≤ op ∧ op ≤ 0x0405) ∨ (0x0501 ≤ op ∧ op ≤ 0x0504) ∨ (0x0601 ≤ op ∧ op ≤ 0x0604) ∨ (0x0701 ≤ op ∧ op ≤ 0x0703))

/-- The context a message concerns: the page's own, or the admin message's target. -/
def msgCtx (page : Nat) (m : List Byte) : Nat := if page < 64 then page else mCtx m

/-- CONTEXT of an admin message (R319): a context, or 0xFF for none. -/
def adminCtx (m : List Byte) : Bool := decide (mCtx m < 64) || mCtx m == 0xFF

/-- The status a message is refused with before it executes (R11, R316, R319, R320). -/
def Block.mbRefusal (b : Block) (page : Nat) (m : List Byte) : Option Nat :=
  let op := mOp m
  if !(opOnCtx op || opOnAdmin op) ∨ mFlags m ≠ 0 ∨ 56 < mLen m then some stInvalid
  else if 64 ≤ page then (if opOnAdmin op && adminCtx m then none else some stInvalid)
  else if (b.ctx page).state = 0 ∨ mCtx m ≠ page then some stInvalid
  else if opOnCtx op then none else some stRights

/-! ### Taking and replying -/

/-- The island whose events a page's messages are. -/
def Block.pageIsl (b : Block) (page : Nat) : Nat :=
  if page < 64 ∧ (b.ctx page).state ≠ 0 then fabIsl (b.ctx page).part else hubIsl

/-- A place is kept for the reply of a message in execution: the last one taken has not been answered (R318). -/
def Mbox.held (x : Mbox) : Nat := if x.busy.isSome || x.tags.head?.any (fun t => t.reply.isNone) then 1 else 0

/-- Deliver unsolicited messages as outbound places free (R322). -/
def Block.mbPump (b : Block) (page : Nat) : Block :=
  let x := b.mbox page
  let room := 16 - x.outq.length - x.held
  let n := min room x.notices.length
  b.setMbox page { x with outq := x.outq ++ x.notices.take n, notices := x.notices.drop n, delivered := x.delivered + n }

/-- Queue an unsolicited message (R322): a full queue discards its oldest. -/
def Block.mbNotice (b : Block) (page op tag ctx st : Nat) (pl : List Byte) : Block :=
  let x := b.mbox page
  let m := mbBytes op tag ctx 3 st pl
  let x := if x.notices.length < 1024 then { x with notices := x.notices ++ [m] }
           else { x with notices := x.notices.drop 1 ++ [m], lost := true }
  (b.setMbox page x).mbPump page

/-- Send the reply of a message in execution and record it (R321). -/
def Block.mbReply (b : Block) (page : Nat) (m : List Byte) (st : Nat) (pl : List Byte) : Block :=
  let r := mbBytes (mOp m) (mTag m) (mCtx m) 1 st pl
  b.modMbox page (fun x => { x with
    outq := x.outq ++ [r]
    tags := x.tags.map (fun t => if t.tag = mTag m then { t with reply := some r } else t) })

/-- Take the head message (R318, R321): its tag is recorded among the last 256. -/
def Block.mbTake (b : Block) (page : Nat) (m : List Byte) : Block :=
  let b := b.emitCtx (b.pageIsl page) 0x0009 (msgCtx page m) (mOp m + mTag m * 2 ^ 16)
  b.modMbox page (fun x => { x with inq := x.inq.drop 1, tags := (⟨mTag m, none⟩ :: x.tags).take 256 })

/-- A message whose TAG is recorded (R321): its recorded reply again, or nothing while the first executes. -/
def Block.mbRepeat (b : Block) (page : Nat) (m : List Byte) (t : TagRec) : Block :=
  let arg := mOp m + mTag m * 2 ^ 16
  let c := msgCtx page m
  let b := b.emitCtx (b.pageIsl page) 0x0009 c arg
  let b := b.emitCtx (b.pageIsl page) 0x000A c arg
  let b := if c < 64 ∧ (b.ctx c).state ≠ 0 then b.modCtx c (fun x => { x with mbRepeats := x.mbRepeats + 1 }) else b
  b.modMbox page (fun x => { x with
    inq := x.inq.drop 1
    outq := x.outq ++ (match t.reply with | some r => [patch r 5 (natLe 1 (fld r 5 1 + 4))] | none => []) })

/-- Getis looks at the messages of a page: it runs, and the page's partition is not being reset (R351, R438). -/
def Block.mbRuns (b : Block) (page : Nat) : Bool :=
  b.getisUp && !(decide (page < 64) && (b.ctx page).state != 0 && (b.part (b.ctx page).part).state == 1)

/-- Messages of a page can be taken now (R318, R351, R438). -/
def Block.mbOpen (b : Block) (page : Nat) : Bool :=
  let x := b.mbox page
  b.mbRuns page && x.busy.isNone && decide (x.outq.length < 16)

/-- A message may be answered as a repeat now: one whose reply would be queued again takes its turn and an outbound place
(R318); one of a message still in execution is only discarded (R321). -/
def Block.mbRepeats (b : Block) (page : Nat) (t : TagRec) : Bool := if t.reply.isNone then b.mbRuns page else b.mbOpen page

/-- Answer head messages that execute nothing: repeats and refusals (R320, R321). The first that would execute
waits for its own step. -/
def Block.mbDrainN (b : Block) (page : Nat) : Nat → Block
  | 0 => b
  | n + 1 =>
    match (b.mbox page).inq with
    | [] => b
    | m :: _ => match (b.mbox page).tags.find? (fun t => t.tag == mTag m) with
      | some t => if b.mbRepeats page t then (b.mbRepeat page m t).mbDrainN page n else b
      | none => if !b.mbOpen page then b
        else match b.mbRefusal page m with
          | some st => ((b.mbTake page m).mbReply page m st []).mbDrainN page n
          | none => b

/-- What follows whenever a mailbox may go on. -/
def Block.mbDrain (b : Block) (page : Nat) : Block := (b.mbDrainN page 17).mbPump page

/-- The head message, where it is one of opcode `op` that may execute now. -/
def Block.mbTurn (b : Block) (page op : Nat) : Option (List Byte) :=
  if !b.mbOpen page then none
  else match (b.mbox page).inq with
    | [] => none
    | m :: _ =>
      if mOp m = op ∧ (b.mbRefusal page m).isNone ∧ !(b.mbox page).tags.any (fun t => t.tag == mTag m) then some m else none

/-- Execute the head message of a page, if it is one of opcode `op` that satisfies `p`. -/
def Block.mbOpIf (b : Block) (page op : Nat) (p : List Byte → Bool) (f : Block → List Byte → Block) : Block :=
  match b.mbTurn page op with
  | none => b
  | some m => if p m then (f (b.mbTake page m) m).mbDrain page else b

/-- Execute the head message of a page, if it is one of opcode `op`. -/
def Block.mbOp (b : Block) (page op : Nat) (f : Block → List Byte → Block) : Block := b.mbOpIf page op (fun _ => true) f

/-- Execute the head message of a page, if it is one of opcode `op`, once what it names in `rs` (address, length) stands
against no access of kind `acc`: on a context page an operation waits for a host-served translation and for a partition that
resets (R302, R303, R319). -/
def Block.mbOpAt (b : Block) (page op : Nat) (rs : List Byte → List (Nat × Nat)) (acc : Nat) (f : Block → List Byte → Block) : Block :=
  match b.mbTurn page op with
  | none => b
  | some m => b.feGate page (if page < 64 then rs m else []) acc ((f (b.mbTake page m) m).mbDrain page)

/-- The mailbox executes a message that replies when its work has ended (R323). -/
def Block.mbBusy (b : Block) (page : Nat) (m : List Byte) (aborts parts : List Nat) : Block :=
  b.modMbox page (fun x => { x with busy := some ⟨mOp m, mTag m, mCtx m, mPl m, aborts, parts, false⟩ })

/-- A LongOp as the message it came in. -/
def LongOp.msg (o : LongOp) : List Byte := natLe 2 o.opcode ++ natLe 2 o.tag ++ natLe 1 o.ctx ++ natLe 3 0 ++ o.payload

/-- The message in execution replies and the mailbox goes on. -/
def Block.mbFinish (b : Block) (page st : Nat) (pl : List Byte) : Block :=
  match (b.mbox page).busy with
  | none => b
  | some o => ((b.mbReply page o.msg st pl).modMbox page (fun x => { x with busy := none })).mbDrain page

/-! ### Buffers (R319, R332) -/

/-- Write a buffer named in a message: whether it landed. -/
def Block.bufWrite (b : Block) (page addr : Nat) (data : List Byte) : Block × Bool :=
  if page < 64 then (let r := b.feWrite page addr data; if r.2 = stOK then (r.1, true) else (r.1.feFailed page addr data.length 2, false))
  else if 2 ^ 48 ≤ addr + data.length then (b, false) else b.hostPut addr data

/-- Read a buffer named in a message. -/
def Block.bufRead (b : Block) (page addr n : Nat) : Option (List Byte) :=
  if page < 64 then (match b.feRead page addr n with | .ok d => some d | .error _ => none)
  else if 2 ^ 48 ≤ addr + n then none else b.hostGet addr n

/-- What a buffer read that cannot be done leaves behind. -/
def Block.bufMissed (b : Block) (page addr n : Nat) : Block :=
  if page < 64 then b.feFailed page addr n 1 else if 2 ^ 48 ≤ addr + n then b else b.hostMissed addr n

/-- The status of a buffer write that cannot land (R332). -/
def bufFail (page : Nat) : Nat := if page < 64 then stFault else stInvalid

/-! ### The page registers (R313–R317, R439) -/

/-- The MMIO aperture answers (R439, R440). -/
def Block.mmioOn (b : Block) : Bool := b.treleb.state == 2 && bit b.treleb.mmioBase.toNat 0

/-- Bytes 0x038–0x03F of MB_IN have landed (R318): the 64 bytes held are queued, or discarded with IN_OVERRUN where the
queue is full. -/
def Block.mbPosted (b : Block) (page : Nat) : Block :=
  let x := b.mbox page
  if 16 ≤ x.inq.length then b.setMbox page { x with overrun := true }
  else (b.setMbox page { x with inq := x.inq ++ [natLe 64 x.input.toNat] }).mbDrain page

/-- MB_POST (R318, R440): a write of all of MB_IN. -/
def Block.mbPost (b : Block) (page : Nat) (msg : W512) : Block :=
  if 64 < page ∨ !b.mmioOn then b
  else (b.modMbox page (fun x => { x with input := msg })).mbPosted page

def execMbPost (page : Nat) (msg : W512) (s : State) : Host.Outcome State Fault Refusal := s.run (·.mbPost page msg)

/-- Remove the reply at the head of MB_OUT (R315). -/
def Block.outPop (b : Block) (page : Nat) : Block :=
  if 64 < page ∨ !b.mmioOn then b
  else (b.modMbox page (fun x => { x with outq := x.outq.drop 1 })).mbDrain page

/-- OUT_POP (R315, R317). -/
def execOutPop (page : Nat) (s : State) : Host.Outcome State Fault Refusal := s.run (·.outPop page)

/-- Read-write fields of a base register of the configuration block: the base bits and EN (R439). -/
def cfgBase (hi lo : Nat) (v : W64) : W64 := BitVec.ofNat 64 (bits v.toNat hi lo * 2 ^ lo + v.toNat % 2)

/-- An 8-byte write to MB_IN (R318, R440). -/
def Block.mbInWrite (b : Block) (page off : Nat) (v : W64) : Block :=
  let b := b.modMbox page (fun x => { x with input := BitVec.ofNat 512 (leNat (patch (natLe 64 x.input.toNat) off (natLe 8 v.toNat))) })
  if off = 0x038 then b.mbPosted page else b

/-- A write to the status register of a page: its W1C bits and OUT_POP (R315, R317). -/
def Block.statusWrite (b : Block) (page : Nat) (v : W64) : Block :=
  let b := b.modMbox page (fun x => { x with
    overrun := x.overrun && !bit v.toNat 2
    lost := x.lost && !(page == 64 && bit v.toNat 3) })
  if bit v.toNat 1 then b.outPop page else b

/-- REGISTER_WRITE (R7, R315, R317, R318, R439): MB_IN and the status register of a page, and the bases and W1C bits of the
configuration block, written as page 65. -/
def Block.registerWrite (b : Block) (page off : Nat) (v : W64) : Block :=
  if b.treleb.state ≠ 2 then b
  else if page ≤ 64 then
    if !b.mmioOn then b
    else if off < 0x040 ∧ off % 8 = 0 then b.mbInWrite page off v
    else if off = 0x088 then b.statusWrite page v else b
  else if page ≠ 65 then b
  else if off = 0x010 then { b with treleb := { b.treleb with mmioBase := cfgBase 47 20 v } }
  else if off = 0x018 then { b with treleb := { b.treleb with dramBase := cfgBase 47 42 v } }
  else if off = 0x020 then { b with treleb := { b.treleb with err := b.treleb.err &&& ~~~(v &&& 0xF8#64) } }
  else b

def execRegisterWrite (page off : Nat) (value : W64) (s : State) : Host.Outcome State Fault Refusal :=
  s.run (·.registerWrite page off value)

/-! ### What the pages read (R309, R314–R317, R439) -/

/-- CTX_STATUS (R315). -/
def Block.ctxStatus (b : Block) (n : Nat) : Nat :=
  let x := b.ctx n
  let m := b.mbox n
  let flag (p : Bool) (i : Nat) : Nat := if p then 2 ^ i else 0
  let live := x.state != 0
  (if live then x.state * 2 ^ 56 + x.lastStatus * 2 ^ 48 else 0) + (16 - m.inq.length) * 2 ^ 40 + m.outq.length * 2 ^ 32 +
    flag (b.power.level != 0) 19 +
    flag (live && (x.step == .waiting || x.step == .opened || x.step == .committing || x.step == .dropping)) 18 +
    flag (live && x.gap) 17 + flag (!live || x.entries.all (fun e => e.state != .accepted)) 16 + flag m.overrun 2

/-- CTX_FAULT (R309). -/
def Block.ctxFault (b : Block) (n : Nat) : Nat :=
  let x := b.ctx n
  if x.state = 0 then 0 else min x.faults (2 ^ 32 - 1) * 2 ^ 32 + x.parked * 2 ^ 8 + (if x.overflow then 1 else 0)

/-- ADM_STATUS (R317). -/
def Block.admStatus (b : Block) : Nat :=
  let m := b.mbox 64
  let flag (p : Bool) (i : Nat) : Nat := if p then 2 ^ i else 0
  (16 - m.inq.length) * 2 ^ 40 + m.outq.length * 2 ^ 32 + m.notices.length * 2 ^ 21 + flag (b.power.level != 0) 20 +
    flag m.lost 3 + flag m.overrun 2

/-- The reset value of a page register (R315, R317). -/
def pageReset (page off : Nat) : Nat :=
  match off with
  | 0x088 => 16 * 2 ^ 40 + (if page < 64 then 2 ^ 16 else 0)
  | 0x090 => if page < 64 then 0 else 2 * 2 ^ 40
  | _ => 0

/-- A 64-bit read of a page register: until Getis runs it answers reset values (R438), and beyond the admin page zero
(R440). -/
def Block.pageRead (b : Block) (page off : Nat) : W64 :=
  BitVec.ofNat 64 (
    if 64 < page then 0
    else if !b.getisUp then pageReset page off
    else if page < 64 then
      let x := b.ctx page
      match off with
      | 0x080 => if x.state = 0 then 0 else x.latch
      | 0x088 => b.ctxStatus page
      | 0x090 => if x.state = 0 then 0 else x.doneSeq
      | 0x098 => b.ctxFault page
      | _ => if 0x040 ≤ off ∧ off < 0x080 then fld ((b.mbox page).outq.headD []) (off - 0x040) 8 else 0
    else match off with
      | 0x080 => (b.mbox 64).delivered
      | 0x088 => b.admStatus
      | 0x090 => 2 * 2 ^ 40 + (if b.weave.domain.idValid then 2 ^ 12 else 0) + b.self
      | 0x098 => ((List.range 64).map (fun n => if (b.ctx n).state = 2 then 2 ^ n else 0)).sum
      | _ => if 0x040 ≤ off ∧ off < 0x080 then fld ((b.mbox 64).outq.headD []) (off - 0x040) 8 else 0)

/-- A 64-bit read of the configuration block (R439). -/
def Block.cfgRead (b : Block) (off : Nat) : W64 :=
  let t := b.treleb
  match off with
  | 0x000 => 0x010200B1#64
  | 0x008 => BitVec.ofNat 64 (t.failed.toNat * 2 ^ 32 + t.state * 2 ^ 16 + t.width * 2 ^ 8 + (if t.reversed then 1 else 0))
  | 0x010 => t.mmioBase
  | 0x018 => t.dramBase
  | 0x020 => t.err
  | 0x028 => BitVec.ofNat 64 t.corrected
  | 0x030 => BitVec.ofNat 64 t.retries
  | 0x038 => BitVec.ofNat 64 t.recoveries
  | _ => 0#64

end Sys2Proof.Machine
end

