-- ==== Sys2Proof/Machine/Treleb.lean ====
section
/-!
DEFINITION. The Treleb link (R436–R452): training and recovery, the retry buffer, answers to the module's requests with
their outcomes (R346, R348, R449), the DRAM aperture (R440) and snoops (R444).
-/
namespace Sys2Proof.Machine

/-- Change the link. -/
def Block.modTreleb (b : Block) (f : Treleb → Treleb) : Block := { b with treleb := f b.treleb }

/-- Set a bit of TRB_ERR. -/
def Treleb.errBit (t : Treleb) (i : Nat) : Treleb := { t with err := t.err ||| BitVec.ofNat 64 (2 ^ i) }

/-- The link changes state (R437, R451). -/
def Block.linkState (b : Block) (st width : Nat) : Block :=
  let b := b.modTreleb (fun t => { t with state := st, width := width, downAt := if st = 0 then b.time.keeper else t.downAt })
  b.emit trelebIsl 0x0420 0xFF 0 (st + width * 2 ^ 8)

/-- The width at which lanes train (R438). -/
def trainWidth (failed : W32) : Nat :=
  if failed.toNat = 0 then 32
  else if failed.toNat % 65536 = 0 ∨ failed.toNat / 65536 = 0 then 16 else 0

/-! ### Snoops (R444) -/

/-- Partition that holds a line. -/
def lineTile (line : Nat) : Nat := line * 64 / 2 ^ 40

/-- A snoop has ended: its line leaves the filter. -/
def Block.dropSnoop (b : Block) (line : Nat) : Block :=
  let b := b.modTreleb (fun t => { t with snoops := t.snoops.filter (fun s => s.1 != line) })
  b.modPart (lineTile line) (fun p => { p with snoop := p.snoop.filter (· != line) })

/-- Inbound packets that waited for snoops run again, in arrival order. -/
def Block.rerunWaiting (b : Block) : Block :=
  b.weave.waiting.foldl (fun b i => b.hubRun i) { b with weave := { b.weave with waiting := [] } }

/-- Offsets of the bytes of the flits that POISON names (R441). -/
def maskBytes (mask n : Nat) : List Nat := if mask = 0 then [] else (List.range n).filter (fun i => bit mask (i / 16))

/-- Modified data of a snoop answer lands, but for a line of a placed tensor (R265) or of a partition that does not come
back. -/
def Block.snoopLand (b : Block) (line : Nat) (d : List Byte) (poison : Nat) : Block :=
  if (b.regionAt (line * 64) 64).any (fun r => !r.variant) ∨ 2 ≤ (b.part (lineTile line)).state then b
  else (b.cross trelebIsl (dramIsl (chanOf (line * 64)))).dramWrite (line * 64) (d.take 64) (maskBytes poison (min d.length 64))

/-- SNP_ACK (R444): modified data is written first, then the waiting accesses go on. -/
def Block.snpAck (b : Block) (line : Nat) (modified : Option (List Byte × Nat)) : Block :=
  if !b.treleb.snoops.any (fun s => s.1 == line) ∨ b.treleb.state ≠ 2 then b
  else
    let b := match modified with | some d => b.snoopLand line d.1 d.2 | none => b
    (b.dropSnoop line).rerunWaiting

def execSnpAck (line : Nat) (modified : Option (List Byte × Nat)) (s : State) : Host.Outcome State Fault Refusal :=
  s.run (·.snpAck line modified)

/-- SNOOP_TIMEOUT (R444): after 1 ms the entry is dropped and the access proceeds with the DRAM value. -/
def Block.snoopTimeout (b : Block) (line : Nat) : Block :=
  match b.treleb.snoops.find? (fun s => s.1 == line) with
  | none => b
  | some s =>
    let b := b.advanceTo (s.2 + 1000000)
    let b := (b.dropSnoop line).modTreleb (·.errBit 7)
    (b.emit trelebIsl 0x0422 0xFF 0 (line * 64 * 2 ^ 8)).rerunWaiting

def execSnoopTimeout (line : Nat) (s : State) : Host.Outcome State Fault Refusal := s.run (·.snoopTimeout line)

/-! ### Outcomes of requests (R346, R348, R449) -/

/-- A FAULT_NOTICE (R348). -/
def Block.faultNotice (b : Block) (kind ctx addr seq : Nat) : Block :=
  b.mbNotice 64 0x0710 0 ctx stOK
    (natLe 1 kind ++ natLe 1 ctx ++ natLe 6 0 ++ natLe 8 addr ++ natLe 8 b.time.keeper ++ natLe 8 seq ++ natLe 24 0)

/-- A completion write has failed (R346): the context is held. One under CTX_DESTROY goes on. -/
def Block.doneFailed (b : Block) (ctx : Nat) : Block :=
  let x := b.ctx ctx
  match x.doneQ with
  | [] => b
  | w :: rest =>
    if x.state = 4 then (b.modCtx ctx (fun x => { x with doneQ := rest })).sendDone ctx
    else
      let b := b.modCtx ctx (fun x => { x with
        doneQ := { w with tag := none } :: rest
        state := if x.state = 1 then 2 else x.state
        resetHold := x.resetHold || x.state == 3 })
      let b := b.emitCtx (fabIsl x.part) 0x0008 ctx x.doneSeq
      b.faultNotice w.kind ctx w.addr w.seq

/-- An INTR has been dropped (R446). R451 says that its record carries a status, and no rule names one. -/
def Block.intrDropped (b : Block) (v : Nat) : Block :=
  let s := b.anyStatus
  let b := s.2.emit trelebIsl 0x0423 0xFF 0 s.1
  (List.range 64).foldl (fun b c =>
    if (b.ctx c).state ≠ 0 ∧ (b.ctx c).vector = v then b.faultNotice 4 c 0 0 else b) b

/-- The status of R349 that the outcome of a failed request has (R449), where it has one. -/
def ReqKind.outcome? : ReqKind → Option Nat
  | .pieceRead _ _ _ _ _ => some stData
  | .pieceWrite _ _ _ _ => some stRights
  | _ => none

/-- One write of a piece has been answered. -/
def Block.writeAnswered (b : Block) (core m id i : Nat) : Block :=
  ((b.cross trelebIsl (movIsl core)).modDesc core m id (fun d => d.ackPiece i)).movStep core m

/-- The outcome of a request that was answered NO_MEMORY or REFUSED, or not at all (R449). -/
def Block.reqFailed (b : Block) (r : Req) : Block :=
  let b := match r.kind with
    | .intr _ => b
    | _ => b.hostError r.kind.outcome? r.addr
  match r.kind with
  | .pieceRead core m id i at_ => b.readBack core m id i at_ r.addr r.len false []
  | .pieceWrite core m id i =>
    let b := b.writeAnswered core m id i
    (match ((b.core core).mover m).queue.find? (fun d => d.id == id) with
     | some d => b.failDesc core m d stRights 0
     | none => b)
  | .done ctx => b.doneFailed ctx
  | .intr v => b.intrDropped v
  | .trace ring _ => b.traceAnswer ring r.addr r.data false
  | .transReq _ _ _ _ | .transAhead _ _ _ _ | .transFront _ _ _ _ => b

/-- A write or an interrupt answered OK. -/
def Block.reqDone (b : Block) (r : Req) : Block :=
  match r.kind with
  | .pieceWrite core m id i => ((b.hostWrite r.addr r.data r.bad).writeAnswered core m id i).modCore core (fun k => k.dstMarkers m)
  | .done ctx =>
    let b := b.hostWrite r.addr r.data []
    (match (b.ctx ctx).doneQ with
     | [] => b
     | w :: rest =>
       let b := (b.cross trelebIsl (fabIsl (b.ctx ctx).part)).modCtx ctx (fun x => { x with doneQ := rest })
       let b := if w.kind = 1 then b.emitCtx (fabIsl (b.ctx ctx).part) 0x0007 ctx w.seq else b
       b.sendDone ctx)
  | .trace ring _ => b.traceAnswer ring r.addr r.data true
  | _ => b

/-- An outstanding request of the module. -/
def Block.req? (b : Block) (tag : Nat) : Option Req := b.treleb.reqs.find? (fun r => r.tag == tag)

/-- A request is no longer outstanding. -/
def Block.retireReq (b : Block) (tag : Nat) : Block :=
  b.modTreleb (fun t => { t with reqs := t.reqs.filter (fun r => r.tag != tag) })

/-- A late or unknown answer is discarded and counted. -/
def Block.staleAnswer (b : Block) : Block := b.modTreleb (fun t => { t with stale := satInc t.stale })

/-- CMP (R442, R449): a write or an interrupt is answered, or a read without data. A write answered OK has landed. -/
def Block.cmp (b : Block) (tag status : Nat) : Block :=
  if b.treleb.state ≠ 2 ∨ b.halted then b
  else match b.req? tag with
    | none => b.staleAnswer
    | some r => match r.kind with
      | .pieceRead _ _ _ _ _ => if status = 0 then b else (b.retireReq tag).reqFailed r
      | .transReq _ _ _ _ | .transAhead _ _ _ _ | .transFront _ _ _ _ => b
      | _ => if status = 0 then (b.retireReq tag).reqDone r else (b.retireReq tag).reqFailed r

def execCmp (tag status : Nat) (s : State) : Host.Outcome State Fault Refusal := s.run (·.cmp tag status)

/-- The bytes of a read that POISON of its answer names: its flits begin at a flit boundary (R441, R442). -/
def Req.poisoned (r : Req) (mask : Nat) : List Nat := if mask = 0 then [] else (List.range r.len).filter (fun i => bit mask ((r.addr % 16 + i) / 16))

/-- CMPD (R442, R443, R449): a read is answered with data, and with the flits that carry a poisoned word. -/
def Block.cmpd (b : Block) (tag status poison : Nat) : Block :=
  if b.treleb.state ≠ 2 ∨ b.halted then b
  else match b.req? tag with
    | none => b.staleAnswer
    | some r => match r.kind with
      | .pieceRead core m id i at_ =>
        if status = 0 then (b.retireReq tag).readBack core m id i at_ r.addr r.len true (r.poisoned poison)
        else (b.retireReq tag).reqFailed r
      | _ => b

def execCmpd (tag status poison : Nat) (s : State) : Host.Outcome State Fault Refusal := s.run (·.cmpd tag status poison)

/-- COMPLETION_TIMEOUT (R449): a read or write unanswered after 50 ms. -/
def Block.completionTimeout (b : Block) (tag : Nat) : Block :=
  match b.req? tag with
  | none => b
  | some r => match r.kind with
    | .intr _ | .transReq _ _ _ _ | .transAhead _ _ _ _ | .transFront _ _ _ _ => b
    | _ => (((b.advanceTo (r.at_ + 50000000)).retireReq tag).modTreleb (·.errBit 6)).reqFailed r

def execCompletionTimeout (tag : Nat) (s : State) : Host.Outcome State Fault Refusal := s.run (·.completionTimeout tag)

/-- INTR_FAILED (R446): an INTR unanswered after 50 ms is dropped. -/
def Block.intrFailed (b : Block) (tag : Nat) : Block :=
  match b.req? tag with
  | none => b
  | some r => match r.kind with
    | .intr v => (((b.advanceTo (r.at_ + 50000000)).retireReq tag).modTreleb (·.errBit 6)).intrDropped v
    | _ => b

def execIntrFailed (tag : Nat) (s : State) : Host.Outcome State Fault Refusal := s.run (·.intrFailed tag)

/-! ### Training and recovery (R438, R448) -/

/-- Training or retraining ends: UP at x32 or x16, or DOWN. -/
def Block.trained (b : Block) (failed : W32) (reversed : Bool) : Block :=
  let w := trainWidth failed
  let b := b.modTreleb (fun t => { t with failed := failed, reversed := reversed })
  let b := if w = 16 then b.modTreleb (·.errBit 5) else b
  if w = 0 then b.linkState 0 0 else b.linkState 2 w

/-- LINK_TRAINING_END (R438). -/
def Block.linkTrainingEnd (b : Block) (failed : W32) (reversed : Bool) : Block :=
  if b.treleb.state ≠ 1 then b else b.trained failed reversed

def execLinkTrainingEnd (failedLanes : W32) (reversed : Bool) (s : State) : Host.Outcome State Fault Refusal :=
  s.run (·.linkTrainingEnd failedLanes reversed)

/-- LINK_RETRAIN (R438): 1 s after going DOWN the link trains again. -/
def Block.linkRetrain (b : Block) : Block :=
  if b.treleb.state ≠ 0 ∨ b.power.state ≠ 3 then b
  else (b.advanceTo (b.treleb.downAt + 1000000000)).linkState 1 0

def execLinkRetrain (s : State) : Host.Outcome State Fault Refusal := s.run (·.linkRetrain)

/-- RECOVERY (R448): the link retrains and its packets wait. -/
def Block.recovery (b : Block) : Block :=
  if b.treleb.state ≠ 2 then b
  else (b.modTreleb (fun t => { (t.errBit 4) with recoveries := satInc t.recoveries })).linkState 3 0

def execRecovery (s : State) : Host.Outcome State Fault Refusal := s.run (·.recovery)

/-- A request's packet is still in the retry buffer: TYPE and TAG tell it (R441). -/
def Treleb.inBuf (t : Treleb) (r : Req) : Bool :=
  t.buf.any (fun s => fld s.bytes 6 2 == r.tag && [0x10, 0x11, 0x20, 0x30].contains (fld s.bytes 0 1))

/-- A request for a translation has its own end (R302). -/
def ReqKind.isTrans : ReqKind → Bool
  | .transReq _ _ _ _ | .transAhead _ _ _ _ | .transFront _ _ _ _ => true
  | _ => false

/-- The link goes DOWN (R448, R452): the buffer is discarded, its requests end unanswered and the snoop filters
empty without snoops. -/
def Block.linkDown (b : Block) : Block :=
  let lost := b.treleb.reqs.filter (fun r => b.treleb.inBuf r && !r.kind.isTrans)
  let b := b.linkState 0 0
  let b := b.modTreleb (fun t => { t with buf := [], snoops := [], reqs := t.reqs.filter (fun r => !lost.contains r) })
  let b := (List.range 4).foldl (fun b p => b.modPart p (fun t => { t with snoop := [] })) b
  let b := lost.foldl (fun b r => b.reqFailed r) b
  b.rerunWaiting

/-- RECOVERY_END (R448). -/
def Block.recoveryEnd (b : Block) (failed : W32) (reversed : Bool) : Block :=
  if b.treleb.state ≠ 3 then b
  else if trainWidth failed = 0 then (b.modTreleb (fun t => { t with failed := failed, reversed := reversed })).linkDown
  else
    let b := b.trained failed reversed
    b.modTreleb (fun t => { t with retries := satAdd t.retries t.buf.length })

def execRecoveryEnd (failedLanes : W32) (reversed : Bool) (s : State) : Host.Outcome State Fault Refusal :=
  s.run (·.recoveryEnd failedLanes reversed)

/-- Packets from a link sequence number on are sent again (R404): go-back-N. -/
def resendFrom (size lseq now : Nat) (buf : List Sent) : List Sent :=
  buf.map (fun s => if (s.lseq + size - lseq) % size < size / 2
    then { s with attempts := s.attempts + 1, nakAt := some (s.nakAt.getD now) } else s)

/-- How many packets a resend sends. -/
def resendCount (size lseq : Nat) (buf : List Sent) : Nat :=
  (buf.filter (fun s => decide ((s.lseq + size - lseq) % size < size / 2))).length

/-- TRELEB_NAK (R404, R442). -/
def Block.trelebNak (b : Block) (lseq : Nat) : Block :=
  if b.treleb.state ≠ 2 then b
  else b.modTreleb (fun t => { t with
    buf := resendFrom 4096 lseq b.time.keeper t.buf, retries := satAdd t.retries (resendCount 4096 lseq t.buf) })

def execTrelebNak (lseq : Nat) (s : State) : Host.Outcome State Fault Refusal := s.run (·.trelebNak lseq)

/-- TRELEB_IDLE (R442): LACK frees acknowledged packets. -/
def Block.trelebIdle (b : Block) (lack : Nat) : Block :=
  if b.treleb.state ≠ 2 then b else b.modTreleb (fun t => { t with buf := ackedBuf 4096 lack t.buf })

def execTrelebIdle (lack : Nat) (s : State) : Host.Outcome State Fault Refusal := s.run (·.trelebIdle lack)

/-! ### The DRAM aperture (R440, R444) -/

/-- The status of an access through the DRAM aperture: 0 OK, 1 NO_MEMORY, 2 REFUSED. -/
def Block.apertureStatus (b : Block) (off n : Nat) : Nat :=
  if !dramUsable off n then 1
  else
    let st := (b.part (off / 2 ^ 40)).state
    if 2 ≤ st then 1 else if st = 1 ∨ (b.regionAt off n).isSome then 2 else 0

/-- Answer a companion request with CMP, or with CMPD where it read (R442). -/
def Block.answerCompanion (b : Block) (tag st : Nat) (data : List Byte) (bad : List Nat) : Block :=
  let type := if data.isEmpty then 0x12 else 0x13
  b.modTreleb (fun t => { (t.put (fun q => trelebPacket type ((data.length + 15) / 16) q 0 tag st (flitMask bad) data)) with
    answers := (tag, st, data, flitMask bad) :: t.answers })

/-- A line enters its partition's snoop filter; a full filter evicts its oldest entry by SNP_INV. -/
def Block.filterLine (b : Block) (line : Nat) : Block :=
  let f := (b.part (lineTile line)).snoop
  if f.contains line then b
  else
    let b := if f.length < 2097152 then b else match f.head? with | some l => b.snoopSend [l] | none => b
    b.modPart (lineTile line) (fun p => { p with snoop := p.snoop ++ [line] })

/-- DRAM_APERTURE_ACCESS (R440, R444): a companion packet, which stays inside a 4 KiB page, reads or writes module
DRAM. -/
def Block.dramAperture (b : Block) (tag off : Nat) (cache : Bool) (len : Nat) (data : Option (List Byte × Nat)) : Block :=
  let n := match data with | some d => d.1.length | none => len
  if b.treleb.state ≠ 2 ∨ b.halted ∨ b.treleb.dramBase.toNat % 2 = 0 ∨ 2 ^ 42 ≤ off ∨ n = 0 ∨ 256 < n ∨ 4096 < off % 4096 + n then b
  else
    let st := b.apertureStatus off n
    if st ≠ 0 then b.answerCompanion tag st [] []
    else match data with
      | some d => ((b.cross trelebIsl (dramIsl (chanOf off))).dramWrite off d.1 (maskBytes d.2 n)).answerCompanion tag 0 [] []
      | none =>
        let b := (b.tracePoison off n).cross (dramIsl (chanOf off)) trelebIsl
        let b := if cache then ((List.range ((off + n + 63) / 64 - off / 64)).map (fun i => off / 64 + i)).foldl (fun b l => b.filterLine l) b else b
        b.answerCompanion tag 0 (Mem.bytes b.dram.mem off n) (poisonedIn 64 b.dram.bad off n)

def execDramApertureAccess (tag off : Nat) (cache : Bool) (len : Nat) (data : Option (List Byte × Nat)) (s : State) :
    Host.Outcome State Fault Refusal := s.run (·.dramAperture tag off cache len data)

end Sys2Proof.Machine
end

