-- ==== Sys2Proof/Machine/Translation.lean ====
section
/-!
DEFINITION. Translation beside the movers' own lookups (R294–R312): walks that end, host-served answers (R302, R447),
faults and their queue (R303–R306), invalidation (R307) and migration (R308).
-/
namespace Sys2Proof.Machine

/-- Change the fault queue. -/
def Block.modFaults (b : Block) (f : FaultQueue → FaultQueue) : Block := { b with faults := f b.faults }

/-- The descriptor that parked a stream. -/
def Mover.parked? (v : Mover) : Option Desc := v.queue.find? (fun d => d.id == v.parkDesc)

/-! ### Faults (R303) -/

/-- The access that parked a stream has failed: its descriptor ends with the status, or the ATTN's unit will. -/
def Block.endParked (b : Block) (core m va st : Nat) : Block :=
  let v := (b.core core).mover m
  match v.parked? with
  | some d => b.failDesc core m d st 0
  | none =>
    let b := b.unpark core m
    if v.parkDesc = 0 then b.modCore core (fun k => k.modMover m (fun v => { v with park := .ended va st })) else b

/-- A stream's access faults: its fault becomes pending, or with no queue configured its descriptor fails at
once (R304). -/
def Block.fault (b : Block) (core m va acc kind level : Nat) : Block :=
  let v := (b.core core).mover m
  let x := b.ctx v.parkCtx
  let b := b.cross (movIsl core) hubIsl
  let sb := b.stamp hubIsl 0
  let id := b.faults.nextId
  let b := sb.2.emitAt sb.1 hubIsl 0x0350 v.parkCtx x.curStep (id + kind * 2 ^ 32)
  let b := b.modFaults (fun q => { q with nextId := (q.nextId + 1) % 2 ^ 32 })
  let b := b.modCtx v.parkCtx (fun x => { x with faults := min (x.faults + 1) (2 ^ 32 - 1) })
  match b.faults.queueAddr with
  | none => b.endParked core m va stFault
  | some _ =>
    let f : PendFault := ⟨id, sb.1, va, core * 4 + m, v.parkCtx, kind, acc, level, x.curStep % 2 ^ 32, false, false, false, false⟩
    let b := b.modFaults (fun q => { q with pending := q.pending ++ [f] })
    let b := b.modCtx v.parkCtx (fun x => { x with parked := x.parked + 1 })
    b.modCore core (fun k => k.modMover m (fun v => { v with park := .fault id }))

/-- A translation has been made for a parked stream: it is entered, and the stream resumes or fails for want of a
right (R295, R301). -/
def Block.resume (b : Block) (core m : Nat) (e : TlbEnt) (acc : Nat) : Block :=
  let v := (b.core core).mover m
  let b := (b.fillTlb core m e).cross hubIsl (movIsl core)
  match v.parked? with
  | none => b.unpark core m
  | some d =>
    let b := b.emit (movIsl core) 0x0104 d.ctx d.step (d.arg m)
    if e.allows acc then b.modCore core (fun k => (k.resumeTimer m b.time.keeper).modMover m (fun v => { v with park := .none }))
    else b.failDesc core m d stRights 0

/-- A page under migration (R308): walks that reach its entry wait. -/
def Block.migrating (b : Block) (entryAt : Nat) : Bool := b.faults.migrations.any (fun g => g.entryAt == entryAt)

/-- TLB_RESUME (R300–R303): the walk of a parked stream ends. -/
def Block.tlbResume (b : Block) (stream : Nat) : Block :=
  let core := stream / 4
  let m := stream % 4
  let v := (b.core core).mover m
  if !b.coreUp core then b
  else match v.park with
    | .walk va acc =>
      let r := b.streamWalk core v.parkCtx va
      (match r.1 with
       | .page e => (b.fillWalks (partOf core) r.2).resume core m e acc
       | .host =>
         let tag := b.treleb.nextTag
         let b := b.fillWalks (partOf core) r.2
         let b := b.request (.transReq stream v.parkCtx (va / 2 ^ 16 * 2 ^ 16) acc) (va / 2 ^ 16 + acc * 2 ^ 40) 0 [] []
         b.modCore core (fun k => k.modMover m (fun v => { v with park := .host va acc tag }))
       | .fault kind level at_ _ =>
         let b := b.fillWalks (partOf core) r.2
         if kind = 2 ∧ b.migrating at_ then b else b.fault core m va acc kind level
       | .dead t =>
         (b.tracePoison t 8).endParked core m va stData
       | .wait => b)
    | _ => b

def execTlbResume (stream : Nat) (s : State) : Host.Outcome State Fault Refusal := s.run (·.tlbResume stream)

/-! ### Host-served translation (R302, R447) -/

/-- Size of a TRANS_RESP page. -/
def transSize : Nat → Option Nat
  | 1 => some (2 ^ 16)
  | 2 => some (2 ^ 21)
  | 3 => some (2 ^ 30)
  | _ => none

/-- The page that a companion's answer gives an address (R447), where it is accepted: 2^48 and above is no host page
(DEDUCED from R294). -/
def Block.transPage (b : Block) (ctx va base size rights : Nat) : Option TlbEnt :=
  match transSize size with
  | none => none
  | some sz =>
    if base % sz ≠ 0 ∨ 2 ^ 48 ≤ base then none
    else some ⟨ctx, va / sz * sz, sz, b.self * 2 ^ 52 + 2 * 2 ^ 48 + base, bit rights 0, bit rights 1, bit rights 2⟩

/-- An operation of the front end learns the answer to its request (R302): the page is held in the tile TLB, or the
operation fails when it runs. -/
def Block.frontAnswer (b : Block) (part ctx va : Nat) (e? : Option TlbEnt) : Block :=
  match e? with
  | some e => b.modPart part (fun p => { p with tlb := (e :: p.tlb.filter (fun x => x != e)).take 4096 })
  | none => b.modCtx ctx (fun x => { x with feDenied := SSet.insert x.feDenied (va / 2 ^ 16) })

/-- TRANS_RESP (R302, R447): the page is cached for the stream or front end that asked, or the answer is "no translation". -/
def Block.transResp (b : Block) (tag base size rights : Nat) : Block :=
  if b.treleb.state ≠ 2 ∨ b.halted then b
  else match b.req? tag with
    | none => b.staleAnswer
    | some r => match r.kind with
      | .transReq stream ctx va acc =>
        let core := stream / 4
        let m := stream % 4
        let b := (b.retireReq tag).cross trelebIsl hubIsl
        (match ((b.core core).mover m).park with
         | .host a _ t =>
           if t ≠ tag then b.staleAnswer
           else (match b.transPage ctx va base size rights with
             | some e => b.resume core m e acc
             | none => b.fault core m a acc 4 0xFF)
         | _ => b.staleAnswer)
      | .transAhead stream ctx va _ =>
        let b := b.retireReq tag
        (match b.transPage ctx va base size rights with
         | some e => b.fillTlb (stream / 4) (stream % 4) e
         | none => b)
      | .transFront part ctx va _ => ((b.retireReq tag).cross trelebIsl (fabIsl part)).frontAnswer part ctx va (b.transPage ctx va base size rights)
      | _ => b

def execTransResp (tag base size rights : Nat) (s : State) : Host.Outcome State Fault Refusal :=
  s.run (·.transResp tag base size rights)

/-- The oldest request for a translation that a number names: a stream's lookahead, or from 64 on the front end of a tile. -/
def Block.transOf (b : Block) (stream : Nat) : Option Req :=
  b.treleb.reqs.find? (fun r => match r.kind with
    | .transAhead s _ _ _ => s == stream
    | .transFront p _ _ _ => 64 + p == stream
    | _ => false)

/-- HOST_NO_RESPONSE (R302): a request unanswered for 200 µs faults. Streams 64 to 67 stand for the front ends of tiles 0 to
3, whose operation then fails (DESIGN CHOICE: R299 numbers no stream for them); what a lookahead asked for is dropped
(R301). -/
def Block.hostNoResponse (b : Block) (stream : Nat) : Block :=
  let core := stream / 4
  let m := stream % 4
  match (if stream < 64 then ((b.core core).mover m).park else .none) with
  | .host va acc tag =>
    let at_ := ((b.req? tag).map (·.at_)).getD b.time.keeper
    ((b.advanceTo (at_ + 200000)).retireReq tag).fault core m va acc 5 0xFF
  | _ => match b.transOf stream with
    | none => b
    | some r =>
      let b := (b.advanceTo (r.at_ + 200000)).retireReq r.tag
      match r.kind with
      | .transFront part ctx va _ => b.frontAnswer part ctx va none
      | _ => b

def execHostNoResponse (stream : Nat) (s : State) : Host.Outcome State Fault Refusal := s.run (·.hostNoResponse stream)

/-! ### The fault queue (R304, R305) -/

/-- A fault entry (R303). -/
def PendFault.bytes (f : PendFault) : List Byte :=
  natLe 8 f.stamp ++ natLe 8 f.va ++ natLe 4 f.id ++ natLe 1 f.stream ++ natLe 1 f.ctx ++ natLe 1 f.kind ++ natLe 1 f.access ++
    natLe 1 f.level ++ natLe 1 ((if f.noRoom then 1 else 0) + (if f.cancelled then 2 else 0)) ++ natLe 2 0 ++ natLe 4 f.step

/-- The control block's 64 bytes (R304). -/
def FaultQueue.block (q : FaultQueue) : List Byte :=
  natLe 8 q.write ++ natLe 8 q.read ++ natLe 8 q.overflowCount ++ natLe 4 q.batchId ++ natLe 1 (if q.overflow then 1 else 0) ++
    natLe 35 0

/-- Write the control block. -/
def Block.writeFaultBlock (b : Block) : Block × Bool := b.hostPut b.faults.ctrlAddr b.faults.block

/-- Room in the queue (R305). -/
def FaultQueue.room (q : FaultQueue) : Nat := 8192 - (q.write - q.read)

/-- OVERFLOW of each context's CTX_FAULT (R309). -/
def Block.showOverflow (b : Block) : Block :=
  (List.range 64).foldl (fun b c =>
    let w := b.faults.pending.any (fun f => f.ctx == c && f.noRoom && !f.written)
    if (b.ctx c).overflow = w then b else b.modCtx c (fun x => { x with overflow := w })) b

/-- Movers parked on faults that are now written, or that wait for room, no longer count (R458). -/
def Block.pauseTimers (b : Block) (ids : List Nat) : Block :=
  (List.range 16).foldl (fun b c => b.modCore c (fun k => (List.range 4).foldl (fun k m =>
    match (k.mover m).park with
    | .fault id => if ids.contains id ∧ (k.mover m).pausedAt.isNone
        then k.modMover m (fun v => { v with pausedAt := some b.time.keeper }) else k
    | _ => k) k)) b

/-- OVERFLOW is 1 while a fault waits for room (R305, R309). -/
def Block.settleOverflow (b : Block) : Block :=
  (b.modFaults (fun q => { q with overflow := q.pending.any (fun f => f.noRoom && !f.written) })).showOverflow

/-- Write a batch of faults (R305): entries, then the control block, then the vector. Where a write fails, the queue
is as it was (R449). -/
def Block.writeBatch (b : Block) (fs : List PendFault) : Block × Bool :=
  let q := b.faults
  let a0 := q.queueAddr.getD 0
  let w := fs.foldl (fun (st : Block × Bool × Nat) f =>
    let r := st.1.hostPut (a0 + 32 * (st.2.2 % 8192)) f.bytes
    (r.1, st.2.1 && r.2, st.2.2 + 1)) (b, true, q.write)
  let ids := fs.map (·.id)
  let keep := (q.pending.map (fun f => if ids.contains f.id then { f with written := true, represented := f.noRoom, noRoom := false } else f)).filter
    (fun f => !(f.written && f.cancelled))
  let b1 := w.1.modFaults (fun q => { q with
    write := q.write + fs.length, batchId := (q.batchId + 1) % 2 ^ 32, pending := keep
    overflow := keep.any (fun f => f.noRoom && !f.written) })
  let c := b1.writeFaultBlock
  if !w.2.1 then (w.1, false)
  else if !c.2 then ({ c.1 with faults := q }, false)
  else (((c.1.pauseTimers ids).emit hubIsl 0x0351 0xFF 0 (c.1.faults.batchId + fs.length * 2 ^ 32)).raiseVector q.vector, true)

/-- ARG[31:0] of a translation record that R310 gives a FAULT_ID or a batch number, and R310 does not say which: a free
choice of the two. -/
def Block.faultOrBatch (b : Block) (id : Nat) : Nat × Block :=
  let d := b.draw
  (if Config.choice d.1 % 2 = 0 then id else b.faults.batchId, d.2)

/-- Faults that found no room (R305): each is counted once. -/
def Block.noRoom (b : Block) (fs : List PendFault) : Block :=
  let new := fs.filter (fun f => !f.noRoom)
  if new.isEmpty then b
  else
    let ids := new.map (·.id)
    let b := b.modFaults (fun q => { q with
      overflow := true, overflowCount := q.overflowCount + new.length
      pending := q.pending.map (fun f => if ids.contains f.id then { f with noRoom := true } else f) })
    let a := (b.writeFaultBlock.1.pauseTimers ids).faultOrBatch (ids.headD 0)
    (a.2.emit hubIsl 0x0352 0xFF 0 (a.1 + new.length * 2 ^ 32)).showOverflow

/-- Write what fits of some pending faults; the rest waits for room. -/
def Block.closeBatch (b : Block) (fs : List PendFault) : Block :=
  let room := b.faults.room
  let b := if room = 0 ∨ fs.isEmpty then b.noRoom fs
    else
      let r := b.writeBatch (fs.take room)
      if r.2 then r.1.noRoom (fs.drop room) else b.noRoom fs
  b.showOverflow

/-- FAULT_BATCH_CLOSE (R305): at 64 pending faults, or 20 µs after the oldest arose. -/
def Block.faultBatchClose (b : Block) : Block :=
  let fs := (b.faults.pending.filter (fun f => !f.written && !f.noRoom)).mergeSort (fun x y => decide (x.stamp ≤ y.stamp))
  match fs.head?, b.faults.queueAddr with
  | some f, some _ =>
    if b.halted then b
    else
      let b := if fs.length < 64 then b.advanceTo (f.stamp + 20000) else b
      b.closeBatch fs
  | _, _ => b

def execFaultBatchClose (s : State) : Host.Outcome State Fault Refusal := s.run (·.faultBatchClose)

/-- FAULT_QUEUE_CONFIG (R304, R334). -/
def Block.faultQueueConfig (b : Block) (page : Nat) : Block :=
  b.mbOp page 0x0701 (fun b m =>
    let p := mPl m
    let q := b.faults
    let addr := fld p 0 8
    let ctrl := fld p 8 8
    let vec := fld p 16 1
    let idle := q.queueAddr.isNone || (q.pending.isEmpty && q.write == q.read)
    if !idle ∨ addr % 4096 ≠ 0 ∨ ctrl % 64 ≠ 0 ∨ 127 < vec ∨ 2 ^ 48 ≤ addr ∨ 2 ^ 48 ≤ ctrl then b.mbReply page m stInvalid []
    else
      let b := b.modFaults (fun q => { q with
        queueAddr := if addr = 0 then none else some addr
        ctrlAddr := ctrl, vector := vec, write := 0, read := 0, overflowCount := 0, batchId := 0, overflow := false })
      let b := if addr = 0 then b else b.writeFaultBlock.1
      b.mbReply page m stOK [])

def execFaultQueueConfig (page : Nat) (s : State) : Host.Outcome State Fault Refusal := s.run (·.faultQueueConfig page)

/-! ### Replies (R306, R308) -/

/-- A fault is answered: it is no longer pending and its stream walks again. -/
def Block.rewalk (b : Block) (f : PendFault) : Block :=
  let core := f.stream / 4
  let m := f.stream % 4
  let b := b.modFaults (fun q => { q with pending := q.pending.filter (fun g => g.id != f.id) })
  if ((b.core core).mover m).park = .fault f.id then
    let b := b.modCore core (fun k => (k.resumeTimer m b.time.keeper).modMover m (fun v => { v with park := .walk f.va f.access }))
    b.modCtx f.ctx (fun x => { x with parked := x.parked - 1 })
  else b

/-- FAIL (R306): the parked descriptor ends with TRANSLATION_FAULT_UNRESOLVED. -/
def Block.failFault (b : Block) (f : PendFault) : Block :=
  let core := f.stream / 4
  let m := f.stream % 4
  let b := b.modFaults (fun q => { q with pending := q.pending.filter (fun g => g.id != f.id) })
  if ((b.core core).mover m).park ≠ .fault f.id then b
  else
    (b.cross hubIsl (movIsl core)).endParked core m f.va stFault

/-- Where the entry that a fault's walk ended at lies, with the entry as it stands now. -/
def Block.leafOf (b : Block) (f : PendFault) : Option (Nat × Nat × Bool) :=
  match (b.walkFrom f.ctx f.va 4 0 (b.ctx f.ctx).ptRoot []).1 with
  | .fault 2 _ at_ e => some (at_, e, false)
  | .page _ => some (0, 0, true)
  | _ => none

/-- A DST_PAGE may take a page (R265, R306): usable memory of a partition in service, and no tagged range. -/
def Block.pageFree (b : Block) (dst n : Nat) : Bool :=
  dramUsable dst n && decide ((b.part (dst / 2 ^ 40)).state ≤ 1) && (b.regionAt dst n).isNone

/-- One reply entry: the block and the STATUS to write now, if any. -/
def Block.replyEntry (b : Block) (e : List Byte) (statusAt : Nat) : Block × Option Nat :=
  let act := fld e 4 1
  let dst := fld e 8 8
  match b.faults.pending.find? (fun f => f.id == fld e 0 4 && !f.cancelled) with
  | none => (b.modFaults (fun q => { q with staleReplies := q.staleReplies + 1 }), some 2)
  | some f =>
    if b.faults.migrations.any (fun g => g.fault == f.id) then (b.modFaults (fun q => { q with staleReplies := q.staleReplies + 1 }), some 2)
    else if act = 0 ∧ dst = 0 then (b.rewalk f, some 1)
    else if act = 1 ∧ dst = 0 then (b.failFault f, some 1)
    else if act = 2 ∧ f.kind = 2 ∧ dst % levelSize f.level = 0 ∧ b.pageFree dst (levelSize f.level) then
      match b.leafOf f with
      | some (at_, le, false) =>
        let g : Migration := ⟨f.id, f.stream, f.ctx, f.va, at_, le, bits le 47 8 * 256, dst, levelSize f.level, dst / 2 ^ 40, statusAt⟩
        (b.modFaults (fun q => { q with migrations := q.migrations ++ [g] }), none)
      | _ => (b.rewalk f, some 1)
    else (b, some 3)

/-- FAULT_REPLY (R306). -/
def Block.faultReply (b : Block) (page : Nat) : Block :=
  b.mbOp page 0x0702 (fun b m =>
    let p := mPl m
    let addr := fld p 0 8
    let n := fld p 8 2
    let rd := fld p 16 8
    let q := b.faults
    if q.queueAddr.isNone ∨ addr % 64 ≠ 0 ∨ 512 < n ∨ rd < q.read ∨ q.write < rd then
      b.mbReply page m stInvalid []
    else match (if n = 0 then some [] else b.bufRead 64 addr (16 * n)) with
      | none => (b.hostMissed addr (16 * n)).mbReply page m stInvalid []
      | some arr =>
        let b := (List.range n).foldl (fun b i =>
          let r := b.replyEntry ((arr.drop (16 * i)).take 16) (addr + 16 * i + 5)
          match r.2 with
          | some st => (r.1.hostPut (addr + 16 * i + 5) (natLe 1 st)).1
          | none => r.1) b
        let b := ((b.modFaults (fun q => { q with read := rd })).settleOverflow).writeFaultBlock.1
        let waiting := (b.faults.pending.filter (fun f => f.noRoom && !f.written)).mergeSort (fun x y => decide (x.stamp ≤ y.stamp))
        let b := if q.read < rd ∧ !waiting.isEmpty then b.closeBatch waiting else b
        b.mbReply page m stOK [])

def execFaultReply (page : Nat) (s : State) : Host.Outcome State Fault Refusal := s.run (·.faultReply page)

/-- A migration ends (R308): its copy lands, poison included, the leaf becomes a PAGE, and the walk restarts with STATUS
DONE. -/
def Block.migrateLand (b : Block) (g : Migration) : Block :=
  let b := (b.cross trelebIsl hubIsl).dramWrite g.dst (Mem.bytes b.hostMem g.host g.size) (poisonedIn 16 b.hostPoison g.host g.size)
  let e := b.self * 2 ^ 52 + g.dst / 256 * 256 + bits g.entry 4 2 * 4 + 2
  let b := b.dramWrite g.entryAt (natLe 8 e) []
  let b := (b.hostPut g.status (natLe 1 1)).1
  b.emit hubIsl 0x0353 g.ctx 0 g.fault

/-- MIGRATE_DONE (R308, R449): the engine of a partition ends its oldest page. The copy ends unlanded, with STATUS REFUSED and
the fault still pending, where host memory does not answer or the page has been tagged meanwhile (R265). It waits while a
partition that it writes resets. -/
def Block.migrateDone (b : Block) (part : Nat) : Block :=
  match b.faults.migrations.find? (fun g => g.part == part) with
  | none => b
  | some g =>
    let tables := (b.part (g.entryAt / 2 ^ 40)).state
    if b.halted ∨ (b.part part).state ≠ 0 ∨ tables = 1 then b
    else
      let b := b.modFaults (fun q => { q with migrations := q.migrations.filter (fun x => !(x.fault == g.fault && x.part == part)) })
      let rewalk (b : Block) : Block := match b.faults.pending.find? (fun f => f.id == g.fault) with | some f => b.rewalk f | none => b
      if leNat (Mem.bytes b.dram.mem g.entryAt 8) % 4 = 2 then rewalk (b.hostPut g.status (natLe 1 1)).1
      else if !b.hostUp ∨ !b.hostAnswers g.host g.size ∨ !b.pageFree g.dst g.size ∨ tables ≠ 0 then
        ((b.hostMissed g.host g.size).hostPut g.status (natLe 1 3)).1
      else rewalk (b.migrateLand g)

def execMigrateDone (part : Nat) (s : State) : Host.Outcome State Fault Refusal := s.run (·.migrateDone part)

/-! ### Invalidation (R307) -/

/-- A range of a context's space: LENGTH 0 is the whole space. -/
def inRange (va len a n : Nat) : Bool := len == 0 || decide (a < va + len ∧ va < a + n)

/-- Drop every cached translation of a context's range; host-served requests under way are sent again (R311): that of a
parked stream walks again, the others are asked again when they are next needed. -/
def Block.dropTranslations (b : Block) (ctx va len : Nat) : Block :=
  let keep (e : TlbEnt) : Bool := !(e.ctx == ctx && inRange va len e.va e.size)
  let b := (List.range 4).foldl (fun b p => b.modPart p (fun t => { t with
    tlb := t.tlb.filter keep
    walks := t.walks.filter (fun w => !(w.ctx == ctx &&
      inRange va len (w.va * 2 ^ 16 / tableSpan w.level * tableSpan w.level) (tableSpan w.level))) })) b
  let b := b.modTreleb (fun t => { t with reqs := t.reqs.filter (fun r => match r.kind with
    | .transAhead _ c a _ | .transFront _ c a _ => !(c == ctx && inRange va len a 65536)
    | _ => true) })
  let b := b.modCtx ctx (fun x => { x with feDenied := x.feDenied.filter (fun p => !inRange va len (p * 65536) 65536) })
  (List.range 64).foldl (fun b s =>
    let v := (b.core (s / 4)).mover (s % 4)
    let b := if v.utlb.all keep then b
      else b.modCore (s / 4) (fun k => k.modMover (s % 4) (fun v => { v with utlb := v.utlb.filter keep }))
    match v.park with
    | .host a acc tag =>
      if v.parkCtx = ctx ∧ inRange va len a 1 then
        (b.retireReq tag).modCore (s / 4) (fun k => k.modMover (s % 4) (fun v => { v with park := .walk a acc }))
      else b
    | _ => b) b

/-- A piece was translated in a range and has not landed. -/
def Desc.runsIn (d : Desc) (va len : Nat) (p : Piece) : Bool :=
  (p.state == .reading || p.state == .fetched || p.state == .sent) &&
    ((d.srcSp == 2 && (d.decodes || inRange va len p.src p.len)) ||
      (d.dstSp == 2 && (d.dstRanges p).any (fun r => inRange va len r.1 r.2)))

/-- Pieces of a context that run under translations of a range: (core, mover, descriptor, piece). -/
def Block.openPieces (b : Block) (ctx va len : Nat) : List (Nat × Nat × Nat × Nat) :=
  (List.range 64).flatMap (fun s =>
    let v := (b.core (s / 4)).mover (s % 4)
    ((v.queue ++ v.dying).filter (fun d => d.ctx == ctx)).flatMap (fun d =>
      (d.pieces.zipIdx.filter (fun x => d.runsIn va len x.1)).map (fun x => (s / 4, s % 4, d.id, x.2))))

/-- A piece that an invalidation waits for has not ended. -/
def Block.pieceOpen (b : Block) (w : Nat × Nat × Nat × Nat) : Bool :=
  let v := (b.core w.1).mover w.2.1
  (v.queue ++ v.dying).any (fun d => d.id == w.2.2.1 && (match d.pieces[w.2.2.2]? with
    | some p => p.state == .reading || p.state == .fetched || p.state == .sent
    | none => false))

/-- Start an invalidation. -/
def Block.startInval (b : Block) (ctx va len : Nat) (whom : InvalFor) : Block :=
  let w := b.openPieces ctx va len
  let b := b.dropTranslations ctx va len
  { b with invals := b.invals ++ [⟨ctx, va, len, w, whom, b.time.keeper⟩] }

/-- INVALIDATED (R310): a drop has ended. It has neither a FAULT_ID nor a batch, so ARG[31:0] of its record is a free
value. -/
def Block.invalTrace (b : Block) (ctx : Nat) : Block :=
  let d := b.draw
  d.2.emit hubIsl 0x0354 ctx 0 (Config.choice d.1 % 2 ^ 32)

/-- Every cached translation of a context is dropped as its binding or the context ends (R307, R327, R382). The abort before
has left no piece under one, so the drop is complete at once; a piece that ran all the same would be waited for. -/
def Block.dropContext (b : Block) (ctx : Nat) : Block :=
  if (b.openPieces ctx 0 0).isEmpty then (b.dropTranslations ctx 0 0).invalTrace ctx else b.startInval ctx 0 0 .context

/-- TLB_INVALIDATE (R307, R334). -/
def Block.tlbInvalidate (b : Block) (page : Nat) : Block :=
  b.mbOp page 0x0703 (fun b m =>
    let va := fld (mPl m) 0 8
    let len := fld (mPl m) 8 8
    let ctx := mCtx m
    if 64 ≤ ctx ∨ (b.ctx ctx).state = 0 ∨ 2 ^ 56 < va + len ∨ 2 ^ 56 ≤ va then b.mbReply page m stInvalid []
    else (b.startInval ctx va len .operator).mbBusy page m [] [])

def execTlbInvalidate (page : Nat) (s : State) : Host.Outcome State Fault Refusal := s.run (·.tlbInvalidate page)

/-- INVAL (R447): a companion invalidation takes its turn in arrival order. -/
def Block.inval (b : Block) (ctx va len : Nat) : Block :=
  if b.treleb.state ≠ 2 ∨ b.halted ∨ 64 ≤ ctx then b
  else
    let first := b.treleb.invals.isEmpty
    let b := b.modTreleb (fun t => { t with invals := t.invals ++ [⟨ctx, va, len, b.time.keeper⟩] })
    if first then b.startInval ctx va len .companion else b

def execInval (ctx vaddr len : Nat) (s : State) : Host.Outcome State Fault Refusal := s.run (·.inval ctx vaddr len)

/-- Send INVAL_DONE and take the next companion invalidation. The INVAL row has no TAG to echo: 0 stands there. -/
def Block.invalAnswered (b : Block) : Block :=
  let b := b.modTreleb (fun t => { (t.put (fun q => trelebPacket 0x23 0 q 0 0 0 0 [])) with invals := t.invals.drop 1 })
  match b.treleb.invals with
  | [] => b
  | i :: _ => b.startInval i.ctx i.va i.len .companion

/-- INVALIDATE_DONE (R307): the oldest invalidation with no piece left completes. -/
def Block.invalidateDone (b : Block) : Block :=
  match b.invals.find? (fun i => !i.wait.any b.pieceOpen) with
  | none => b
  | some i =>
    let b := ({ b with invals := b.invals.erase i }).invalTrace i.ctx
    match i.whom with
    | .operator => b.mbFinish 64 stOK []
    | .companion => b.invalAnswered
    | .context => b

def execInvalidateDone (s : State) : Host.Outcome State Fault Refusal := s.run (·.invalidateDone)

end Sys2Proof.Machine
end

