-- ==== Sys2Proof/Machine/Weave.lean ====
section
/-!
DEFINITION. Weave at the module's ports: inbound requests and responses (R403–R411, R424–R431), the link's resends
(R404), remote timeouts (R406) and windows (R421–R426).
-/
namespace Sys2Proof.Machine

/-- A packet's transport part, for forwarding (R410). -/
def outPkt (h : Pkt) (type : Nat) (last : Bool) (addr : Nat) (payload : List Byte) : Out :=
  { type := type, inStep := h.inStep, last := last, ctx := h.ctx, core := h.core, dst := h.dst, src := h.src, window := h.window,
    reqId := h.reqId, poison := h.poison, addr := addr, step := h.step, payload := payload }

/-- A packet arrives on a port (R404, R410): out of order or damaged it is dropped; for another module it is
forwarded; for this one it is handled. Without a valid ID there is no remote traffic (R414). -/
def Block.arrive (b : Block) (h : Pkt) (o : Out) (f : Block → Block) : Block :=
  let r := b.linkAccept h
  if !r.2 then r.1
  else if !r.1.weave.domain.idValid then r.1
  else if h.dst = r.1.self then f r.1 else r.1.sendOut o

/-- WRITE (R402, R424, R427). -/
def execWrite (h : Pkt) (group : Nat) (data : List Byte) (s : State) : Host.Outcome State Fault Refusal :=
  s.run (fun b => b.arrive h (outPkt h 0x10 false (h.off + (data.length - 1) * 2 ^ 40 + group * 2 ^ 48) data)
    (fun b => b.hubRun (.write h group data)))

/-- FINAL (R166, R402, R424, R427). -/
def execFinal (h : Pkt) (group : Nat) (value : W64) (count : Nat) (s : State) : Host.Outcome State Fault Refusal :=
  s.run (fun b => b.arrive h (outPkt h 0x11 false (h.off + group * 2 ^ 48) (natLe 8 value.toNat ++ natLe 4 count ++ natLe 4 0))
    (fun b => b.hubRun (.final h group value count)))

/-- ATOMIC (R402, R424, R430). -/
def execAtomic (h : Pkt) (op : Nat) (value compare : W64) (s : State) : Host.Outcome State Fault Refusal :=
  s.run (fun b => b.arrive h (outPkt h 0x12 false (h.off + op * 2 ^ 40) (natLe 8 value.toNat ++ natLe 8 compare.toNat))
    (fun b => b.hubRun (.atomic h op value compare)))

/-- ENC (R402, R424, R431). -/
def execEnc (h : Pkt) (group frag : Nat) (last : Bool) (data : List Byte) (s : State) : Host.Outcome State Fault Refusal :=
  s.run (fun b => b.arrive h (outPkt h 0x13 last (h.off + frag * 2 ^ 40 + group * 2 ^ 48) data)
    (fun b => b.hubRun (.enc h group frag last data)))

/-- ENC_REASSEMBLY_TIMEOUT (R431): fragments still missing 1 ms after the first. -/
def Block.encTimeout (b : Block) (i : Nat) : Block :=
  match b.weave.encs[i]? with
  | none => b
  | some e =>
    let b := b.advanceTo (e.firstAt + 1000000)
    { b with weave := { b.weave with encs := b.weave.encs.eraseIdx i } }

def execEncReassemblyTimeout (buf : Nat) (s : State) : Host.Outcome State Fault Refusal := s.run (·.encTimeout buf)

/-- GROUP_EXPIRED (R428): no packet of a group for 1 ms. -/
def Block.groupExpired (b : Block) (i : Nat) : Block :=
  match b.weave.groups[i]? with
  | none => b
  | some g =>
    let b := b.advanceTo (g.lastAt + 1000000)
    let b := { b with weave := { b.weave with
      groups := b.weave.groups.eraseIdx i, expired := b.weave.expired + (if g.final.isSome then 1 else 0) } }
    let port := match g.final with | some f => f.pkt.port | none => 0
    b.emit hubIsl 0x0408 ((b.windowOwner g.window).getD 0xFF) g.step (port + g.window * 2 ^ 16 + g.group * 2 ^ 32)

def execGroupExpired (idx : Nat) (s : State) : Host.Outcome State Fault Refusal := s.run (·.groupExpired idx)

/-! ### At the requester -/

/-- A response's step is not above the source context's RETIRED (R367). -/
def Block.respStale (b : Block) (h : Pkt) : Bool :=
  h.inStep && h.step != 0 && !stepAbove h.step (b.ctx h.ctx).retired

/-- A response is taken: each request ID it answers retires or is asked for again (R403, R405). -/
def Block.takeResp (b : Block) (h : Pkt) (status count : Nat) (retry : Bool) (old : Option W64) : Block :=
  (List.range count).foldl (fun b i =>
    let id := (h.reqId + i) % 65536
    if b.respStale h ∨ ((b.core h.core).req? id).isNone then
      (b.emit hubIsl 0x0506 h.ctx (b.ctx h.ctx).curStep (h.step * 256)).countStale h.ctx
    else b.applyResp h.core id status retry old) b

/-- RESP (R402, R403, R405). -/
def execResp (h : Pkt) (status count : Nat) (retry : Bool) (old : Option W64) (s : State) : Host.Outcome State Fault Refusal :=
  s.run (fun b => b.arrive h
    (outPkt h 0x20 false (status + (count - 1) * 2 ^ 8 + (if retry then 2 ^ 16 else 0))
      (match old with | some v => natLe 8 v.toNat ++ natLe 8 0 | none => []))
    (fun b => b.takeResp h status count retry old))

/-- RETRY_RESEND (R428): 2 µs after a RETRY the request is sent again, under its original timeout. -/
def Block.retryResend (b : Block) (core reqId : Nat) : Block :=
  match (b.core core).req? reqId with
  | none => b
  | some r => match r.retryAt with
    | none => b
    | some t =>
      let b := b.advanceTo t
      let b := b.modCore core (fun k => { k with live := k.live.map (fun x => if x.reqId = reqId then { x with retryAt := none } else x) })
      r.packets.foldl (fun b o => b.transmit o) b

def execRetryResend (core reqId : Nat) (s : State) : Host.Outcome State Fault Refusal := s.run (·.retryResend core reqId)

/-- REMOTE_TIMEOUT (R406): 200 µs after its sending the request is retired and its descriptor fails. -/
def Block.remoteTimeout (b : Block) (core reqId : Nat) : Block :=
  match (b.core core).req? reqId with
  | none => b
  | some r =>
    let b := b.advanceTo (r.sentAt + 200000)
    let b := b.modCore core (fun k => { k with live := k.live.filter (fun x => x.reqId != reqId) })
    let b := b.modCore core (fun k => k.modMover r.mover (fun v => v.modDesc r.desc (fun d =>
      if r.kind = 1 ∨ r.kind = 2 then { d with acked := true } else d.ackPiece r.piece)))
    let b := (b.emit hubIsl 0x0405 r.ctx r.step (r.window * 2 ^ 16 + reqId * 2 ^ 32)).cross hubIsl (movIsl core)
    match ((b.core core).mover r.mover).queue.find? (fun d => d.id == r.desc) with
    | none => b
    | some d => b.failDesc core r.mover d stTimeout (if r.kind = 3 then ((d.pieces[r.piece]?).map (·.off)).getD 0 / blockLen else 0)

def execRemoteTimeout (core reqId : Nat) (s : State) : Host.Outcome State Fault Refusal := s.run (·.remoteTimeout core reqId)

/-! ### The link (R399–R404) -/

/-- NAK (R404): go-back-N from its LSEQ. -/
def Block.nak (b : Block) (port lseq : Nat) : Block :=
  if (b.port port).state ≠ 2 then b
  else b.modPort port (fun t => { t with
    rxAt := b.time.keeper, buf := resendFrom 4096 lseq b.time.keeper t.buf
    retries := satAdd t.retries (resendCount 4096 lseq t.buf) })

def execNak (port lseq : Nat) (s : State) : Host.Outcome State Fault Refusal := s.run (·.nak port lseq)

/-- IDLE (R401, R404): LACK frees acknowledged packets. -/
def Block.idleFlit (b : Block) (port lack : Nat) : Block :=
  if (b.port port).state ≠ 2 then b
  else b.modPort port (fun t => { t with rxAt := b.time.keeper, buf := ackedBuf 4096 lack t.buf })

def execIdle (port lack : Nat) (s : State) : Host.Outcome State Fault Refusal := s.run (·.idleFlit port lack)

/-- A port leaves UP (R404, R433): its retry buffer is discarded without responses. -/
def Block.portDown (b : Block) (port st reason : Nat) : Block :=
  let b := b.modPort port (fun t => { t with
    state := st, reason := reason, buf := [], downs := satInc t.downs, changed := b.time.keeper, downAt := b.time.keeper })
  b.emit (weaveIsl port) 0x0401 0xFF 0 (port + reason * 2 ^ 8)

/-- When a port's retries are exhausted (R404): now where a packet needs a 33rd attempt, else 20 µs after the first NAK of a
packet or after the last valid flit, whichever comes first. -/
def Port.exhaustedAt (t : Port) (now : Nat) : Nat :=
  if t.buf.any (fun s => decide (32 ≤ s.attempts)) then now
  else (t.buf.filterMap (·.nakAt)).foldl (fun m n => min m (n + 20000)) (t.rxAt + 20000)

/-- RETRY_EXHAUSTED (R404). -/
def Block.retryExhausted (b : Block) (port : Nat) : Block :=
  let t := b.port port
  if t.state ≠ 2 then b else (b.advanceTo (t.exhaustedAt b.time.keeper)).portDown port 3 9

def execRetryExhausted (port : Nat) (s : State) : Host.Outcome State Fault Refusal := s.run (·.retryExhausted port)

/-- PORT_STATUS (R433). -/
def Block.portStatus (b : Block) (page : Nat) : Block :=
  b.mbOp page 0x0405 (fun b m =>
    let n := fld (mPl m) 0 1
    if 17 < n then b.mbReply page m stInvalid []
    else
      let t := b.port n
      b.mbReply page m stOK (natLe 1 t.state ++ natLe 1 t.reason ++ natLe 2 (t.peerModule.getD 0xFFFF) ++ natLe 1 (t.peerPort.getD 0xFF) ++
        natLe 1 t.polarity ++ natLe 1 (if t.reversed then 1 else 0) ++ natLe 1 0 ++ natLe 8 t.corrected ++ natLe 8 t.retries ++
        natLe 8 t.downs ++ natLe 8 t.unroutable ++ natLe 8 t.changed ++ natLe 8 t.discarded))

def execPortStatus (page : Nat) (s : State) : Host.Outcome State Fault Refusal := s.run (·.portStatus page)

/-! ### Windows (R421–R426) -/

/-- Pages of a virtual range from the context's tables (R422), at most `fuel` of them; else the address without one. -/
def Block.winPages (b : Block) (ctx end_ : Nat) : (fuel va : Nat) → Except Nat (List TlbEnt)
  | 0, va => .error va
  | fuel + 1, va =>
    match (b.walk ctx va).1 with
    | .page e =>
      if end_ ≤ e.va + e.size then .ok [e]
      else match b.winPages ctx end_ fuel (e.va + e.size) with
        | .ok l => .ok (e :: l)
        | .error va => .error va
    | _ => .error va

/-- A page may lie under a window (R422). -/
def Block.winPageOk (b : Block) (atomics : Bool) (e : TlbEnt) : Bool :=
  let off := bits e.pa 47 0
  bits e.pa 63 52 == b.self && bits e.pa 51 48 == 0 && dramUsable off e.size && (b.regionAt off e.size).isNone &&
    e.w && (!atomics || e.a)

/-- The pages of a VIRT window as it holds them, if its range is allowed. -/
def Block.winVirt (b : Block) (ctx base len : Nat) (atomics : Bool) : Option (List (Nat × Nat × Nat)) :=
  if 2 ^ 56 < base + len then none
  else match b.winPages ctx (base + len) 1024 base with
    | .error _ => none
    | .ok l => if l.all (b.winPageOk atomics) then some (l.map (fun e => (e.va, e.size, bits e.pa 47 0))) else none

/-- The translation of a VIRT window meets a table of a partition that resets, and waits (R303). -/
def Block.winWaits (b : Block) (ctx : Nat) (p : List Byte) : Bool :=
  fld p 2 1 == 2 && match b.winPages ctx (fld p 8 8 + fld p 16 8) 1024 (fld p 8 8) with
    | .error va => (b.walk ctx va).1 == .wait
    | .ok _ => false

/-- A translation that fails on a table entry which cannot be read delivers its poison (R266). -/
def Block.winFailed (b : Block) (ctx : Nat) (p : List Byte) : Block :=
  if fld p 2 1 ≠ 2 ∨ 2 ^ 56 < fld p 8 8 + fld p 16 8 then b
  else match b.winPages ctx (fld p 8 8 + fld p 16 8) 1024 (fld p 8 8) with
    | .error va => (match (b.walk ctx va).1 with | .dead t => b.tracePoison t 8 | _ => b)
    | .ok _ => b

/-- A context is a member of a job group (R419). -/
def Block.jobMember? (b : Block) (ctx group : Nat) : Option (JobGroup × JgMember) :=
  match b.weave.jobs.find? (fun x => x.1 == group) with
  | none => none
  | some g =>
    if (b.part (b.ctx ctx).part).jobGroup ≠ group then none
    else match g.2.members.find? (fun m => m.module == b.self && m.ctx == ctx) with
      | some m => some (g.2, m)
      | none => none

/-- Peers taken from the owner's job group (R421). -/
def Block.groupPeers (b : Block) (ctx group : Nat) : Option (List (Nat × Option Nat)) :=
  match b.jobMember? ctx group with
  | none => none
  | some (g, me) => some ((g.members.filter (fun m => g.kind != 2 || m.subgroup == me.subgroup)).map (fun m => (m.module, some m.ctx)))

/-- Peers read from a list (R421): reserved bits set make it bad. -/
def listPeers (d : List Byte) (n : Nat) : Option (List (Nat × Option Nat)) :=
  let es := (List.range n).map (fun i => fld d (4 * i) 4)
  if es.any (fun e => bits e 30 18 != 0) then none
  else some (es.map (fun e => (bits e 11 0, if bit e 31 then none else some (bits e 17 12))))

/-- A WINDOW_OPEN names a peer list that is read (R421). -/
def peerList (p : List Byte) : Bool :=
  !bit (fld p 3 1) 1 && fld p 4 2 == 0 && decide (1 ≤ fld p 6 2 ∧ fld p 6 2 ≤ 1024) && fld p 24 8 % 4 == 0

/-- A checked WINDOW_OPEN (R421–R423). -/
def Block.windowOpenDo (b : Block) (page : Nat) (m : List Byte) : Block :=
  let p := mPl m
  let id := fld p 0 2
  let sp := fld p 2 1
  let fl := fld p 3 1
  let atomics := bit fl 0
  let base := fld p 8 8
  let len := fld p 16 8
  let n := fld p 6 2
  let x := b.ctx page
  let no (b : Block) (r : Nat) : Block := b.mbReply page m stInvalid [BitVec.ofNat 8 r]
  if 3 < fl ∨ !rsv p 32 24 ∨ sp = 0 ∨ 2 < sp then no b 0
  else if (b.window? id).isSome then no b 1
  else if base % 64 ≠ 0 ∨ len % 64 ≠ 0 ∨ len = 0 then no b 2
  else
    let range? := if sp = 1 then (if base + len ≤ ((b.part x.part).rangeOf page).2 then some [] else none)
      else b.winVirt page base len atomics
    match range? with
    | none => no (b.winFailed page p) 2
    | some pages =>
      let peers? : Block × Option (List (Nat × Option Nat)) :=
        if bit fl 1 then (b, if n = 0 then b.groupPeers page (fld p 4 2) else none)
        else if !peerList p then (b, none)
        else match b.feRead page (fld p 24 8) (4 * n) with
          | .ok d => (b, listPeers d n)
          | .error _ => (b.feFailed page (fld p 24 8) (4 * n) 1, none)
      match peers? with
      | (b, none) => no b 3
      | (b, some peers) =>
        if 4096 ≤ b.weave.windows.length ∨ 256 ≤ (b.weave.windows.filter (fun w => w.ctx == page)).length then no b 4
        else if b.weave.domain.state ≤ 1 then no b 5
        else
          let w : Window := ⟨id, page, sp == 1, atomics, base, len, peers, pages⟩
          let b := { b with weave := { b.weave with windows := b.weave.windows ++ [w] } }
          (b.emit hubIsl 0x0409 page x.curStep (id * 2 ^ 16)).mbReply page m stOK []

/-- WINDOW_OPEN (R421–R423): it waits while its tables or its peer list cannot be read yet. -/
def Block.windowOpen (b : Block) (page : Nat) : Block :=
  match b.mbTurn page 0x0401 with
  | none => b
  | some m =>
    if b.winWaits page (mPl m) then b
    else b.mbOpAt page 0x0401 (fun m => if peerList (mPl m) then [(fld (mPl m) 24 8, 4 * fld (mPl m) 6 2)] else []) 1
      (fun b m => b.windowOpenDo page m)

def execWindowOpen (page : Nat) (s : State) : Host.Outcome State Fault Refusal := s.run (·.windowOpen page)

/-- Close a window (R426): its held FINALs are NACKed and its group entries freed. -/
def Block.closeWindow (b : Block) (w : Window) : Block :=
  let held := b.weave.groups.filterMap (fun g => if g.window = w.id then g.final else none)
  let b := { b with weave := { b.weave with
    windows := b.weave.windows.filter (fun x => x.id != w.id), groups := b.weave.groups.filter (fun g => g.window != w.id) } }
  let b := b.emit hubIsl 0x040A w.ctx (b.ctx w.ctx).curStep (w.id * 2 ^ 16)
  held.foldl (fun b f => b.answer f.pkt stClosed false none) b

/-- Close every window of a context that satisfies `p`. -/
def Block.closeWindows (b : Block) (p : Window → Bool) : Block := (b.weave.windows.filter p).foldl (fun b w => b.closeWindow w) b

/-- WINDOW_CLOSE (R426). -/
def Block.windowClose (b : Block) (page : Nat) : Block :=
  b.mbOp page 0x0402 (fun b m =>
    match b.window? (fld (mPl m) 0 2) with
    | none => b.mbReply page m stInvalid []
    | some w => if w.ctx ≠ page then b.mbReply page m stInvalid [] else ((b.closeWindow w).rerunWaiting).mbReply page m stOK [])

def execWindowClose (page : Nat) (s : State) : Host.Outcome State Fault Refusal := s.run (·.windowClose page)

end Sys2Proof.Machine
end

