-- ==== Sys2Proof/Machine/Domain.lean ====
section
/-!
DEFINITION. Port training (R396–R398), the domain of modules (R408–R416), job groups (R417–R420) and domain time (R28–R34).
Control messages go into a port's retry buffer as their type and fields.
-/
namespace Sys2Proof.Machine

/-- Change the domain. -/
def Block.modDomain (b : Block) (f : Domain → Domain) : Block := { b with weave := { b.weave with domain := f b.weave.domain } }

/-- Put a control message on a port. -/
def Block.ctlSend (b : Block) (p type : Nat) (fields : List Nat) : Block :=
  b.modPort p (fun t => { t with
    txSeq := (t.txSeq + 1) % 4096
    buf := t.buf ++ [⟨t.txSeq, natLe 1 type ++ fields.flatMap (natLe 8), 0, none⟩] })

/-- A control message is taken in order on an UP port (R31, R404, R413, R420): the next is expected after it. Its operation's
stamp crosses into the hub. -/
def Block.ctlArrive (b : Block) (port : Nat) : Block :=
  (b.modPort port (fun t => { t with rxSeq := (t.rxSeq + 1) % 4096, rxAt := b.time.keeper })).cross (weaveIsl port) hubIsl

/-- Handle a control message that arrives on a port: one that is not UP takes none. -/
def Block.control (b : Block) (port : Nat) (f : Block → Block) : Block :=
  if (b.port port).state ≠ 2 ∨ b.halted then b else f (b.ctlArrive port)

/-- Ports of a domain's topology. -/
def Domain.ports (d : Domain) : List Nat := (List.range (topoDirs d.topology)).flatMap (fun dir => d.dirPorts dir)

/-- Directions to which a module passes what came over a direction (R413): onward along that dimension, then into
the later ones; a master (none) uses them all. -/
def Domain.childDirs (d : Domain) (from_ : Option Nat) : List Nat :=
  match from_ with
  | none => List.range (topoDirs d.topology)
  | some dir => (if dir % 2 = 0 then dir + 1 else dir - 1) ::
      (List.range (topoDirs d.topology)).filter (fun x => decide (dir / 2 < x / 2))

/-- UP ports toward the tree children. -/
def Block.childPorts (b : Block) : List Nat :=
  let d := b.weave.domain
  ((d.childDirs (d.parent.map (· / 3))).flatMap (fun dir => d.dirPorts dir)).filter (fun p => (b.port p).state == 2)

/-- The domain state changes (R414, R434). -/
def Block.domainState (b : Block) (st : Nat) : Block :=
  let b := b.modDomain (fun d => { d with state := st })
  let d := b.weave.domain
  let b := b.emit hubIsl 0x040C 0xFF 0 (st * 2 ^ 8)
  b.mbNotice 64 0x0403 0 0xFF stOK
    (natLe 1 st ++ natLe 1 0 ++ natLe 2 d.master ++ natLe 2 (if st = 3 then d.joined else 0) ++ natLe 50 0)

/-! ### Time (R28–R34) -/

/-- Change the time state. -/
def Block.modTime (b : Block) (f : Time → Time) : Block := { b with time := f b.time }

/-- The time state changes (R37). -/
def Block.timeState (b : Block) (st : Nat) : Block :=
  let old := b.time.state
  if old = st then b
  else (b.modTime (fun t => { t with state := st })).emit hubIsl 0x0700 0xFF 0 (old + st * 2 ^ 8)

/-- The master's time as the module knows it (R31): its keeper with what it still has to slew away. -/
def Time.corrected (t : Time) : Nat := ((t.keeper : Int) + t.owed).toNat

/-- Send time messages (R31) on ports: the time they carry is the master's, corrected. -/
def Block.sendTime (b : Block) (ports : List Nat) : Block :=
  let d := b.weave.domain
  ports.foldl (fun b p => b.ctlSend p 0x30 [d.master, d.tag.toNat, b.time.corrected]) b

/-- TIME_MESSAGE_SEND (R31): every 64 µs the master sends on each link. -/
def Block.timeMessageSend (b : Block) : Block :=
  if b.weave.domain.state ≠ 3 ∨ b.halted then b
  else
    let b := b.advanceTo (b.time.sentAt + 64000)
    let b := b.modTime (fun t => { t with sentAt := b.time.keeper })
    b.sendTime (b.weave.domain.ports.filter (fun p => (b.port p).state == 2))

def execTimeMessageSend (s : State) : Host.Outcome State Fault Refusal := s.run (·.timeMessageSend)

/-- An accepted time message corrects the keeper by a step or by slewing (R32, R33). OFFSET_NS is the master's time minus
the keeper's as the message found it, also where a step then removes it and LAST_SYNC is the time after the step (DESIGN
CHOICE: R32 gives neither the sign nor the moment). LOCKED follows LOCKING only (R34). -/
def Block.timeAccept (b : Block) (port masterTime : Nat) : Block :=
  let delay := (b.port port).delay
  let now := min (masterTime + delay) timeEnd
  let off : Int := (now : Int) - (b.time.keeper : Int)
  let near := decide (-12 ≤ off ∧ off ≤ 12)
  if delay = 0 then
    (b.modTime (fun t => { t with lastSync := b.time.keeper })).timeState (if b.time.state = 2 then 2 else 1)
  else if b.time.state ≤ 1 ∧ (List.range 64).all (fun c => (b.ctx c).state == 0) then
    let b := b.modTime (fun t => { t with keeper := now, lastSync := now, offset := off, owed := 0, acc := 0, distAt := now })
    let b := if off = 0 then b else b.emit hubIsl 0x0701 0xFF 0 ((off % (2 ^ 64 : Nat)).toNat)
    b.timeState 2
  else
    let st := b.time.state
    let b := b.modTime (fun t => { t with lastSync := b.time.keeper, offset := off, owed := off, acc := 0 })
    b.timeState (if near ∧ (st = 1 ∨ st = 2) then 2 else 1)

/-- TIME_MESSAGE (R31, R33, R416). A follower forwards corrected time, which it knows once its own link has been measured. -/
def Block.timeMessage (b : Block) (port master : Nat) (tag : W64) (masterTime : Nat) : Block :=
  b.control port (fun b =>
  let d := b.weave.domain
  if tag ≠ d.tag then b
  else if d.state = 3 ∧ master ≠ b.self then b.domainState 5
  else if (d.state ≠ 2 ∧ d.state ≠ 4) ∨ master ≠ d.master ∨ d.parent ≠ some port then b
  else
    let b := b.timeAccept port masterTime
    let b := if d.state = 4 then b.domainState 2 else b
    if (b.port port).delay = 0 then b else b.sendTime b.childPorts)

def execTimeMessage (port master : Nat) (tag : W64) (masterTime : Nat) (s : State) : Host.Outcome State Fault Refusal :=
  s.run (·.timeMessage port master tag masterTime)

/-- TIME_REPLY (R31): the path delay of a link is measured. -/
def execTimeReply (port delay : Nat) (s : State) : Host.Outcome State Fault Refusal :=
  s.run (fun b => b.control port (fun b => b.modPort port (fun t => { t with delay := delay })))

/-- MASTER_LOST (R34, R415): 200 µs without a time message. -/
def Block.masterLost (b : Block) : Block :=
  if b.weave.domain.state ≠ 2 ∨ b.time.state ≠ 2 then b
  else
    let b := b.advanceTo (b.time.lastSync + 200000)
    let b := b.timeState 3
    let b := b.modTime (fun t => { t with holdover := t.keeper })
    let b := b.emit hubIsl 0x0702 0xFF 0 b.weave.domain.master
    b.domainState 4

def execMasterLost (s : State) : Host.Outcome State Fault Refusal := s.run (·.masterLost)

/-- TIME_DISTRIBUTION (R29): every 1.024 µs the keeper distributes time, and every island's counter takes it. -/
def Block.timeDistribution (b : Block) : Block :=
  if !b.hubRuns then b
  else
    let b := b.advanceTo (b.time.distAt + 1024)
    { b with time := { b.time with distAt := b.time.keeper }, islands := b.islands.map (fun i => (i.1, { i.2 with skew := 0 })) }

def execTimeDistribution (s : State) : Host.Outcome State Fault Refusal := s.run (·.timeDistribution)

/-- TIME_QUERY (R32). -/
def Block.timeQuery (b : Block) (page : Nat) : Block :=
  b.mbOp page 0x0601 (fun b m =>
    let t := b.time
    b.mbReply page m stOK (natLe 8 t.keeper ++ natLe 1 t.state ++ natLe 1 0 ++
      natLe 2 (if t.state = 0 then 0xFFFF else b.weave.domain.master) ++ natLe 4 ((t.slewPpb % (2 ^ 32 : Nat)).toNat) ++
      natLe 8 t.lastSync ++ natLe 8 ((t.offset % (2 ^ 64 : Nat)).toNat) ++ natLe 8 t.holdover ++ natLe 16 0))

def execTimeQuery (page : Nat) (s : State) : Host.Outcome State Fault Refusal := s.run (·.timeQuery page)

/-! ### Ports (R396–R398) -/

/-- The reason a training result ends with: the faults of R397 that identities show are checked last. -/
def Block.trainReason (b : Block) (port : Nat) (t : TrainResult) : Nat :=
  let d := b.weave.domain
  if t.reason ≠ 0 then t.reason
  else
    let opp := match t.peerPort with | some q => q / 3 / 2 == port / 3 / 2 && q / 3 % 2 != port / 3 % 2 | none => true
    let nb := match t.peerModule with
      | some q => !d.idValid || q == d.neighbour b.self (port / 3)
      | none => true
    if !opp then 6
    else if !nb then 7
    else if t.peerTag.toNat ≠ 0 ∧ d.tag.toNat ≠ 0 ∧ t.peerTag ≠ d.tag then 8 else 0

/-- A reason of R397 leaves the port MISWIRED; the others DOWN. -/
def miswired (reason : Nat) : Bool := [2, 3, 5, 6, 7, 8].contains reason

/-- An ASSIGN message on a port (R413): the fields with the receiver's coordinates. -/
def Block.sendAssign (b : Block) (p : Nat) : Block :=
  let d := b.weave.domain
  let n := d.neighbour b.self (p / 3)
  b.ctlSend p 0x32 [0, d.master, d.tag.toNat, d.topology, d.sizeX, d.sizeY, d.sizeZ, d.parallel, d.coord n 0, d.coord n 1, d.coord n 2]

/-- A job-group definition on a port (R420). -/
def Block.sendGroup (b : Block) (p group : Nat) (g : JobGroup) : Block :=
  b.ctlSend p 0x32 ([1, group, g.kind, g.period, g.origin, g.stage] ++
    g.members.flatMap (fun m => [m.module, m.ctx, m.rank, m.subgroup]))

/-- PORT_UP (R396–R398, R413): training of a port ends. A tree child that has come up receives ASSIGN, every
definition and time. -/
def Block.portUp (b : Block) (port : Nat) (t : TrainResult) : Block :=
  if (b.port port).state ≠ 1 ∨ 17 < port then b
  else
    let r := b.trainReason port t
    let b := b.modPort port (fun x => { x with
      state := if r = 0 then 2 else if miswired r then 4 else 3
      reason := r, peerModule := t.peerModule, peerPort := t.peerPort, peerTag := t.peerTag, polarity := t.polarity % 256
      reversed := t.reversed, changed := b.time.keeper, downAt := b.time.keeper, rxAt := b.time.keeper, txSeq := 0, rxSeq := 0, buf := [] })
    if r ≠ 0 then b.emit (weaveIsl port) 0x0402 0xFF 0 (port + r * 2 ^ 8)
    else
      let b := b.emit (weaveIsl port) 0x0400 0xFF 0 port
      if (b.weave.domain.state = 2 ∨ b.weave.domain.state = 3) ∧ b.childPorts.contains port then
        let b := b.sendAssign port
        let b := b.weave.jobs.foldl (fun b g => b.sendGroup port g.1 g.2) b
        b.sendTime [port]
      else b

def execPortUp (port : Nat) (t : TrainResult) (s : State) : Host.Outcome State Fault Refusal := s.run (·.portUp port t)

/-- PORT_RETRAIN (R398): a DOWN or MISWIRED port trains again 1 s later. -/
def Block.portRetrain (b : Block) (port : Nat) : Block :=
  let t := b.port port
  if (t.state ≠ 3 ∧ t.state ≠ 4) ∨ b.halted then b
  else
    let b := b.advanceTo (t.downAt + 1000000000)
    b.modPort port (fun t => { t with state := 1, changed := b.time.keeper })

def execPortRetrain (port : Nat) (s : State) : Host.Outcome State Fault Refusal := s.run (·.portRetrain port)

/-- Once a topology is known, its unused ports are DISABLED and the neighbour of each UP port is checked
(R393, R397, R413). -/
def Block.applyTopology (b : Block) : Block :=
  let d := b.weave.domain
  (List.range 18).foldl (fun b p =>
    let t := b.port p
    if !d.ports.contains p then
      (if t.state = 0 then b else if t.state = 2 then b.portDown p 0 0 else b.modPort p (fun t => { t with state := 0, reason := 0, changed := b.time.keeper }))
    else if t.state = 2 ∧ t.peerModule.any (fun q => q != d.neighbour b.self (p / 3)) then b.portDown p 4 7
    else if t.state = 0 then b.modPort p (fun t => { t with state := 1, changed := b.time.keeper })
    else b) b

/-! ### Joining (R412–R416) -/

/-- Leave every trace of a domain. -/
def Block.noDomain (b : Block) : Block :=
  { (b.modDomain (fun _ => {})) with weave := { b.weave with domain := {}, jobs := [] } }

/-- The module becomes master from NONE (R413). -/
def Block.becomeMaster (b : Block) (p : List Byte) (tag : W64) : Block :=
  let d : Domain := { topology := fld p 1 1, sizeX := fld p 2 1, sizeY := fld p 3 1, sizeZ := fld p 4 1, parallel := fld p 5 1,
                      x := fld p 6 1, y := fld p 7 1, z := fld p 8 1, tag := tag }
  let id := d.idAt d.x d.y d.z
  let b := b.modDomain (fun _ => { d with moduleId := id, idValid := true, master := id, joined := 1, assignAt := b.time.keeper })
  let b := b.applyTopology
  let b := b.timeState 2
  let b := b.domainState 3
  b.childPorts.foldl (fun b p => b.sendAssign p) b

/-- A follower in MASTER_LOST becomes master (R415): ID, topology and table are kept and time goes on. -/
def Block.takeOver (b : Block) : Block :=
  let b := b.modDomain (fun d => { d with master := d.moduleId, parent := none, joined := 1, ready := false, assignAt := b.time.keeper })
  let b := b.timeState 2
  let b := b.domainState 3
  b.childPorts.foldl (fun b p => b.sendAssign p) b

/-- The master's fields are in range (R408, R412). -/
def masterFields (p : List Byte) : Bool :=
  let t := fld p 1 1
  let x := fld p 2 1
  let y := fld p 3 1
  let z := fld p 4 1
  let ok := match t with
    | 0 => decide (2 ≤ x ∧ x ≤ 48 ∧ y = 1 ∧ z = 1)
    | 1 => decide (2 ≤ x ∧ x ≤ 24 ∧ 2 ≤ y ∧ y ≤ 24 ∧ z = 1)
    | 2 => decide (2 ≤ x ∧ x ≤ 16 ∧ 2 ≤ y ∧ y ≤ 16 ∧ 2 ≤ z ∧ z ≤ 16)
    | _ => false
  ok && decide (1 ≤ fld p 5 1 ∧ fld p 5 1 ≤ 3) && decide (fld p 6 1 < x ∧ fld p 7 1 < y ∧ fld p 8 1 < z)

/-- Something keeps the domain from being left (R412). -/
def Block.domainBusy (b : Block) : Bool :=
  !b.weave.windows.isEmpty || (List.range 4).any (fun p => (b.part p).jobGroup != 0xFFFF)

/-- DOMAIN_CONFIG (R412, R415, R416). -/
def Block.domainConfig (b : Block) (page : Nat) : Block :=
  b.mbOp page 0x0403 (fun b m =>
    let p := mPl m
    let role := fld p 0 1
    let tag := BitVec.ofNat 64 (fld p 16 8)
    let d := b.weave.domain
    let no (r : Nat) : Block := b.mbReply page m stInvalid [BitVec.ofNat 8 r]
    let yes (b : Block) : Block := b.mbReply page m stOK []
    let plain := rsv p 1 8
    let resumes := d.state == 4 && tag == d.tag
    if 2 < role ∨ !rsv p 9 7 ∨ !rsv p 24 32 ∨ (role ≠ 0 ∧ tag.toNat = 0) then no 1
    else if role ≠ 2 ∧ !plain then no 1
    else if role = 2 ∧ (if resumes then !plain else !masterFields p) then no 1
    else if b.domainBusy ∧ ((role = 0 ∧ d.state ≠ 0) ∨ (role ≠ 0 ∧ d.state ≠ 0 ∧ tag ≠ d.tag)) then no 2
    else if role = 2 ∧ d.state ≠ 0 ∧ !resumes then no 3
    else match role with
      | 0 => if d.state = 0 then yes b else yes (((b.noDomain.modTime (fun t => { t with owed := 0, acc := 0 })).timeState 0).domainState 0)
      | 1 =>
        if (d.state = 1 ∨ d.state = 2 ∨ d.state = 4) ∧ tag = d.tag then yes b
        else
          let b := b.modDomain (fun _ => { tag := tag })
          yes ((b.timeState (if b.time.state = 0 then 0 else 1)).domainState 1)
      | _ => yes (if resumes then b.takeOver else b.becomeMaster p tag))

def execDomainConfig (page : Nat) (s : State) : Host.Outcome State Fault Refusal := s.run (·.domainConfig page)

/-- Send JOINED toward the master (R413). -/
def Block.sendJoined (b : Block) (count : Nat) : Block :=
  match b.weave.domain.parent with
  | some p => b.ctlSend p 0x32 [2, count]
  | none => b

/-- ASSIGN (R413, R415, R416). -/
def Block.assign (b : Block) (port : Nat) (a : AssignMsg) : Block :=
  b.control port (fun b =>
  let d := b.weave.domain
  if a.tag ≠ d.tag then b
  else if d.state = 3 then (if a.master = b.self then b else b.domainState 5)
  else if d.state ≠ 1 ∧ d.state ≠ 4 then b
  else
    let nd : Domain := { d with topology := a.topology, sizeX := a.sizeX, sizeY := a.sizeY, sizeZ := a.sizeZ, parallel := a.parallel,
                                x := a.x, y := a.y, z := a.z, master := a.master, idValid := true, parent := some port }
    let b := b.modDomain (fun _ => { nd with moduleId := if d.state = 4 then d.moduleId else nd.idAt a.x a.y a.z })
    let b := b.applyTopology
    let b := b.domainState 2
    let b := b.childPorts.foldl (fun b p => b.sendAssign p) b
    b.sendJoined 1)

def execAssign (port : Nat) (m : AssignMsg) (s : State) : Host.Outcome State Fault Refusal := s.run (·.assign port m)

/-- Every module of the domain has installed the waiting definition: the master replies OK (R420). -/
def Block.defineDone (b : Block) : Block :=
  match b.weave.domain.defining with
  | some (_, n) =>
    if b.weave.domain.modules ≤ n then (b.modDomain (fun d => { d with defining := none })).mbFinish 64 stOK [] else b
  | none => b

/-- JOINED (R413): toward the master, which counts; once all have joined, the count acknowledges the definition
under way (R420). -/
def Block.joinedMsg (b : Block) (port count : Nat) : Block :=
  b.control port (fun b =>
  let d := b.weave.domain
  if d.state ≠ 3 then b.sendJoined count
  else if d.joined < d.modules then b.modDomain (fun d => { d with joined := d.joined + count })
  else (b.modDomain (fun d => { d with defining := d.defining.map (fun x => (x.1, x.2 + count)) })).defineDone)

def execJoined (port count : Nat) (s : State) : Host.Outcome State Fault Refusal := s.run (·.joinedMsg port count)

/-- DOMAIN_READY (R413): all joined, or 1 s after the assignment. -/
def Block.domainReady (b : Block) : Block :=
  let d := b.weave.domain
  if d.state ≠ 3 ∨ d.ready then b
  else
    let b := if d.joined < d.modules then b.advanceTo (d.assignAt + 1000000000) else b
    (b.modDomain (fun d => { d with ready := true })).domainState 3

def execDomainReady (s : State) : Host.Outcome State Fault Refusal := s.run (·.domainReady)

/-! ### Job groups (R417–R420) -/

/-- Install or delete a definition (R420): a group a partition is assigned to is not deleted. -/
def Block.installGroup (b : Block) (d : JobGroupDef) : Block :=
  let js := b.weave.jobs
  if d.kind = 3 then
    (if (List.range 4).any (fun p => (b.part p).jobGroup == d.group) then b
     else { b with weave := { b.weave with jobs := js.filter (fun x => x.1 != d.group) } })
  else if 1024 ≤ js.length ∧ !js.any (fun x => x.1 == d.group) then b
  else { b with weave := { b.weave with jobs := SMap.put js d.group ⟨d.kind, d.periodUs, d.origin, d.stageUs, d.members⟩ } }

/-- Pass a definition down the tree. -/
def Block.forwardGroup (b : Block) (d : JobGroupDef) : Block :=
  b.childPorts.foldl (fun b p => b.sendGroup p d.group ⟨d.kind, d.periodUs, d.origin, d.stageUs, d.members⟩) b

/-- JOB_GROUP_DEFINITION (R420): a module installs a definition, passes it on and acknowledges it. -/
def Block.groupDefinition (b : Block) (port : Nat) (d : JobGroupDef) : Block :=
  b.control port (fun b =>
    if b.weave.domain.state ≠ 2 ∧ b.weave.domain.state ≠ 4 then b
    else ((b.installGroup d).forwardGroup d).sendJoined 1)

def execJobGroupDefinition (port : Nat) (d : JobGroupDef) (s : State) : Host.Outcome State Fault Refusal :=
  s.run (·.groupDefinition port d)

/-- A member entry (R418). -/
def parseMember (bs : List Byte) : JgMember × Bool :=
  let v := fld bs 0 8
  (⟨bits v 11 0, bits v 17 12, bits v 31 20, bits v 43 32⟩, bits v 63 44 == 0 && bits v 19 18 == 0)

/-- Members are within R418. -/
def membersOk (kind : Nat) (ms : List (JgMember × Bool)) : Bool :=
  ms.all (fun m => m.2 && (kind == 2 || m.1.subgroup == 0)) &&
    decide ((ms.map (fun m => m.1.module * 64 + m.1.ctx)).Nodup)

/-- JOB_GROUP_SET (R417, R420): the reply follows once every module has installed the definition. -/
def Block.jobGroupSet (b : Block) (page : Nat) : Block :=
  b.mbOp page 0x0404 (fun b m =>
    let p := mPl m
    let g := fld p 0 2
    let kind := fld p 2 1
    let no (r : Nat) : Block := b.mbReply page m stInvalid [BitVec.ofNat 8 r]
    let go (d : JobGroupDef) : Block :=
      let b := (b.installGroup d).forwardGroup d
      let b := b.modDomain (fun x => { x with defining := some (g, 1), defAt := b.time.keeper })
      let b := b.mbBusy page m [] []
      b.defineDone
    if b.weave.domain.state ≠ 3 then no 2
    else if kind = 3 then
      (if g = 0xFFFF ∨ !b.weave.jobs.any (fun x => x.1 == g) then no 1
       else if (List.range 4).any (fun q => (b.part q).jobGroup == g) then no 3
       else go ⟨g, 3, 0, 0, 0, []⟩)
    else
      let per := fld p 4 4
      let stage := fld p 16 4
      let n := fld p 20 2
      let addr := fld p 24 8
      if g = 0xFFFF ∨ 3 < kind ∨ !rsv p 3 1 ∨ !rsv p 22 2 ∨ !rsv p 32 24 ∨ per < 250 ∨ 10000000 < per ∨
          (if kind = 1 then per ≤ stage else stage ≠ 0) ∨ n = 0 ∨ 4096 < n ∨ addr % 64 ≠ 0 then no 1
      else match b.bufRead 64 addr (8 * n) with
        | none => (b.bufMissed 64 addr (8 * n)).mbReply page m stInvalid [1#8]
        | some l =>
          let ms := (List.range n).map (fun i => parseMember ((l.drop (8 * i)).take 8))
          if !membersOk kind ms then no 1
          else if 1024 ≤ b.weave.jobs.length ∧ !b.weave.jobs.any (fun x => x.1 == g) then no 5
          else go ⟨g, kind, per, fld p 8 8, stage, ms.map (·.1)⟩)

def execJobGroupSet (page : Nat) (s : State) : Host.Outcome State Fault Refusal := s.run (·.jobGroupSet page)

/-- JOB_GROUP_UNREACHABLE (R420): 10 ms have passed. -/
def Block.groupUnreachable (b : Block) : Block :=
  match b.weave.domain.defining with
  | none => b
  | some _ =>
    let b := b.advanceTo (b.weave.domain.defAt + 10000000)
    (b.modDomain (fun d => { d with defining := none })).mbFinish 64 stInvalid [4#8]

def execJobGroupUnreachable (s : State) : Host.Outcome State Fault Refusal := s.run (·.groupUnreachable)

end Sys2Proof.Machine
end

