-- ==== Sys2Proof/Machine/Tenancy.lean ====
section
/-!
DEFINITION. Binding cores and assigning partitions (R376–R386, R391, R392), the operating points they set (R25, R515) and
what a tenant reads of itself (R388, R389).
-/
namespace Sys2Proof.Machine

/-! ### Operating points (R25, R386, R515) -/

/-- P(f) of R386 for a point in units of 100 MHz: tabled at even points, the mean of its neighbours rounded up at
odd ones. -/
def pointWatts (f : Nat) : Nat :=
  let even : Nat → Nat
    | 24 => 60 | 22 => 52 | 20 => 44 | 18 => 37 | 16 => 31 | 14 => 26 | 12 => 21 | 10 => 17 | _ => 14
  if f % 2 = 0 then even f else (even (f - 1) + even (f + 1) + 1) / 2

/-- The highest point that a power slice allows (R386). -/
def slicePoint (w : Nat) : Nat := ((List.range 17).map (· + 8)).foldl (fun a f => if 30 + 4 * pointWatts f ≤ w then f else a) 8

/-- The cap of a clamp level (R515). -/
def clampCap : Nat → Nat
  | 0 => 24
  | 1 => 16
  | _ => 8

/-- The points of a partition's cores follow its slice and the clamp (R25): a step down takes effect, a step up
begins. -/
def Block.setPoints (b : Block) (p : Nat) : Block :=
  let want := min (slicePoint (b.part p).sliceW) (clampCap b.power.level)
  (List.range 4).foldl (fun b i => b.modCore (4 * p + i) (fun k =>
    if want ≤ k.point then { k with point := want, pointTo := want } else { k with pointTo := want })) b

/-- STEP_UP_TAKES_EFFECT (R25): the voltage has risen and the island runs at the new point. -/
def execStepUpTakesEffect (core : Nat) (s : State) : Host.Outcome State Fault Refusal :=
  s.run (fun b => if 16 ≤ core then b else b.modCore core (fun k => { k with point := max k.point k.pointTo }))

/-! ### Releasing (R171, R172, R379, R382) -/

/-- What a core keeps of a binding once it is released: its slot range scrubbed, its program range, parameter
page, handle queues and saved state gone. -/
def Core.release (k : Core) (bd : Binding) : Core :=
  let lo := bd.progBase * 2048
  let k := (k.clearSwap bd).dropPrefetch (fun _ => true)
  { k with
    scratch := Mem.clear k.scratch (bd.slotFirst * 16384) (bd.slotCount * 16384)
    poison := k.poison.filter (fun g => decide (g / 1024 < bd.slotFirst ∨ bd.slotFirst + bd.slotCount ≤ g / 1024))
    tags := k.tags.filter (fun s => decide (s < bd.slotFirst ∨ bd.slotFirst + bd.slotCount ≤ s))
    hq := SMap.keep k.hq (fun i => i / 16 != bd.pos)
    prog := SMap.keep k.prog (fun i => decide (i < lo ∨ lo + bd.progUnits * 2048 ≤ i))
    progBad := k.progBad.filter (fun i => decide (i < lo ∨ lo + bd.progUnits * 2048 ≤ i))
    seqs := SMap.keep k.seqs (fun c => c != bd.ctx)
    binds := k.binds.filter (fun x => x.ctx != bd.ctx)
    cur := if k.cur = bd.ctx + 1 then 0 else k.cur }

/-- The cores of a partition that a context is bound to. -/
def Block.boundCores (b : Block) (ctx : Nat) : List Nat := (List.range 16).filter (fun c => ((b.core c).bind? ctx).isSome)

/-- A tile range is released (R172, R379, R426): scrubbed, its queues unassigned and its windows closed. -/
def Block.releaseTile (b : Block) (p ctx : Nat) : Block :=
  let r := (b.part p).rangeOf ctx
  let b := b.closeWindows (fun w => w.tile && w.ctx == ctx)
  b.modPart p (fun t =>
    let mine := (t.tqOwner.filter (fun x => x.2 == ctx + 1)).map (·.1)
    { t with
      tile := Mem.clear t.tile r.1 r.2
      tilePoison := t.tilePoison.filter (fun g => decide (g * 16 < r.1 ∨ r.1 + r.2 ≤ g * 16))
      ranges := t.ranges.filter (fun x => x.1 != ctx)
      tqs := SMap.keep t.tqs (fun i => !mine.contains i)
      tqOwner := SMap.keep t.tqOwner (fun i => !mine.contains i) })

/-- A context's ranges on a core, and with its last core on the tile its tile range, are released (R382 steps 2 and 3). -/
def Block.releaseRanges (b : Block) (core ctx : Nat) : Block :=
  match (b.core core).bind? ctx with
  | none => b
  | some bd =>
    let b := if (b.core core).cur = ctx + 1 then b.bank core else b
    let b := b.modCore core (·.release bd)
    let p := partOf core
    if (b.boundCores ctx).any (fun c => partOf c == p) then b else b.releaseTile p ctx

/-- Unbind a context from a core (R382 steps 2–4). -/
def Block.releaseCore (b : Block) (core ctx : Nat) : Block :=
  if ((b.core core).bind? ctx).isNone then b else (b.releaseRanges core ctx).dropContext ctx

/-! ### CORE_BIND (R378–R381) -/

/-- Two ranges overlap. -/
def meets (a n c m : Nat) : Bool := decide (a < c + m ∧ c < a + n)

/-- A share split is allowed (R195, R378). -/
def sharesOk (r w m : Nat) : Bool :=
  decide (5 ≤ r ∧ r ≤ 75 ∧ 5 ≤ w ∧ 5 ≤ m ∧ r + w + m = 100) && r % 5 == 0 && w % 5 == 0 && m % 5 == 0

/-- The reason a CORE_BIND is refused with (R381); none where it is accepted. -/
def Block.bindRefusal (b : Block) (ctx : Nat) (p : List Byte) : Option Nat :=
  let core := fld p 0 1
  let pos := fld p 1 1
  let mask := fld p 6 2
  let s0 := fld p 8 2
  let sn := fld p 10 2
  let g0 := fld p 12 2
  let gn := fld p 14 2
  let t0 := fld p 16 2
  let tn := fld p 18 2
  let k := b.core core
  let t := b.part (partOf core)
  let x := b.ctx ctx
  let n := k.binds.length + 1
  let later := (b.boundCores ctx).any (fun c => partOf c == partOf core)
  let shares := (fld p 3 1, fld p 4 1, fld p 5 1)
  if 15 < core ∨ !rsv p 2 1 ∨ !rsv p 20 36 then some 0
  else if t.state ≠ 0 then some 8
  else if 64 ≤ ctx ∨ x.state ≠ 1 ∨ x.part ≠ partOf core then some 1
  else if 7 < pos ∨ k.binds.any (fun d => d.pos == pos || d.ctx == ctx) ∨ 8 ≤ k.binds.length then some 2
  else if s0 % 16 ≠ 0 ∨ sn % 16 ≠ 0 ∨ sn = 0 ∨ 1536 < s0 + sn ∨ k.binds.any (fun d => meets s0 sn d.slotFirst d.slotCount) ∨
      (2 ≤ n ∧ (1536 - 32 * n < s0 + sn ∨ k.binds.any (fun d => decide (1536 - 32 * n < d.slotFirst + d.slotCount)))) then some 3
  else if gn = 0 ∨ 16 < gn ∨ 16 < g0 + gn ∨ k.binds.any (fun d => meets g0 gn d.progBase d.progUnits) then some 4
  else if 767 < t0 ∨ 768 < t0 + tn ∨ (later ∧ tn ≠ 0) ∨ t.ranges.any (fun r => r.1 != ctx && meets t0 tn r.2.1 r.2.2) then some 5
  else if (later ∧ mask ≠ 0) ∨ (List.range 16).any (fun i => bit mask i && SMap.get 0 t.tqOwner i != 0 && SMap.get 0 t.tqOwner i != ctx + 1) then some 6
  else if !sharesOk shares.1 shares.2.1 shares.2.2 ∨ (k.binds ≠ [] ∧ k.shares ≠ shares) then some 7
  else none

/-- Record an accepted binding. -/
def Block.bind (b : Block) (ctx : Nat) (p : List Byte) : Block :=
  let core := fld p 0 1
  let mask := fld p 6 2
  let first := !(b.boundCores ctx).any (fun c => partOf c == partOf core)
  let bd : Binding := ⟨ctx, fld p 1 1, fld p 8 2, fld p 10 2, fld p 12 2, fld p 14 2, [], [], []⟩
  let b := b.modCore core (fun k =>
    let k := (k.dropPrefetch (fun _ => true)).clearSwap bd
    { k with binds := k.binds ++ [bd], shares := (fld p 3 1, fld p 4 1, fld p 5 1), lastPos := if k.binds.isEmpty then none else k.lastPos })
  if !first then b
  else b.modPart (partOf core) (fun t => { t with
    ranges := t.ranges ++ [(ctx, fld p 16 2, fld p 18 2)]
    tqOwner := ((List.range 16).filter (fun i => bit mask i)).foldl (fun m i => SMap.put m i (ctx + 1)) t.tqOwner })

/-- CORE_BIND (R378–R381). -/
def Block.coreBind (b : Block) (page : Nat) : Block :=
  b.mbOp page 0x0201 (fun b m =>
    match b.bindRefusal (mCtx m) (mPl m) with
    | some r => b.mbReply page m stInvalid [BitVec.ofNat 8 r]
    | none => (b.bind (mCtx m) (mPl m)).mbReply page m stOK [])

def execCoreBind (page : Nat) (s : State) : Host.Outcome State Fault Refusal := s.run (·.coreBind page)

/-- Aborts that a message waits for: those accepted since the block `b0`. -/
def Block.newAborts (b b0 : Block) : List Nat := (b.aborts.map (·.id)).filter (fun i => decide (b0.abortId ≤ i))

/-- CORE_UNBIND (R382): the abort is accepted; the rest follows its end. -/
def Block.coreUnbind (b : Block) (page : Nat) : Block :=
  b.mbOp page 0x0202 (fun b m =>
    let core := fld (mPl m) 0 1
    let ctx := mCtx m
    if 15 < core ∨ 64 ≤ ctx ∨ ((b.core core).bind? ctx).isNone then b.mbReply page m stInvalid []
    else
      let b1 := b.abortCtx ctx (some page)
      b1.mbBusy page m (b1.newAborts b) [])

def execCoreUnbind (page : Nat) (s : State) : Host.Outcome State Fault Refusal := s.run (·.coreUnbind page)

/-- SLICE_CONFIG (R383). -/
def Block.sliceConfig (b : Block) (page : Nat) : Block :=
  b.mbOp page 0x0204 (fun b m =>
    let core := fld (mPl m) 0 1
    let q := fld (mPl m) 4 4
    if 15 < core ∨ q < 20 ∨ 10000 < q then b.mbReply page m stInvalid []
    else (b.modCore core (fun k => { k with quantumTo := q })).mbReply page m stOK [])

def execSliceConfig (page : Nat) (s : State) : Host.Outcome State Fault Refusal := s.run (·.sliceConfig page)

/-! ### PARTITION_ASSIGN (R384, R385) -/

/-- Set a partition's job group, slice and lanes. -/
def Block.assignPart (b : Block) (p : List Byte) : Block :=
  let part := fld p 0 1
  let b := b.modPart part (fun t => { t with jobGroup := fld p 2 2, sliceW := fld p 4 2, lanes := fld p 6 1 })
  b.setPoints part

/-- Unbind every core of a partition and assign it anew (R385). -/
def Block.reassign (b : Block) (p : List Byte) : Block :=
  let part := fld p 0 1
  let b := (List.range 4).foldl (fun b i =>
    let core := 4 * part + i
    ((b.core core).binds.map (·.ctx)).foldl (fun b c => b.releaseCore core c) b) b
  b.assignPart p

/-- PARTITION_ASSIGN (R384, R385). -/
def Block.partitionAssign (b : Block) (page : Nat) : Block :=
  b.mbOp page 0x0203 (fun b m =>
    let p := mPl m
    let part := fld p 0 1
    let w := fld p 4 2
    let lanes := fld p 6 1
    let others := (List.range 4).filter (· != part)
    let bound := (List.range 4).any (fun i => !(b.core (4 * part + i)).binds.isEmpty)
    let change := fld p 2 2 ≠ (b.part part).jobGroup
    if 3 < part ∨ 1 < fld p 1 1 ∨ !rsv p 7 49 ∨ w % 5 ≠ 0 ∨ w < 100 ∨ 400 < w ∨ 16 < lanes ∨
        1080 < w + (others.map (fun q => (b.part q).sliceW)).sum ∨ 16 < lanes + (others.map (fun q => (b.part q).lanes)).sum ∨
        (change ∧ bound ∧ fld p 1 1 = 0) then b.mbReply page m stInvalid []
    else if !change ∨ !bound then (b.assignPart p).mbReply page m stOK []
    else
      let ctxs := (List.range 64).filter (fun c => (b.ctx c).state != 0 && (b.ctx c).part == part)
      let b1 := ctxs.foldl (fun b c => b.abortCtx c (some page)) b
      b1.mbBusy page m (b1.newAborts b) [])

def execPartitionAssign (page : Nat) (s : State) : Host.Outcome State Fault Refusal := s.run (·.partitionAssign page)

/-! ### Counters (R388, R480, R481) -/

/-- CORRECTED of a partition as at the last whole 100 ms. -/
def Block.correctedAt (b : Block) (p : Nat) : Nat :=
  let t := b.part p
  if t.corrMark < b.time.keeper / 100000000 then t.corrected else t.corrOld

/-- A correction of the partition is counted at a domain time. -/
def Part.countCorrected (t : Part) (now : Nat) : Part :=
  let mark := now / 100000000
  if t.corrMark < mark then { t with corrOld := t.corrected, corrMark := mark, corrected := t.corrected + 1 }
  else { t with corrected := t.corrected + 1 }

/-- A counter of n bytes, saturating. -/
def satLe (n v : Nat) : List Byte := natLe n (min v (2 ^ (8 * n) - 1))

/-- Nanoseconds that a context has held sequencers, with the time under way. -/
def Block.busyOf (b : Block) (ctx : Nat) : Nat :=
  (b.ctx ctx).busyNs + ((List.range 16).map (fun c =>
    let k := b.core c
    if k.cur = ctx + 1 ∧ k.busy then b.time.keeper - k.busyFrom else 0)).sum

/-- The record of R388 with its STAMP. -/
def Block.ctxCounters (b : Block) (ctx stamp : Nat) : List Byte :=
  let x := b.ctx ctx
  natLe 8 stamp ++ satLe 8 x.entriesDone ++ satLe 8 x.committed ++ satLe 8 x.dropped ++ satLe 8 x.stale ++ satLe 8 x.faults ++
    satLe 8 (b.busyOf ctx / 1000) ++ satLe 8 (b.correctedAt x.part) ++ satLe 8 x.uncorr ++ satLe 4 x.clamps ++ natLe 52 0

/-- The operator's partition block (R481). -/
def Block.partCounters (b : Block) (p : Nat) : List Byte :=
  let t := b.part p
  let recent := t.counted.filter (fun a => decide (b.time.keeper < a + 86400000000000))
  natLe 1 t.state ++ natLe 1 t.trigger ++ natLe 2 t.wdMs ++ natLe 1 recent.length ++ natLe 3 0 ++ satLe 8 t.corrected ++
    satLe 8 t.uncorr ++ satLe 8 t.resets ++ satLe 8 t.expiries ++ natLe 8 t.resetAt ++ natLe 16 0

/-- The operator's channel block (R481). -/
def Block.chanCounters (b : Block) (c : Nat) : List Byte :=
  let h := SMap.get ({} : Chan) b.dram.chans c
  satLe 8 h.corrected ++ satLe 4 h.uncorr ++ natLe 2 ((h.temp % (65536 : Nat)).toNat) ++
    natLe 2 ((if h.refresh2x then 1 else 0) + (if h.trainFail then 2 else 0))

/-- COUNTERS_READ (R388, R481). -/
def Block.countersRead (b : Block) (page : Nat) : Block :=
  b.mbOpAt page 0x0603 (fun m => if fld (mPl m) 8 8 % 64 = 0 then [(fld (mPl m) 8 8, 128)] else []) 2 (fun b m =>
    let p := mPl m
    let addr := fld p 8 8
    let hdr (sel : Nat) : List Byte := natLe 8 b.time.keeper ++ natLe 1 sel ++ natLe 55 0
    let rec_ : Option (List Byte) :=
      if page < 64 then some (b.ctxCounters page (b.time.keeper / 1000 * 1000))
      else match fld p 0 1 with
        | 0 => some (hdr 0 ++ (List.range 4).flatMap b.partCounters)
        | 1 => some (hdr 1 ++ (List.range 24).flatMap b.chanCounters)
        | 2 => if 64 ≤ mCtx m ∨ (b.ctx (mCtx m)).state = 0 then none else some (hdr 2 ++ b.ctxCounters (mCtx m) b.time.keeper)
        | _ => none
    match rec_ with
    | none => b.mbReply page m stInvalid []
    | some d =>
      if addr % 64 ≠ 0 then b.mbReply page m stInvalid []
      else
        let r := b.bufWrite page addr d
        if r.2 then r.1.mbReply page m stOK [] else r.1.mbReply page m (bufFail page) [])

def execCountersRead (page : Nat) (s : State) : Host.Outcome State Fault Refusal := s.run (·.countersRead page)

/-- The clamp cause in force (R515): the lowest that asks for the level. -/
def Power.cause_ (p : Power) : Nat :=
  if p.level = 0 then 0 else (((List.range 5).map (· + 1)).find? (fun c => SMap.get 0 p.asks c == p.level)).getD 0

/-- POWER_READ (R389, R482). Draws are measured values. -/
def Block.powerRead (b : Block) (page : Nat) : Block :=
  b.mbOp page 0x0604 (fun b m =>
    let r := b.draw
    let clamped := if b.power.level ≠ 0 then 1 else 0
    let t := b.time.keeper
    let rd (i : Nat) : Nat := Config.powerReading (r.1 * 8 + i)
    let b := r.2
    if page < 64 then b.mbReply page m stOK (natLe 8 (t / 100000000 * 100000000) ++ natLe 2 (rd 0) ++ natLe 1 clamped)
    else b.mbReply page m stOK (natLe 8 (t / 1000000 * 1000000) ++ (List.range 5).flatMap (fun i => natLe 4 (rd i)) ++
      natLe 1 clamped ++ natLe 1 b.power.cause_))

def execPowerRead (page : Nat) (s : State) : Host.Outcome State Fault Refusal := s.run (·.powerRead page)

end Sys2Proof.Machine
end

