-- ==== Sys2Proof/Machine/Firn.lean ====
section
/-!
DEFINITION. The Firn weight store: models and their directories (R206–R212), placement, installs, restores
and removals (R213–R222, R500), grants (R209, R331), variant builds (R234–R238) and margin scans (R221).
-/
namespace Sys2Proof.Machine

/-! ### Models and directories -/

def Block.model (b : Block) (m : Nat) : Model := SMap.get {} b.firn.models m
def Block.modFirn (b : Block) (f : Firn → Firn) : Block := { b with firn := f b.firn }
def Block.modModel (b : Block) (m : Nat) (f : Model → Model) : Block :=
  b.modFirn (fun x => { x with models := SMap.put x.models m (f (SMap.get {} x.models m)) })

/-- The copy of the directory set in force (R218). -/
def Firn.inForce (f : Firn) : DirSet := if f.gen % 2 = 0 then f.even else f.odd

/-- What a commit writes: a model under verification stands in it as INSTALLING (R218). -/
def Firn.current (f : Firn) : DirSet :=
  ⟨f.models.map (fun m => (m.1, if m.2.state = 2 then { m.2 with state := 1 } else m.2)), f.owner⟩

/-- A commit (R218): the other copy is written in full, then the generation counter advances. -/
def Firn.commit (f : Firn) : Firn :=
  if f.gen % 2 = 0 then { f with odd := f.current, gen := f.gen + 1 } else { f with even := f.current, gen := f.gen + 1 }

/-- The system area takes the directory set as it stands (R218). -/
def Block.dirCommit (b : Block) : Block := b.modFirn Firn.commit

/-- A model changes state (R206, R223); VERIFYING alone is not committed (R218). -/
def Block.modelState (b : Block) (m st : Nat) : Block :=
  let b := b.modModel m (fun x => { x with state := st })
  (if st = 2 then b else b.dirCommit).emit hubIsl 0x0322 0xFF 0 (m + st * 16)

/-- Bytes of the tensors of a placement. -/
def Model.placed (x : Model) (place : Nat) : List Tensor := x.tensors.filter (fun t => t.place == place)

/-- The address a placed tensor lies at in the DRAM tier or in host memory (R212). -/
def Model.tensorAt (x : Model) (t : Tensor) : Nat := (if t.place = 1 then x.dramBase else x.hostBase) + t.offset

/-- Order of byte strings. -/
def bytesLe : List Byte → List Byte → Bool
  | [], _ => true
  | _ :: _, [] => false
  | a :: s, c :: t => a.toNat < c.toNat || (a == c && bytesLe s t)

/-- A tensor entry of a directory (R212). -/
def Tensor.bytes (t : Tensor) : List Byte :=
  padTo 0#8 16 t.hash ++ natLe 1 t.place ++ natLe 1 t.rank ++ natLe 1 t.priority ++ natLe 5 0 ++ natLe 8 t.offset ++ natLe 8 t.length ++
    padTo 0#8 16 t.dims ++ natLe 8 0 ++ padTo 0#8 32 t.scale ++ padTo 0#8 32 t.digest

/-- A directory's header with a DIR_DIGEST (R211). -/
def Model.header (x : Model) (m : Nat) (dig : List Byte) : List Byte :=
  let sum (p : Nat) : Nat := ((x.placed p).map (·.length)).sum
  natLe 1 1 ++ natLe 1 m ++ natLe 1 x.state ++ natLe 1 (x.flags % 2) ++ natLe 4 x.tensors.length ++ natLe 4 x.extents.length ++
    natLe 4 0 ++ padTo 0#8 32 x.digest ++ padTo 0#8 32 x.pubKey ++ natLe 8 x.stamp ++ natLe 8 (sum 0) ++ natLe 8 (sum 1) ++
    natLe 8 (sum 2) ++ natLe 1 x.dramPart ++ natLe 7 0 ++ natLe 8 x.dramBase ++ natLe 8 x.hostBase ++ natLe 88 0 ++ padTo 0#8 32 dig

/-- A model's directory (R211): header, extent map, entries by NAME_HASH. -/
def Model.directory (x : Model) (m : Nat) : List Byte :=
  let body := x.extents.flatMap (natLe 4) ++ (x.tensors.mergeSort (fun a c => bytesLe a.hash c.hash)).flatMap Tensor.bytes
  x.header m (sha256 (x.header m [] ++ body)) ++ body

/-- Pieces of a model-address range that lie in one extent each: Firn offset, offset in the range, length. -/
def Model.runs (x : Model) (a n : Nat) : List (Nat × Nat × Nat) :=
  (List.range ((a + n + 2097151) / 2097152 - a / 2097152)).map (fun i =>
    let u := a / 2097152 + i
    let lo := max a (u * 2097152)
    let hi := min (a + n) ((u + 1) * 2097152)
    (x.extents.getD u 0 * 2097152 + lo % 2097152, lo - a, hi - lo))

/-- Read a model-address range of Firn; none where a word is poisoned, with what its delivery leaves behind (R205). -/
def Block.firnRead (b : Block) (x : Model) (a n : Nat) : Block × Option (List Byte) :=
  (x.runs a n).foldl (fun r u =>
    (r.1.firnPoison (2 ^ 48 + u.1) u.2.2, r.2.bind (fun d =>
      if (poisonedIn 16 b.firn.poison u.1 u.2.2).isEmpty then some (d ++ Mem.bytes b.firn.mem u.1 u.2.2) else none))) (b, some [])

/-- Program a model-address range of Firn and count its bytes (R205, R220, R221). -/
def Block.firnProgram (b : Block) (x : Model) (a : Nat) (data : List Byte) : Block :=
  (x.runs a data.length).foldl (fun b u => b.modFirn (fun f => { f with
    mem := Mem.write f.mem u.1 ((data.drop u.2.1).take u.2.2)
    poison := poisonAfter 16 f.poison u.1 u.2.2 []
    written := satAdd f.written u.2.2 })) b

/-- One more program of an extent (R220): its count of 16 bits stays at its end (DESIGN CHOICE: R207 gives the width and no
outcome there). -/
def Firn.countProgram (f : Firn) (e : Nat) : Firn :=
  { f with programs := SMap.put f.programs e (min (SMap.get 0 f.programs e + 1) 0xFFFF) }

/-- Erase the extents of a model and free them (R216, R222). -/
def Block.eraseExtents (b : Block) (m : Nat) : Block :=
  b.modFirn (fun f =>
    let own (e : Nat) : Bool := SMap.get 0 f.owner e == m
    { f with
      mem := f.mem.filter (fun c => !own (c.1 / 2097152))
      poison := f.poison.filter (fun w => !own (w / 131072))
      owner := f.owner.filter (fun o => o.2 != m) })

/-! ### Packages (R500) -/

/-- MODULE_IDENTITY (R495). -/
def moduleIdentity : List Byte := sha256 (Config.identityTail.take 32)

/-- A package's checked manifest. -/
structure Pkg where
  digest  : List Byte
  pubKey  : List Byte
  flags   : Nat
  key     : List Byte
  body    : Nat
  bytes   : Nat
  chunks  : Nat
  tensors : List Tensor
  deriving DecidableEq, Repr

/-- A manifest's tensor entry (R212, R500). -/
def readTensor (e : List Byte) : Tensor :=
  ⟨e.take 16, 0, fld e 17 1, fld e 18 1, 0, fld e 32 8, (e.drop 40).take 16, (e.drop 64).take 32, (e.drop 96).take 32⟩

/-- Every field of a scale descriptor has a value that R57 assigns (R9, R44, R50). -/
def descFieldsOk (d : List Byte) : Bool :=
  (Elem.ofCode (fld d 0 1)).isSome && (BScale.ofCode (fld d 1 1)).isSome && decide (fld d 2 1 ≤ 2) && decide (fld d 3 1 ≤ 1) &&
    (fld d 2 1 != 2 || fld d 16 8 % 4 == 0) && rsv d 28 4

/-- A manifest's tensor entry obeys R212. -/
def tensorOk (e : List Byte) : Bool :=
  let rank := fld e 17 1
  rsv e 16 1 && decide (1 ≤ rank ∧ rank ≤ 4) && rsv e 19 13 && rsv e 56 8 &&
    (List.range 4).all (fun i => decide (i < rank) || fld e (40 + 4 * i) 4 == 1) && descFieldsOk ((e.drop 64).take 32)

/-- No value occurs twice. -/
def distinct {α : Type} [BEq α] : List α → Bool
  | [] => true
  | x :: t => !t.contains x && distinct t

/-- Verify a package up to its payload (R500 steps 1–4): the manifest or the reason of R216. -/
def Block.readPkg (b : Block) (addr : Nat) : Except Nat Pkg :=
  match b.hostGet addr 64 with
  | none => .error 3
  | some h =>
    let tc := fld h 4 4
    let bc := fld h 8 4
    let ml := fld h 16 8
    if fld h 0 4 ≠ 1 ∨ bc = 0 ∨ 4096 < bc ∨ ml ≠ 256 + 128 * tc ∨ fld h 24 8 % 4096 ≠ 0 then .error 3
    else match b.hostGet (addr + 64) (ml + 7856 + 1640 * bc) with
      | none => .error 3
      | some d =>
        let man := d.take ml
        let list := d.drop (ml + 7856)
        let entries := (List.range tc).map (fun i => (man.drop (256 + 128 * i)).take 128)
        if !Config.slhVerify (man.take 32) man ((d.drop ml).take 7856) || (h.drop 32).take 32 != (man.drop 64).take 32 ||
            (man.drop 64).take 32 != sha256 list then .error 3
        else if !(entries.all tensorOk && distinct (entries.map (·.take 16))) then .error 8
        else match ((List.range bc).map (fun i => (list.drop (1640 * i)).take 1640)).find? (fun e => e.take 32 == moduleIdentity) with
          | none => .error 4
          | some e => match Config.kemUnwrap ((e.drop 32).take 1568) ((e.drop 1600).take 40) with
            | none => .error 5
            | some key =>
              if b.sec.state ≠ 1 ∨ b.sec.unlocked ∨ b.sec.decommissioned then .error 5
              else .ok ⟨sha256 man, sha256 (man.take 32), fld man 32 1 % 2, key, addr + fld h 24 8, fld man 96 8, fld h 12 4, entries.map readTensor⟩

/-- Plaintext length of a chunk (R500). -/
def chunkLen : Nat := 4194304

/-- The payload's length is that of its tensors, and it lies in the package (R500, R216 reason PAYLOAD). -/
def FirnOp.fits (o : FirnOp) (need : Nat) : Bool :=
  o.bytes == need && o.chunks == (o.bytes + chunkLen - 1) / chunkLen &&
    decide (o.body + o.bytes + 16 * o.chunks ≤ fld o.payload 8 8 + fld o.payload 0 8)

/-- Where chunk `i` of the payload lies, and its plaintext length. -/
def FirnOp.chunk (o : FirnOp) (i : Nat) : Nat × Nat := (o.body + i * (chunkLen + 16), min chunkLen (o.bytes - i * chunkLen))

/-- Read, decrypt and check chunk `i` (R217, R500 step 5). -/
def Block.openChunk (b : Block) (o : FirnOp) (digest key : List Byte) (i : Nat) : Option (List Byte) :=
  let c := o.chunk i
  (b.hostGet c.1 (c.2 + 16)).bind (fun d =>
    (Config.gcmOpen key i (digest ++ natLe 8 i) (d.take c.2) (d.drop c.2)).bind (fun p => if p.length = c.2 then some p else none))

/-- What a package read that is not answered leaves behind (R451). -/
def Block.pkgMissed (b : Block) (addr : Nat) : Block :=
  match b.hostGet addr 64 with
  | none => b.hostMissed addr 64
  | some h => b.hostMissed (addr + 64) (fld h 16 8 + 7856 + 1640 * fld h 8 4)

/-- Where each tensor's bytes begin in the payload, in manifest order. -/
def payloadAt (ts : List Tensor) : List (Tensor × Nat) :=
  (ts.foldl (fun (a : List (Tensor × Nat) × Nat) t => (a.1 ++ [(t, a.2)], a.2 + roundUp 4096 t.length)) ([], 0)).1

/-- Bytes of a payload of these tensors. -/
def payloadLen (ts : List Tensor) : Nat := (ts.map (fun t => roundUp 4096 t.length)).sum

/-! ### Regions and placement (R213, R214) -/

/-- A DRAM range carries no tag of another region and no page of an open window: it is bound to no context. -/
def Block.regionFree (b : Block) (base len : Nat) (own : Nat) : Bool :=
  b.dram.regions.all (fun r => (r.model == own && !r.variant) || !meets base len r.base r.len) &&
    b.weave.windows.all (fun w => w.pages.all (fun p => !meets base len p.2.2 p.2.1))

/-- The DRAM range of a request is aligned, in memory of its partition and bound to no context. -/
def Block.dramRangeOk (b : Block) (part base len own : Nat) : Bool :=
  decide (part < 4) && base % 4096 == 0 && len % 4096 == 0 && base / 2 ^ 40 == part && dramUsable base len &&
    decide ((b.part part).state < 2) && b.regionFree base len own

/-- REGION checks that need no manifest (R216). -/
def Block.regionsOk (b : Block) (p : List Byte) (own : Nat) : Bool :=
  let part := fld p 17 1
  let dl := fld p 32 8
  let hb := fld p 40 8
  let hl := fld p 48 8
  (if part = 0xFF then dl == 0 else if dl = 0 then decide (part < 4) else b.dramRangeOk part (fld p 24 8) dl own) &&
    hb % 4096 == 0 && hl % 4096 == 0 && decide (hb + hl ≤ 2 ^ 48)

/-- One step of R213: place a tensor given the running ends of the three placements. -/
def placeOne (free dram host : Nat) (allow : Bool) (st : Option (List Tensor × Nat × Nat × Nat)) (t : Tensor) :
    Option (List Tensor × Nat × Nat × Nat) :=
  st.bind (fun s =>
    let n := t.length
    let f := roundUp 4096 s.2.1
    let d := roundUp 4096 s.2.2.1
    let h := roundUp 4096 s.2.2.2
    if f + n ≤ free then some (s.1 ++ [{ t with place := 0, offset := f }], f + n, s.2.2.1, s.2.2.2)
    else if d + n ≤ dram then some (s.1 ++ [{ t with place := 1, offset := d }], s.2.1, d + n, s.2.2.2)
    else if allow ∧ h + n ≤ host then some (s.1 ++ [{ t with place := 2, offset := h }], s.2.1, s.2.2.1, h + n)
    else none)

/-- Place every tensor (R213): the tensors in manifest order and the Firn bytes they take. -/
def placeAll (free dram host : Nat) (allow : Bool) (ts : List Tensor) : Option (List Tensor × Nat) :=
  let order := ts.mergeSort (fun a c => decide (c.priority ≤ a.priority))
  (order.foldl (placeOne free dram host allow) (some ([], 0, 0, 0))).map (fun s =>
    (ts.map (fun t => (s.1.find? (fun u => u.hash == t.hash)).getD t), s.2.1))

/-- Extents owned by no model. -/
def Firn.freeExtents (f : Firn) : Nat := 392704 - f.owner.length

/-- The first `n` free extents that have never been programmed. -/
def Firn.fresh (f : Firn) (n : Nat) : List Nat :=
  ((List.range (min 392704 (n + f.owner.length + f.programs.length))).filter
    (fun e => SMap.get 0 f.owner e == 0 && SMap.get 0 f.programs e == 0)).take n

/-- The extents an install takes (R217): by program count, then by number. -/
def Firn.choose (f : Firn) (n : Nat) : List Nat :=
  let free := f.programs.filter (fun p => SMap.get 0 f.owner p.1 == 0)
  let counts := free.foldl (fun l p => SSet.insert l p.2) [0]
  (counts.flatMap (fun c => if c = 0 then f.fresh n else (free.filter (fun p => p.2 == c)).map (·.1))).take n

/-- The placement regions of a model: DRAM regions and host regions as they are tagged (R214). -/
def Block.tagRegions (b : Block) (m : Nat) (dramLen hostLen : Nat) (absent : Bool) : Block :=
  let x := b.model m
  let gone (p : Nat) : List (Nat × Nat) := if absent then (x.placed p).map (fun t => (x.tensorAt t, t.length)) else []
  let d : List Region := if (x.placed 1).isEmpty then [] else [⟨x.dramBase, dramLen, m, false, true, gone 1⟩]
  let h : List Region := if (x.placed 2).isEmpty then [] else [⟨x.hostBase, hostLen, m, false, true, gone 2⟩]
  { b with
    dram := { b.dram with regions := b.dram.regions.filter (fun r => r.model != m || r.variant) ++ d }
    firn := { b.firn with hostRegions := b.firn.hostRegions.filter (fun r => r.model != m) ++ h } }

/-- Clear a DRAM range to zero (R262). -/
def Block.dramClear (b : Block) (base len : Nat) : Block :=
  { b with dram := { b.dram with
      mem := Mem.clear b.dram.mem base len
      poison := b.dram.poison.filter (fun l => decide (l * 64 < base ∨ base + len ≤ l * 64))
      fails := b.dram.fails.filter (fun l => decide (l.1 * 64 < base ∨ base + len ≤ l.1 * 64)) } }

/-- Clear and untag the DRAM placement region of a model (R214, R262). -/
def Block.releasePlaced (b : Block) (m : Nat) : Block :=
  let mine (r : Region) : Bool := r.model == m && !r.variant
  let b := (b.dram.regions.filter mine).foldl (fun b r => b.dramClear r.base r.len) b
  { b with dram := { b.dram with regions := b.dram.regions.filter (fun r => !mine r) } }

/-- Clear and untag the DRAM regions of a model, and untag its host regions (R222). -/
def Block.releaseRegions (b : Block) (m : Nat) : Block :=
  let mine := b.dram.regions.filter (fun r => r.model == m)
  let b := mine.foldl (fun b r => b.dramClear r.base r.len) b
  { b with
    dram := { b.dram with regions := b.dram.regions.filter (fun r => r.model != m) }
    firn := { b.firn with hostRegions := b.firn.hostRegions.filter (fun r => r.model != m) } }

/-! ### Installs (R215–R219) -/

/-- The notice that ends an operation of Firn (R216, R322). -/
def Block.firnNotice (b : Block) (op tag reason value : Nat) : Block :=
  b.mbNotice 64 op tag 0 (if reason = 0 then stOK else stInvalid) [BitVec.ofNat 8 (if reason = 0 then value else reason)]

/-- Steps 1 and 2 of R217: the manifest, the placement and the extents, or the reason. -/
def Block.beginInstall (b : Block) (o : FirnOp) : Block :=
  let p := o.payload
  let fail (r : Nat) : Block := b.modFirn (fun f => { f with op := some { o with doomed := some r } })
  match b.readPkg (fld p 0 8) with
  | .error r => (fail r).pkgMissed (fld p 0 8)
  | .ok k =>
    if fld p 48 8 ≠ 0 ∧ k.flags = 0 then fail 7
    else match placeAll (b.firn.freeExtents * 2097152) (fld p 32 8) (fld p 48 8) (k.flags == 1) k.tensors with
      | none => fail 6
      | some (ts, used) =>
        let ext := b.firn.choose ((used + 2097151) / 2097152)
        let inDram := ts.any (fun t => t.place == 1)
        let x : Model :=
          { state := 0, flags := k.flags, digest := k.digest, pubKey := k.pubKey, stamp := 0, tensors := ts, extents := ext,
            dramPart := if inDram then fld p 17 1 else 0xFF, dramBase := if inDram then fld p 24 8 else 0,
            dramLen := if inDram then fld p 32 8 else 0,
            hostBase := if ts.any (fun t => t.place == 2) then fld p 40 8 else 0,
            hostLen := if ts.any (fun t => t.place == 2) then fld p 48 8 else 0, days := none }
        let b := b.modFirn (fun f => { f with
          models := SMap.put f.models o.model x
          owner := ext.foldl (fun w e => SMap.put w e o.model) f.owner
          op := some { o with body := k.body, bytes := k.bytes, chunks := k.chunks } })
        let b := { b with sec := { b.sec with content := some k.key } }
        (b.tagRegions o.model x.dramLen x.hostLen true).modelState o.model 1

/-- The install, restore or removal is over: its content key is zeroised (R493). -/
def Block.firnOver (b : Block) : Block :=
  { (b.modFirn (fun f => { f with op := none })) with sec := { b.sec with content := none } }

/-- An install ends with a reason other than success (R216): what it programmed is erased and the ID is FREE. -/
def Block.installFailed (b : Block) (o : FirnOp) (reason : Nat) : Block :=
  let was := (b.model o.model).state
  let b := ((b.eraseExtents o.model).releaseRegions o.model).firnOver
  let b := b.modFirn (fun f => { f with models := SMap.keep f.models (fun i => i != o.model) })
  let b := if was = 0 then b else b.dirCommit.emit hubIsl 0x0322 0xFF 0 o.model
  (b.emit hubIsl 0x0323 0xFF 0 (o.model + reason * 16)).firnNotice 0x0301 o.tag reason 0

/-- MODEL_INSTALL (R215, R216). -/
def Block.modelInstall (b : Block) (page : Nat) : Block :=
  b.mbOp page 0x0301 (fun b m =>
    let p := mPl m
    let id := fld p 16 1
    let no (r : Nat) : Block := b.mbReply page m stInvalid [BitVec.ofNat 8 r]
    if b.firn.op.isSome then no 1
    else if id = 0 ∨ 15 < id ∨ (b.model id).state ≠ 0 then no 2
    else if !rsv p 18 6 ∨ fld p 0 8 % 4096 ≠ 0 ∨ !b.regionsOk p id then no 7
    else (b.mbReply page m stOK [0#8]).beginInstall ⟨0, mTag m, id, p, none, 0, 0, 0⟩)

def execModelInstall (page : Nat) (s : State) : Host.Outcome State Fault Refusal := s.run (·.modelInstall page)

/-- Write bytes of a tensor of a placement outside Firn; the second part tells whether they landed. -/
def Block.writePlaced (b : Block) (x : Model) (t : Tensor) (off : Nat) (data : List Byte) : Block × Bool :=
  if t.place = 1 then
    (if 2 ≤ (b.part x.dramPart).state then (b, false) else (b.dramWrite (x.tensorAt t + off) data [], true))
  else b.hostPut (x.tensorAt t + off) data

/-- Read a tensor back, with what its delivery leaves behind. -/
def Block.tensorRead (b : Block) (x : Model) (t : Tensor) : Block × Option (List Byte) :=
  let a := x.tensorAt t
  match t.place with
  | 0 => b.firnRead x t.offset t.length
  | 1 => if 2 ≤ (b.part x.dramPart).state then (b, none)
    else (b.tracePoison a t.length, if (poisonedIn 64 b.dram.bad a t.length).isEmpty then some (Mem.bytes b.dram.mem a t.length) else none)
  | _ => (b.hostMissed a t.length, b.hostGet a t.length)

/-- Read tensors back (R217 step 4, R214): those whose DIGEST does not match. -/
def Block.badTensors (b : Block) (x : Model) (ts : List Tensor) : Block × List Tensor :=
  ts.foldl (fun r t =>
    let d := r.1.tensorRead x t
    (d.1, if d.2.any (fun v => sha256 v == t.digest) then r.2 else r.2 ++ [t])) (b, [])

/-- Parts of tensors that lie in a chunk of the payload: the tensor, the offset in it, the offset in the chunk, the length. -/
def chunkParts (ts : List Tensor) (lo n : Nat) : List (Tensor × Nat × Nat × Nat) :=
  (payloadAt ts).filterMap (fun ta =>
    let s := max ta.2 lo
    let e := min (ta.2 + ta.1.length) (lo + n)
    if s < e then some (ta.1, s - ta.2, s - lo, e - s) else none)

/-- Extents of a model that a model-address range touches. -/
def Model.extentsOf (x : Model) (a n : Nat) : List Nat := ((x.runs a n).map (fun u => u.1 / 2097152)).eraseDups

/-- A chunk is programmed and written (R217 step 3, R220): of the tensors that satisfy `p`. An extent counts one program
for an operation, as it first takes bytes of it: `seen` are those counted. -/
def Block.programChunk (b : Block) (x : Model) (p : Tensor → Bool) (seen : SSet) (lo : Nat) (data : List Byte) : Block × SSet × Bool :=
  (chunkParts x.tensors lo data.length).foldl (fun r q =>
    if !r.2.2 || !p q.1 then r
    else
      let d := (data.drop q.2.2.1).take q.2.2.2
      if q.1.place = 0 then
        let ext := (x.extentsOf (q.1.offset + q.2.1) d.length).filter (fun e => !SSet.has r.2.1 e)
        ((r.1.firnProgram x (q.1.offset + q.2.1) d).modFirn (fun f => ext.foldl Firn.countProgram f), ext.foldl SSet.insert r.2.1, true)
      else
        let w := r.1.writePlaced x q.1 q.2.1 d
        (w.1, r.2.1, w.2)) (b, seen, true)

/-- The first `n` chunks of a payload, one after the other (R217 step 3); false at the first that fails. -/
def Block.chunks (b : Block) (o : FirnOp) (x : Model) (key : List Byte) (p : Tensor → Bool) (n : Nat) : Block × Bool :=
  if !o.fits (payloadLen x.tensors) then (b, false)
  else
    let r := (List.range n).foldl (fun (r : Block × SSet × Bool) i =>
      if !r.2.2 then r
      else match r.1.openChunk o x.digest key i with
        | none => (r.1.hostMissed (o.chunk i).1 ((o.chunk i).2 + 16), r.2.1, false)
        | some d => r.1.programChunk x p r.2.1 (i * chunkLen) d) (b, [], true)
    (r.1, r.2.2)

/-- The content key of the operation under way. -/
def Block.contentKey (b : Block) : List Byte := b.sec.content.getD []

/-- An install that something else ends has programmed some of its chunks (R220): how many is a free value. -/
def Block.installPart (b : Block) (o : FirnOp) : Block :=
  let x := b.model o.model
  if x.state ≠ 1 then b
  else
    let d := b.draw
    (d.2.chunks o x b.contentKey (fun _ => true) (Config.choice d.1 % (o.chunks + 1))).1

/-- An install waits while the partition of its DRAM region resets (R303). -/
def Block.placeWaits (b : Block) (part : Nat) : Bool := decide (part < 4) && (b.part part).state == 1

/-- INSTALL_END (R217–R219): the payload chunk by chunk, read-back and commit, or the reason. -/
def Block.installEnd (b : Block) : Block :=
  match b.firn.op with
  | none => b
  | some o =>
    if o.kind ≠ 0 then b
    else match o.doomed with
      | some r => (if r = 9 then b.installPart o else b).installFailed o r
      | none =>
        let x := b.model o.model
        if b.placeWaits x.dramPart then b
        else
          let w := b.chunks o x b.contentKey (fun _ => true) o.chunks
          if !w.2 then w.1.installFailed o 9
          else
            let v := (w.1.modelState o.model 2).badTensors x x.tensors
            if !v.2.isEmpty then v.1.installFailed o 10
            else
              let b := v.1.modModel o.model (fun x => { x with stamp := v.1.time.keeper })
              let b := b.tagRegions o.model x.dramLen x.hostLen false
              let b := (b.modelState o.model 3).firnOver
              (b.emit hubIsl 0x0323 0xFF 0 o.model).firnNotice 0x0301 o.tag 0 3

def execInstallEnd (s : State) : Host.Outcome State Fault Refusal := s.run (·.installEnd)

/-- MODEL_INSTALL_CANCEL (R219). -/
def Block.modelInstallCancel (b : Block) (page : Nat) : Block :=
  b.mbOp page 0x0302 (fun b m =>
    match b.firn.op with
    | none => b.mbReply page m stInvalid []
    | some o =>
      if o.model ≠ fld (mPl m) 0 1 ∨ 2 ≤ o.kind then b.mbReply page m stInvalid []
      else
        let b := b.mbReply page m stOK []
        if o.kind = 0 then (b.installPart o).installFailed o 11 else b.firnOver.firnNotice 0x0303 o.tag 11 0)

def execModelInstallCancel (page : Nat) (s : State) : Host.Outcome State Fault Refusal := s.run (·.modelInstallCancel page)

/-! ### Restores (R214) -/

/-- MODEL_RESTORE_PLACED (R214): the checks of R216 that come before the reply. -/
def Block.modelRestorePlaced (b : Block) (page : Nat) : Block :=
  b.mbOp page 0x0303 (fun b m =>
    let p := mPl m
    let id := fld p 16 1
    let no (r : Nat) : Block := b.mbReply page m stInvalid [BitVec.ofNat 8 r]
    if b.firn.op.isSome then no 1
    else if id = 0 ∨ 15 < id ∨ (b.model id).state ≠ 4 then no 2
    else if !rsv p 18 6 ∨ fld p 0 8 % 4096 ≠ 0 ∨ !b.regionsOk p id then no 7
    else (b.mbReply page m stOK [0#8]).modFirn (fun f => { f with op := some ⟨1, mTag m, id, p, none, 0, 0, 0⟩ }))

def execModelRestorePlaced (page : Nat) (s : State) : Host.Outcome State Fault Refusal := s.run (·.modelRestorePlaced page)

/-- A placed tensor fits the region that a restore names. -/
def restoreFits (p : List Byte) (t : Tensor) : Bool :=
  match t.place with
  | 0 => true
  | 1 => decide (t.offset + t.length ≤ fld p 32 8)
  | _ => decide (t.offset + t.length ≤ fld p 48 8)

/-- The work of a restore (R214): the block and the reason it ends with, 0 for success. -/
def Block.restoreWork (b : Block) (o : FirnOp) : Block × Nat :=
  let p := o.payload
  let x := b.model o.model
  match o.doomed, b.readPkg (fld p 0 8) with
  | some r, _ => (b, r)
  | none, .error r => (b.pkgMissed (fld p 0 8), r)
  | none, .ok k =>
    if k.digest ≠ x.digest then (b, 8)
    else if !x.tensors.all (restoreFits p) then (b, 6)
    else
      let d := !(x.placed 1).isEmpty
      let h := !(x.placed 2).isEmpty
      let x := { x with
        dramPart := if d then fld p 17 1 else 0xFF, dramBase := if d then fld p 24 8 else 0
        dramLen := if d then fld p 32 8 else 0
        hostBase := if h then fld p 40 8 else 0, hostLen := if h then fld p 48 8 else 0 }
      let b := ((b.releasePlaced o.model).modModel o.model (fun _ => x)).tagRegions o.model x.dramLen x.hostLen true
      let w := b.chunks { o with body := k.body, bytes := k.bytes, chunks := k.chunks } x k.key (fun t => t.place != 0) k.chunks
      if !w.2 then (w.1, 9)
      else
        let v := w.1.badTensors x (x.tensors.filter (fun t => t.place != 0))
        (if v.2.isEmpty then v.1.tagRegions o.model x.dramLen x.hostLen false else v.1, if v.2.isEmpty then 0 else 10)

/-- MODEL_RESTORE_END (R214). -/
def Block.modelRestoreEnd (b : Block) : Block :=
  match b.firn.op with
  | none => b
  | some o =>
    if o.kind ≠ 1 ∨ b.placeWaits (fld o.payload 17 1) then b
    else
      let w := b.restoreWork o
      let b := if w.2 = 0 then w.1.modelState o.model 3 else w.1
      b.firnOver.firnNotice 0x0303 o.tag w.2 3

def execModelRestoreEnd (s : State) : Host.Outcome State Fault Refusal := s.run (·.modelRestoreEnd)

/-! ### Removal (R222) -/

/-- A host region of a model is being read over Treleb. -/
def Block.regionRead (b : Block) (m : Nat) : Bool :=
  b.treleb.reqs.any (fun q => (match q.kind with | .pieceRead .. => true | _ => false) &&
    b.firn.hostRegions.any (fun r => r.model == m && meets q.addr q.len r.base r.len))

/-- MODEL_REMOVE (R222). -/
def Block.modelRemove (b : Block) (page : Nat) : Block :=
  b.mbOp page 0x0304 (fun b m =>
    let p := mPl m
    let id := fld p 0 1
    let no (r : Nat) : Block := b.mbReply page m stInvalid [BitVec.ofNat 8 r]
    let st := (b.model id).state
    if id = 0 ∨ 15 < id ∨ !rsv p 1 55 then no 4
    else if b.firn.op.isSome then no 1
    else if st = 0 ∨ st = 1 ∨ st = 2 ∨ st = 6 then no 2
    else if b.ctxs.any (fun c => SSet.has c.2.grants id) ∨ b.regionRead id ∨
        b.firn.build.any (fun u => fld u.payload 12 1 == id) then no 3
    else
      let b := (b.mbReply page m stOK []).modFirn (fun f => { f with op := some ⟨2, mTag m, id, p, none, 0, 0, 0⟩ })
      b.modelState id 6)

def execModelRemove (page : Nat) (s : State) : Host.Outcome State Fault Refusal := s.run (·.modelRemove page)

/-- A removal's erasure, clears and commit (R222). -/
def Block.finishRemoval (b : Block) (m : Nat) : Block :=
  let b := (b.eraseExtents m).releaseRegions m
  let b := b.modFirn (fun f => { f with
    models := SMap.keep f.models (fun i => i != m), scanning := f.scanning.map (fun l => l.filter (· != m)) })
  b.dirCommit.emit hubIsl 0x0322 0xFF 0 m

/-- MODEL_REMOVE_END (R222). -/
def Block.modelRemoveEnd (b : Block) : Block :=
  match b.firn.op with
  | none => b
  | some o => if o.kind ≠ 2 then b else (b.finishRemoval o.model).firnOver.firnNotice 0x0304 o.tag 0 0

def execModelRemoveEnd (s : State) : Host.Outcome State Fault Refusal := s.run (·.modelRemoveEnd)

/-! ### Grants (R209, R331) -/

/-- MODEL_GRANT (R331). -/
def Block.modelGrant (b : Block) (page : Nat) : Block :=
  b.mbOp page 0x0305 (fun b m =>
    let id := fld (mPl m) 0 1
    let ctx := mCtx m
    let st := (b.model id).state
    if id = 0 ∨ 15 < id ∨ fld (mPl m) 1 1 ≠ 0 ∨ 64 ≤ ctx ∨ (b.ctx ctx).state = 0 then b.mbReply page m stInvalid []
    else if SSet.has (b.ctx ctx).grants id then b.mbReply page m stOK []
    else if st ≠ 3 ∧ st ≠ 4 then b.mbReply page m stInvalid []
    else (b.modCtx ctx (fun x => { x with grants := SSet.insert x.grants id })).mbReply page m stOK [])

def execModelGrant (page : Nat) (s : State) : Host.Outcome State Fault Refusal := s.run (·.modelGrant page)

/-- The revoke itself. -/
def Block.revoke (b : Block) (ctx id : Nat) : Block := b.modCtx ctx (fun x => { x with grants := SSet.erase x.grants id })

/-- MODEL_REVOKE (R209, R331): with FORCE the revoke follows the abort. -/
def Block.modelRevoke (b : Block) (page : Nat) : Block :=
  b.mbOp page 0x0306 (fun b m =>
    let id := fld (mPl m) 0 1
    let ctx := mCtx m
    if id = 0 ∨ 15 < id ∨ 1 < fld (mPl m) 1 1 ∨ 64 ≤ ctx ∨ (b.ctx ctx).state = 0 then b.mbReply page m stInvalid []
    else if !SSet.has (b.ctx ctx).grants id then b.mbReply page m stOK []
    else if fld (mPl m) 1 1 = 0 then (b.revoke ctx id).mbReply page m stOK []
    else
      let b1 := b.abortCtx ctx (some page)
      b1.mbBusy page m (b1.newAborts b) [])

def execModelRevoke (page : Nat) (s : State) : Host.Outcome State Fault Refusal := s.run (·.modelRevoke page)

/-! ### Reading directories and status (R221, R332) -/

/-- Write a record to the buffer of R332 and reply with the bytes written. -/
def Block.toBuffer (b : Block) (page : Nat) (m : List Byte) (data : List Byte) : Block :=
  let addr := fld (mPl m) 8 8
  let d := data.take (fld (mPl m) 16 8)
  if addr % 64 ≠ 0 then b.mbReply page m stInvalid []
  else
    let r := if d.isEmpty then (b, true) else b.bufWrite page addr d
    if r.2 then r.1.mbReply page m stOK (natLe 8 d.length) else r.1.mbReply page m (bufFail page) []

/-- An operation of R332 whose data, or refusal, is `data` of the message: it waits while its buffer cannot be written yet. -/
def Block.bufferOp (b : Block) (page op : Nat) (data : List Byte → Except Nat (List Byte)) : Block :=
  b.mbOpAt page op (fun m => match data m with
    | .error _ => []
    | .ok d => if fld (mPl m) 8 8 % 64 ≠ 0 then [] else [(fld (mPl m) 8 8, min d.length (fld (mPl m) 16 8))]) 2
    (fun b m => match data m with
      | .error st => b.mbReply page m st []
      | .ok d => b.toBuffer page m d)

/-- The 15 records of MODEL_LIST as a page sees them (R332). -/
def Block.modelRecords (b : Block) (page : Nat) : List Byte :=
  (List.range 15).flatMap (fun i =>
    let id := i + 1
    let x := b.model id
    if x.state = 0 ∨ (page < 64 ∧ !SSet.has (b.ctx page).grants id) then natLe 1 0 ++ natLe 1 id ++ natLe 94 0
    else (x.header id []).take 96)

/-- MODEL_LIST (R332). -/
def Block.modelList (b : Block) (page : Nat) : Block := b.bufferOp page 0x0307 (fun _ => .ok (b.modelRecords page))

def execModelList (page : Nat) (s : State) : Host.Outcome State Fault Refusal := s.run (·.modelList page)

/-- MODEL_DIRECTORY_READ (R332). -/
def Block.modelDirectoryRead (b : Block) (page : Nat) : Block :=
  b.bufferOp page 0x0308 (fun m =>
    let id := fld (mPl m) 0 1
    if page < 64 ∧ !SSet.has (b.ctx page).grants id then .error stNoGrant
    else if id = 0 ∨ 15 < id ∨ (b.model id).state = 0 then .error stInvalid
    else .ok (((b.model id).directory id).drop (fld (mPl m) 24 8)))

def execModelDirectoryRead (page : Nat) (s : State) : Host.Outcome State Fault Refusal := s.run (·.modelDirectoryRead page)

/-- The record of R221. -/
def Block.firnRecord (b : Block) : List Byte :=
  let f := b.firn
  let progs := f.programs.map (·.2)
  let sum := progs.sum
  natLe 4 f.freeExtents ++ natLe 4 f.suspect.length ++ natLe 4 (progs.filter (fun n => decide (3000 < n))).length ++
    natLe 2 (min 65535 (progs.foldl max 0)) ++ natLe 2 (min 65535 (sum * 100 / 392704)) ++ natLe 8 f.written ++ natLe 8 f.corrected ++
    natLe 8 f.uncorr ++ natLe 8 f.lastScan ++
    (List.range 15).flatMap (fun i =>
      let x := b.model (i + 1)
      natLe 4 (if x.state = 0 then 0xFFFFFFFF else x.days.getD 0xFFFFFFFE)) ++ natLe 20 0

/-- FIRN_STATUS (R221, R332). -/
def Block.firnStatus (b : Block) (page : Nat) : Block := b.bufferOp page 0x0309 (fun _ => .ok b.firnRecord)

def execFirnStatus (page : Nat) (s : State) : Host.Outcome State Fault Refusal := s.run (·.firnStatus page)

/-! ### Variant builds (R234–R238) -/

/-- VARIANT_BUILD (R234, R237): what can be checked of the request itself. -/
def Block.variantBuild (b : Block) (page : Nat) : Block :=
  b.mbOp page 0x030A (fun b m =>
    let p := mPl m
    let id := fld p 12 1
    let base := fld p 16 8
    let len := fld p 24 8
    let no (r : Nat) : Block := b.mbReply page m stInvalid [BitVec.ofNat 8 r]
    if b.firn.build.isSome then no 1
    else if 15 < id ∨ (id ≠ 0 ∧ (b.model id).state ≠ 3) then no 2
    else if len = 0 ∨ !b.dramRangeOk (fld p 13 1) base len 0x100 then no 3
    else if fld p 0 8 % 64 ≠ 0 ∨ fld p 8 4 = 0 ∨ 65536 < fld p 8 4 ∨ !rsv p 14 2 ∨ !rsv p 32 24 then no 4
    else
      let b := (b.mbReply page m stOK [0#8]).modFirn (fun f => { f with build := some ⟨mTag m, p, false⟩ })
      if id = 0 then b
      else { b with dram := { b.dram with regions := b.dram.regions ++ [⟨base, len, id, true, false, []⟩] } })

def execVariantBuild (page : Nat) (s : State) : Host.Outcome State Fault Refusal := s.run (·.variantBuild page)

/-- A spec list entry obeys R235. -/
def specOk (e : List Byte) (id : Nat) : Bool :=
  let w := fld e 41 1
  let len := fld e 24 8
  decide (fld e 40 1 < 16) && [1, 2, 4, 8, 16, 32].contains w && decide (1 ≤ len ∧ len ≤ 2 ^ 32) &&
    (decide (w < 8) || len % (w / 8) == 0) && rsv e 58 6 && (id != 0 || rsv e 0 16)

/-- Worst-case bytes of one stream (R236). -/
def worstCase (len : Nat) : Nat :=
  let nb := (len + blockLen - 1) / blockLen
  let last := len - (nb - 1) * blockLen
  roundUp 64 (64 + roundUp 64 (4 * nb) + (nb - 1) * (8 + blockLen) + (8 + roundUp 8 last))

/-- Bytes of the histogram of a stream: its blocks that are not ZERO (R233). -/
def histBytes (d : List Byte) : List Byte :=
  (List.range ((d.length + blockLen - 1) / blockLen)).flatMap (fun i =>
    let c := (d.drop (i * blockLen)).take blockLen
    if c.all (· == 0#8) then [] else c)

/-- The tensor that supplies a stream's reference, or the reason it has none (R235, R237). -/
def Block.refTensor (b : Block) (id : Nat) (e : List Byte) : Except Nat Tensor :=
  match (b.model id).tensors.find? (fun t => t.hash == e.take 16) with
  | none => .error 2
  | some t => if t.place ≠ 0 then .error 2 else if t.length < fld e 16 8 + fld e 24 8 then .error 4 else .ok t

/-- A stream of a build: its spec, its variant bytes, its reference and the difference. -/
structure BuildIn where
  spec : List Byte
  own  : List Byte
  ref  : List Byte
  diff : List Byte
  deriving DecidableEq, Repr

def BuildIn.group (i : BuildIn) : Nat := fld i.spec 40 1
def BuildIn.bits_ (i : BuildIn) : Nat := fld i.spec 41 1

/-- Read what a spec names (R237 stages 1 and 3): with what the reads leave behind. -/
def Block.buildRead (b : Block) (id : Nat) (e : List Byte) : Block × Except Nat BuildIn :=
  let len := fld e 24 8
  let ref : Block × Except Nat (List Byte) :=
    if id = 0 then (b, .ok (List.replicate len 0#8))
    else match b.refTensor id e with
      | .error r => (b, .error r)
      | .ok t => match b.firnRead (b.model id) (t.offset + fld e 16 8) len with
        | (b, some d) => (b, .ok d)
        | (b, none) => (b, .error 5)
  match ref with
  | (b, .error r) => (b, .error r)
  | (b, .ok ref) => match b.hostGet (fld e 32 8) len with
    | none => (b.hostMissed (fld e 32 8) len, .error 5)
    | some own => (b, .ok ⟨e, own, ref, makeDiff (fld e 41 1) ref own⟩)

/-- The streams of a build, or the spec index and the reason of the first that cannot be read. -/
def Block.buildInputs (b : Block) (id : Nat) (es : List (List Byte)) : Block × Except (Nat × Nat) (List BuildIn) :=
  es.zipIdx.foldl (fun r e => match r with
    | (b, .error x) => (b, .error x)
    | (b, .ok l) => match b.buildRead id e.1 with
      | (b, .error x) => (b, .error (e.2, x))
      | (b, .ok i) => (b, .ok (l ++ [i]))) (b, .ok [])

/-- Decode a stream of `n` blocks from its bytes (R228, R237 stage 4): blocks lie one after the other from `off` on. -/
def decodeStream (tables : List Byte) (len : Nat) : (n i off : Nat) → List Byte → Option (List Byte)
  | 0, _, _, _ => some []
  | n + 1, i, off, s =>
    let h := (s.drop off).take 8
    if leNat ((s.drop (64 + 4 * i)).take 4) ≠ off then none
    else match decodeBlock h ((s.drop (off + 8)).take (bhComp h)) tables (min blockLen (len - blockLen * i)) with
      | .error _ => none
      | .ok d => (decodeStream tables len n (i + 1) (off + 8 + roundUp 8 (bhComp h)) s).map (d ++ ·)

/-- A stream of the region decodes to the variant's bytes, whose digest is in its header (R229, R237 stage 4). -/
def Block.streamGood (b : Block) (base off len : Nat) (i : BuildIn) : Bool :=
  let s := Mem.bytes b.dram.mem (base + off) len
  let n := fld s 8 8
  (poisonedIn 64 b.dram.bad (base + off) len).isEmpty && (poisonedIn 64 b.dram.bad base 2048).isEmpty &&
    match decodeStream (Mem.bytes b.dram.mem base 2048) n (fld s 0 4) 0 (64 + roundUp 64 (4 * fld s 0 4)) s with
    | some d => sha256 (applyDiff i.bits_ i.ref d) == (s.drop 32).take 32
    | none => false

/-- The contents of a build's region are undefined (R237): free bytes. -/
def Block.buildSpoils (b : Block) (u : Build) : Block :=
  let len := fld u.payload 24 8
  let d := (List.range len).map (fun i => Config.freeByte (b.freeCtr + i))
  ({ b with freeCtr := b.freeCtr + len }).dramWrite (fld u.payload 16 8) d []

/-- Stages 2 and 3 of a build (R233, R237): the tables and the streams go into the region, each from a multiple of 64
bytes. The offset and the length of each stream. -/
def Block.buildWrite (b : Block) (base id : Nat) (ins : List BuildIn) : Block × List (Nat × Nat) :=
  let lens (g : Nat) : List Nat := buildLens (histogram (ins.flatMap (fun s => if s.group = g then histBytes s.diff else [])))
  let tag := if id = 0 then [] else (b.model id).digest.take 8
  let b := b.dramWrite base ((List.range 16).flatMap (fun g => tableBytes (lens g))) []
  let r := ins.foldl (fun (st : Block × List (Nat × Nat) × Nat) s =>
    let out := encodeStream s.bits_ s.group (lens s.group) tag (sha256 s.own) s.diff
    (st.1.dramWrite (base + st.2.2) out [], st.2.1 ++ [(st.2.2, out.length)], roundUp 64 (st.2.2 + out.length))) (b, [], 2048)
  (r.1, r.2.1)

/-- Stage 4 of a build (R237): every stream is decoded from the region and checked, then OUT_OFFSET and OUT_LEN go into the
spec list. The spec index of the first stream that fails. -/
def Block.buildVerify (b : Block) (base spec : Nat) (ins : List BuildIn) (at_ : List (Nat × Nat)) : Block × Option Nat :=
  match (ins.zip at_).findIdx? (fun s => !b.streamGood base s.2.1 s.2.2 s.1) with
  | some i => (((ins.zip at_)[i]?).elim b (fun s => b.tracePoison (base + s.2.1) s.2.2), some i)
  | none => at_.zipIdx.foldl (fun r o =>
    let w := r.1.hostPut (spec + 64 * o.2 + 42) (natLe 8 o.1.1 ++ natLe 8 o.1.2)
    (w.1, if w.2 then r.2 else r.2.or (some o.2))) (b, none)

/-- The four stages of a build (R237): the block, the reason, 0 for success, and the spec index that it concerns. -/
def Block.buildWork (b : Block) (u : Build) : Block × Nat × Nat :=
  let p := u.payload
  let id := fld p 12 1
  let n := fld p 8 4
  let base := fld p 16 8
  match b.hostGet (fld p 0 8) (64 * n) with
  | none => (b.hostMissed (fld p 0 8) (64 * n), 4, 0)
  | some spec =>
    let es := (List.range n).map (fun i => (spec.drop (64 * i)).take 64)
    match es.findIdx? (fun e => !specOk e id) with
    | some i => (b, 4, i)
    | none =>
      if fld p 24 8 < 2048 + (es.map (fun e => worstCase (fld e 24 8))).sum then (b, 3, 0)
      else match b.buildInputs id es with
        | (b, .error r) => (b, r.2, r.1)
        | (b, .ok ins) =>
          let w := b.buildWrite base id ins
          match w.1.buildVerify base (fld p 0 8) ins w.2 with
          | (b, none) => (b, 0, 0)
          | (b, some i) => (b.buildSpoils u, 5, i)

/-- A reset of its partition has ended a build with VERIFY (R237). -/
def Block.buildDoomed (b : Block) (u : Build) : Block × Nat × Nat := (b.buildSpoils u, 5, 0)

/-- BUILD_END (R237, R238, R247): the region opens to grant holders; a build refused before it wrote anything releases its tag.
ARG[31:0] is the index of the spec that the reason concerns, and 0 where it concerns none (DESIGN CHOICE: R247 does not say). -/
def Block.buildEnd (b : Block) : Block :=
  match b.firn.build with
  | none => b
  | some u =>
    if b.placeWaits (fld u.payload 13 1) then b
    else
      let w := if u.doomed then b.buildDoomed u else b.buildWork u
      let mine (r : Region) : Bool := r.variant && r.base == fld u.payload 16 8
      let kept := if w.2.1 = 0 ∨ w.2.1 = 5 then w.1.dram.regions.map (fun r => if mine r then { r with present := true } else r)
        else w.1.dram.regions.filter (fun r => !mine r)
      let b := { w.1 with dram := { w.1.dram with regions := kept } }
      let b := (b.modFirn (fun f => { f with build := none })).emit hubIsl 0x0331 0xFF 0 (w.2.2 + w.2.1 * 2 ^ 32)
      b.firnNotice 0x030A u.tag w.2.1 0

def execBuildEnd (s : State) : Host.Outcome State Fault Refusal := s.run (·.buildEnd)

/-! ### Rechecks and scans -/

/-- The models with tensors in a partition's DRAM tier. -/
def Block.modelsIn (b : Block) (part : Nat) : List Nat :=
  (b.firn.models.filter (fun m => m.2.dramPart == part && (m.2.state == 3 || m.2.state == 4))).map (·.1)

/-- The recheck of one model after a reset (R214): its failing tensors are absent from then on. -/
def Block.recheck (b : Block) (m : Nat) : Block :=
  let x := b.model m
  let w := b.badTensors x (x.placed 1)
  let bad := w.2.map (fun t => (x.tensorAt t, t.length))
  let b := w.1
  let b := { b with dram := { b.dram with regions := b.dram.regions.map (fun r =>
    if r.model = m ∧ !r.variant ∧ !r.present then { r with present := true, gone := bad } else r) } }
  if bad.isEmpty ∨ x.state = 4 then b else b.modelState m 4

/-- PLACED_RECHECK_DONE (R214): after the partition's reset has ended. -/
def Block.placedRecheckDone (b : Block) (part : Nat) : Block :=
  if (b.part part).state ≠ 0 then b
  else ((b.modelsIn part).filter (fun m => b.dram.regions.any (fun r => r.model == m && !r.variant && !r.present))).foldl Block.recheck b

def execPlacedRecheckDone (part : Nat) (s : State) : Host.Outcome State Fault Refusal := s.run (·.placedRecheckDone part)

/-- Powered nanoseconds between margin scans (R221). -/
def scanPeriod : Nat := 86400000000000

/-- MARGIN_SCAN (R221): `scanAt` is 0 until the first scan after a cold start begins. -/
def Block.marginScan (b : Block) : Block :=
  if !b.getisUp ∨ b.firn.scanning.isSome then b
  else
    let b := if b.firn.scanAt = 0 then b else b.advanceTo (b.firn.scanAt + scanPeriod)
    b.modFirn (fun f => { f with
      scanAt := max 1 b.time.keeper
      scans := f.scans + 1
      scanning := some ((f.models.filter (fun m => !m.2.extents.isEmpty && (m.2.state == 3 || m.2.state == 4 || m.2.state == 5))).map (·.1)) })

def execMarginScan (s : State) : Host.Outcome State Fault Refusal := s.run (·.marginScan)

/-- SCAN_DONE (R221): the estimates of the models covered, in whole days. -/
def Block.scanDone (b : Block) : Block :=
  match b.firn.scanning with
  | none => b
  | some l =>
    let b := l.foldl (fun b m =>
      let d := Config.retentionDays b.firn.scans m % 0xFFFFFFFE
      let b := b.modModel m (fun x => { x with days := some d })
      if d < 180 then b.emit hubIsl 0x0325 0xFF 0 m else b) b
    let b := (b.modFirn (fun f => { f with scanning := none, lastScan := b.time.keeper })).dirCommit
    b.emit hubIsl 0x0324 0xFF 0 0

def execScanDone (s : State) : Host.Outcome State Fault Refusal := s.run (·.scanDone)

end Sys2Proof.Machine
end

