-- ==== Sys2Proof/Machine/Floe.lean ====
section
/-!
DEFINITION. Floe configuration, sequence records and floe lists (R268–R275), the step's append table and its
commit (R274, R277, R279), and FLOE_OP (R281).
-/
namespace Sys2Proof.Machine

/-! ### Dispatched ring entries -/

/-- The dispatched entries of an operation that wait to run, in ring order (R340). -/
def Ctx.turns (x : Ctx) (op : Nat) : List Entry :=
  x.entries.filter (fun e => e.op == op && e.state == .dispatched && !e.held && !e.refused)

/-- The oldest entry of an operation that has been dispatched and waits to run (R340). -/
def Ctx.turn (x : Ctx) (op : Nat) : Option Entry := (x.turns op).head?

/-- The front end serves a context's ring: Getis runs, the partition serves, and the context is neither being
reset nor destroyed. -/
def Block.serves (b : Block) (ctx : Nat) : Bool :=
  let x := b.ctx ctx
  b.getisUp && (x.state == 1 || x.state == 2) && (b.part x.part).state == 0

/-- Run an entry of an operation: the oldest dispatched one whose way is free. -/
def Block.ringFree (b : Block) (ctx op : Nat) (free : Entry → Bool) (f : Block → Entry → Block) : Block :=
  if !b.serves ctx then b else match ((b.ctx ctx).turns op).find? free with
  | none => b
  | some e => f b e

/-- Run the oldest dispatched entry of an operation. -/
def Block.ringTurn (b : Block) (ctx op : Nat) (f : Block → Entry → Block) : Block := b.ringFree ctx op (fun _ => true) f

/-! ### Configuration (R268) -/

def FloeCfg.latent (f : FloeCfg) : Bool := fld f.raw 0 1 == 0
def FloeCfg.fmt (f : FloeCfg) : Nat := fld f.raw 1 1
def FloeCfg.layers (f : FloeCfg) : Nat := fld f.raw 2 2
def FloeCfg.kvHeads (f : FloeCfg) : Nat := fld f.raw 4 2
def FloeCfg.headW (f : FloeCfg) : Nat := fld f.raw 6 2
def FloeCfg.latentW (f : FloeCfg) : Nat := fld f.raw 8 2
def FloeCfg.posW (f : FloeCfg) : Nat := fld f.raw 10 2
def FloeCfg.table (f : FloeCfg) : Nat := fld f.raw 16 8
def FloeCfg.seqs (f : FloeCfg) : Nat := fld f.raw 24 4

/-- The element format of the floes. -/
def FloeCfg.elem (f : FloeCfg) : Elem := (Elem.ofCode f.fmt).getD .bf16

/-- A latent floe of BF16 rows: L2 is 1 (R276). -/
def FloeCfg.plain (f : FloeCfg) : Bool := f.latent && f.fmt == 1

/-- The payload obeys R268. -/
def FloeCfg.ok (f : FloeCfg) : Bool :=
  let w := f.headW
  decide (fld f.raw 0 1 ≤ 1) && decide (1 ≤ f.layers ∧ f.layers ≤ 256) && w % 32 == 0 && decide (32 ≤ w ∧ w ≤ 256) &&
    rsv f.raw 12 4 && f.table % 64 == 0 && decide (1 ≤ f.seqs ∧ f.seqs ≤ 65536) && rsv f.raw 28 28 &&
    (if f.latent then [1, 3].contains f.fmt && f.kvHeads == 0 && f.latentW % 32 == 0 && decide (32 ≤ f.latentW ∧ f.latentW ≤ 1024) &&
        f.posW % 32 == 0 && decide (f.posW ≤ 256)
     else [3, 7].contains f.fmt && decide (1 ≤ f.kvHeads ∧ f.kvHeads ≤ 256) && f.latentW == 0 && f.posW == 0)

/-- CTX_FLOE_CONFIG (R268): accepted once per context. -/
def Block.ctxFloeConfig (b : Block) (page : Nat) : Block :=
  b.mbOp page 0x0105 (fun b m =>
    let ctx := msgCtx page m
    let f : FloeCfg := ⟨mPl m⟩
    if 64 ≤ ctx ∨ (b.ctx ctx).state = 0 ∨ (b.ctx ctx).floe.isSome ∨ !f.ok then b.mbReply page m stInvalid []
    else (b.modCtx ctx (fun x => { x with floe := some f })).mbReply page m stOK [])

def execCtxFloeConfig (page : Nat) (s : State) : Host.Outcome State Fault Refusal := s.run (·.ctxFloeConfig page)

/-! ### Memory of a context by space (R270, R282) -/

/-- Who makes an access of an operation: the front end, or for an ATTN the first mover of a core (DESIGN CHOICE: R288 gives
the ATTN all four and does not say which of them makes an access). -/
abbrev Via := Option Nat

/-- What stands against an access of an operation: a status or a wait, with the run and the access bits; `lines` are lines of
the DRAM tier that must be snooped first. -/
structure OpErr where
  st    : Nat
  va    : Nat := 0
  len   : Nat := 0
  acc   : Nat := 1
  lines : List Nat := []
  deriving DecidableEq, Repr

/-- A check of the operation itself fails. -/
def OpErr.of (st : Nat) : OpErr := { st := st }

/-- The island that makes an access. -/
def Block.opIsl (b : Block) (ctx : Nat) : Via → Nat
  | none => fabIsl (b.ctx ctx).part
  | some c => movIsl c

/-- The status that an ATTN's access to an address has failed with. -/
def Mover.endedAt (v : Mover) (va : Nat) : Option Nat := match v.park with
  | .ended a st => if a = va then some st else none
  | _ => none

/-- Translate an address of an ATTN on a core's first stream (R299, R301): a miss that walks to a page goes on at once. -/
def Block.streamAddr (b : Block) (core ctx va acc : Nat) : Except Nat Nat :=
  let v := (b.core core).mover 0
  match b.lookup core 0 ctx va acc with
  | .ok pa => .ok pa
  | .bad e => .error e
  | .miss =>
    match (if v.parkCtx = ctx then v.endedAt va else none) with
    | some e => .error e
    | none => match (b.streamWalk core ctx va).1 with
      | .page e => if e.allows acc then .ok (e.pa + (va - e.va)) else .error stRights
      | .host => .error stAsk
      | .fault _ _ _ _ => .error stAsk
      | .dead _ => .error stData
      | .wait => .error stWait

/-- Translate an address of an operation. -/
def Block.opAddr (b : Block) (ctx : Nat) (via : Via) (va acc : Nat) : Except Nat Nat :=
  match via with
  | none => b.feAddr ctx va acc
  | some core => b.streamAddr core ctx va acc

/-- A run that lies in one page resolves to one of the given spaces and may be accessed: its physical address. What a mover
accesses is snooped first (R444). -/
def Block.opRun (b : Block) (ctx : Nat) (via : Via) (va n acc : Nat) (spaces : List Nat) : Except OpErr Nat :=
  match b.opAddr ctx via va acc with
  | .error e => .error ⟨e, va, n, acc, []⟩
  | .ok pa =>
    let c := if bits pa 63 52 = b.self ∧ spaces.contains (bits pa 51 48) then b.physCheck ctx pa n (bit acc 1) else stRights
    let lines := if via.isSome ∧ bits pa 51 48 = 0 then b.snooped (bits pa 47 0) n else []
    if c ≠ stOK then .error ⟨c, va, n, acc, []⟩
    else if !lines.isEmpty then .error ⟨stWait, va, n, acc, lines⟩
    else .ok pa

/-- Read operand bytes of a context. -/
def Block.opRead (b : Block) (ctx : Nat) (via : Via) (va n : Nat) (spaces : List Nat) : Except OpErr (List Byte) :=
  (pageRuns va n).foldl (fun r p =>
    match r with
    | .error e => .error e
    | .ok l => match b.opRun ctx via (va + p.1) p.2 1 spaces with
      | .error e => .error e
      | .ok pa => match b.physRead pa p.2 with
        | .error e => .error ⟨e, va + p.1, p.2, 1, []⟩
        | .ok rd => if rd.bad.isEmpty then .ok (l ++ rd.data) else .error ⟨stData, va + p.1, p.2, 1, []⟩) (.ok [])

/-- Write bytes to the DRAM tier or host memory of a context: the block, and what stood against it. -/
def Block.opWrite (b : Block) (ctx : Nat) (via : Via) (va : Nat) (data : List Byte) : Block × Option OpErr :=
  (pageRuns va data.length).foldl (fun r p =>
    if r.2.isSome then r
    else match r.1.opRun ctx via (va + p.1) p.2 2 [0, 2] with
      | .error e => (r.1, some e)
      | .ok pa =>
        let b := r.1.cross (r.1.opIsl ctx via) (memIsl pa)
        let d := (data.drop p.1).take p.2
        if bits pa 51 48 = 0 then (b.dramWrite (bits pa 47 0) d [], none)
        else match b.hostPut (bits pa 47 0) d with
          | (b, true) => (b, none)
          | (b, false) => (b, some ⟨stRights, va + p.1, p.2, 2, []⟩)) (b, none)

/-- An ATTN's stream has reached an address: its translation is used, or entered where it has just been walked (R299). -/
def Block.streamUse (b : Block) (core ctx va : Nat) : Block :=
  match b.lookup core 0 ctx va 0, b.streamWalk core ctx va with
  | .miss, (.page e, ws) => (b.fillWalks (partOf core) ws).fillTlb core 0 e
  | .miss, _ => b
  | _, _ => b.touch core 0 ctx va

/-- The pages of a list of ranges (address, length). -/
def pagesOf (l : List (Nat × Nat)) : List Nat := l.flatMap (fun r => (pageRuns r.1 r.2).map (fun p => r.1 + p.1))

/-- An operation has read ranges (address, length): what it does next follows what wrote them (R35). -/
def Block.opSeen (b : Block) (ctx : Nat) (via : Via) (l : List (Nat × Nat)) : Block :=
  let pages := pagesOf l
  let isls := pages.filterMap (fun a => match b.opAddr ctx via a 1 with
    | .ok pa => some (memIsl pa)
    | .error _ => none)
  let b := b.crossFrom isls.eraseDups (b.opIsl ctx via)
  match via with
  | none => b
  | some core => pages.foldl (fun b a => b.streamUse core ctx a) b

/-- An ATTN's access misses: its stream parks and a walk starts (R301). A stream that is parked already is waited for. -/
def Block.parkAttn (b : Block) (core ctx va acc : Nat) : Block :=
  let v := (b.core core).mover 0
  let mine : Bool := match v.park with | .none => true | .ended _ _ => v.parkCtx == ctx | _ => false
  if !mine then b
  else (b.emitCtx (movIsl core) 0x0103 ctx (bits va 39 16 * 2 ^ 24)).modCore core (fun k =>
    k.modMover 0 (fun v => { v with park := .walk va acc, parkCtx := ctx, parkDesc := 0 }))

/-- How an operation waits where what stands against an access passes: for a partition, a snoop, the companion's answer or
its stream's walk. -/
def Block.opWaits (b : Block) (ctx : Nat) (via : Via) (e : OpErr) : Option Block :=
  if e.st = stWait then some (if e.lines.isEmpty then b else b.snoopSend e.lines)
  else if e.st = stAsk then some (match via with
    | none => b.askTrans (.transFront (b.ctx ctx).part ctx (e.va / 2 ^ 16 * 2 ^ 16) e.acc) e.va e.acc
    | some core => b.parkAttn core ctx e.va e.acc)
  else none

/-- What an access that fails leaves behind: poison that was delivered, a host read that was not answered, a grant that was
missing; and a refused translation has been used. -/
def Block.opFailed (b : Block) (ctx : Nat) (via : Via) (e : OpErr) : Block :=
  let b := if via.isNone then b.modCtx ctx (fun x => { x with feDenied := [] }) else b
  if e.len = 0 then b
  else match b.opAddr ctx via e.va e.acc with
    | .error _ => (match (b.walk ctx e.va).1 with | .dead t => b.tracePoison t 8 | _ => b)
    | .ok pa =>
      if e.st = stNoGrant then b.grantDenied ctx pa e.len
      else if e.st ≠ stData ∨ bit e.acc 1 then b
      else match b.physRead pa e.len with
        | .error st => b.hostError (some st) (bits pa 47 0)
        | .ok _ => b.delivered pa e.len

/-! ### Records and lists (R271–R274) -/

/-- A sequence record (R271). -/
structure SeqRec where
  len  : Nat
  list : Nat
  cap  : Nat
  live : Bool
  deriving DecidableEq, Repr

/-- A floe list entry (R272). -/
structure FloeEnt where
  addr  : Nat
  state : Nat
  l2k   : Nat
  l2v   : Nat
  deriving DecidableEq, Repr

def FloeCfg.recAt (f : FloeCfg) (s : Nat) : Nat := f.table + 32 * s
def FloeCfg.entAt (f : FloeCfg) (r : SeqRec) (i l : Nat) : Nat := r.list + 16 * (i * f.layers + l)

/-- Read a sequence record. -/
def Block.seqRec (b : Block) (ctx : Nat) (via : Via) (f : FloeCfg) (s : Nat) : Except OpErr SeqRec :=
  match b.opRead ctx via (f.recAt s) 32 [0, 2] with
  | .error e => .error e
  | .ok d => .ok ⟨fld d 0 8, fld d 8 8, fld d 16 2, fld d 18 1 == 1⟩

/-- A list entry from its bytes. -/
def readEnt (d : List Byte) : FloeEnt := ⟨bits (fld d 0 8) 55 12 * 4096, bits (fld d 0 8) 1 0, fld d 8 4, fld d 12 4⟩

/-- Bytes of a list entry. -/
def FloeEnt.bytes (e : FloeEnt) : List Byte := natLe 8 (e.addr + e.state) ++ natLe 4 e.l2k ++ natLe 4 e.l2v

/-- Read a list entry as memory holds it. Every entry read must hold a valid STATE (R275, R290). -/
def Block.floeEnt (b : Block) (ctx : Nat) (via : Via) (f : FloeCfg) (r : SeqRec) (i l : Nat) : Except OpErr FloeEnt :=
  match b.opRead ctx via (f.entAt r i l) 16 [0, 2] with
  | .error e => .error e
  | .ok d => if (readEnt d).state = 3 then .error (.of stInvalid) else .ok (readEnt d)

/-- The append table's row of a sequence and layer. -/
def Ctx.append (x : Ctx) (s l : Nat) : Append := (x.appends.find? (fun a => a.seqIdx == s && a.layer == l)).getD ⟨s, l, 0, []⟩

/-- A list entry as the append table amends it (R274). -/
def Block.floeNow (b : Block) (ctx : Nat) (via : Via) (f : FloeCfg) (r : SeqRec) (s i l : Nat) : Except OpErr FloeEnt :=
  match b.floeEnt ctx via f r i l with
  | .error e => .error e
  | .ok e => match ((b.ctx ctx).append s l).opened.find? (fun o => o.1 == i) with
    | some o => .ok { e with state := 1, l2k := o.2.1, l2v := o.2.2 }
    | none => .ok e

/-- What a floe operation ends with: the block, and what stood against it. -/
abbrev FloeRes := Block × Option OpErr

/-- Write a list entry. -/
def Block.putEnt (b : Block) (ctx : Nat) (f : FloeCfg) (r : SeqRec) (i l : Nat) (e : FloeEnt) : FloeRes :=
  b.opWrite ctx none (f.entAt r i l) e.bytes

/-- Write COMMITTED_LEN and COMMIT_STAMP of a record (R279). -/
def Block.putLen (b : Block) (ctx : Nat) (f : FloeCfg) (s len stamp : Nat) : FloeRes :=
  match b.opRead ctx none (f.recAt s) 32 [0, 2] with
  | .error e => (b, some e)
  | .ok d => b.opWrite ctx none (f.recAt s) (patch (patch d 0 (natLe 8 len)) 24 (natLe 8 stamp))

/-- Write COMMITTED_LEN of a record as a FLOE_OP changes it: the change has the stamp of this moment (R271, R35). -/
def Block.setLen (b : Block) (ctx : Nat) (f : FloeCfg) (s len : Nat) : FloeRes :=
  let sb := b.stamp (fabIsl (b.ctx ctx).part) 0
  sb.2.putLen ctx f s len sb.1

/-- ARG of a floe event's trace record (R292). -/
def floeArg (s i l hi : Nat) : Nat := s % 2 ^ 32 + i % 4096 * 2 ^ 32 + l % 256 * 2 ^ 44 + hi * 2 ^ 52

/-- One floe event's trace record (R292). -/
def Block.floeTrace (b : Block) (event ctx s i l hi : Nat) : Block :=
  b.emitCtx (fabIsl (b.ctx ctx).part) event ctx (floeArg s i l hi)

/-! ### Commit and drop (R279, R361) -/

/-- Sequences of the append table, in the order of their first append. -/
def Ctx.appended (x : Ctx) : List Nat := (x.appends.map (·.seqIdx)).eraseDups

/-- Every appended sequence has one working length for all layers (R279). -/
def Block.appendsAgree (b : Block) (ctx : Nat) : Bool :=
  let x := b.ctx ctx
  match x.floe with
  | none => true
  | some f => x.appended.all (fun s => (List.range f.layers).all (fun l => (x.append s l).count == (x.append s 0).count))

/-- One list entry at the commit of a sequence (R279): written where the step opened or completed its floe. -/
def Block.commitEnt (b : Block) (ctx : Nat) (f : FloeCfg) (r : SeqRec) (s w i l : Nat) : FloeRes :=
  let full := decide (256 * (i + 1) ≤ w)
  if (((b.ctx ctx).append s l).opened.all (fun o => o.1 != i)) ∧ !full then (b, none)
  else match b.floeNow ctx none f r s i l with
    | .error e => (b, some e)
    | .ok e =>
      let p := b.putEnt ctx f r i l { e with state := if full then 2 else 1 }
      if p.2.isNone ∧ full then (p.1.floeTrace 0x0341 ctx s i l 0, none) else p

/-- Do `f` for every (floe index, layer) until one fails. -/
def floeEach (f : Block → Nat → Nat → FloeRes) (b : Block) (idx : List (Nat × Nat)) : FloeRes :=
  idx.foldl (fun st il => if st.2.isSome then st else f st.1 il.1 il.2) (b, none)

/-- Every (floe index, layer) from floe `lo` to below `hi`. -/
def floeGrid (layers lo hi : Nat) : List (Nat × Nat) :=
  (List.range (hi - lo)).flatMap (fun i => (List.range layers).map (fun l => (lo + i, l)))

/-- The commit of one sequence (R279, R361): its list entries, then its record with the stamp of SEQ_COMMIT; a write that
fails skips the rest. -/
def Block.commitSeq (b : Block) (ctx : Nat) (f : FloeCfg) (s : Nat) : FloeRes :=
  let n := ((b.ctx ctx).append s 0).count
  match b.seqRec ctx none f s with
  | .error e => (b, some e)
  | .ok r =>
    let w := r.len + n
    let st := floeEach (fun b i l => b.commitEnt ctx f r s w i l) b (floeGrid f.layers (r.len / 256) ((w + 255) / 256))
    if st.2.isSome then st
    else
      let fab := fabIsl (b.ctx ctx).part
      let sb := st.1.stamp fab 0
      let p := sb.2.putLen ctx f s w sb.1
      if p.2.isSome then p else (p.1.emitAt sb.1 fab 0x0343 ctx ((b.ctx ctx).curStep) (floeArg s 0 0 (min n 4095)), none)

/-- The commit writes of a step and what stood against the first that failed (R361); the append table is emptied. -/
def Block.floeCommit (b : Block) (ctx : Nat) : FloeRes :=
  let x := b.ctx ctx
  match x.floe with
  | none => (b, none)
  | some f =>
    let r := x.appended.foldl (fun (st : FloeRes) s =>
      let c := st.1.commitSeq ctx f s
      (match c.2 with | some e => c.1.opFailed ctx none e | none => c.1, if st.2.isSome then st.2 else c.2)) (b, none)
    (r.1.modCtx ctx (fun x => { x with appends := [] }), r.2)

/-- What the commit writes of a step would still have to wait for: the first sequence whose writes meet a wait. -/
def Block.commitStall (b : Block) (ctx : Nat) : Option OpErr :=
  let x := b.ctx ctx
  x.floe.bind (fun f => x.appended.findSome? (fun s => match (b.commitSeq ctx f s).2 with
    | some e => if stWait ≤ e.st then some e else none
    | none => none))

/-- The append table is discarded and the floes it opened are FREE again (R279). -/
def Block.floeDiscard (b : Block) (ctx : Nat) : Block :=
  let x := b.ctx ctx
  let b := x.appends.foldl (fun b a => a.opened.foldl (fun b o => b.floeTrace 0x0342 ctx a.seqIdx o.1 a.layer 0) b) b
  b.modCtx ctx (fun x => { x with appends := [] })

/-! ### FLOE_OP (R281) -/

/-- Every entry of a grid satisfies `p`: nothing, INVALID_OPERATION or what stood against a read. -/
def Block.floeAll (b : Block) (ctx : Nat) (f : FloeCfg) (r : SeqRec) (idx : List (Nat × Nat)) (p : FloeEnt → Bool) : Option OpErr :=
  idx.findSome? (fun il => match b.floeEnt ctx none f r il.1 il.2 with
    | .error e => some e
    | .ok e => if p e then none else some (.of stInvalid))

/-- A FLOE_OP is refused (R281). -/
def Block.floeRefused (b : Block) : FloeRes := (b, some (.of stInvalid))

/-- INIT. -/
def Block.floeInit (b : Block) (ctx : Nat) (f : FloeCfg) (p : List Byte) : FloeRes :=
  let s := fld p 4 4
  let list := fld p 24 8
  let cap := fld p 32 2
  if list % 64 ≠ 0 ∨ 2 ^ 56 ≤ list ∨ cap = 0 ∨ 4096 < cap then b.floeRefused
  else
    let w := b.opWrite ctx none list (List.replicate (16 * cap * f.layers) 0#8)
    if w.2.isSome then w
    else
      let sb := w.1.stamp (fabIsl (b.ctx ctx).part) 0
      sb.2.opWrite ctx none (f.recAt s) (natLe 8 0 ++ natLe 8 list ++ natLe 2 cap ++ natLe 1 1 ++ natLe 5 0 ++ natLe 8 sb.1)

/-- BIND. -/
def Block.floeBind (b : Block) (ctx : Nat) (f : FloeCfg) (r : SeqRec) (p : List Byte) : FloeRes :=
  let layer := fld p 2 2
  let lo := fld p 16 4
  let n := fld p 12 4
  if (f.layers ≤ layer ∧ layer ≠ 0xFFFF) ∨ r.cap < lo + n then b.floeRefused
  else
    let idx := if layer = 0xFFFF then floeGrid f.layers lo (lo + n) else (List.range n).map (fun i => (lo + i, layer))
    match b.opRead ctx none (fld p 40 8) (8 * idx.length) [0, 1, 2] with
    | .error e => (b, some e)
    | .ok d =>
      let addr (k : Nat) : Nat := fld d (8 * k) 8
      if (List.range idx.length).any (fun k => addr k == 0 || addr k % 4096 != 0 || decide (2 ^ 56 ≤ addr k)) then b.floeRefused
      else match b.floeAll ctx f r idx (fun e => e.state == 0) with
        | some e => (b, some e)
        | none => idx.zipIdx.foldl (fun (st : FloeRes) ilk =>
          if st.2.isSome then st else st.1.opWrite ctx none (f.entAt r ilk.1.1 ilk.1.2) (natLe 8 (addr ilk.2))) (b, none)

/-- RELEASE. -/
def Block.floeRelease (b : Block) (ctx : Nat) (f : FloeCfg) (r : SeqRec) (p : List Byte) : FloeRes :=
  let s := fld p 4 4
  let lo := fld p 16 4
  if r.cap ≤ lo then b.floeRefused
  else match b.floeAll ctx f r (floeGrid f.layers lo r.cap) (fun _ => true) with
    | some e => (b, some e)
    | none =>
      let w := floeEach (fun b i l => match b.floeEnt ctx none f r i l with
        | .error e => (b, some e)
        | .ok e =>
          let w := b.putEnt ctx f r i l ⟨0, 0, 0, 0⟩
          if w.2.isNone ∧ e.state ≠ 0 then (w.1.floeTrace 0x0342 ctx s i l 0, none) else w) b (floeGrid f.layers lo r.cap)
      if w.2.isSome ∨ r.len ≤ 256 * lo then w else w.1.setLen ctx f s (256 * lo)

/-- TRUNCATE. -/
def Block.floeTruncate (b : Block) (ctx : Nat) (f : FloeCfg) (r : SeqRec) (p : List Byte) : FloeRes :=
  let s := fld p 4 4
  let n := fld p 48 8
  if r.len < n then b.floeRefused
  else match b.floeAll ctx f r (floeGrid f.layers (n / 256) r.cap) (fun _ => true) with
    | some e => (b, some e)
    | none =>
      let w := floeEach (fun b i l => match b.floeEnt ctx none f r i l with
        | .error e => (b, some e)
        | .ok e =>
          let st := if i = n / 256 ∧ n % 256 ≠ 0 then 1 else 0
          if e.state = st then (b, none)
          else
            let w := b.putEnt ctx f r i l { e with state := st }
            if w.2.isNone ∧ st = 0 then (w.1.floeTrace 0x0342 ctx s i l 0, none) else w) b (floeGrid f.layers (n / 256) r.cap)
      if w.2.isSome ∨ r.len = n then w else w.1.setLen ctx f s n

/-- SHARE. -/
def Block.floeShare (b : Block) (ctx : Nat) (f : FloeCfg) (r : SeqRec) (p : List Byte) : FloeRes :=
  let s := fld p 4 4
  let src := fld p 8 4
  let n := fld p 12 4
  if f.seqs ≤ src ∨ (b.ctx ctx).appended.contains src then b.floeRefused
  else match b.seqRec ctx none f src with
    | .error e => (b, some e)
    | .ok q =>
      let idx := floeGrid f.layers 0 n
      if !q.live ∨ r.len ≠ 0 ∨ r.cap < n ∨ q.cap < n then b.floeRefused
      else match b.floeAll ctx f r idx (fun e => e.state == 0), b.floeAll ctx f q idx (fun e => e.state == 2) with
        | some e, _ => (b, some e)
        | _, some e => (b, some e)
        | none, none =>
          let w := floeEach (fun b i l => match b.floeEnt ctx none f q i l with
            | .error e => (b, some e)
            | .ok e => b.putEnt ctx f r i l e) b idx
          if w.2.isSome ∨ n = 0 then w else w.1.setLen ctx f s (256 * n)

/-- Reserved bytes of the parameter block of R281. -/
def floeBlockOk (p : List Byte) : Bool := rsv p 1 1 && rsv p 20 4 && rsv p 34 6 && rsv p 56 8

/-- A FLOE_OP ends: it waits as the block stood before it, or its entry finishes. -/
def Block.floeEnd (b : Block) (ctx seq : Nat) (r : FloeRes) : Block :=
  match r.2 with
  | none => r.1.finishEntry ctx seq stOK []
  | some e => match b.opWaits ctx none e with
    | some b => b
    | none => (r.1.opFailed ctx none e).finishEntry ctx seq e.st []

/-- An earlier entry of the ring stands dispatched and has not begun. -/
def Ctx.behind (x : Ctx) (seq : Nat) (p : Entry → Bool) : Bool :=
  x.entries.any (fun y => decide (y.seq < seq) && y.state == .dispatched && !y.refused && p y)

/-- A FLOE_OP whose block names SUBOP `k`: an unreadable block or a reserved SUBOP fails under any of the five. It runs in
ring order (R281): earlier FLOE_OPs have ended, and earlier ATTNs, whose appends it must see, have begun (DEDUCED). -/
def Block.floeOp (b : Block) (ctx k : Nat) (work : Block → FloeCfg → SeqRec → List Byte → FloeRes) : Block :=
  b.ringTurn ctx 8 (fun b e =>
    let x := b.ctx ctx
    match x.floe with
    | none => b.finishEntry ctx e.seq stInvalid []
    | some f =>
      if x.behind e.seq (fun y => y.op == 3) then b
      else b.feThrough ctx (fld e.raw 16 8) 64 (fun b st => b.finishEntry ctx e.seq st []) (fun b p =>
        let s := fld p 4 4
        if 4 < fld p 0 1 then b.finishEntry ctx e.seq stInvalid []
        else if fld p 0 1 ≠ k then b
        else if !floeBlockOk p ∨ f.seqs ≤ s ∨ x.appended.contains s then b.finishEntry ctx e.seq stInvalid []
        else if k = 0 then b.floeEnd ctx e.seq (work b f ⟨0, 0, 0, false⟩ p)
        else match b.seqRec ctx none f s with
          | .error er => b.floeEnd ctx e.seq (b, some er)
          | .ok r =>
            if !r.live then b.finishEntry ctx e.seq stInvalid []
            else b.floeEnd ctx e.seq (work (b.opSeen ctx none [(f.recAt s, 32)]) f r p)))

def execFloeOpInit (ctx : Nat) (s : State) : Host.Outcome State Fault Refusal :=
  s.run (·.floeOp ctx 0 (fun b f _ p => b.floeInit ctx f p))
def execFloeOpBind (ctx : Nat) (s : State) : Host.Outcome State Fault Refusal := s.run (·.floeOp ctx 1 (fun b f r p => b.floeBind ctx f r p))
def execFloeOpRelease (ctx : Nat) (s : State) : Host.Outcome State Fault Refusal :=
  s.run (·.floeOp ctx 2 (fun b f r p => b.floeRelease ctx f r p))
def execFloeOpTruncate (ctx : Nat) (s : State) : Host.Outcome State Fault Refusal :=
  s.run (·.floeOp ctx 3 (fun b f r p => b.floeTruncate ctx f r p))
def execFloeOpShare (ctx : Nat) (s : State) : Host.Outcome State Fault Refusal :=
  s.run (·.floeOp ctx 4 (fun b f r p => b.floeShare ctx f r p))

end Sys2Proof.Machine
end

