-- ==== Sys2Proof/Machine/Sfu.lean ====
section
/-!
DEFINITION. The special functions of R126, correctly rounded to FP32. Reciprocal and reciprocal
square root are rounded from exact comparisons. The transcendental functions are evaluated in
fixed point with 320 fraction bits and the result is rounded once: no FP32 input lies so near a
rounding boundary that the remaining error could matter (DEDUCED, assumption log 12).
-/
namespace Sys2Proof

/-- Fraction bits of the fixed-point evaluation. -/
def fxP : Nat := 320

/-- 1.0 in fixed point. -/
def fxOne : Nat := 2 ^ fxP

/-- z + z^3/3 + z^5/5 + ... for z in [0, 1) in fixed point; `t` is z^(2k+1), `k` the term. -/
def atanhLoop (z2 : Nat) : Nat → Nat → Nat → Nat
  | 0, _, _ => 0
  | n + 1, t, k => t / (2 * k + 1) + atanhLoop z2 n (t * z2 / fxOne) (k + 1)

/-- ln(w) for w in [1, 2] as n/d in fixed point. -/
def fxLn (n d : Nat) : Nat :=
  let z := (n - d) * fxOne / (n + d)
  2 * atanhLoop (z * z / fxOne) 110 z 0

/-- ln 2 in fixed point. -/
def fxLn2 : Nat := fxLn 2 1

/-- Taylor sum of e^r for r in [0, 1) in fixed point. -/
def expLoop (r : Nat) : Nat → Nat → Nat → Nat
  | 0, _, _ => 0
  | n + 1, t, k => t + expLoop r n (t * r / fxOne / k) (k + 1)

/-- 2^f for a fixed-point fraction f in [0, 1). -/
def fxExp2Frac (f : Nat) : Nat := expLoop (f * fxLn2 / fxOne) 90 fxOne 1

/-- A finite value as a signed fixed-point number (exact for every FP32 value). -/
def toFx : Val → Int
  | .fin n m e =>
    (let k : Int := (if 0 ≤ e + fxP then ((m * 2 ^ (e + fxP).toNat : Nat) : Int) else ((m / 2 ^ (-(e + fxP)).toNat : Nat) : Int))
     if n then -k else k)
  | _ => 0

/-- Round the exact fixed-point value t / 2^(P) · 2^i into FP32. -/
def fxRound (neg : Bool) (t : Nat) (i : Int) : Val :=
  let (n, d) := scaleRat t fxOne i
  fp32.val (fp32.round neg n d)

/-- 2^(x / 2^P) as mantissa and power: t · 2^i with t in [1, 2) in fixed point. -/
def fxExp2 (x : Int) : Nat × Int :=
  let i := x / (fxOne : Int)
  let f := (x - i * fxOne).toNat
  (fxExp2Frac f, i)

/-- e^(x / 2^P). -/
def fxExp (x : Int) : Nat × Int := fxExp2 (x * fxOne / (fxLn2 : Int))

/-- Comparison with an integer bound. -/
def Val.ltInt (v : Val) (k : Int) : Bool := v.lt (.fin (decide (k < 0)) k.natAbs 0)

/-- EXP2 (R126). -/
def sfuExp2 (x : Val) : Val :=
  match x with
  | .nan => .nan
  | .inf n => if n then .fin false 0 0 else .inf false
  | .fin n m e =>
    if Val.ltInt (.fin n m e) (-200) then .fin false 0 0
    else if Val.ltInt (.fin n m e) 200 then
      (let (t, i) := fxExp2 (toFx (.fin n m e))
       fxRound false t i)
    else .inf false

/-- LOG2 (R126). LOG2 of 1 is +0 (DESIGN CHOICE: R126 gives an exact zero no sign). -/
def sfuLog2 (x : Val) : Val :=
  match x with
  | .nan => .nan
  | .inf n => if n then .nan else .inf false
  | .fin n m e =>
    if m = 0 then .inf true
    else if n then .nan
    else
      let k := Nat.log2 m
      let l := fxLn m (2 ^ k) * fxOne / fxLn2
      let t : Int := ((k : Int) + e) * fxOne + l
      if t = 0 then .fin false 0 0 else fxRound (decide (t < 0)) t.natAbs 0

/-- RCP (R126). -/
def sfuRcp (x : Val) : Val :=
  match x with
  | .nan => .nan
  | .inf n => .fin n 0 0
  | .fin n m e => if m = 0 then .inf n else divF32 (.fin false 1 0) (.fin n m e)

/-- Integer square root by bits, from bit `k` down. -/
def isqrtLoop (n : Nat) : Nat → Nat → Nat
  | 0, r => r
  | k + 1, r => if (r + 2 ^ k) * (r + 2 ^ k) ≤ n then isqrtLoop n k (r + 2 ^ k) else isqrtLoop n k r

/-- RSQRT (R126): the root of 2^(2K) / x is taken with 100 guard bits and a sticky bit. -/
def sfuRsqrt (x : Val) : Val :=
  match x with
  | .nan => .nan
  | .inf n => if n then .nan else .fin false 0 0
  | .fin n m e =>
    if m = 0 then .inf n
    else if n then .nan
    else
      let odd : Bool := e % 2 == 1
      let m' := if odd then m * 2 else m
      let e' := if odd then e - 1 else e
      let num := 2 ^ 300
      let q := num / m'
      let r := isqrtLoop q 160 0
      let exact : Bool := r * r * m' == num
      let t := if exact then 2 * r else 2 * r + 1
      let (a, b) := scaleRat t (2 ^ 151) (-(e' / 2))
      fp32.val (fp32.round false a b)

/-- SIGMOID (R126). -/
def sfuSigmoid (x : Val) : Val :=
  match x with
  | .nan => .nan
  | .inf n => if n then .fin false 0 0 else .fin false 1 0
  | .fin n m e =>
    if Val.ltInt (.fin n m e) (-128) then .fin false 0 0
    else if Val.ltInt (.fin n m e) 64 then
      (let (t, i) := fxExp (toFx (.fin n m e))
       let (a, b) := scaleRat t fxOne i
       fp32.val (fp32.round false a (a + b)))
    else .fin false 1 0

/-- TANH (R126). TANH of −0 is −0 and of +0 is +0 (DESIGN CHOICE: R126 gives an exact zero no sign). -/
def sfuTanh (x : Val) : Val :=
  match x with
  | .nan => .nan
  | .inf n => .fin n 1 0
  | .fin n m e =>
    if m = 0 then .fin n 0 0
    else if (Nat.log2 m : Int) + e < -40 then .fin n m e
    else if Val.ltInt (.fin false m e) 32 then
      (let (t, i) := fxExp (2 * toFx (.fin false m e))
       let (a, b) := scaleRat t fxOne i
       fp32.val (fp32.round n (a - b) (a + b)))
    else .fin n 1 0

/-- SOFTPLUS (R126). -/
def sfuSoftplus (x : Val) : Val :=
  match x with
  | .nan => .nan
  | .inf n => if n then .fin false 0 0 else .inf false
  | .fin n m e =>
    if Val.ltInt (.fin n m e) (-128) then .fin false 0 0
    else if Val.ltInt (.fin n m e) 64 then
      (let (t, i) := fxExp (toFx (.fin n m e))
       let (a, b) := scaleRat t fxOne i
       let w := a + b
       let k := floorLog2 w b
       let (p, q) := scaleRat w b (-k)
       fxRound false (k.toNat * fxLn2 + fxLn p q) 0)
    else .fin n m e

/-- The functions of R108. -/
inductive SfuFn where
  | exp2 | log2 | rcp | rsqrt | sigmoid | tanh | softplus
  deriving DecidableEq, Repr

/-- FN codes (R108). -/
def SfuFn.ofCode : Nat → Option SfuFn
  | 0 => some .exp2 | 1 => some .log2 | 2 => some .rcp | 3 => some .rsqrt
  | 4 => some .sigmoid | 5 => some .tanh | 6 => some .softplus | _ => none

/-- Apply a special function to a prescaled input (R126). -/
def SfuFn.apply : SfuFn → Val → Val
  | .exp2 => sfuExp2 | .log2 => sfuLog2 | .rcp => sfuRcp | .rsqrt => sfuRsqrt
  | .sigmoid => sfuSigmoid | .tanh => sfuTanh | .softplus => sfuSoftplus

end Sys2Proof
end

