-- ==== Sys2Proof/Machine/VectorRun.lean ====
section
/-!
DEFINITION. What vector and special-function instructions compute (R124–R136, R141) and the errors that an
engine finds in data it reads (R144).
-/
namespace Sys2Proof.Machine

/-- Halves of a packed lane as BF16 values (R124). -/
def pkLo (x : W32) : Val := bf16.val (x.toNat % 65536)
def pkHi (x : W32) : Val := bf16.val (x.toNat / 65536)
def pkMk (lo hi : Val) : W32 := BitVec.ofNat 32 (bf16.ofVal lo + bf16.ofVal hi * 65536)

/-- One elementwise operation on a lane, in FP32 or packed BF16: exact, rounded once (R124). -/
def lane1 (pk : Bool) (f : Val → Val) (x : W32) : W32 := if pk then pkMk (f (pkLo x)) (f (pkHi x)) else toF32 (f (f32 x))
def lane2 (pk : Bool) (f : Val → Val → Val) (x y : W32) : W32 :=
  if pk then pkMk (f (pkLo x) (pkLo y)) (f (pkHi x) (pkHi y)) else toF32 (f (f32 x) (f32 y))
def lane3 (pk : Bool) (f : Val → Val → Val → Val) (x y z : W32) : W32 :=
  if pk then pkMk (f (pkLo x) (pkLo y) (pkLo z)) (f (pkHi x) (pkHi y) (pkHi z)) else toF32 (f (f32 x) (f32 y) (f32 z))

/-- Subtraction. -/
def vSub (a b : Val) : Val := a.add b.negate

/-- Write the active lanes of VD, lane by lane. -/
def SeqState.mapLanes (q : SeqState) (vd n : Nat) (f : Nat → W32) : SeqState :=
  q.setLanes vd 0 ((List.range n).map f)

/-- One level of a reduction over lanes that may take no part (R129). -/
def pairOpt (op : Val → Val → Val) : List (Option Val) → List (Option Val)
  | a :: b :: t => (match a, b with
      | some x, some y => some (op x y)
      | some x, none => some x
      | none, y => y) :: pairOpt op t
  | l => l

/-- The fixed pairwise tree of R129 over lanes that may take no part. -/
def treeOpt (op : Val → Val → Val) : Nat → List (Option Val) → Option Val
  | 0, l => l.head?.join
  | n + 1, l => treeOpt op n (pairOpt op l)

/-- Reduction of each segment with an active lane to every lane of the segment (R127, R129). -/
def SeqState.reduce (q : SeqState) (w : W128) (sum : Bool) (pre : Val → Val) (op : Val → Val → Val) : SeqState :=
  let sw := segW w
  let n := nelem w
  let va := wf_ w 110 106
  (List.range ((n + sw - 1) / sw)).foldl (fun (q' : SeqState) g =>
    let lanes := (List.range sw).map (fun i =>
      if g * sw + i < n then some (pre (f32 (q.lane va (g * sw + i)))) else if sum then some (Val.fin false 0 0) else none)
    match treeOpt op 9 lanes with
    | none => q'
    | some v => q'.setLanes (wf_ w 115 111) (g * sw) (List.replicate sw (toF32 v))) q

/-- `x` ranks above `y` in RTOPK: larger value, NaN below every number (R129). -/
def topAbove (x y : Val) : Bool := if x.isNan then false else if y.isNan then true else y.lt x

/-- The best of (index, value) pairs, the lower index on ties. -/
def topBest (l : List (Nat × W32)) : Option (Nat × W32) :=
  l.foldl (fun o x => match o with
    | none => some x
    | some y => if topAbove (f32 x.2) (f32 y.2) then some x else some y) none

/-- The `k` best of a list in descending order. -/
def topK : Nat → List (Nat × W32) → List (Option (Nat × W32))
  | 0, _ => []
  | k + 1, l => match topBest l with
    | none => none :: topK k []
    | some b => some b :: topK k (l.filter (fun x => x.1 != b.1))

/-- RTOPK (R127). -/
def SeqState.rtopk (q : SeqState) (w : W128) : SeqState :=
  let sw := segW w
  let n := nelem w
  let k := bits (modOf w) 23 18
  (List.range ((n + sw - 1) / sw)).foldl (fun (q' : SeqState) g =>
    let act := min sw (n - g * sw)
    let best := topK k ((List.range act).map (fun i => (i, q.lane (wf_ w 110 106) (g * sw + i))))
    let q' := q'.setLanes (wf_ w 115 111) (g * sw) (best.map (fun o => match o with | some x => x.2 | none => 0xFF800000#32))
    q'.setLanes (wf_ w 100 96) (g * sw) (best.map (fun o => match o with | some x => BitVec.ofNat 32 x.1 | none => 0xFFFFFFFF#32))) q

/-- SMXUPD, one step of online softmax (R131). -/
def SeqState.smxupd (q : SeqState) (w : W128) (c : Val) : SeqState :=
  let sw := segW w
  let n := nelem w
  let ninf := Val.inf true
  (List.range ((n + sw - 1) / sw)).foldl (fun (q' : SeqState) g =>
    let act := min sw (n - g * sw)
    let y := (List.range act).map (fun i => rne ((f32 (q.lane (wf_ w 110 106) (g * sw + i))).mul c))
    let mOld := f32 (q.lane (wf_ w 105 101) (g * sw))
    let mNew := (if act < sw then y ++ [ninf] else y).foldl Val.max mOld
    let none_ := mNew == ninf
    let alpha := if none_ then Val.fin false 1 0 else sfuExp2 (rne (vSub mOld mNew))
    let p := y.map (fun v => if none_ then Val.fin false 0 0 else sfuExp2 (rne (vSub v mNew)))
    let q' := q'.setLanes (wf_ w 115 111) (g * sw) (p.map toF32)
    let q' := q'.setLanes (wf_ w 105 101) (g * sw) (List.replicate sw (toF32 mNew))
    q'.setLanes (wf_ w 100 96) (g * sw) (List.replicate sw (toF32 alpha))) q

/-- Result of a vector form that touches registers and accumulators only (R127). `sv` is s[SA]. -/
def SeqState.vecOp (q : SeqState) (w : W128) (sv : Nat) : SeqState :=
  let op := wf_ w 123 116
  let vd := wf_ w 115 111
  let va := wf_ w 110 106
  let vb := wf_ w 105 101
  let vc := wf_ w 100 96
  let n := nelem w
  let pk := isPk w
  let imm := wf_ w 63 32
  let bank := wf_ w 89 88
  let fs := fp32.val (sv % 2 ^ 32)
  let una (f : Val → Val) : SeqState := q.mapLanes vd n (fun i => lane1 pk f (q.lane va i))
  let bin (f : Val → Val → Val) : SeqState := q.mapLanes vd n (fun i => lane2 pk f (q.lane va i) (q.lane vb i))
  match op with
  | 0x22 => q.setLanes vd 0 ((List.range 512).map (fun i => q.accAt bank (4 * imm + i / 128) (i % 128)))
  | 0x23 => (List.range 4).foldl (fun q' i => q'.accWritten bank (4 * imm + i) 128)
      ((List.range 512).foldl (fun q' i => q'.setAcc bank (4 * imm + i / 128) (i % 128) (q.lane va i)) q)
  | 0x24 => q.mapLanes vd n (fun _ => BitVec.ofNat 32 imm)
  | 0x25 => q.setS (wf_ w 95 90) ((q.lane va imm).setWidth 64)
  | 0x26 => q.setLanes vd imm [BitVec.ofNat 32 sv]
  | 0x30 => bin Val.add
  | 0x31 => bin vSub
  | 0x32 => bin Val.mul
  | 0x33 => q.mapLanes vd n (fun i => lane3 pk (fun a b c => (a.mul b).add c) (q.lane va i) (q.lane vb i) (q.lane vc i))
  | 0x34 => bin Val.max
  | 0x35 => bin Val.min
  | 0x36 => una Val.abs
  | 0x37 => una Val.negate
  | 0x38 => una (fun a => a.mul fs)
  | 0x39 => bin (fun a b => (a.mul fs).add b)
  | 0x3A => q.mapLanes vd n (fun i =>
      if i % 2 = 0 then (if bit (modOf w) 24 then toF32 (f32 (q.lane va (i + 1))).negate else q.lane va (i + 1)) else q.lane va (i - 1))
  | 0x3B => q.mapLanes vd n (fun i => if sv % 1024 ≤ i % segW w then 0xFF800000#32 else q.lane va i)
  | 0x40 => q.reduce w true (fun x => x) (fun a b => rne (a.add b))
  | 0x41 => q.reduce w true (fun x => rne (x.mul x)) (fun a b => rne (a.add b))
  | 0x42 => q.reduce w false (fun x => x) Val.max
  | 0x43 => q.reduce w false (fun x => x) Val.min
  | 0x44 => q.reduce w false Val.abs Val.max
  | 0x45 => q.rtopk w
  | 0x48 => q.smxupd w fs
  | _ => q

/-- Result of an SFU instruction (R108, R126). -/
def SeqState.sfuOp (q : SeqState) (w : W128) : SeqState :=
  match SfuFn.ofCode (wf_ w 123 120) with
  | none => q
  | some f =>
    let pre := fp32.val (wf_ w 95 64)
    q.mapLanes (wf_ w 119 115) (wf_ w 109 100) (fun i =>
      toF32 (f.apply (rne ((f32 (q.lane (wf_ w 114 110) i)).mul pre))))

/-! ### Scratchpad forms -/

/-- VLD lanes from bytes (R127). -/
def vldLanes (w : W128) (bs : List Byte) : List W32 :=
  (List.range (nelem w)).map (fun i =>
    if isPk w ∨ vecRaw w then BitVec.ofNat 32 (fld bs (4 * i) 4)
    else match vecFmt w with
      | some f => toF32 (f.val (fld bs (f.width / 8 * i) (f.width / 8)))
      | none => 0#32)

/-- VST bytes from lanes (R127). -/
def vstBytes (w : W128) (q : SeqState) : List Byte :=
  (List.range (nelem w)).flatMap (fun i =>
    let x := q.lane (wf_ w 110 106) i
    if isPk w ∨ vecRaw w then natLe 4 x.toNat
    else match vecFmt w with
      | some f => natLe (f.width / 8) (f.ofVal (f32 x))
      | none => [])

/-- Geometry of QUANT, QUANTSR and DEQUANT (R132): descriptor, base, pitch, origin and row width in lanes. -/
structure QGeom where
  d     : ScaleDesc
  base  : Nat
  pitch : Nat
  r0    : Nat
  c0    : Nat
  wid   : Nat
  n     : Nat

/-- The geometry of a queued instruction under a descriptor. -/
def qGeom (o : EngOp) (d : ScaleDesc) : QGeom :=
  let sv := o.vals.getD 0 0
  ⟨d, o.vals.getD 1 0, wf_ o.word 63 32, bits sv 31 0, bits sv 63 32, quantSegW o.word, nelem o.word⟩

/-- Row and column of the first lane of block `t` (32 lanes each). -/
def QGeom.at_ (g : QGeom) (t : Nat) : Nat × Nat := (g.r0 + 32 * t / g.wid, g.c0 + 32 * t % g.wid)
/-- Byte range of a block's elements. -/
def QGeom.elems (g : QGeom) (t : Nat) : Nat × Nat :=
  let rc := g.at_ t
  rowSpan g.base g.pitch g.d.elem.width rc.1 rc.2 32
/-- Byte of a block's scale. -/
def QGeom.scale (g : QGeom) (t : Nat) : Nat := let rc := g.at_ t; scaleAddr g.d g.base rc.1 rc.2
/-- Address of a row's line scale (R57). -/
def QGeom.line (g : QGeom) (t : Nat) : Nat := (g.base + g.d.l2Off + 4 * (g.at_ t).1) % 2 ^ 64
/-- The blocks of the active lanes. -/
def QGeom.blocks (g : QGeom) : List Nat := List.range (g.n / 32)
/-- Element and block-scale ranges (R132). -/
def QGeom.ranges (g : QGeom) : List (Nat × Nat) :=
  g.blocks.map g.elems ++ (if g.d.bscale = .none then [] else g.blocks.map (fun t => (g.scale t, 1)))
/-- Line-scale ranges. -/
def QGeom.lines (g : QGeom) : List (Nat × Nat) := if g.d.l2Mode = 2 then g.blocks.map (fun t => (g.line t, 4)) else []

/-- The L2 of a block's row (R53). -/
def Core.l2Of (k : Core) (swap : SSet) (g : QGeom) (t : Nat) : Val :=
  if g.d.l2Mode = 0 then .fin false 1 0
  else if g.d.l2Mode = 1 then f32 g.d.l2
  else fp32.val (leNat (k.scratchBytes swap (g.line t) 4))

/-- The index of R141 of a block's first element. Where IMM32 × 8 is no multiple of the element width, Wt is rounded down
(DESIGN CHOICE: R141 refuses no pitch and gives no rounding). -/
def QGeom.index (g : QGeom) (t : Nat) : Nat :=
  let rc := g.at_ t
  rc.1 * (g.pitch * 8 / g.d.elem.width) + rc.2

/-- The destination format of QUANTSR matches the session's rank (R140, R142). -/
def gradOk (rank : Nat) (d : ScaleDesc) : Bool :=
  if rank ≤ 64 then (d.elem == .e4m3 || d.elem == .e5m2) && d.bscale != .none else d.elem == .bf16

/-- What an engine finds wrong in the data of QUANT, QUANTSR and DEQUANT (R144): status and DETAIL. -/
def quantFault (b : Block) (core : Nat) (o : EngOp) : Option (Nat × Nat) :=
  let k := b.core core
  let op := wf_ o.word 123 116
  let sd := o.vals.getD 2 0
  let st := o.vals.getD 3 0
  if !(k.scratchBad o.swap sd 32).isEmpty then some (stData, 9)
  else match ScaleDesc.parse (k.scratchBytes o.swap sd 32) with
  | none => some (stInvalid, 2)
  | some d =>
    let g := qGeom o d
    let lastCol := g.c0 + min g.wid g.n - 32
    if d.axis ≠ 0 ∨ (d.bscale ≠ .none ∧ d.stride < lastCol / 32 + 1) then some (stInvalid, 2)
    else if d.l2Mode = 1 ∧ !l2Ok (f32 d.l2) then some (stInvalid, 2)
    else if g.blocks.any (fun t => decide ((g.elems t).1 * 8 % d.elem.width ≠ 0 ∧ 8 < d.elem.width)) then some (stInvalid, 2)
    else if op = 0x51 ∧ !(match (b.ctx o.ctx).tune with | some t => gradOk t.rank d | none => false) then some (stInvalid, 2)
    else if op = 0x51 ∧ g.blocks.any (fun t => decide (2 ^ 32 ≤ g.index t + 31)) then some (stInvalid, 2)
    else match k.bind? o.ctx with
      | none => none
      | some bd =>
        if !bd.holdsAll (g.ranges ++ g.lines) then some (stRights, 7)
        else if k.anyBad o.swap g.lines ∨ (op = 0x52 ∧ k.anyBad o.swap g.ranges) ∨
          (op = 0x50 ∧ bit (modOf o.word) 21 ∧ k.anyBad o.swap [(st, 32)]) then some (stData, 9)
        else if d.l2Mode = 2 ∧ g.blocks.any (fun t => !l2Ok (k.l2Of o.swap g t)) then some (stInvalid, 2)
        else none

/-- One block of source lanes converted (R64, R141). -/
def quantOne (b : Block) (core : Nat) (o : EngOp) (g : QGeom) (t : Nat) : QBlock :=
  let k := b.core core
  let q := k.engSeq o
  let v := (List.range 32).map (fun j => f32 (q.lane (wf_ o.word 110 106) (32 * t + j)))
  let rnd : Option (Nat → Nat) :=
    if wf_ o.word 123 116 = 0x51 then
      (b.ctx o.ctx).tune.map (fun tn j =>
        let ti := o.vals.getD 4 0
        rand16 tn.seed (bits ti 63 32) (bits ti 31 0) (g.index t + j))
    else none
  quantBlock g.d.elem g.d.bscale g.d.l2Mode (k.l2Of o.swap g t) v rnd

/-- The statistics record's update by one block (R136). COUNT stays at 2^64 − 1 once it is there (DESIGN CHOICE: R136 gives
the field eight bytes and says nothing of its end). -/
def statBlock (e : Elem) (bs : BScale) (l2 : Val) (v : List Val) (qb : QBlock) (rec : Nat × Nat × Nat) : Nat × Nat × Nat :=
  if bs ≠ .none ∧ qb.nanBr then rec
  else (List.range 32).foldl (fun (rec : Nat × Nat × Nat) j =>
    let cv := e.val (qb.codes.getD j 0)
    if (qb.q1.getD j .nan).special ∨ cv.special then rec
    else
      let x := if bs = .none then Val.fin false 1 0 else qb.x
      let err := vSub (v.getD j .nan) ((cv.mul x).mul l2)
      let sq := fp64.val (fp64.ofVal (err.mul err))
      (fp64.ofVal ((fp64.val rec.1).add sq), min (rec.2.1 + 1) (2 ^ 64 - 1), (toF32 ((fp32.val rec.2.2).max (rne err.abs))).toNat)) rec

/-- QUANT and QUANTSR write elements, scales and statistics (R132, R134, R136, R141). -/
def quantRun (b : Block) (core : Nat) (o : EngOp) : Core :=
  let k := b.core core
  match ScaleDesc.parse (k.scratchBytes o.swap (o.vals.getD 2 0) 32) with
  | none => k
  | some d =>
    let g := qGeom o d
    let bl := g.blocks.map (fun t => (t, quantOne b core o g t))
    let k1 := bl.foldl (fun k' tb =>
      let k' := k'.scratchWrite o.swap (g.elems tb.1).1 (packCodes d.elem tb.2.codes) []
      if d.bscale = .none then k' else k'.scratchWrite o.swap (g.scale tb.1) (natLe 1 tb.2.scale) []) k
    if wf_ o.word 123 116 = 0x50 ∧ bit (modOf o.word) 21 then
      let st := o.vals.getD 3 0
      let old := k1.scratchBytes o.swap st 32
      let q := k.engSeq o
      let rec_ := bl.foldl (fun rec tb =>
        let v := (List.range 32).map (fun j => f32 (q.lane (wf_ o.word 110 106) (32 * tb.1 + j)))
        statBlock d.elem d.bscale (k.l2Of o.swap g tb.1) v tb.2 rec) (fld old 0 8, fld old 8 8, fld old 16 4)
      k1.scratchWrite o.swap st (natLe 8 rec_.1 ++ natLe 8 rec_.2.1 ++ natLe 4 rec_.2.2 ++ natLe 12 0) []
    else k1

/-- DEQUANT writes the active lanes of VD (R65, R133). -/
def dequantRun (k : Core) (o : EngOp) : Core :=
  match ScaleDesc.parse (k.scratchBytes o.swap (o.vals.getD 2 0) 32) with
  | none => k
  | some d =>
    let g := qGeom o d
    let lanes := g.blocks.flatMap (fun t =>
      let bs := k.scratchBytes o.swap (g.elems t).1 (g.elems t).2
      let sc := if d.bscale = .none then 0 else leNat (k.scratchBytes o.swap (g.scale t) 1)
      let l2 := k.l2Of o.swap g t
      (List.range 32).map (fun j => toF32 ((scaledVal d.elem d.bscale (packedCode d.elem bs j) sc).mul l2)))
    k.setEngSeq o ((k.engSeq o).setLanes (wf_ o.word 115 111) 0 lanes)

/-! ### Tagged accesses -/

/-- Tagged accesses of a queued instruction: attribute, whether it writes, and byte ranges (R78, R132, R153). -/
def EngOp.tagged (o : EngOp) (k : Core) : List (Nat × Bool × List (Nat × Nat)) :=
  let w := o.word
  let op := o.op
  if op = 0x100 then
    let a := match ScaleDesc.parse o.descA with
      | some d => let x := tmmaA w o.vals d; x.elemRanges ++ x.scaleRanges
      | none => []
    let bb := if bit w.toNat 120 then [] else match ScaleDesc.parse o.descB with
      | some d => let x := tmmaB w o.vals d; x.elemRanges ++ x.scaleRanges
      | none => []
    [(wf_ w 117 116, false, a), (wf_ w 115 114, false, bb)]
  else if op = 0x220 ∨ op = 0x221 then
    [(wf_ w 83 82, op == 0x221, [(vecAddr (o.vals.getD 1 0) w, nelem w * laneBytes w)])]
  else if op = 0x250 ∨ op = 0x251 ∨ op = 0x252 then
    match ScaleDesc.parse (k.scratchBytes o.swap (o.vals.getD 2 0) 32) with
    | some d => [(wf_ w 83 82, op != 0x252, (qGeom o d).ranges)]
    | none => []
  else []

/-- Every tag condition of the instruction holds (R153, R155). -/
def EngOp.tagsMet (o : EngOp) (k : Core) : Bool :=
  (o.tagged k).all (fun t => t.1 == 0 || (slotsOfRanges o.swap t.2.2).all (fun s => k.full s != t.2.1))

/-- The last-read and last-write markers act (R153, R154). -/
def EngOp.markers (o : EngOp) (k0 k : Core) : Core :=
  (o.tagged k0).foldl (fun k t => if t.1 = 2 then k.setTags (slotsOfRanges o.swap t.2.2) t.2.1 else k) k

/-- A word of a register, of the target bank or of the hold register's copy that the instruction reads fails its WCC
check (R89 order 8, R144, R455). A TMMA that starts from zero reads no accumulator. -/
def SeqState.regBad (q : SeqState) (o : EngOp) : Bool :=
  let w := o.word
  let op := o.op
  let lanes (v first n : Nat) : Bool := !(poisonedIn 16 q.vbad ((v * 512 + first) * 4) (4 * n)).isEmpty
  let row (bank i n : Nat) : Bool := !(poisonedIn 16 q.accBad ((bank * 16384 + i * 128) * 4) (4 * n)).isEmpty
  if q.vbad.isEmpty ∧ q.accBad.isEmpty ∧ !q.holdBad then false
  else if op = 0x100 then
    (bit w.toNat 120 && q.holdBad) ||
      (!bit w.toNat 121 && (List.range (wf_ w 113 106)).any (fun i => row (wf_ w 123 122) i (wf_ w 105 98)))
  else if op = 0x222 then (List.range 4).any (fun i => row (wf_ w 89 88) (4 * wf_ w 63 32 + i) 128)
  else if op = 0x225 then lanes (wf_ w 110 106) (wf_ w 63 32) 1
  else
    let n := if op = 0x223 then 512 else if 0x300 ≤ op then wf_ w 109 100 else nelem w
    o.reads.any (fun v => lanes v 0 n)

/-- The increments that waited for a VEXT's result are applied once it is written (R94). -/
def SeqState.settle (q : SeqState) (o : EngOp) : SeqState :=
  if q.owes ∧ q.pc = o.pc ∧ q.kid = o.kid then { q.advance with owes := false } else q

/-- What an engine finds wrong when it begins an instruction (R89 orders 7 and 8, R144). Registers are tested first: R144
gives its conditions no order (DESIGN CHOICE). -/
def Block.engineFault (b : Block) (core : Nat) (o : EngOp) : Option (Nat × Nat) :=
  let k := b.core core
  let op := o.op
  if (k.engSeq o).regBad o then some (stData, 9)
  else if op = 0x250 ∨ op = 0x251 ∨ op = 0x252 then quantFault b core o
  else if op = 0x221 then none
  else if (o.tagged k).any (fun t => k.anyBad o.swap t.2.2) then some (stData, 9)
  else none

/-- The block after an engine instruction has executed. -/
def Block.engineRun (b : Block) (core : Nat) (o : EngOp) : Core :=
  let k := b.core core
  let q := k.engSeq o
  match o.op with
  | 0x100 => tmmaRun k o
  | 0x220 =>
    let a := vecAddr (o.vals.getD 1 0) o.word
    k.setEngSeq o (q.setLanes (wf_ o.word 115 111) 0 (vldLanes o.word (k.scratchBytes o.swap a (nelem o.word * laneBytes o.word))))
  | 0x221 => k.scratchWrite o.swap (vecAddr (o.vals.getD 1 0) o.word) (vstBytes o.word q) []
  | 0x250 => quantRun b core o
  | 0x251 => quantRun b core o
  | 0x252 => dequantRun k o
  | 0x225 => k.setEngSeq o ((q.vecOp o.word (o.vals.getD 0 0)).settle o)
  | n => if 0x300 ≤ n then k.setEngSeq o (q.sfuOp o.word) else k.setEngSeq o (q.vecOp o.word (o.vals.getD 0 0))

/-- The head of an engine queue may begin: no earlier instruction holds it back and its tags are met. -/
def Core.headReady (k : Core) (o : EngOp) : Bool := k.mayRun o && (o.granted || o.tagsMet k)

/-- ENGINE_INSTRUCTION_COMPLETES (R458, R154): the head of an engine queue executes and frees its place. -/
def execEngineInstructionCompletes (core engine : Nat) (s : State) : Host.Outcome State Fault Refusal :=
  s.run (fun b =>
    let k := b.core core
    match k.engineQ engine with
    | [] => b
    | o :: rest =>
      if !b.coreUp core ∨ 2 < engine ∨ !k.headReady o ∨ (b.engineFault core o).isSome then b
      else
        let k' := o.markers k (b.engineRun core o)
        b.setCore core { ((k'.setEngineQ engine rest).trimOld) with
          arrProg := if engine = 0 then b.time.keeper else k'.arrProg
          vecProg := if engine = 1 then b.time.keeper else k'.vecProg
          sfuProg := if engine = 2 then b.time.keeper else k'.sfuProg })

/-- ENGINE_STOP (R120): the head of an engine queue begins and finds bad data; its kernel stops there. -/
def execEngineStop (core engine : Nat) (s : State) : Host.Outcome State Fault Refusal :=
  s.run (fun b =>
    let k := b.core core
    match k.engineQ engine with
    | [] => b
    | o :: _ =>
      if !b.coreUp core ∨ 2 < engine ∨ !k.headReady o then b
      else match b.engineFault core o with
        | none => b
        | some e => b.engineStopAt core o e.1 e.2)

/-- TAG_WAIT_RESUME (R155): a waiter finds its tags met: 0 the sequencer, 1 the array, 2 the vector engine, 3 + m
a landing of mover m. -/
def execTagWaitResume (core waiter : Nat) (s : State) : Host.Outcome State Fault Refusal :=
  s.run (fun b =>
    let k := b.core core
    if !b.coreUp core then b
    else if waiter = 0 then
      match b.waitAt core with
      | .tag => match (b.running core).map (fun r => wordId r.word) with
        | some (some 0x502) => b.tagWait core 2 true
        | some (some 0x503) => b.tagWait core 3 false
        | _ => b
      | _ => b
    else if waiter ≤ 2 then
      match k.engineQ (waiter - 1) with
      | [] => b
      | o :: rest => if k.mayRun o ∧ o.tagsMet k then
          b.modCore core (fun k => k.setEngineQ (waiter - 1) ({ o with granted := true } :: rest)) else b
    else if waiter < 7 then
      b.modCore core (fun k => k.modMover (waiter - 3) (fun v =>
        { v with queue := v.queue.map (fun d => { d with waiting := false }) }))
    else b)

def execTmma (core : Nat) (s : State) : Host.Outcome State Fault Refusal := s.run (·.tmma core)

/-! ### Issue of the vector and special-function instructions (R108, R127) -/

def execVld (core : Nat) (s : State) : Host.Outcome State Fault Refusal := s.run (·.vecIssue core 0x20)
def execVst (core : Nat) (s : State) : Host.Outcome State Fault Refusal := s.run (·.vecIssue core 0x21)
def execAccrd (core : Nat) (s : State) : Host.Outcome State Fault Refusal := s.run (·.vecIssue core 0x22)
def execAccwr (core : Nat) (s : State) : Host.Outcome State Fault Refusal := s.run (·.vecIssue core 0x23)
def execVbcast (core : Nat) (s : State) : Host.Outcome State Fault Refusal := s.run (·.vecIssue core 0x24)
def execVext (core : Nat) (s : State) : Host.Outcome State Fault Refusal := s.run (·.vecIssue core 0x25)
def execVins (core : Nat) (s : State) : Host.Outcome State Fault Refusal := s.run (·.vecIssue core 0x26)
def execVadd (core : Nat) (s : State) : Host.Outcome State Fault Refusal := s.run (·.vecIssue core 0x30)
def execVsub (core : Nat) (s : State) : Host.Outcome State Fault Refusal := s.run (·.vecIssue core 0x31)
def execVmul (core : Nat) (s : State) : Host.Outcome State Fault Refusal := s.run (·.vecIssue core 0x32)
def execVfma (core : Nat) (s : State) : Host.Outcome State Fault Refusal := s.run (·.vecIssue core 0x33)
def execVmax (core : Nat) (s : State) : Host.Outcome State Fault Refusal := s.run (·.vecIssue core 0x34)
def execVmin (core : Nat) (s : State) : Host.Outcome State Fault Refusal := s.run (·.vecIssue core 0x35)
def execVabs (core : Nat) (s : State) : Host.Outcome State Fault Refusal := s.run (·.vecIssue core 0x36)
def execVneg (core : Nat) (s : State) : Host.Outcome State Fault Refusal := s.run (·.vecIssue core 0x37)
def execVmuls (core : Nat) (s : State) : Host.Outcome State Fault Refusal := s.run (·.vecIssue core 0x38)
def execVfmas (core : Nat) (s : State) : Host.Outcome State Fault Refusal := s.run (·.vecIssue core 0x39)
def execVpairswap (core : Nat) (s : State) : Host.Outcome State Fault Refusal := s.run (·.vecIssue core 0x3A)
def execVmaskge (core : Nat) (s : State) : Host.Outcome State Fault Refusal := s.run (·.vecIssue core 0x3B)
def execRsum (core : Nat) (s : State) : Host.Outcome State Fault Refusal := s.run (·.vecIssue core 0x40)
def execRsumsq (core : Nat) (s : State) : Host.Outcome State Fault Refusal := s.run (·.vecIssue core 0x41)
def execRmax (core : Nat) (s : State) : Host.Outcome State Fault Refusal := s.run (·.vecIssue core 0x42)
def execRmin (core : Nat) (s : State) : Host.Outcome State Fault Refusal := s.run (·.vecIssue core 0x43)
def execRamax (core : Nat) (s : State) : Host.Outcome State Fault Refusal := s.run (·.vecIssue core 0x44)
def execRtopk (core : Nat) (s : State) : Host.Outcome State Fault Refusal := s.run (·.vecIssue core 0x45)
def execSmxupd (core : Nat) (s : State) : Host.Outcome State Fault Refusal := s.run (·.vecIssue core 0x48)
def execQuant (core : Nat) (s : State) : Host.Outcome State Fault Refusal := s.run (·.vecIssue core 0x50)
def execQuantsr (core : Nat) (s : State) : Host.Outcome State Fault Refusal := s.run (·.vecIssue core 0x51)
def execDequant (core : Nat) (s : State) : Host.Outcome State Fault Refusal := s.run (·.vecIssue core 0x52)
def execExp2 (core : Nat) (s : State) : Host.Outcome State Fault Refusal := s.run (·.sfuIssue core 0)
def execLog2 (core : Nat) (s : State) : Host.Outcome State Fault Refusal := s.run (·.sfuIssue core 1)
def execRcp (core : Nat) (s : State) : Host.Outcome State Fault Refusal := s.run (·.sfuIssue core 2)
def execRsqrt (core : Nat) (s : State) : Host.Outcome State Fault Refusal := s.run (·.sfuIssue core 3)
def execSigmoid (core : Nat) (s : State) : Host.Outcome State Fault Refusal := s.run (·.sfuIssue core 4)
def execTanh (core : Nat) (s : State) : Host.Outcome State Fault Refusal := s.run (·.sfuIssue core 5)
def execSoftplus (core : Nat) (s : State) : Host.Outcome State Fault Refusal := s.run (·.sfuIssue core 6)

end Sys2Proof.Machine
end

