-- ==== Sys2Proof/Machine/Attn.lean ====
section
/-!
DEFINITION. The ATTN operation (R282–R290): its checks, its appends, its units and the reference order of R285.
-/
namespace Sys2Proof.Machine

/-! ### The parameter block (R282, R283) -/

def aMode (p : List Byte) : Nat := fld p 0 1
def aMask (p : List Byte) : Nat := fld p 1 1
def aAppend (p : List Byte) : Bool := bit (fld p 2 2) 0
def aLayer (p : List Byte) : Nat := fld p 4 2
def aHeads (p : List Byte) : Nat := fld p 6 2
def aCores (p : List Byte) : List Nat := (List.range 16).filter (fun c => bit (fld p 50 2) c)

/-- Query width and bytes of an output element. -/
def FloeCfg.qw (f : FloeCfg) : Nat := if f.latent then f.headW + f.posW else f.headW
def aOutBytes (p : List Byte) : Nat := if fld p 48 1 = 0 then 4 else 2

/-- Bytes of one source cache row. -/
def FloeCfg.rowBytes (f : FloeCfg) : Nat := 2 * (if f.latent then f.latentW + f.posW else 2 * f.kvHeads * f.headW)

/-- The block obeys R282 under a configuration. -/
def attnOk (f : FloeCfg) (p : List Byte) : Bool :=
  let win := fld p 8 4
  let pre := fld p 12 4
  decide (aMode p ≤ 2 ∧ aMask p ≤ 2 ∧ fld p 2 2 ≤ 1) && (aMode p == 0) == !f.latent && decide (aLayer p < f.layers) &&
    decide (1 ≤ aHeads p ∧ aHeads p ≤ 256) && (f.latent || aHeads p % f.kvHeads == 0) &&
    (if aMask p = 1 then decide (1 ≤ win ∧ win ≤ 1048576) else win == 0) &&
    (if aMask p = 2 then decide (1 ≤ pre ∧ pre ≤ 1048576) else pre == 0) &&
    l2Ok (fp32.val (fld p 16 4)) && decide (1 ≤ fld p 20 4 ∧ fld p 20 4 ≤ 4096) && fld p 24 8 % 16 == 0 && decide (fld p 48 1 ≤ 1) &&
    rsv p 49 1 && rsv p 52 4 && rsv p 88 40

/-- Slot bytes that each core's range must hold (R288). -/
def attnBytes (f : FloeCfg) (p : List Byte) : Nat := 4194304 + (if f.latent then 4 * aHeads p * f.headW * f.latentW else 0)

/-- Every core selected is bound to the context, lies in one partition and has room (R282, R288). -/
def Block.attnCoresOk (b : Block) (ctx : Nat) (f : FloeCfg) (p : List Byte) : Bool :=
  let cs := aCores p
  !cs.isEmpty && cs.all (fun c => partOf c == partOf (cs.headD 0) && (match (b.core c).bind? ctx with
    | some bd => decide (attnBytes f p ≤ bd.slotCount * 16384)
    | none => false))

/-- An ATTN as Getis takes it at its dispatch (R282): the block as it stands then, or the status of its read. -/
def attnTaken (seq : Nat) (blk : Except Nat (List Byte)) : AttnRun :=
  match blk with
  | .ok p => { seq := seq, block := p, batch := [], cores := aCores p, begun := false, lens := [], units := [], next := 0, done := 0, failed := none }
  | .error st => { seq := seq, block := [], batch := [], cores := [], begun := false, lens := [], units := [], next := 0, done := 0, failed := none,
                   blockSt := st }

/-- Check an ATTN's block (R282): nothing, or the status with layer and sequence (R290). -/
def Block.attnBlock (b : Block) (ctx : Nat) (e : Entry) (a : AttnRun) : Option (Nat × Nat × Nat) :=
  let x := b.ctx ctx
  match x.floe with
  | none => some (stInvalid, if a.blockSt = stOK then aLayer a.block else 0xFFFF, 0xFFFFFFFF)
  | some f =>
    if a.blockSt ≠ stOK then some (a.blockSt, 0xFFFF, 0xFFFFFFFF)
    else if !attnOk f a.block ∨ (aAppend a.block ∧ !(x.step == .opened && x.inStep e)) ∨ !b.attnCoresOk ctx f a.block
    then some (stInvalid, aLayer a.block, 0xFFFFFFFF) else none

/-- The batch entries of an array's bytes. -/
def batchOf (p d : List Byte) : List (List Byte) := (List.range (fld p 20 4)).map (fun i => (d.drop (16 * i)).take 16)

/-- The first batch entry that breaks R283. -/
def batchBad (f : FloeCfg) (es : List (List Byte)) : Option (List Byte) :=
  (es.zipIdx.find? (fun ti =>
    let t := ti.1
    !rsv t 12 4 || decide (f.seqs ≤ fld t 0 4 ∨ fld t 4 4 = 0 ∨ 65536 < fld t 4 4) || (es.take ti.2).any (fun u => fld u 0 4 == fld t 0 4))).map
    Prod.fst

/-! ### Appends (R275–R277, R280) -/

/-- BF16 values of a row. -/
def bfRow (d : List Byte) (n : Nat) : List Val := (List.range n).map (fun i => bf16.val (fld d (2 * i) 2))

/-- Codes and scales of one head's row of values (R64): packed elements and scale bytes. -/
def quantHead (e : Elem) (l2 : Val) (v : List Val) : List Byte × List Byte :=
  let bs := (List.range (v.length / 32)).map (fun i => quantBlock e .e8m0 1 l2 ((v.drop (32 * i)).take 32) none)
  (packCodes e (bs.flatMap (·.codes)), bs.map (fun q => BitVec.ofNat 8 q.scale))

/-- Bytes of a QUANTISED floe's element array and scale array (R269). -/
def FloeCfg.elemBytes (f : FloeCfg) : Nat := 256 * f.kvHeads * (f.headW * f.elem.width / 8)
def FloeCfg.scaleBytes (f : FloeCfg) : Nat := 256 * f.kvHeads * (f.headW / 32)

/-- What an appended row writes into its floe at position `t` (R269, R276): offset and bytes. -/
def FloeCfg.rowWrites (f : FloeCfg) (e : FloeEnt) (t : Nat) (src : List Byte) : List (Nat × List Byte) :=
  if f.latent then
    let n := f.latentW + f.posW
    if f.plain then [(t * n * 2, src)]
    else [(t * n, (bfRow src n).map (fun v => BitVec.ofNat 8 (e4m3.ofVal (divF32 v (fp32.val e.l2k)))))]
  else
    let head (kv h : Nat) : List Byte × List Byte :=
      quantHead f.elem (fp32.val (if kv = 0 then e.l2k else e.l2v)) (bfRow (src.drop (2 * (kv * f.kvHeads + h) * f.headW)) f.headW)
    let eb := f.headW * f.elem.width / 8
    let sb := f.headW / 32
    let half := f.elemBytes + f.scaleBytes
    (List.range 2).flatMap (fun kv => (List.range f.kvHeads).flatMap (fun h =>
      [(kv * half + (t * f.kvHeads + h) * eb, (head kv h).1), (kv * half + f.elemBytes + (t * f.kvHeads + h) * sb, (head kv h).2)]))

/-- An L2 that a floe records is usable; a latent floe has no L2_V. -/
def FloeCfg.l2Good (f : FloeCfg) (k v : Nat) : Bool := l2Ok (fp32.val k) && (f.latent || l2Ok (fp32.val v))

/-- The L2 values a floe that opens records (R276). -/
def FloeCfg.openL2 (f : FloeCfg) (p : List Byte) : Nat × Nat :=
  if f.plain then (0x3F800000, 0) else (fld p 64 4, if f.latent then 0 else fld p 68 4)

/-- Every floe that an append from `w` of `n` positions reaches is in the state R275 asks for, or what stands against it. -/
def Block.appendStates (b : Block) (ctx : Nat) (via : Via) (f : FloeCfg) (r : SeqRec) (p : List Byte) (s w n : Nat) : Option OpErr :=
  let l := aLayer p
  (List.range ((w + n + 255) / 256 - w / 256)).findSome? (fun k =>
    let i := w / 256 + k
    let old := decide (k = 0) && w % 256 != 0
    match b.floeNow ctx via f r s i l with
    | .error e => some e
    | .ok e =>
      let l2 := if old then (e.l2k, e.l2v) else f.openL2 p
      if e.addr = 0 ∨ e.state ≠ (if old then 1 else 0) ∨ !f.l2Good l2.1 l2.2 then some (.of stInvalid) else none)

/-- Enter an append into the table: the tokens and the floes it opens (R274, R277). -/
def Block.noteAppend (b : Block) (ctx : Nat) (f : FloeCfg) (p : List Byte) (s w n : Nat) : Block :=
  let l := aLayer p
  let first := (w + 255) / 256
  let opens := (List.range ((w + n + 255) / 256 - first)).map (fun k => (first + k, (f.openL2 p).1, (f.openL2 p).2))
  let a := (b.ctx ctx).append s l
  let a := { a with count := a.count + n, opened := a.opened ++ opens }
  let b := b.modCtx ctx (fun x => { x with
    appends := if x.appends.any (fun y => y.seqIdx == s && y.layer == l)
      then x.appends.map (fun y => if y.seqIdx = s ∧ y.layer = l then a else y) else x.appends ++ [a] })
  opens.foldl (fun b o => b.floeTrace 0x0340 ctx s o.1 l 0) b

/-- Write the rows of an append (R276): the block and what stood against it. -/
def Block.writeRows (b : Block) (ctx : Nat) (via : Via) (f : FloeCfg) (r : SeqRec) (p : List Byte) (s w n row : Nat) : FloeRes :=
  (List.range n).foldl (fun (st : FloeRes) t =>
    if st.2.isSome then st
    else
      let b := st.1
      let src := fld p 56 8 + (row + t) * f.rowBytes
      match b.opRead ctx via src f.rowBytes [0, 1, 2], b.floeNow ctx via f r s ((w + t) / 256) (aLayer p) with
      | .error e, _ => (b, some e)
      | _, .error e => (b, some e)
      | .ok d, .ok e =>
        (f.rowWrites e ((w + t) % 256) d).foldl (fun (st : FloeRes) o =>
          if st.2.isSome then st else st.1.opWrite ctx via (e.addr + o.1) o.2) (b.opSeen ctx via [(src, f.rowBytes)], none)) (b, none)

/-- One batch entry's start (R277, R280, R283): its appends, and the working length or what stood against it. -/
def Block.attnEntry (b : Block) (ctx : Nat) (via : Via) (f : FloeCfg) (p t : List Byte) : Block × Except OpErr Nat :=
  let s := fld t 0 4
  let n := fld t 4 4
  match b.seqRec ctx via f s with
  | .error e => (b, .error e)
  | .ok r =>
    let x := b.ctx ctx
    let w := r.len + (x.append s (aLayer p)).count
    if !r.live then (b, .error (.of stInvalid))
    else if !aAppend p then (b, if w < n then .error (.of stInvalid) else .ok w)
    else if (!x.appended.contains s ∧ 4096 ≤ x.appended.length) ∨ r.cap * 256 < w + n ∨ 1048576 < w + n then (b, .error (.of stInvalid))
    else match b.appendStates ctx via f r p s w n with
      | some e => (b, .error e)
      | none =>
        let o := (b.noteAppend ctx f p s w n).writeRows ctx via f r p s w n (fld t 8 4)
        (o.1, match o.2 with | none => .ok (w + n) | some e => .error e)

/-! ### One row in the reference order (R284–R286) -/

/-- Visible positions of a row at `pos` with working length `w` (R284): first and last. -/
def visible (p : List Byte) (pos w : Nat) : Nat × Nat :=
  match aMask p with
  | 1 => (pos + 1 - fld p 8 4, pos)
  | 2 => (0, min (w - 1) (max pos (fld p 12 4 - 1)))
  | _ => (0, pos)

/-- dotref from +0 (R84, R285). -/
def dot0 (a c : List Val) : Val := dotref (.fin false 0 0) (a.zip c) (a.length / 32)

/-- The value a format gives back for a value rounded into it (R60). -/
def through (f : FloatFmt) (v : Val) : Val := f.val (f.ofVal v)

/-- QUANT over a row in blocks of 32 with E8M0 scales, as values (R64, R286). -/
def quantRow (e : Elem) (v : List Val) : List Val :=
  (List.range (v.length / 32)).flatMap (fun i =>
    let q := quantBlock e .e8m0 0 (pow2Val 0) ((v.drop (32 * i)).take 32) none
    q.codes.map (fun c => scaledVal e .e8m0 c q.scale))

/-- The stored values of a floe's position (R269): the latent row or, for a KV head, K and V as element times
block scale. -/
def FloeCfg.stored (f : FloeCfg) (d : List Byte) (kv h t : Nat) : List Val :=
  if f.latent then
    let n := f.latentW + f.posW
    if f.plain then bfRow (d.drop (t * n * 2)) n else (List.range n).map (fun i => e4m3.val (fld d (t * n + i) 1))
  else
    let half := f.elemBytes + f.scaleBytes
    let row := t * f.kvHeads + h
    let es := d.drop (kv * half + row * (f.headW * f.elem.width / 8))
    let ss := d.drop (kv * half + f.elemBytes + row * (f.headW / 32))
    (List.range f.headW).map (fun i => scaledVal f.elem .e8m0 (packedCode f.elem es i) (fld ss (i / 32) 1))

/-- Bytes of a floe (R269). -/
def FloeCfg.floeBytes (f : FloeCfg) : Nat :=
  if f.latent then 256 * (f.latentW + f.posW) * (f.elem.width / 8) else 2 * (f.elemBytes + f.scaleBytes)

/-- What a row of one head needs of the projections: UK_h and UV_h, row by row (R282). -/
structure Proj where
  uk : List (List Val)
  uv : List (List Val)

/-- Values of one floe position as the mode reads them (R286): Ks and Vs. -/
def FloeCfg.keyVal (f : FloeCfg) (mode kvh : Nat) (e : FloeEnt) (pr : Proj) (d : List Byte) (t : Nat) : List Val × List Val :=
  match mode with
  | 0 => (f.stored d 0 kvh t, (f.stored d 1 kvh t).map (fun v => through bf16 (rne (v.mul (fp32.val e.l2v)))))
  | 2 => let r := f.stored d 0 0 t
    (r, r.take f.latentW)
  | _ =>
    let r := (f.stored d 0 0 t).map (fun v => if f.plain then v else through bf16 (rne (v.mul (fp32.val e.l2k))))
    let z := r.take f.latentW
    (pr.uk.map (fun u => through bf16 (dot0 z u)) ++ r.drop f.latentW, pr.uv.map (fun u => through bf16 (dot0 z u)))

/-- The query operand qs (R286). -/
def FloeCfg.query (f : FloeCfg) (mode : Nat) (pr : Proj) (q : List Val) : List Val :=
  match mode with
  | 0 => quantRow (if f.fmt = 3 then .e4m3 else .e2m3) q
  | 2 =>
    let ql := (List.range f.latentW).map (fun c => dot0 (q.take f.headW) (pr.uk.map (fun u => u.getD c (.fin false 0 0))))
    let r := ql ++ q.drop f.headW
    if f.plain then r.map (through bf16) else quantRow .e4m3 r
  | _ => q

/-- Running state of a row: m, l and o (R285). -/
structure RowAcc where
  m : Val
  l : Val
  o : List Val

/-- log2 e to the precision of the fixed-point evaluation. -/
def log2eVal : Val := .fin false (fxOne * fxOne / fxLn2) (-(fxP : Int))

/-- One chunk of 128 positions (R285): the keys and values of its visible positions, by offset in the chunk. -/
def chunkStep (f : FloeCfg) (mode : Nat) (scale : Val) (qs : List Val) (e : FloeEnt) (kvs : List (Option (List Val × List Val)))
    (dv : Nat) (a : RowAcc) : RowAcc :=
  let zero := Val.fin false 0 0
  let lk := if mode = 1 ∨ f.plain then pow2Val 0 else fp32.val e.l2k
  let lv := if mode = 2 ∧ !f.plain then fp32.val e.l2k else pow2Val 0
  let cK := rne ((scale.mul log2eVal).mul lk)
  let y := kvs.map (fun o => match o with | some kv => rne ((dot0 qs kv.1).mul cK) | none => .inf true)
  let mnew := y.foldl Val.max a.m
  let alpha := if a.m == .inf true then zero else sfuExp2 (rne (vSub a.m mnew))
  let p := y.map (fun v => if v == .inf true then zero else sfuExp2 (rne (vSub v mnew)))
  let sum := (treeReduce (fun u v => rne (u.add v)) 7 p).headD zero
  let pq := if mode = 2 ∧ !f.plain then quantRow .e4m3 p else p.map (through bf16)
  let col (d : Nat) : List Val := kvs.map (fun o => match o with | some kv => kv.2.getD d zero | none => zero)
  { m := mnew
    l := rne ((a.l.mul alpha).add sum)
    o := (List.range dv).map (fun d => rne (((a.o.getD d zero).mul alpha).add (rne ((dot0 pq (col d)).mul lv)))) }

/-- Width of a row's output before projection (R286). -/
def FloeCfg.dv (f : FloeCfg) (mode : Nat) : Nat := if mode = 2 then f.latentW else f.headW

/-- The output bytes of a row (R285, R286). -/
def rowOut (p : List Byte) (pr : Proj) (a : RowAcc) : List Byte :=
  let r := a.o.map (fun v => rne (v.mul (sfuRcp a.l)))
  let r := if aMode p = 2 then pr.uv.map (fun u => dot0 (r.map (through bf16)) u) else r
  r.flatMap (fun v => if fld p 48 1 = 0 then natLe 4 (fp32.ofVal v) else natLe 2 (bf16.ofVal v))

/-- Bytes of UK, and of UV, of all heads (R282). -/
def FloeCfg.projBytes (f : FloeCfg) (p : List Byte) : Nat := 2 * aHeads p * f.headW * f.latentW

/-- UK and UV are read whole (R282). -/
def Block.readProj (b : Block) (ctx : Nat) (via : Via) (f : FloeCfg) (p : List Byte) : Except OpErr (List Byte × List Byte) :=
  match b.opRead ctx via (fld p 72 8) (f.projBytes p) [0, 1, 2], b.opRead ctx via (fld p 80 8) (f.projBytes p) [0, 1, 2] with
  | .error e, _ => .error e
  | _, .error e => .error e
  | .ok u, .ok v => .ok (u, v)

/-- The projections of a head out of the bytes that the core keeps, none for DIRECT. -/
def FloeCfg.projOf (f : FloeCfg) (p : List Byte) (kept : List Byte × List Byte) (h : Nat) : Proj :=
  if aMode p = 0 then ⟨[], []⟩
  else
    let n := 2 * f.headW * f.latentW
    let rows (d : List Byte) : List (List Val) := (List.range f.headW).map (fun i => bfRow (d.drop (h * n + 2 * i * f.latentW)) f.latentW)
    ⟨rows kept.1, rows kept.2⟩

/-- The bytes of a floe that hold the visible positions of a chunk, as a floe image. -/
def Block.chunkBytes (b : Block) (ctx : Nat) (via : Via) (f : FloeCfg) (e : FloeEnt) (ts : List Nat) : Except OpErr (List Byte) :=
  let base := List.replicate f.floeBytes 0#8
  let runs := ts.flatMap (fun t =>
    if f.latent then (let n := (f.latentW + f.posW) * (f.elem.width / 8); [(t * n, n)])
    else
      let half := f.elemBytes + f.scaleBytes
      let eb := f.kvHeads * (f.headW * f.elem.width / 8)
      let sb := f.kvHeads * (f.headW / 32)
      (List.range 2).flatMap (fun kv => [(kv * half + t * eb, eb), (kv * half + f.elemBytes + t * sb, sb)]))
  runs.foldl (fun acc r => match acc with
    | .error e => .error e
    | .ok img => match b.opRead ctx via (e.addr + r.1) r.2 [0, 2] with
      | .error e => .error e
      | .ok d => .ok (patch img r.1 d)) (.ok base)

/-- One row: the query head `h` of token `t` of a batch entry (R285). -/
def Block.attnRow (b : Block) (ctx : Nat) (via : Via) (f : FloeCfg) (p ent : List Byte) (pr : Proj) (r : SeqRec) (w h t : Nat) :
    Except OpErr (List Byte) :=
  let s := fld ent 0 4
  let pos := w - fld ent 4 4 + t
  let vis := visible p pos w
  let mode := aMode p
  let qb := 2 * f.qw
  match b.opRead ctx via (fld p 32 8 + ((fld ent 8 4 + t) * aHeads p + h) * qb) qb [0, 1, 2] with
  | .error e => .error e
  | .ok qd =>
    let qs := f.query mode pr (bfRow qd f.qw)
    let start : RowAcc := ⟨.inf true, .fin false 0 0, List.replicate (f.dv mode) (.fin false 0 0)⟩
    let kvh := h / (aHeads p / max 1 f.kvHeads)
    let acc := (List.range (vis.2 / 128 + 1 - vis.1 / 128)).foldl (fun acc k => match acc with
      | .error e => .error e
      | .ok a =>
        let c := vis.1 / 128 + k
        match b.floeNow ctx via f r s (c / 2) (aLayer p) with
        | .error e => .error e
        | .ok e =>
          if e.state = 0 ∨ e.addr = 0 ∨ !f.l2Good e.l2k e.l2v then .error (.of stInvalid)
          else
            let seen (j : Nat) : Bool := decide (vis.1 ≤ c * 128 + j ∧ c * 128 + j ≤ vis.2)
            let at_ (j : Nat) : Nat := c % 2 * 128 + j
            match b.chunkBytes ctx via f e (((List.range 128).filter seen).map at_) with
            | .error e => .error e
            | .ok d =>
              let kvs := (List.range 128).map (fun j => if seen j then some (f.keyVal mode kvh e pr d (at_ j)) else none)
              .ok (chunkStep f mode (fp32.val (fld p 16 4)) qs e kvs (f.dv mode) a)) (.ok start : Except OpErr RowAcc)
    match acc with
    | .error e => .error e
    | .ok a => .ok (rowOut p pr a)

/-- Query rows of a unit (R287): 128 at most. -/
def unitRows (p ent : List Byte) (first : Nat) : Nat := min 128 (fld ent 4 4 * aHeads p - first)

/-- What a unit reads of its operands: its record, its query rows, and the floes up to its last visible position. -/
def Block.unitReads (b : Block) (ctx : Nat) (via : Via) (f : FloeCfg) (p ent : List Byte) (r : SeqRec) (w first : Nat) : List (Nat × Nat) :=
  let heads := aHeads p
  let s := fld ent 0 4
  let rows := unitRows p ent first
  let pos (i : Nat) : Nat := w - fld ent 4 4 + (first + i) / heads
  let lo := (visible p (pos 0) w).1
  let hi := (visible p (pos (rows - 1)) w).2
  let floes := (List.range (hi / 256 + 1 - lo / 256)).filterMap (fun k => match b.floeNow ctx via f r s (lo / 256 + k) (aLayer p) with
    | .ok e => some (e.addr, f.floeBytes)
    | .error _ => none)
  [(f.recAt s, 32), (fld p 32 8 + (fld ent 8 4 * heads + first) * 2 * f.qw, rows * 2 * f.qw)] ++ floes

/-- A unit's rows (R287): token-major, then head-major. Outputs land row by row; what stood against the first failure. -/
def Block.attnUnit (b : Block) (ctx : Nat) (via : Via) (f : FloeCfg) (a : AttnRun) (u : Nat × Nat) (kept : List Byte × List Byte) : FloeRes :=
  let p := a.block
  let ent := a.batch.getD u.1 []
  let heads := aHeads p
  let w := a.lens.getD u.1 0
  match b.seqRec ctx via f (fld ent 0 4) with
  | .error e => (b, some e)
  | .ok r =>
    let b := b.opSeen ctx via (b.unitReads ctx via f p ent r w u.2)
    (List.range (unitRows p ent u.2)).foldl (fun (st : FloeRes) i =>
      if st.2.isSome then st
      else
        let t := (u.2 + i) / heads
        let h := (u.2 + i) % heads
        match st.1.attnRow ctx via f p ent (f.projOf p kept h) r w h t with
        | .error e => (st.1, some e)
        | .ok out => st.1.opWrite ctx via (fld p 40 8 + ((fld ent 8 4 + t) * heads + h) * f.headW * aOutBytes p) out) (b, none)

/-! ### Running (R287–R290) -/

/-- A core an ATTN used once it has ended (R288): tags EMPTY, contents unspecified, handle queues empty and
accumulators +0. A wait of its stream ends with it. -/
def Block.attnRelease (b : Block) (ctx core : Nat) : Block :=
  let b := b.unparkAttn core ctx
  match (b.core core).bind? ctx with
  | none => b
  | some bd =>
    let n := bd.slotCount * 16384
    let free := (List.range n).map (fun i => Config.freeByte (b.freeCtr + i))
    let b := { b with freeCtr := b.freeCtr + n }
    b.modCore core (fun k =>
      let k := { k with
        scratch := Mem.write k.scratch (bd.slotFirst * 16384) free
        poison := k.poison.filter (fun g => decide (g / 1024 < bd.slotFirst ∨ bd.slotFirst + bd.slotCount ≤ g / 1024))
        tags := k.tags.filter (fun s => decide (s < bd.slotFirst ∨ bd.slotFirst + bd.slotCount ≤ s))
        hq := SMap.keep k.hq (fun i => i / 16 != bd.pos) }
      k.setSeq ctx { (k.seq ctx) with acc := [], hold := none, accBad := [], holdBad := false })

/-- Change a running ATTN. -/
def Ctx.modAttn (x : Ctx) (seq : Nat) (f : AttnRun → AttnRun) : Ctx :=
  { x with attn := x.attn.map (fun a => if a.seq = seq then f a else a) }

/-- DETAIL of an ATTN's record (R345). -/
def attnDetail (layer s : Nat) : List Byte := [0#8] ++ natLe 2 layer ++ natLe 4 s

/-- An ATTN fails with a status (R290, R292). -/
def Block.attnFail (b : Block) (ctx seq st layer s : Nat) : Block :=
  let b := b.emitCtx (fabIsl (b.ctx ctx).part) 0x0344 ctx (s % 2 ^ 32 + layer % 256 * 2 ^ 44 + st * 2 ^ 56)
  let b := b.modCtx ctx (fun x => { x with attn := x.attn.filter (fun y => y.seq != seq) })
  let b := if st = stData then b.poisonSeen (fabIsl (b.ctx ctx).part) (b.ctx ctx).part ctx (b.ctx ctx).curStep else b
  b.finishEntry ctx seq st (attnDetail layer s)

/-- An ATTN whose units are all done completes (R288, R290). -/
def Block.attnFinish (b : Block) (ctx : Nat) (a : AttnRun) : Block :=
  if a.done < a.units.length then b
  else
    let b := a.cores.foldl (fun b c => (b.modCore c (fun k => { k with
      units := k.units.filter (fun u => !(u.ctx == ctx && u.seq == a.seq)) })).attnRelease ctx c) b
    let b := b.modCtx ctx (fun x => { x with attn := x.attn.filter (fun y => y.seq != a.seq) })
    match a.failed with
    | none => b.finishEntry ctx a.seq stOK []
    | some f => b.attnFail ctx a.seq f.2.1 (aLayer a.block) f.2.2

/-- The lower of two failures by unit number (R290). -/
def AttnRun.fail (a : AttnRun) (unit st s : Nat) : AttnRun :=
  match a.failed with
  | some f => if f.1 ≤ unit then a else { a with failed := some (unit, st, s) }
  | none => { a with failed := some (unit, st, s) }

/-- Units of a batch (R287): 128 rows each, in batch order. -/
def attnUnits (p : List Byte) (batch : List (List Byte)) : List (Nat × Nat) :=
  batch.zipIdx.flatMap (fun ei => (List.range ((fld ei.1 4 4 * aHeads p + 127) / 128)).map (fun k => (ei.2, 128 * k)))

/-- Deal a unit to a core (R287): the next that belongs to no failed entry, or a place that only holds the core
until the ATTN completes. -/
def Block.attnDeal (b : Block) (ctx core seq : Nat) : Block :=
  match (b.ctx ctx).attn.find? (fun a => a.seq == seq) with
  | none => b
  | some a =>
    let b := b.modCore core (fun k => { k with
      units := k.units ++ [⟨ctx, seq, a.next⟩], seqProg := if k.busy then k.seqProg else b.time.keeper })
    b.modCtx ctx (fun x => x.modAttn seq (fun a => { a with next := a.next + 1 }))

/-- The ATTN may start its units (R288, R289): its cores are free of earlier work of the context, earlier FLOE_OPs have run,
and no earlier ATTN appends to what it touches. -/
def Block.attnMayBegin (b : Block) (ctx : Nat) (a : AttnRun) : Bool :=
  let x := b.ctx ctx
  let touch (c : AttnRun) : Bool := c.batch.isEmpty || (aLayer c.block == aLayer a.block &&
    c.batch.any (fun t => a.batch.any (fun u => fld t 0 4 == fld u 0 4)))
  x.attn.all (fun c => decide (a.seq ≤ c.seq) || !(aAppend c.block && touch c)) && !x.behind a.seq (fun y => y.op == 8) &&
    a.cores.all (fun c =>
      let k := b.core c
      k.kernels.all (fun y => y.ctx != ctx || y.done) && k.waiting.all (fun w => w.ctx != ctx || decide (a.seq < w.seq)) &&
        k.units.all (fun u => u.ctx != ctx) && !x.holdsCore c a.seq)

/-- Start an ATTN: appends of every entry, then the first units on its cores. Where an access has to wait, the ATTN waits as
it stood. -/
def Block.attnBegin (b : Block) (ctx : Nat) (f : FloeCfg) (a : AttnRun) : Block :=
  let via : Via := some (a.cores.headD 0)
  let b := b.crossTo (fabIsl (b.ctx ctx).part) (a.cores.map movIsl)
  let r := a.batch.foldl (fun (st : Block × List (Except OpErr Nat)) t =>
    let o := st.1.attnEntry ctx via f a.block t
    (o.1, st.2 ++ [o.2])) (b, [])
  match r.2.findSome? (fun e => match e with | .error e => b.opWaits ctx via e | .ok _ => none) with
  | some b => b
  | none =>
    let live := (attnUnits a.block a.batch).filter (fun u => match r.2.getD u.1 (.error (.of stInvalid)) with | .ok _ => true | .error _ => false)
    let bad := r.2.zipIdx.findSome? (fun ei => match ei.1 with
      | .error e => some (ei.2, e.st, fld (a.batch.getD ei.2 []) 0 4)
      | .ok _ => none)
    let a := { a with
      begun := true, units := live, failed := bad.map (fun x => ((live.filter (fun u => decide (u.1 < x.1))).length, x.2.1, x.2.2))
      lens := r.2.map (fun e => match e with | .ok w => w | .error _ => 0) }
    let b := r.2.foldl (fun b e => match e with | .error e => b.opFailed ctx via e | .ok _ => b) r.1
    let b := b.modCtx ctx (fun x => (x.modAttn a.seq (fun _ => a)).modEntry a.seq (fun e => { e with state := .started }))
    if live.isEmpty then b.attnFinish ctx a
    else a.cores.foldl (fun b c =>
      let b := b.attnDeal ctx c a.seq
      if (b.core c).busy then b else b.takeNext c) b

/-- An ATTN whose block passed its checks reads its batch (R283). -/
def Block.attnBatch (b : Block) (ctx : Nat) (f : FloeCfg) (a : AttnRun) (go : Block → AttnRun → Block) : Block :=
  b.feThrough ctx (fld a.block 24 8) (16 * fld a.block 20 4) (fun b st => b.attnFail ctx a.seq st (aLayer a.block) 0xFFFFFFFF) (fun b d =>
    let es := batchOf a.block d
    match batchBad f es with
    | some t => b.attnFail ctx a.seq stInvalid (aLayer a.block) (fld t 0 4)
    | none =>
      let a := { a with batch := es }
      go (b.modCtx ctx (fun x => x.modAttn a.seq (fun _ => a))) a)

/-- ATTN (R282, R288, R289): the first dispatched ATTN whose batch is still to be read or whose units may start. Its block is
checked and its batch read, and its units start once R288 and R289 allow. When the batch is read R282 does not say
(DESIGN CHOICE: at its turn, not at its dispatch). -/
def Block.attn (b : Block) (ctx : Nat) : Block :=
  let run (seq : Nat) : AttnRun := ((b.ctx ctx).attn.find? (fun a => a.seq == seq)).getD (attnTaken seq (.error stData))
  b.ringFree ctx 3 (fun e => (run e.seq).batch.isEmpty || b.attnMayBegin ctx (run e.seq)) (fun b e =>
    let a := run e.seq
    match b.attnBlock ctx e a, (b.ctx ctx).floe with
    | some x, _ => b.attnFail ctx e.seq x.1 x.2.1 x.2.2
    | none, none => b
    | none, some f =>
      let start (b : Block) (a : AttnRun) : Block := if b.attnMayBegin ctx a then b.attnBegin ctx f a else b
      if a.batch.isEmpty then b.attnBatch ctx f a start else start b a)

def execAttn (ctx : Nat) (s : State) : Host.Outcome State Fault Refusal := s.run (·.attn ctx)

/-- A unit on a core ends (R287, R290): the next is dealt, and with the last the ATTN completes. -/
def Block.unitEnds (b : Block) (ctx core : Nat) (a : AttnRun) (u : AttnUnit) (s : Nat) (er : Option OpErr) : Block :=
  let b := b.modCtx ctx (fun x => x.modAttn a.seq (fun a =>
    let a := { a with done := a.done + 1 }
    match er with | none => a | some e => a.fail u.unit e.st s))
  let b := (b.unparkAttn core ctx).modCore core (fun k => { k with
    units := k.units.filter (fun v => !(v.ctx == ctx && v.seq == u.seq)), seqProg := b.time.keeper })
  let b := (b.crossFront core).attnDeal ctx core a.seq
  match (b.ctx ctx).attn.find? (fun y => y.seq == a.seq) with
  | some y => b.attnFinish ctx y
  | none => b

/-- UK and UV as a core keeps them for an ATTN: read at its first unit (R287). -/
def Block.keepProj (b : Block) (ctx core : Nat) (f : FloeCfg) (a : AttnRun) : Except OpErr (Block × List Byte × List Byte) :=
  match a.proj.find? (fun x => x.1 == core) with
  | some kept => .ok (b, kept.2)
  | none =>
    if aMode a.block = 0 then .ok (b, [], [])
    else match b.readProj ctx (some core) f a.block with
      | .error e => .error e
      | .ok kept =>
        let b := b.opSeen ctx (some core) [(fld a.block 72 8, f.projBytes a.block), (fld a.block 80 8, f.projBytes a.block)]
        .ok (b.modCtx ctx (fun x => x.modAttn a.seq (fun a => { a with proj := a.proj ++ [(core, kept)] })), kept)

/-- ATTN_UNIT_DONE (R287): the unit on the core is computed and its outputs land; the core takes the next. Where an access of
the unit has to wait, the unit waits as it stood. -/
def Block.attnUnitDone (b : Block) (core : Nat) : Block :=
  let k := b.core core
  if !b.coreUp core ∨ k.cur = 0 then b
  else
    let ctx := k.cur - 1
    let via : Via := some core
    match k.units.find? (fun u => u.ctx == ctx), (b.ctx ctx).floe with
    | some u, some f => match (b.ctx ctx).attn.find? (fun a => a.seq == u.seq) with
      | none => b
      | some a => match a.units[u.unit]? with
        | none => b
        | some ent =>
          let s := fld (a.batch.getD ent.1 []) 0 4
          let finish (b : Block) (r : FloeRes) : Block := match r.2 with
            | none => r.1.unitEnds ctx core a u s none
            | some e => match b.opWaits ctx via e with
              | some b => b
              | none => (r.1.opFailed ctx via e).unitEnds ctx core a u s (some e)
          match b.keepProj ctx core f a with
          | .error e => finish b (b, some e)
          | .ok p => finish p.1 (p.1.attnUnit ctx via f a ent p.2)
    | _, _ => b

def execAttnUnitDone (core : Nat) (s : State) : Host.Outcome State Fault Refusal := s.run (·.attnUnitDone core)

end Sys2Proof.Machine
end

