-- ==== Sys2Proof/Machine/Steps.lean ====
section
/-!
DEFINITION. Steps (R352–R366): opening, committing, dropping and draining, and the end of an abort (R369 steps
4–6).
-/
namespace Sys2Proof.Machine

/-! ### Draining (R366) -/

/-- DETAIL of a STEP_BEGIN or STEP_END record (R345). -/
def stepDetail (n : Nat) : List Byte := natLe 7 0 ++ natLe 8 n

/-- Status of an entry of a dropped step by the reason of the drop (R365). -/
def dropStatus : Nat → Nat
  | 1 => stLate
  | 4 => stReset
  | _ => stAborted

/-- Complete an accepted entry of a dropped step with a status (R365). -/
def Block.dropEntry (b : Block) (ctx : Nat) (e : Entry) (st : Nat) : Block :=
  let n := (b.ctx ctx).stepNo
  let b := b.modCtx ctx (fun x => x.modEntry e.seq (fun e =>
    { e with detail := if e.op = 6 ∨ e.op = 7 then stepDetail n else e.detail }))
  b.completeEntry ctx e.seq st

/-- DRAINING ends (R366, R374). -/
def Block.drained (b : Block) (ctx : Nat) : Block :=
  (b.emitStep 0x0507 ctx 0 0).modCtx ctx (fun x => { x with step := .none })

/-- Complete accepted entries of a draining step, up to its STEP_END or a STEP_BEGIN (R366). -/
def Block.drainN (b : Block) (ctx : Nat) : Nat → Block
  | 0 => b
  | n + 1 =>
    let x := b.ctx ctx
    if x.step ≠ .draining then b
    else match x.entries.find? (fun e => e.state != .completed) with
      | none => b
      | some e =>
        if e.op = 6 ∧ !e.refused then b.drained ctx
        else if e.op = 7 ∧ !e.refused then (b.dropEntry ctx e x.drainSt).drained ctx
        else (b.dropEntry ctx e (dropStatus x.dropWhy)).drainN ctx n

/-- Draining goes on as entries are accepted. -/
def Block.drainStep (b : Block) (ctx : Nat) : Block := (b.drainN ctx ((b.ctx ctx).entries.length + 1)).riseDone ctx

/-! ### Ends of aborts (R362, R365, R369) -/

/-- What an abort clears of a context on one core (R171, R201, R369 step 4). The registers and the parameter page are those
of a newer kernel of the context where one runs there (R194): they stay its own. -/
def Block.scrubCore (b : Block) (core ctx : Nat) : Block :=
  match (b.core core).bind? ctx with
  | none => b
  | some bd =>
    let newer := (b.core core).runs ctx
    b.modCore core (fun k =>
      let k := (k.clearSwap bd).dropPrefetch (fun _ => true)
      { k with
        seqs := if newer then k.seqs else SMap.keep k.seqs (fun c => c != ctx)
        tags := k.tags.filter (fun s => decide (s < bd.slotFirst ∨ bd.slotFirst + bd.slotCount ≤ s))
        hq := SMap.keep k.hq (fun i => i / 16 != bd.pos)
        binds := if newer then k.binds else k.binds.map (fun x => if x.ctx = ctx then { x with params := [], paramBad := [] } else x) })

/-- The context's assigned tile queues are emptied (R171). -/
def Block.emptyTqs (b : Block) (ctx : Nat) : Block :=
  b.modPart (b.ctx ctx).part (fun t => { t with tqs := SMap.keep t.tqs (fun i => SMap.get 0 t.tqOwner i != ctx + 1) })

/-- What a drop or an abort of all of a context's work clears (R171, R279, R362 steps 3 and 4). -/
def Block.scrubAll (b : Block) (ctx : Nat) : Block :=
  let b := (b.floeDiscard ctx).crossTo (fabIsl (b.ctx ctx).part) ((b.boundCores ctx).flatMap (fun c => [arrIsl c, movIsl c]))
  ((b.boundCores ctx).foldl (fun b c => b.scrubCore c ctx) b).emptyTqs ctx

/-- Steps 2–5 of R369 hold: no transfer of the work in scope is queued or owed an answer, and no engine executes for it. -/
def Block.abortQuiet (b : Block) (a : Abort) : Bool := a.kids.all (fun ck =>
  let k := b.core ck.1
  k.drained ck.2 && (k.array ++ k.vector ++ k.sfu).all (fun o => o.kid != ck.2))

/-- The kernels that an abort ended complete on their cores (R101, R369). -/
def Block.endKids (b : Block) (a : Abort) : Block :=
  a.kids.foldl (fun b ck => match (b.core ck.1).kernels.find? (fun x => x.kid == ck.2 && !x.done) with
    | none => b
    | some ker =>
      let b := if ker.isCopy then b else
        b.emit (arrIsl ck.1) 0x0204 ker.ctx ker.step (ker.report.pc + ker.report.detail * 2 ^ 32 + ker.report.status * 2 ^ 48)
      let b := b.cross (movIsl ck.1) (fabIsl (partOf ck.1))
      (b.modCore ck.1 (fun k => { k with kernels := k.kernels.map (fun x => if x.kid = ck.2 then { x with done := true } else x) })).crossFront ck.1) b

/-- Remove the kernels of an entry from every core. -/
def Block.dropKernels (b : Block) (ctx seq : Nat) : Block :=
  (List.range 16).foldl (fun b c => b.modCore c (fun k => { k with
    kernels := k.kernels.filter (fun x => !(x.ctx == ctx && x.seq == seq))
    waiting := k.waiting.filter (fun w => !(w.ctx == ctx && w.seq == seq)) })) b

/-- Status and DETAIL of an entry that an abort at kernel scope ended (R101). -/
def Block.abortReport (b : Block) (ctx seq : Nat) : Nat × List Byte :=
  match b.firstStop ctx seq with
  | some r => (r.status, r.bytes)
  | none => (stAborted, [])

/-- The entries named by an abort at kernel scope finish (R368). -/
def Block.endEntries (b : Block) (ctx : Nat) (seqs : List Nat) : Block :=
  seqs.foldl (fun b seq =>
    let b := b.modCtx ctx (fun x => x.modEntry seq (fun e => { e with held := false }))
    if b.launchOpen ctx seq then b
    else
      let r := b.abortReport ctx seq
      (b.dropKernels ctx seq).finishEntry ctx seq r.1 r.2) b

/-- The status of a dropped step's STEP_END (R365). -/
def Ctx.stepEndStatus (x : Ctx) : Nat :=
  if x.dropWhy = 2 then
    (match x.entries.find? (fun e => x.inStep e && e.status != 0) with | some e => e.status | none => stInvalid)
  else dropStatus x.dropWhy

/-- Final status of an entry that an abort ends (R365, R369). -/
def Ctx.finalStatus (x : Ctx) (e : Entry) : Nat :=
  if e.status ≠ 0 then e.status
  else if x.step = .dropping ∧ x.inStep e then (if e.op = 7 ∧ !e.refused then x.stepEndStatus else dropStatus x.dropWhy)
  else stAborted

/-- The dropped step has quiesced (R356, R366): NONE where its STEP_END was taken or it was aborted, else DRAINING, with the
status its STEP_END will have. -/
def Block.settleStep (b : Block) (ctx : Nat) (ended : Bool) (endSt : Nat) : Block :=
  let x := b.ctx ctx
  if x.step ≠ .dropping then b
  else if ended ∨ x.dropWhy = 3 then b.modCtx ctx (fun x => { x with step := .none })
  else (b.modCtx ctx (fun x => { x with step := .draining, drainSt := endSt })).drainStep ctx

/-- Complete the entries that satisfy `p`, in SEQ order, with their final statuses (R344, R365). -/
def Block.closeEntries (b : Block) (ctx : Nat) (p : Entry → Bool) (st : Entry → Nat) : Block :=
  let es := (b.ctx ctx).entries.filter (fun e => e.state != .completed && p e)
  es.foldl (fun b e => b.dropEntry ctx e (st e)) b

/-- The entries of an abort at step or context scope complete (R362, R369). -/
def Block.endScope (b : Block) (a : Abort) : Block :=
  let b := b.scrubAll a.ctx
  let x := b.ctx a.ctx
  let mine (e : Entry) : Bool := a.seqs.contains e.seq || (x.step == .dropping && x.inStep e)
  let b := (x.entries.filter mine).foldl (fun b e => b.dropKernels a.ctx e.seq) b
  let x := b.ctx a.ctx
  let b := b.closeEntries a.ctx mine (fun e => x.finalStatus e)
  (b.settleStep a.ctx x.endOf.isSome x.stepEndStatus).riseDone a.ctx

/-- One abort is complete (R369 step 6). -/
def Block.finishAbort (b : Block) (a : Abort) : Block :=
  let b := (b.endKids a).emitStep 0x0504 a.ctx a.scope 0
  let b := { b with aborts := b.aborts.filter (fun x => x.id != a.id) }
  let b := a.attn.foldl (fun b c => b.attnRelease a.ctx c) b
  if a.scope = 0 then
    let b := (a.kids.map (·.1)).eraseDups.foldl (fun b c => b.scrubCore c a.ctx) b
    if a.seqs.isEmpty then
      let seqs := (a.kids.flatMap (fun ck => ((b.core ck.1).kernels.filter (fun k => k.kid == ck.2)).map (·.seq))).eraseDups
      seqs.foldl (fun b s => b.launchDone a.ctx s) b
    else b.endEntries a.ctx a.seqs
  else b.endScope a

/-- Two aborts of one context overlap in scope (R373). -/
def Abort.joins (a c : Abort) : Bool :=
  a.ctx == c.ctx && (a.kids.any (fun k => c.kids.contains k) || a.seqs.any (fun s => c.seqs.contains s))

/-! ### Opening (R353–R355, R363) -/

/-- A STEP_BEGIN taken inside the open step fails it (R357). -/
def Block.nested (b : Block) (ctx : Nat) : Block :=
  let x := b.ctx ctx
  if x.step ≠ .waiting ∧ x.step ≠ .opened then b
  else match x.entries.find? (fun e => decide (x.stepSeq < e.seq) && e.op == 6 && !e.refused && x.inStep e && e.state != .finished) with
    | none => b
    | some e => b.finishEntry ctx e.seq stInvalid (stepDetail x.stepNo)

/-- The step opens (R355): STEP_BEGIN finishes. -/
def Block.openStep (b : Block) (ctx : Nat) : Block :=
  let x := b.ctx ctx
  let b := b.modCtx ctx (fun x => { x with step := .opened })
  let b := b.emitStep 0x0500 ctx 0 (x.stepSeq % 2 ^ 56)
  let b := b.modCtx ctx (fun x => x.modEntry x.stepSeq (fun e =>
    { e with state := .finished, status := stOK, detail := stepDetail x.stepNo }))
  b.nested ctx

/-- The step is dropped at once as late (R355): no entry of it has run, so its abort ends nothing, and it drains. -/
def Block.lateAtOnce (b : Block) (ctx : Nat) (e : Entry) : Block :=
  let b := b.modCtx ctx (fun x => { x with retired := x.stepNo, step := .draining, dropWhy := 1, drainSt := stLate, dropped := x.dropped + 1 })
  let b := (((b.emitStep 0x0502 ctx 1 0).retireGroups ctx).scrubAll ctx).dropEntry ctx e stLate
  b.drainStep ctx

/-- STEP_BEGIN (R353–R355). -/
def Block.stepBegin (b : Block) (ctx : Nat) : Block :=
  b.ringTurn ctx 6 (fun b e =>
    let x := b.ctx ctx
    let t := b.time.keeper
    let time := fld e.raw 24 8
    let fail : Block := b.finishEntry ctx e.seq stInvalid (stepDetail x.stepNo)
    if x.step ≠ .none then b
    else if fld e.raw 16 1 = 0 then
      let b := b.modCtx ctx (fun x => { x with stepNo := x.stepNo + 1, stepSeq := e.seq, deadline := time })
      if t < time then b.openStep ctx else b.lateAtOnce ctx e
    else match b.jobMember? ctx (b.part x.part).jobGroup with
      | none => fail
      | some (g, _) =>
        if time ≤ x.stepNo then fail
        else
          let per := g.period * 1000
          let tick := g.origin + time * per
          let b := b.modCtx ctx (fun x => { x with stepNo := time, stepSeq := e.seq, tick := tick, deadline := tick + per })
          if tick + per ≤ t then b.lateAtOnce ctx e
          else if tick ≤ t then b.openStep ctx
          else (b.modCtx ctx (fun x => { x with step := .waiting })).nested ctx)

def execStepBegin (ctx : Nat) (s : State) : Host.Outcome State Fault Refusal := s.run (·.stepBegin ctx)

/-- The context's step proceeds: its partition serves (R346, R373). -/
def Block.stepLive (b : Block) (ctx : Nat) (st : StepState) : Bool := b.serves ctx && (b.ctx ctx).step == st

/-- CADENCE_TICK (R355). -/
def Block.cadenceTick (b : Block) (ctx : Nat) : Block :=
  if b.stepLive ctx .waiting then (b.advanceTo (b.ctx ctx).tick).openStep ctx else b

def execCadenceTick (ctx : Nat) (s : State) : Host.Outcome State Fault Refusal := s.run (·.cadenceTick ctx)

/-- DEADLINE (R363, R364). -/
def Block.deadlinePassed (b : Block) (ctx : Nat) : Block :=
  if b.stepLive ctx .opened then (b.advanceTo (b.ctx ctx).deadline).dropStep ctx 1 none else b

def execDeadline (ctx : Nat) (s : State) : Host.Outcome State Fault Refusal := s.run (·.deadlinePassed ctx)

/-! ### STEP_END (R360, R361) -/

/-- The step commits (R361). -/
def Block.commitStep (b : Block) (ctx : Nat) (e : Entry) : Block :=
  let b := b.emitStep 0x0501 ctx 0 0
  let b := (b.modCtx ctx (fun x => { x with retired := x.stepNo, step := .committing, committed := x.committed + 1 })).retireGroups ctx
  let w := b.floeCommit ctx
  let b := w.1
  let x := b.ctx ctx
  let st := match w.2 with | some er => er.st | none => stOK
  let b := b.closeEntries ctx (fun y => x.inStep y && decide (y.seq ≤ e.seq)) (fun y => if y.seq = e.seq then st else stOK)
  (b.modCtx ctx (fun x => { x with step := .none })).riseDone ctx

/-- STEP_END (R357, R360): the commit decision, once every entry of the step has finished. Getis takes it when the commit
writes have nothing left to wait for: a partition in reset, or the companion's answer for a page (DESIGN CHOICE: R360 gives no
time between the dispatch of STEP_END and the decision). -/
def Block.stepEnd (b : Block) (ctx : Nat) : Block :=
  b.ringTurn ctx 7 (fun b e =>
    let x := b.ctx ctx
    match x.step with
    | .none => b.finishEntry ctx e.seq stInvalid (stepDetail x.stepNo)
    | .opened =>
      if x.entries.any (fun y => decide (y.seq < e.seq) && y.state != .finished && y.state != .completed) then b
      else if x.deadline ≤ b.time.keeper then b.dropStep ctx 1 none
      else if !b.appendsAgree ctx then b.finishEntry ctx e.seq stInvalid (stepDetail x.stepNo)
      else match (b.commitStall ctx).bind (b.opWaits ctx none) with
        | some b => b
        | none => b.commitStep ctx e
    | _ => b)

def execStepEnd (ctx : Nat) (s : State) : Host.Outcome State Fault Refusal := s.run (·.stepEnd ctx)

end Sys2Proof.Machine
end

