-- ==== Sys2Proof/Machine/Reset.lean ====
section
/-!
DEFINITION. Patrols (R151, R263), timers and heartbeats (R457–R460), the partition reset (R461, R462), disabling and
retirement (R464, R465) and the module halt (R467).
-/
namespace Sys2Proof.Machine

/-! ### Patrols -/

/-- Line of a channel as a line of the DRAM tier (R249, R251): partition, unit of 4 KiB and offset. -/
def lineOf (ch i : Nat) : Nat := (ch / 6) * 2 ^ 34 + ((i / 64) * 6 + ch % 6) * 64 + i % 64

def Block.modChan (b : Block) (ch : Nat) (f : Chan → Chan) : Block :=
  { b with dram := { b.dram with chans := SMap.put b.dram.chans ch (f (SMap.get {} b.dram.chans ch)) } }

/-- Lines of a channel: 96 GiB (R263). -/
def chanLines : Nat := 1610612736

/-- A channel's patrol has read a line (R263): it goes on from there, and a pass ends with the last line. Where the line lies
before the one due, a pass has ended in between and the lines in between were clean (DESIGN CHOICE: the row names the line). -/
def Block.scrubTo (b : Block) (ch line : Nat) : Block :=
  let old := (SMap.get ({} : Chan) b.dram.chans ch).scrubAt
  let b := if line < old then b.emit (dramIsl ch) 0x0303 0xFF 0 ch else b
  if line + 1 = chanLines then (b.modChan ch (fun c => { c with scrubAt := 0 })).emit (dramIsl ch) 0x0303 0xFF 0 ch
  else b.modChan ch (fun c => { c with scrubAt := line + 1 })

/-- DRAM_PATROL_SCRUB (R263, R264, R266): a corrected word is counted, an uncorrectable line becomes poisoned. -/
def Block.dramPatrolScrub (b : Block) (ch line : Nat) (f : Finding) : Block :=
  let p := ch / 6
  if 24 ≤ ch ∨ chanLines ≤ line ∨ !b.getisUp ∨ (b.part p).state ≠ 0 then b
  else
    let l := lineOf ch line
    let arg := ch + l * 2 ^ 16
    let b := b.scrubTo ch line
    match f with
    | .clean => b
    | .corrected =>
      let b := (b.modChan ch (fun c => { c with corrected := c.corrected + 1 })).modPart p (·.countCorrected b.time.keeper)
      b.emit (dramIsl ch) 0x0300 0xFF 0 arg
    | .uncorrectable =>
      let b := (b.modChan ch (fun c => { c with uncorr := c.uncorr + 1 })).modPart p (fun t => { t with uncorr := t.uncorr + 1 })
      let b := { b with dram := { b.dram with poison := SSet.insert b.dram.poison l, fails := SMap.set 0 b.dram.fails l 0 } }
      b.emit (dramIsl ch) 0x0302 0xFF 0 arg

def execDramPatrolScrub (channel line : Nat) (finding : Finding) (s : State) : Host.Outcome State Fault Refusal :=
  s.run (·.dramPatrolScrub channel line finding)

/-- The 16-byte words of a granule of 64 bytes. -/
def granuleWords (g : Nat) : List Nat := [4 * g, 4 * g + 1, 4 * g + 2, 4 * g + 3]

/-- SCRATCHPAD_PATROL_SWEEP (R151, R456): a granule of a core's scratchpad or its tile's buffer. The row names no word of it:
an uncorrectable granule is poisoned whole. -/
def Block.scratchpadPatrolSweep (b : Block) (core : Nat) (tile : Bool) (g : Nat) (f : Finding) : Block :=
  if !b.coreUp core then b
  else
    let p := partOf core
    let isl := if tile then fabIsl p else arrIsl core
    match f with
    | .clean => b
    | .corrected => (b.modPart p (·.countCorrected b.time.keeper)).emit isl 0x0600 0xFF 0 (isl + p * 2 ^ 16 + 2 ^ 32)
    | .uncorrectable =>
      let b := b.modPart p (fun t => { t with
        uncorr := t.uncorr + 1, tilePoison := if tile then (granuleWords g).foldl SSet.insert t.tilePoison else t.tilePoison })
      if tile then b else b.modCore core (fun k => { k with poison := (granuleWords g).foldl SSet.insert k.poison })

def execScratchpadPatrolSweep (core : Nat) (tile : Bool) (granule : Nat) (finding : Finding) (s : State) :
    Host.Outcome State Fault Refusal := s.run (·.scratchpadPatrolSweep core tile granule finding)

/-! ### The reset begins (R461 steps 1–4) -/

/-- Contexts of a partition. -/
def Block.ctxsOf (b : Block) (part : Nat) : List Nat := (List.range 64).filter (fun c => (b.ctx c).state != 0 && (b.ctx c).part == part)

/-- Cores of a partition. -/
def coresOf (part : Nat) : List Nat := (List.range 4).map (fun i => 4 * part + i)

/-- Islands of a tile with its DRAM controllers (R11). -/
def islandsOf (part : Nat) : List Nat :=
  (coresOf part).map arrIsl ++ (coresOf part).map movIsl ++ [fabIsl part] ++ (List.range 6).map (fun i => dramIsl (6 * part + i))

/-- A trigger is counted toward retirement (R465): 0 CONTROL, 1 HANG, 2 HEARTBEAT_LOST, 3 abort escalation, 4 DIMM power,
5 operator request, 6 failed reset. -/
def triggerCounts (t : Nat) : Bool := t == 0 || t == 2 || t == 4 || t == 6

/-- A record of the reset machinery (R469). -/
def Block.resetTrace (b : Block) (event part trigger : Nat) : Block :=
  b.emit hubIsl event 0xFF 0 (fabIsl part + part * 2 ^ 16 + trigger % 256 * 2 ^ 20)

/-- Final status of an entry that a reset ends (R365, R370, R461 step 2). -/
def resetStatus (e : Entry) : Nat := if e.status ≠ 0 then e.status else if e.held then stEscalated else stReset

/-- A context's open step is dropped and its accepted entries complete (R461 step 2). -/
def Block.resetCtx (b : Block) (ctx : Nat) : Block :=
  let x := b.ctx ctx
  let b := if x.step = .waiting ∨ x.step = .opened then b.retireStep ctx 4
    else if x.step = .dropping then b.modCtx ctx (fun x => { x with dropWhy := 4 }) else b
  let b := b.floeDiscard ctx
  let endSt := (b.ctx ctx).stepEndStatus
  let b := b.closeEntries ctx (fun _ => true) resetStatus
  let b := b.modCtx ctx (fun x => { x with attn := [], parked := 0 })
  (b.settleStep ctx (b.ctx ctx).endOf.isSome endSt).riseDone ctx

/-- The messages that carry an abort under way reply ABORT_ESCALATED, and their remaining work waits for the reset
(R323, R370). A revoke takes effect at once (R331). -/
def Block.escalateOps (b : Block) (part : Nat) (ids : List Nat) : Block :=
  (List.range 65).foldl (fun b page => match (b.mbox page).busy with
    | none => b
    | some o =>
      if !o.aborts.any (fun i => ids.contains i) then b
      else
        let b := (b.mbReply page o.msg stEscalated []).modMbox page (fun x => { x with busy := none })
        if o.opcode = 0x0306 then (b.revoke o.ctx (fld o.payload 0 1)).mbNotice page 0x0306 o.tag o.ctx stOK []
        else b.modMbox page (fun x => { x with after := x.after ++ [{ o with aborts := [], parts := [part], replied := true }] })) b

/-- What a core keeps through a reset: bindings, shares, quantum and its operating point (R392, R461 step 7). Its request
numbers run on. -/
def Core.afterReset (k : Core) : Core :=
  { binds := k.binds.map (fun x => { x with params := [], paramBad := [], resident := [] }), shares := k.shares, quantum := k.quantum,
    quantumTo := k.quantumTo, point := k.point, pointTo := k.pointTo, reqCtr := k.reqCtr, issueCtr := k.issueCtr }

/-- Records buffered in a tile's islands are dropped and counted (R43). -/
def Block.dropRecords (b : Block) (part : Nat) : Block :=
  let mine (i : Nat) : Bool := (islandsOf part).contains i
  let g := b.ring part
  let b := { b with treleb := { b.treleb with reqs := b.treleb.reqs.filter (fun q => match q.kind with
    | .trace _ i => !mine i
    | _ => true) } }
  let b := b.setRing part { g with wait := g.wait.filter (fun w => !mine w.1) }
  (g.wait.filter (fun w => mine w.1)).foldl (fun b _ => b.traceDrop part) b

/-- Work of the hub for a partition under reset ends (R312, R424, R435, R461 step 3): group entries, reassembly, packets
and faults of its streams, invalidations, migrations, and the mover reads over Treleb. -/
def Block.resetHub (b : Block) (part : Nat) : Block :=
  let mineW (w : Nat) : Bool := match b.windowOwner w with | some c => (b.ctx c).part == part | none => false
  let b := { b with weave := { b.weave with
    groups := b.weave.groups.filter (fun g => !mineW g.window)
    encs := b.weave.encs.filter (fun e => !mineW e.pkt.window) } }
  let b := (coresOf part).foldl (fun b c => (List.range 4).foldl (fun b m => b.unpark c m) b) b
  let mineC (c : Nat) : Bool := (coresOf part).contains c
  let b := b.modFaults (fun q => { q with migrations := q.migrations.filter (fun g => g.part != part) })
  { b with treleb := { b.treleb with reqs := b.treleb.reqs.filter (fun q => match q.kind with
    | .pieceRead c _ _ _ _ => !mineC c
    | .pieceWrite c _ _ _ => !mineC c
    | .transReq s _ _ _ => !mineC (s / 4)
    | .transAhead s _ _ _ => !mineC (s / 4)
    | .transFront p _ _ _ => p != part
    | _ => true) } }

/-- Installs and builds whose DRAM region lies in the partition will fail, and placed tensors await their recheck (R214,
R219, R237). -/
def Block.resetStores (b : Block) (part : Nat) : Block :=
  let hit (o : FirnOp) : Bool := o.kind == 0 && fld o.payload 17 1 == part && fld o.payload 32 8 != 0
  let b := b.modFirn (fun f => { f with
    op := f.op.map (fun o => if hit o ∧ o.doomed.isNone then { o with doomed := some 9 } else o)
    build := f.build.map (fun u => if fld u.payload 13 1 = part then { u with doomed := true } else u) })
  { b with dram := { b.dram with
    regions := b.dram.regions.map (fun r => if r.base / 2 ^ 40 = part ∧ !r.variant then { r with present := false } else r)
    chans := b.dram.chans.map (fun c => if c.1 / 6 = part then (c.1, { c.2 with trained := false }) else c) } }

/-- A partition takes a new key pair (R256, R257): two keys of 32 DRBG bytes. Its lines outside the system reserve are still
to be cleared. -/
def Block.takeKeys (b : Block) (part : Nat) : Block :=
  let f := b.draw
  let g := f.2.draw
  let b := g.2.modPart part (fun t => { t with keys := padTo 0#8 32 (Config.drbgBytes f.1) ++ padTo 0#8 32 (Config.drbgBytes g.1), newKeys := true })
  { b with sec := { b.sec with requests := b.sec.requests + 2 } }

/-- Every channel of a partition has trained. -/
def Block.allTrained (b : Block) (part : Nat) : Bool := (List.range 6).all (fun i => (SMap.get ({} : Chan) b.dram.chans (6 * part + i)).trained)

/-- Usable bytes of a partition's DRAM: 575 GiB (R251). -/
def dramBytes : Nat := 575 * 2 ^ 30

/-- Once the channels have trained under new keys, every line outside the system reserve is cleared, and the scrub restarts
(R257, R260, R267). -/
def Block.clearNew (b : Block) (part : Nat) : Block :=
  if !(b.part part).newKeys ∨ !b.allTrained part then b
  else
    let b := (List.range 6).foldl (fun b i => b.modChan (6 * part + i) (fun c => { c with scrubAt := 0 })) (b.dramClear (part * 2 ^ 40) dramBytes)
    b.modPart part (fun t => { t with newKeys := false })

/-- A partition takes a new key pair, and where its channels have trained its earlier contents are gone (R257). -/
def Block.newKeys (b : Block) (part : Nat) : Block := (b.takeKeys part).clearNew part

/-- A Rim record's event: stamped in the Rim's island and queued for the log (R483, R485). -/
def Block.rimLog (b : Block) (code part arg : Nat) : Block :=
  let sb := b.stamp rimIsl 0
  sb.2.log sb.1 code part rimIsl arg

/-- An update under way ends before it is done (R487, R490): IMAGE_VALID stays as it is, and the record's failure
reason is a free value. -/
def Block.updateLost (b : Block) : Block :=
  match b.rim.update with
  | none => b
  | some u =>
    let f := b.draw
    let b := { f.2 with rim := { f.2.rim with update := none } }
    b.rimLog 0x0805 0xFF (u.stage + (Config.choice f.1 % 255 + 1) * 2 ^ 8)

/-- The update staged in a partition ends (R487). -/
def Block.updateLostIn (b : Block) (part : Nat) : Block :=
  if b.rim.update.any (fun u => u.part == part) then b.updateLost else b

/-- A partition reset begins (R461); a second trigger joins the one under way (R468). -/
def Block.resetBegin (b : Block) (part trigger : Nat) : Block :=
  if 3 < part ∨ (b.part part).state ≠ 0 then b
  else
    let b := (b.dropRecords part).resetTrace 0x0606 part trigger
    let now := b.time.keeper
    let b := b.modPart part (fun t => { t with
      state := 1, resetStep := 1, resetAt := now, trigger := trigger, resets := t.resets + 1
      counted := if triggerCounts trigger then t.counted ++ [now] else t.counted })
    let ctxs := b.ctxsOf part
    let ids := (b.aborts.filter (fun a => ctxs.contains a.ctx)).map (·.id)
    let b := (b.aborts.filter (fun a => ids.contains a.id)).foldl (fun b a => b.emitStep 0x0505 a.ctx a.scope 0) b
    let b := { b with aborts := b.aborts.filter (fun a => !ids.contains a.id) }
    let b := ctxs.foldl (fun b c => b.resetCtx c) b
    let b := ctxs.foldl (fun b c => b.modCtx c (fun x => { x with
      resetHold := x.resetHold || x.state == 2, state := if x.state = 4 then 4 else 3 })) b
    let b := b.escalateOps part ids
    let b := (coresOf part).foldl (fun b c => b.bank c) b
    let b := ((b.resetHub part).resetStores part).updateLostIn part
    let b := (coresOf part).foldl (fun b c => b.modCore c (fun k => { k with
      seqs := [], cur := 0, kernels := [], waiting := [], units := [], array := [], vector := [], sfu := [], tagOps := [], movers := [],
      live := [], groups := [], hq := [] })) b
    let b := b.modPart part (fun t => { t with tqs := [], tlb := [], walks := [] })
    let b := if (b.part part).newKeys then b.newKeys part else b
    b.rerunWaiting

/-! ### The reset ends (R461 steps 5–8) -/

/-- The zeros of step 5: every store and register of the tile. -/
def Block.zeroTile (b : Block) (part : Nat) : Block :=
  let b := (coresOf part).foldl (fun b c => b.modCore c Core.afterReset) b
  b.modPart part (fun t => { t with tile := [], tilePoison := [], tqs := [], tlb := [], walks := [], snoop := [] })

/-- The stamp counters and the record numbers of the tile's islands start anew as it leaves reset (R43). -/
def Block.zeroIslands (b : Block) (part : Nat) : Block :=
  (islandsOf part).foldl (fun b i => b.setIsland i { b.island i with skew := 0, seq := 0 }) b

/-- A snoop of a line of the partition is outstanding (R450). -/
def Block.snoopOpen (b : Block) (part : Nat) : Bool := b.treleb.snoops.any (fun s => lineTile s.1 == part)

/-- TILE_RESET_RELEASE (R461 step 5, R43): it waits for outstanding snoops (R450). -/
def Block.tileResetRelease (b : Block) (part : Nat) : Block :=
  let t := b.part part
  if t.state ≠ 1 ∨ t.resetStep ≠ 1 ∨ b.snoopOpen part then b
  else
    let b := (b.advanceTo (t.resetAt + 11000000)).dropRecords part
    let b := ((b.zeroTile part).zeroIslands part).modPart part (fun t => { t with resetStep := 2 })
    b.emitEach (islandsOf part) 0x0703 0xFF 0 1

def execTileResetRelease (part : Nat) (s : State) : Host.Outcome State Fault Refusal := s.run (·.tileResetRelease part)

/-- Counted resets within 24 hours of powered time (R465). -/
def Block.recentResets (b : Block) (part : Nat) : Nat :=
  ((b.part part).counted.filter (fun t => decide (b.time.keeper < t + 86400000000000))).length

/-- The final completion writes of a context that ends: what waits is written in order, and the vector is raised where all of
it has landed (R344, R346). -/
def Block.flushDone (b : Block) (ctx : Nat) : Block :=
  let x := b.ctx ctx
  let r := x.doneQ.foldl (fun (r : Block × Bool) w =>
    if w.kind = 4 then (if r.2 then r.1.raiseVector x.vector else r.1, r.2)
    else
      let p := r.1.hostPut w.addr w.data
      (p.1, r.2 && p.2)) (b, true)
  r.1.modCtx ctx (fun x => { x with doneQ := [] })

/-- A context enters NONE (R327 steps 2–4, R464): the final completion word, its windows, bindings, cached translations,
grants, tune session and page. -/
def Block.endCtx (b : Block) (ctx : Nat) : Block :=
  let x := b.ctx ctx
  let b := { b with treleb := { b.treleb with reqs := b.treleb.reqs.filter (fun q => q.kind != ReqKind.done ctx) } }
  let b := ((b.flushDone ctx).hostPut x.doneAddr (natLe 8 x.doneSeq)).1
  let b := b.closeWindows (fun w => w.ctx == ctx)
  let b := ((b.boundCores ctx).foldl (fun b c => b.releaseRanges c ctx) b).dropContext ctx
  let m := b.mbox ctx
  let b := b.setMbox ctx { m with inq := [], outq := [], notices := [], tags := [], busy := none, after := [] }
  b.setCtx ctx {}

/-- The work that follows a message's abort, by opcode (R323): CTX_DESTROY, CORE_UNBIND, PARTITION_ASSIGN and the revoke of a
FORCE MODEL_REVOKE. -/
def Block.opRest (b : Block) (o : LongOp) : Block :=
  match o.opcode with
  | 0x0102 => b.endCtx o.ctx
  | 0x0202 => b.releaseCore (fld o.payload 0 1) o.ctx
  | 0x0203 => b.reassign o.payload
  | 0x0306 => b.revoke o.ctx (fld o.payload 0 1)
  | _ => b

/-- Operations whose remaining work waited for a partition's reset are done and reported (R323, R370). -/
def Block.afterOps (b : Block) (part : Nat) : Block :=
  (List.range 65).foldl (fun b page =>
    ((b.mbox page).after.filter (fun o => o.parts.contains part)).foldl (fun b o =>
      let b := b.modMbox page (fun x => { x with after := x.after.filter (fun y => y.tag != o.tag) })
      (b.opRest o).mbNotice page o.opcode o.tag o.ctx stOK []) b) b

/-- A partition is disabled (R464), and retired where `perm` (R465). -/
def Block.disable (b : Block) (part : Nat) (perm : Bool) : Block :=
  if 3 < part ∨ 2 ≤ (b.part part).state then b
  else
    let b := b.resetTrace 0x0608 part (b.part part).trigger
    let ctxs := b.ctxsOf part
    let b := ctxs.foldl (fun b c => b.resetCtx c) b
    let b := { b with aborts := b.aborts.filter (fun a => !ctxs.contains a.ctx) }
    let b := ((b.resetHub part).resetStores part).updateLostIn part
    let b := b.modPart part (fun t => { t with state := 2, resetStep := 0, beats := false })
    let b := b.afterOps part
    let b := (b.ctxsOf part).foldl (fun b c => b.endCtx c) b
    let b := ((b.dropRecords part).zeroTile part).rerunWaiting
    let bad := b.modelsIn part
    let b := bad.foldl (fun b m => if (b.model m).state = 4 then b else b.modelState m 4) b
    if !perm then b
    else
      let b := b.modPart part (fun t => { t with state := 3 })
      let b := { b with rim := { b.rim with retired := SSet.insert b.rim.retired part } }
      b.resetTrace 0x0609 part (b.part part).trigger

/-- Zeroisation and unlocking that wait for every partition's reset (R504, R506). -/
def Block.anyResetting (b : Block) : Bool := (List.range 4).any (fun p => (b.part p).state == 1)

/-- Every model is removed without regard to grants (R504). -/
def Block.removeAll (b : Block) : Block :=
  let b := b.firn.models.foldl (fun b m => b.finishRemoval m.1) b
  b.ctxs.foldl (fun b c => b.modCtx c.1 (fun x => { x with grants := [] })) b

/-- ZEROISE and DEBUG_UNLOCK reply once the resets have ended (R504, R506): DECOMMISSION removes every model and ends
the module's identity. -/
def Block.zeroEnd (b : Block) : Block :=
  match b.sec.zero with
  | none => b
  | some z =>
    if b.anyResetting then b
    else
      let b := if z.kind = 1 then
          let b := b.removeAll
          { b with sec := { b.sec with decommissioned := true } }
        else b
      ({ b with sec := { b.sec with zero := none } }).mbFinish 64 stOK []

/-- A partition serves again (R461 step 8). -/
def Block.serveAgain (b : Block) (part : Nat) : Block :=
  let now := b.time.keeper
  let b := b.modPart part (fun t => { t with
    state := 0, resetStep := 0, beatAt := now, wdMs := if t.wdNext = 0 then t.wdMs else t.wdNext, wdNext := 0 })
  let b := (b.ctxsOf part).foldl (fun b c => b.modCtx c (fun x => { x with
    state := if x.state = 3 then (if x.resetHold then 2 else 1) else x.state, resetHold := false })) b
  let b := b.resetTrace 0x0607 part (b.part part).trigger
  let b := (b.afterOps part).rerunWaiting
  (b.ctxsOf part).foldl (fun b c => (b.sendDone c).mbDrain c) b

/-- Walks that waited for a table of a resetting partition did not count meanwhile (R303, R458). -/
def Block.resumeWalks (b : Block) (part : Nat) : Block :=
  let t0 := (b.part part).resetAt
  (List.range 16).foldl (fun b c => (List.range 4).foldl (fun b m =>
    let v := (b.core c).mover m
    match v.park with
    | .walk va _ => (match (b.streamWalk c v.parkCtx va).1 with
      | .wait => b.modCore c (fun k =>
          let p := SMap.get 0 k.movProg m
          { k with movProg := SMap.put k.movProg m (p + (b.time.keeper - max t0 p)) })
      | _ => b)
    | _ => b) b) b

/-- PARTITION_RESET_END (R461 step 8, R465): the partition serves again, or is retired at its third counted reset. -/
def Block.partitionResetEnd (b : Block) (part : Nat) : Block :=
  let t := b.part part
  if t.state ≠ 1 ∨ t.resetStep ≠ 2 ∨ !b.allTrained part then b
  else
    let b := b.resumeWalks part
    let b := if 3 ≤ b.recentResets part then b.disable part true else b.serveAgain part
    b.zeroEnd

def execPartitionResetEnd (part : Nat) (s : State) : Host.Outcome State Fault Refusal := s.run (·.partitionResetEnd part)

/-- A reset fails (R461, R464, R465): it counts as a failed reset unless its trigger was counted. -/
def Block.failReset (b : Block) (part : Nat) : Block :=
  let b := b.modPart part (fun t => { t with counted := if triggerCounts t.trigger then t.counted else t.counted ++ [b.time.keeper] })
  (b.disable part (decide (3 ≤ b.recentResets part))).zeroEnd

/-- RESET_FAILED (R461). -/
def Block.resetFailed (b : Block) (part : Nat) : Block :=
  if (b.part part).state ≠ 1 then b else (b.advanceTo ((b.part part).resetAt + 4000000000)).failReset part

def execResetFailed (part : Nat) (s : State) : Host.Outcome State Fault Refusal := s.run (·.resetFailed part)

/-! ### Watchdogs, heartbeats and errors -/

/-- Progress times of the engines of a kind that hold work and count (R458): 0 sequencers, 1 arrays, 2 vector engines and
SFUs, 3 movers, 4 DRAM controllers, 5 codec lanes. Accesses of the DRAM tier end within their step, so its controllers
never hold work here. -/
def Block.timers (b : Block) (part engine : Nat) : List (Nat × Nat) :=
  (coresOf part).flatMap (fun c =>
    let k := b.core c
    match engine with
    | 0 => if k.busy then [(arrIsl c, k.seqProg)] else []
    | 1 => if k.array.isEmpty then [] else [(arrIsl c, k.arrProg)]
    | 2 => (if k.vector.isEmpty then [] else [(arrIsl c, k.vecProg)]) ++ (if k.sfu.isEmpty then [] else [(arrIsl c, k.sfuProg)])
    | 3 => (List.range 4).flatMap (fun m =>
        let v := k.mover m
        let stuck : Bool := match v.park with
          | .fault id => v.queue.head?.map (·.id) == some v.parkDesc && b.faults.pending.any (fun f => f.id == id && (f.written || f.noRoom))
          | .walk va _ => (match (b.streamWalk c v.parkCtx va).1 with | .wait => true | _ => false)
          | _ => false
        if v.queue.isEmpty || stuck then [] else [(movIsl c, SMap.get 0 k.movProg m)])
    | 5 => (List.range 4).flatMap (fun m => (k.mover m).queue.flatMap (fun d =>
        if d.decodes then (d.pieces.filter (fun p => p.state == .reading)).map (fun p => (fabIsl part, p.at_)) else []))
    | _ => [])

/-- WATCHDOG (R458, R459, R469). -/
def Block.watchdog (b : Block) (part engine : Nat) : Block :=
  if 3 < part ∨ (b.part part).state ≠ 0 ∨ !b.getisUp then b
  else match (b.timers part engine).foldl (fun (m : Option (Nat × Nat)) t => match m with
      | none => some t
      | some u => if t.2 < u.2 then some t else some u) none with
    | none => b
    | some t =>
      let b := b.advanceTo (t.2 + (b.part part).wdMs * 1000000)
      let b := b.emit hubIsl 0x0604 0xFF 0 (t.1 + part * 2 ^ 16 + engine * 2 ^ 20)
      (b.modPart part (fun p => { p with expiries := p.expiries + 1 })).resetBegin part 1

def execWatchdog (part engine : Nat) (s : State) : Host.Outcome State Fault Refusal := s.run (·.watchdog part engine)

/-- HEARTBEAT (R460). -/
def Block.heartbeat (b : Block) (part : Nat) : Block :=
  if 3 < part ∨ (b.part part).state ≠ 0 ∨ !b.getisUp then b else b.modPart part (fun t => { t with beatAt := b.time.keeper, beats := true })

def execHeartbeat (part : Nat) (s : State) : Host.Outcome State Fault Refusal := s.run (·.heartbeat part)

/-- HEARTBEAT_LOST (R460): 10 ms pass without a heartbeat. -/
def Block.heartbeatLost (b : Block) (part : Nat) : Block :=
  if 3 < part ∨ (b.part part).state ≠ 0 ∨ !b.getisUp then b
  else ((b.advanceTo ((b.part part).beatAt + 10000000)).resetTrace 0x0605 part 0).resetBegin part 2

def execHeartbeatLost (part : Nat) (s : State) : Host.Outcome State Fault Refusal := s.run (·.heartbeatLost part)

/-- CONTROL_UNCORRECTABLE (R455). -/
def Block.controlUncorrectable (b : Block) (part : Nat) : Block :=
  if 3 < part ∨ (b.part part).state ≠ 0 ∨ b.halted then b else (b.resetTrace 0x0603 part 0).resetBegin part 0

def execControlUncorrectable (part : Nat) (s : State) : Host.Outcome State Fault Refusal := s.run (·.controlUncorrectable part)

/-- Tiles and ports stop (R467, R512): the companion sees the Treleb link down, MOD_READY falls and an update ends
(R487, R490, R520). -/
def Block.stopAll (b : Block) : Block :=
  let b := b.updateLost
  { b with
    halted := true
    power := { b.power with ready := false }
    rim := { b.rim with rings := none }
    treleb := { b.treleb with state := 0 }
    weave := { b.weave with ports := b.weave.ports.map (fun p => (p.1, { p.2 with state := if p.2.state = 1 ∨ p.2.state = 2 then 3 else p.2.state })) } }

/-- The module halts (R467, R474). -/
def Block.halt_ (b : Block) (cause : Nat) : Block :=
  if b.halted then b
  else
    let b := (b.emit hubIsl 0x060A 0xFF 0 (hubIsl + 0xF * 2 ^ 16 + cause % 256 * 2 ^ 20)).stopAll
    { b with rim := { b.rim with state := 3 }, power := { b.power with step := 0 } }

/-- HUB_FAULT (R455, R467). -/
def execHubFault (cause : Nat) (s : State) : Host.Outcome State Fault Refusal :=
  s.run (fun b => if b.power.state = 3 then b.halt_ cause else b)

/-! ### Ends of aborts -/

/-- A finished abort lets the message that waits for it go on (R323, R369). -/
def Block.abortOver (b : Block) (id : Nat) : Block :=
  (List.range 65).foldl (fun b page => match (b.mbox page).busy with
    | none => b
    | some o =>
      if !o.aborts.contains id then b
      else
        let o := { o with aborts := o.aborts.filter (· != id) }
        if !o.aborts.isEmpty then b.modMbox page (fun x => { x with busy := some o })
        else ((b.modMbox page (fun x => { x with busy := some o })).opRest o).mbFinish page stOK []) b

/-- ABORT_DONE (R369 step 6): the abort and those that joined it complete together (R373). -/
def Block.abortDone (b : Block) (id : Nat) : Block :=
  match b.aborts.find? (fun a => a.id == id) with
  | none => b
  | some a =>
    let mates := b.aborts.filter (fun c => c.id == id || a.joins c)
    if !mates.all b.abortQuiet then b
    else
      let b := mates.foldl (fun b c => b.finishAbort c) b
      mates.foldl (fun b c => b.abortOver c.id) b

def execAbortDone (abort : Nat) (s : State) : Host.Outcome State Fault Refusal := s.run (·.abortDone abort)

/-- ABORT_ESCALATE (R370): 1 ms after acceptance the partition that holds the work is reset. -/
def Block.abortEscalate (b : Block) (id : Nat) : Block :=
  match b.aborts.find? (fun a => a.id == id) with
  | none => b
  | some a => (b.advanceTo (a.t0 + 1000000)).resetBegin (b.ctx a.ctx).part 3

def execAbortEscalate (abort : Nat) (s : State) : Host.Outcome State Fault Refusal := s.run (·.abortEscalate abort)

end Sys2Proof.Machine
end

