-- ==== Sys2Proof/Machine/Getis.lean ====
section
/-!
DEFINITION. Getis' ring and contexts: doorbells, fetching and dispatch (R314, R335–R343), LAUNCH, COPY and events (R96–R99,
R338–R342), context messages (R326–R330, R347), tune sessions (R329) and trace rings (R38, R42, R333).
-/
namespace Sys2Proof.Machine

/-! ### Doorbells and fetching (R314, R335, R343) -/

/-- DOORBELL_WRITE (R314, R343): the latch rises, or a gap slot is read again. -/
def Block.doorbellWrite (b : Block) (ctx : Nat) (v : W64) : Block :=
  let x := b.ctx ctx
  if 64 ≤ ctx ∨ !b.mmioOn ∨ x.state = 0 then b
  else if x.latch < v.toNat then
    let b := b.modCtx ctx (fun x => { x with latch := v.toNat, wake := true, reread := x.gap })
    b.emitCtx (fabIsl x.part) 0x0001 ctx v.toNat
  else if x.gap then b.modCtx ctx (fun x => { x with wake := true, reread := true })
  else b

def execDoorbellWrite (ctx : Nat) (value : W64) (s : State) : Host.Outcome State Fault Refusal := s.run (·.doorbellWrite ctx value)

/-- A ring entry breaks neither R9 nor R337, nor sets RECORD without a record ring (R338). -/
def entryOk (recLog2 : Nat) (raw : List Byte) : Bool :=
  let op := fld raw 8 1
  let fl := fld raw 9 1
  decide (1 ≤ op ∧ op ≤ 8 ∧ fl ≤ 7) && rsv raw 10 6 && !(bit fl 1 && recLog2 == 0) && (op != 6 || decide (fld raw 16 1 ≤ 1))

/-- Fetching stops at a gap (R335). -/
def Block.ringGap (b : Block) (ctx found : Nat) : Block :=
  let x := b.ctx ctx
  let b := b.modCtx ctx (fun x => { x with gap := true, foundSeq := found, skipRun := 0 })
  let b := b.emitCtx (fabIsl x.part) 0x0004 ctx (x.last + 1)
  b.mbNotice ctx 0x0104 0 ctx stGap (natLe 8 (x.last + 1) ++ natLe 8 found)

/-- A slot cannot be read (R348): fetching stops as at a gap. -/
def Block.ringLost (b : Block) (ctx addr : Nat) : Block :=
  (b.modCtx ctx (fun x => { x with gap := true, foundSeq := 0 })).faultNotice 3 ctx addr ((b.ctx ctx).last + 1)

/-- Read and handle the slot at FETCH_SLOT (R335). -/
def Block.fetchSlot (b : Block) (ctx : Nat) : Block :=
  let x := b.ctx ctx
  let n := 2 ^ x.ringLog2
  let addr := x.ringBase + 64 * x.fetchSlot
  b.hostRead addr 64 (fun b => b.ringLost ctx addr) (fun raw =>
    let seq := fld raw 0 8
    if seq = x.last + 1 then
      b.modCtx ctx (fun x => { x with
        last := seq, fetchSlot := (x.fetchSlot + 1) % n, skipRun := 0, gap := false, foundSeq := 0
        entries := x.entries ++ [⟨seq, raw, !entryOk x.recLog2 raw, .accepted, 0, 0, [], 0, false, false⟩] })
    else if seq ≤ x.last then
      let b := b.modCtx ctx (fun x => { x with
        skipped := x.skipped + 1, skipRun := x.skipRun + 1, fetchSlot := (x.fetchSlot + 1) % n, gap := false, foundSeq := 0 })
      let b := b.emitCtx (fabIsl x.part) 0x0003 ctx seq
      let next := x.ringBase + 64 * ((x.fetchSlot + 1) % n)
      if n ≤ x.skipRun + 1 then b.hostRead next 64 (fun b => b.ringLost ctx next) (fun d => b.ringGap ctx (fld d 0 8)) else b
    else b.ringGap ctx seq)

/-- Up to `n` slots of one pass (R335, R343); `first` while a gap slot is read again. -/
def Block.fetchN (b : Block) (ctx : Nat) (first : Bool) : Nat → Block
  | 0 => b
  | n + 1 =>
    let x := b.ctx ctx
    let waiting := (x.entries.filter (fun e => e.state == .accepted)).length
    if (x.gap ∧ !first) ∨ x.latch ≤ x.last ∨ 1024 ≤ waiting then b
    else (b.fetchSlot ctx).fetchN ctx false n

/-- RING_FETCH (R335, R343): one read of up to 64 slots; what a step takes acts at once (R357, R366). -/
def Block.ringFetch (b : Block) (ctx : Nat) : Block :=
  if 64 ≤ ctx ∨ !b.serves ctx then b
  else
    let x := b.ctx ctx
    if (x.gap ∧ !x.reread) ∨ x.latch ≤ x.last then b.modCtx ctx (fun x => { x with wake := false, reread := false })
    else
      let read := (b.hostGet (x.ringBase + 64 * x.fetchSlot) 64).isSome
      let b := (b.modCtx ctx (fun x => { x with wake := false, reread := false })).cross trelebIsl (fabIsl x.part)
      let b := b.fetchN ctx x.gap 64
      let b := if read then b.emitCtx (fabIsl x.part) 0x0002 ctx (b.ctx ctx).last else b
      (b.nested ctx).drainStep ctx

def execRingFetch (ctx : Nat) (s : State) : Host.Outcome State Fault Refusal := s.run (·.ringFetch ctx)

/-! ### Dispatch (R340, R355, R359, R360) -/

/-- An entry that counts as completed for dispatch (R358). -/
def Entry.past (e : Entry) : Bool := e.state == .finished || e.state == .completed

/-- The next accepted entry may be dispatched now. -/
def Ctx.mayDispatch (x : Ctx) (e : Entry) : Bool :=
  let before := x.entries.filter (fun y => decide (y.seq < e.seq))
  !e.held && (x.step == .none || (x.step == .opened && x.inStep e)) &&
    before.all (fun y => y.op != 5 || y.refused || y.past) && (!bit e.flags 2 || before.all Entry.past) &&
    (e.op != 6 || e.refused || before.all (fun y => y.state == .completed)) && (e.op != 7 || e.refused || before.all Entry.past)

/-- DETAIL of an entry that R338 refuses (R290, R345). -/
def refusedDetail (op stepNo : Nat) : List Byte :=
  if op = 3 then attnDetail 0xFFFF 0xFFFFFFFF else if op = 6 ∨ op = 7 then stepDetail stepNo else []

/-- An entry is dispatched. -/
def Block.dispatched (b : Block) (ctx : Nat) (e : Entry) : Block :=
  let b := b.modCtx ctx (fun x => x.modEntry e.seq (fun e => { e with state := .dispatched, step := x.curStep }))
  b.emitCtx (fabIsl (b.ctx ctx).part) 0x0005 ctx e.seq

/-- An ATTN is dispatched with its block as it stands now (R282). -/
def Block.dispatchAttn (b : Block) (ctx : Nat) (e : Entry) : Block :=
  let take (b : Block) (blk : Except Nat (List Byte)) : Block :=
    (b.dispatched ctx e).modCtx ctx (fun x => { x with attn := x.attn ++ [attnTaken e.seq blk] })
  b.feThrough ctx (fld e.raw 16 8) 128 (fun b st => take b (.error st)) (fun b p => take b (.ok p))

/-- DISPATCH (R340): the next accepted entry; one that R338 refuses completes at its turn. -/
def Block.dispatch (b : Block) (ctx : Nat) : Block :=
  let x := b.ctx ctx
  if !b.serves ctx ∨ x.state ≠ 1 then b
  else match x.entries.find? (fun e => e.state == .accepted) with
    | none => b
    | some e =>
      if !x.mayDispatch e then b
      else if e.refused then b.finishEntry ctx e.seq stInvalid (refusedDetail e.op x.stepNo)
      else if e.op = 3 then b.dispatchAttn ctx e
      else b.dispatched ctx e

def execDispatch (ctx : Nat) (s : State) : Host.Outcome State Fault Refusal := s.run (·.dispatch ctx)

/-! ### LAUNCH (R96–R99) -/

/-- Cores of a CORE_MASK. -/
def maskCores (m : Nat) : List Nat := (List.range 16).filter (fun c => bit m c)

/-- An image header obeys R96. -/
def headerOk (h : List Byte) : Bool :=
  let n := fld h 0 4
  decide (1 ≤ n ∧ n ≤ 32768) && decide (fld h 4 4 < n) && fld h 8 1 == 2 && decide (fld h 9 1 ≤ 1) && decide (fld h 10 2 ≤ 4096) &&
    fld h 10 2 % 8 == 0 && rsv h 12 4 && rsv h 48 16

/-- Instruction words of an image. -/
def imageWords : (n : Nat) → List Byte → List W128
  | 0, _ => []
  | n + 1, d => BitVec.ofNat 128 (leNat (d.take 16)) :: imageWords n (d.drop 16)

/-- The image is resident in a core's program range (R97). -/
def Block.residentOn (b : Block) (ctx core : Nat) (digest : List Byte) : Bool :=
  match (b.core core).bind? ctx with
  | some bd => bd.resident.any (fun r => r.digest == digest)
  | none => false

/-- The words of an image resident on a core. -/
def Block.residentWords (b : Block) (ctx core : Nat) (digest : List Byte) : List W128 :=
  match ((b.core core).bind? ctx).bind (fun bd => bd.resident.find? (fun r => r.digest == digest)) with
  | some r => (List.range r.words).map (fun i => SMap.get 0#128 (b.core core).prog (r.base + i))
  | none => []

/-- The program range of every core in a list holds `n` words (R97). -/
def Block.imageFits (b : Block) (ctx n : Nat) (cores : List Nat) : Bool :=
  cores.all (fun c => match (b.core c).bind? ctx with | some bd => decide (n ≤ bd.progUnits * 2048) | none => false)

/-- An entry ends because an access of the front end failed (R341, R455). -/
def Block.accessFailed (b : Block) (ctx seq : Nat) (detail : List Byte) (st : Nat) : Block :=
  let x := b.ctx ctx
  (if st = stData then b.poisonSeen (fabIsl x.part) x.part ctx x.curStep else b).finishEntry ctx seq st detail

/-- The kernel waits on every named core (R99, R100). -/
def Block.launchWaits (b : Block) (ctx : Nat) (e : Entry) (cores : List Nat) (h : List Byte) (w : List W128) (p : List Byte) : Block :=
  let step := (b.ctx ctx).curStep
  let kid := b.kidCtr
  let b := { b with kidCtr := kid + 1 }
  let b := cores.zipIdx.foldl (fun b ci => b.modCore ci.1 (fun k => { k with
    waiting := k.waiting ++ [⟨ctx, e.seq, kid, step, ci.2, cores.length, h, w, p, bit e.flags 2⟩] })) b
  b.modCtx ctx (fun x => x.modEntry e.seq (fun e => { e with state := .started, stoch := bit (fld h 9 1) 0 }))

/-- The words of a LAUNCH (R97): those in the program store where every named core holds the image, and else those read and
checked against the digest. -/
def Block.launchImage (b : Block) (ctx : Nat) (e : Entry) (cores : List Nat) (h : List Byte) (go : Block → List W128 → Block) : Block :=
  let dig := (h.drop 16).take 32
  if cores.all (fun c => b.residentOn ctx c dig) then go b (b.residentWords ctx (cores.headD 0) dig)
  else b.feThrough ctx (fld e.raw 16 8 + 64) (16 * fld h 0 4) (fun b st => b.accessFailed ctx e.seq [] st) (fun b d =>
    if sha256 d = dig then go b (imageWords (fld h 0 4) d) else b.finishEntry ctx e.seq stInvalid [])

/-- The parameter block of a LAUNCH (R98). -/
def Block.launchParams (b : Block) (ctx : Nat) (e : Entry) (n : Nat) (go : Block → List Byte → Block) : Block :=
  if n = 0 then go b []
  else b.feThrough ctx (fld e.raw 24 8) n (fun b st => b.accessFailed ctx e.seq [] st) go

/-- LAUNCH (R96–R99, R338): the image and parameters are read and the kernel waits on every named core. -/
def Block.launch (b : Block) (ctx : Nat) : Block :=
  b.ringTurn ctx 1 (fun b e =>
    let cores := maskCores (fld e.raw 32 2)
    let img := fld e.raw 16 8
    if cores.isEmpty ∨ cores.any (fun c => ((b.core c).bind? ctx).isNone) ∨ img % 64 ≠ 0 then b.finishEntry ctx e.seq stInvalid []
    else b.feThrough ctx img 64 (fun b st => b.accessFailed ctx e.seq [] st) (fun b h =>
      let pn := fld h 10 2
      if !headerOk h ∨ !b.imageFits ctx (fld h 0 4) cores ∨ (pn ≠ 0 ∧ fld e.raw 24 8 % 8 ≠ 0) ∨ (bit (fld h 9 1) 0 ∧ (b.ctx ctx).tune.isNone)
      then b.finishEntry ctx e.seq stInvalid []
      else b.launchImage ctx e cores h (fun b w => b.launchParams ctx e pn (fun b p => b.launchWaits ctx e cores h w p))))

def execLaunch (ctx : Nat) (s : State) : Host.Outcome State Fault Refusal := s.run (·.launch ctx)

/-! ### COPY (R338, R340) -/

/-- DETAIL of a refused COPY (R345): class 4, PC 0. -/
def copyReport (core movId st detail : Nat) : List Byte :=
  ({ status := st, core := core, cls := 4, precise := true, other := false, pc := 0, detail := detail, movId := movId, block := 0 } : StopReport).bytes

/-- A core is free of the context's earlier work (R100, R194, R288), and the context is not under abort (R391). -/
def Block.coreFree (b : Block) (ctx core seq : Nat) : Bool :=
  let k := b.core core
  !k.runs ctx && k.waiting.all (fun w => w.ctx != ctx || decide (seq < w.seq)) && !(b.ctx ctx).holdsCore core seq && !b.aborting ctx

/-- A COPY is refused at its core and mover, or its mover may take it. -/
def Block.copyTurn (b : Block) (ctx : Nat) (e : Entry) : Bool :=
  let core := fld e.raw 24 1
  let m := fld e.raw 25 1
  decide (16 ≤ core ∨ 3 < m) || ((b.core core).bind? ctx).isNone ||
    (b.coreFree ctx core e.seq && decide (((b.core core).mover m).queue.length < 64))

/-- The descriptor of a COPY enters its mover's queue as a kernel of one instruction, which clears the swap bits as every
launch does (R194, R201). -/
def Block.copyTaken (b : Block) (ctx core m : Nat) (e : Entry) (bd : Binding) (raw : List Byte) : Block :=
  let step := (b.ctx ctx).curStep
  let kid := b.kidCtr
  let movId := fld e.raw 26 2
  let k := (b.core core).clearSwap bd
  let d := newDesc ctx kid step 0 movId raw k.swap
  match b.descRefusal core bd d with
  | some r => b.finishEntry ctx e.seq r.1 (copyReport core movId r.1 r.2)
  | none =>
    let b := { b with kidCtr := kid + 1 }.cross (fabIsl (partOf core)) (movIsl core)
    let ker : Kernel := ⟨kid, ctx, e.seq, step, true, false, 0, 0, .halted, {}, 0, false⟩
    let b := b.setCore core (({ k.dropPrefetch (fun _ => true) with kernels := k.kernels ++ [ker] }).acceptAt b.time.keeper m d)
    let b := b.modCtx ctx (fun x => x.modEntry e.seq (fun e => { e with state := .started }))
    b.emit (movIsl core) 0x0100 ctx step (d.arg m + d.units % 2 ^ 24 * 2 ^ 24)

/-- COPY (R338, R340): the first dispatched one whose core and mover may take it. -/
def Block.copy (b : Block) (ctx : Nat) : Block :=
  b.ringFree ctx 2 (b.copyTurn ctx) (fun b e =>
    let addr := fld e.raw 16 8
    let core := fld e.raw 24 1
    let m := fld e.raw 25 1
    match (if core < 16 then (b.core core).bind? ctx else none) with
    | none => b.finishEntry ctx e.seq stInvalid []
    | some bd =>
      if 3 < m ∨ addr % 64 ≠ 0 then b.finishEntry ctx e.seq stInvalid []
      else b.feThrough ctx addr 64 (fun b st => b.accessFailed ctx e.seq [] st) (fun b main =>
        b.feThrough ctx addr (descLen main) (fun b st => b.accessFailed ctx e.seq [] st) (fun b raw => b.copyTaken ctx core m e bd raw)))

def execCopy (ctx : Nat) (s : State) : Host.Outcome State Fault Refusal := s.run (·.copy ctx)

/-! ### Events (R342) -/

/-- An event of a context. -/
def Ctx.event (x : Ctx) (n : Nat) : W64 := SMap.get 0#64 x.events n
def Block.setEvent (b : Block) (ctx n : Nat) (v : W64) : Block := b.modCtx ctx (fun x => { x with events := SMap.set 0#64 x.events n v })

/-- EVENT_RECORD (R340, R342): once every earlier entry has completed. -/
def Block.eventRecord (b : Block) (ctx : Nat) : Block :=
  b.ringTurn ctx 4 (fun b e =>
    let n := fld e.raw 16 2
    if (b.ctx ctx).entries.any (fun y => decide (y.seq < e.seq) && !y.past) then b
    else if 4095 < n then b.finishEntry ctx e.seq stInvalid []
    else (b.setEvent ctx n (BitVec.ofNat 64 (fld e.raw 24 8))).finishEntry ctx e.seq stOK [])

def execEventRecord (ctx : Nat) (s : State) : Host.Outcome State Fault Refusal := s.run (·.eventRecord ctx)

/-- EVENT_WAIT (R342). -/
def Block.eventWait (b : Block) (ctx : Nat) : Block :=
  b.ringTurn ctx 5 (fun b e =>
    let n := fld e.raw 16 2
    if 4095 < n then b.finishEntry ctx e.seq stInvalid []
    else if ((b.ctx ctx).event n).toNat < fld e.raw 24 8 then b
    else b.finishEntry ctx e.seq stOK [])

def execEventWait (ctx : Nat) (s : State) : Host.Outcome State Fault Refusal := s.run (·.eventWait ctx)

/-- EVENT_SET (R342). -/
def Block.eventSet (b : Block) (page : Nat) : Block :=
  b.mbOp page 0x0107 (fun b m =>
    let n := fld (mPl m) 0 2
    if 4095 < n ∨ 64 ≤ page then b.mbReply page m stInvalid []
    else (b.setEvent page n (BitVec.ofNat 64 (fld (mPl m) 8 8))).mbReply page m stOK (natLe 8 ((b.ctx page).event n).toNat))

def execEventSet (page : Nat) (s : State) : Host.Outcome State Fault Refusal := s.run (·.eventSet page)

/-! ### Contexts (R326–R330, R347) -/

/-- FIELD checks of a CTX_CREATE (R326). -/
def createOk (ctx : Nat) (p : List Byte) : Bool :=
  let rec_ := fld p 3 1
  let log (n : Nat) : Bool := decide (6 ≤ n ∧ n ≤ 16)
  decide (ctx < 64) && decide (fld p 1 1 ≤ 3) && log (fld p 2 1) && (rec_ == 0 || log rec_) &&
    (decide (fld p 4 1 ≤ 127) || fld p 4 1 == 0xFF) && rsv p 5 3 && fld p 8 8 % 2 ^ 20 == 0 && dramUsable (fld p 8 8) (2 ^ 20) &&
    fld p 16 8 % 4096 == 0 && fld p 24 8 % 8 == 0 && fld p 32 8 % 4096 == 0 && (rec_ != 0 || fld p 32 8 == 0) &&
    decide (1 ≤ fld p 40 8 ∧ fld p 40 8 ≤ 2 ^ 63) && rsv p 48 8

/-- A context as CTX_CREATE makes it (R326). -/
def newCtx (p : List Byte) (st : Nat) : Ctx :=
  let first := fld p 40 8
  { state := st, part := fld p 1 1, ringLog2 := fld p 2 1, recLog2 := fld p 3 1, vector := fld p 4 1, ptRoot := fld p 8 8,
    ringBase := fld p 16 8, doneAddr := fld p 24 8, recBase := fld p 32 8, firstSeq := first, latch := first - 1, last := first - 1,
    doneSeq := first - 1 }

/-- CTX_CREATE (R326). -/
def Block.ctxCreate (b : Block) (page : Nat) : Block :=
  b.mbOp page 0x0101 (fun b m =>
    let p := mPl m
    let ctx := mCtx m
    let no (r : Nat) : Block := b.mbReply page m stInvalid [BitVec.ofNat 8 r]
    if fld p 0 1 ≠ 2 then no 1
    else if ctx < 64 ∧ (b.ctx ctx).state ≠ 0 then no 2
    else if !createOk ctx p then no 3
    else if 2 ≤ (b.part (fld p 1 1)).state then no 5
    else
      let w := b.hostPut (fld p 24 8) (natLe 8 (fld p 40 8 - 1))
      if !w.2 then no 4
      else (w.1.setCtx ctx (newCtx p (if (b.part (fld p 1 1)).state = 1 then 3 else 1))).mbReply page m stOK [])

def execCtxCreate (page : Nat) (s : State) : Host.Outcome State Fault Refusal := s.run (·.ctxCreate page)

/-- The context a message of a family names exists. -/
def Block.ctxLives (b : Block) (ctx : Nat) : Bool := decide (ctx < 64) && (b.ctx ctx).state != 0

/-- CTX_DESTROY (R327): DESTROYING and the implicit abort; the rest follows its end. -/
def Block.ctxDestroy (b : Block) (page : Nat) : Block :=
  b.mbOp page 0x0102 (fun b m =>
    let ctx := mCtx m
    if !b.ctxLives ctx ∨ (b.ctx ctx).state = 4 then b.mbReply page m stInvalid []
    else
      let b1 := (b.modCtx ctx (fun x => { x with resetHold := x.resetHold || x.state == 2, state := 4 })).abortCtx ctx (some page)
      b1.mbBusy page m (b1.newAborts b) [])

def execCtxDestroy (page : Nat) (s : State) : Host.Outcome State Fault Refusal := s.run (·.ctxDestroy page)

/-- The outstanding writes of a held context under new addresses (R347): the block, and whether they landed. -/
def Block.resumeWrites (b : Block) (ctx done rec_ : Nat) : Block × Bool :=
  let x := b.ctx ctx
  let r := (x.doneQ.filter (fun w => w.kind == 2)).foldl (fun (st : Block × Bool) w =>
    if st.2 then st.1.hostPut (w.addr - x.recBase + rec_) w.data else st) (b, true)
  if r.2 then r.1.hostPut done (natLe 8 x.doneSeq) else r

/-- CTX_RESUME (R347). -/
def Block.ctxResume (b : Block) (page : Nat) : Block :=
  b.mbOp page 0x0103 (fun b m =>
    let ctx := mCtx m
    let x := b.ctx ctx
    let pick (new old : Nat) : Nat := if new = 0 then old else new
    let done := pick (fld (mPl m) 0 8) x.doneAddr
    let rec_ := pick (fld (mPl m) 8 8) x.recBase
    if !b.ctxLives ctx ∨ x.state ≠ 2 ∨ done % 8 ≠ 0 ∨ rec_ % 4096 ≠ 0 then b.mbReply page m stInvalid []
    else
      let w := b.resumeWrites ctx done rec_
      if !w.2 then w.1.mbReply page m stInvalid [4#8]
      else
        let owed := x.doneQ.any (fun d => d.kind == 4)
        let b := w.1.modCtx ctx (fun x => { x with state := 1, doneAddr := done, recBase := rec_, doneQ := [] })
        (if owed then b.raiseVector x.vector else b).mbReply page m stOK [])

def execCtxResume (page : Nat) (s : State) : Host.Outcome State Fault Refusal := s.run (·.ctxResume page)

/-- The abort that a CTX_ABORT asks for, none where it is refused (R328, R368). -/
def Block.askedAbort (b : Block) (ctx : Nat) (p : List Byte) (page : Nat) : Option Block :=
  let x := b.ctx ctx
  let seq := fld p 8 8
  match fld p 0 1 with
  | 0 => match x.entry? seq with
    | some e => if (e.op = 1 ∨ e.op = 2 ∨ e.op = 3) ∧ !e.refused ∧ e.state ≠ .finished ∧ e.state ≠ .completed
        then some (b.acceptAbort ctx 0 [seq] (b.kidsOf ctx [seq]) 0 (some page) false) else none
    | none => none
  | 1 =>
    let named := seq == 0 || (match x.entry? seq with | some e => x.inStep e | none => false)
    if !named then none
    else if x.step = .waiting ∨ x.step = .opened then some (b.dropStep ctx 3 (some page))
    else if x.step = .dropping then
      (let l := x.unfinished
       some (b.acceptAbort ctx 1 l (b.kidsOf ctx l) x.dropWhy (some page) false))
    else none
  | 2 => some (b.abortCtx ctx (some page))
  | _ => none

/-- CTX_ABORT (R328). -/
def Block.ctxAbort (b : Block) (page : Nat) : Block :=
  b.mbOp page 0x0104 (fun b m =>
    let ctx := msgCtx page m
    if !b.ctxLives ctx then b.mbReply page m stInvalid []
    else match b.askedAbort ctx (mPl m) page with
      | none => b.mbReply page m stInvalid []
      | some b1 => b1.mbBusy page m (b1.newAborts b) [])

def execCtxAbort (page : Nat) (s : State) : Host.Outcome State Fault Refusal := s.run (·.ctxAbort page)

/-- CTX_INFO (R330). -/
def Block.ctxInfo (b : Block) (page : Nat) : Block :=
  b.mbOp page 0x0106 (fun b m =>
    let ctx := msgCtx page m
    let x := b.ctx ctx
    if !b.ctxLives ctx then b.mbReply page m stInvalid []
    else b.mbReply page m stOK (natLe 8 x.last ++ natLe 8 x.latch ++ natLe 8 x.skipped ++ natLe 4 x.mbRepeats ++ natLe 4 x.fetchSlot ++
      natLe 8 x.curStep ++ natLe 8 (x.last + 1) ++ natLe 8 (if x.gap then x.foundSeq else 0)))

def execCtxInfo (page : Nat) (s : State) : Host.Outcome State Fault Refusal := s.run (·.ctxInfo page)

/-! ### Tune sessions (R143, R329) -/

/-- TUNE_OPEN (R329). -/
def Block.tuneOpen (b : Block) (page : Nat) : Block :=
  b.mbOp page 0x0108 (fun b m =>
    let p := mPl m
    let rank := fld p 0 2
    let x := b.ctx page
    if !SSet.has x.grants (fld p 2 1) then b.mbReply page m stNoGrant []
    else if rank = 0 ∨ 512 < rank ∨ x.tune.isSome then b.mbReply page m stInvalid []
    else (b.modCtx page (fun x => { x with tune := some ⟨rank, fld p 2 1, BitVec.ofNat 64 (fld p 8 8)⟩ })).mbReply page m stOK [])

def execTuneOpen (page : Nat) (s : State) : Host.Outcome State Fault Refusal := s.run (·.tuneOpen page)

/-- An accepted LAUNCH of a STOCHASTIC image has not completed (R329). One that has not run yet is known by the header that
its image has now. -/
def Block.stochRuns (b : Block) (ctx : Nat) : Bool :=
  (b.ctx ctx).entries.any (fun e => e.op == 1 && !e.refused && e.state != .completed &&
    (if e.state = .accepted ∨ e.state = .dispatched then
       (match b.feRead ctx (fld e.raw 16 8) 64 with | .ok h => bit (fld h 9 1) 0 | .error _ => false)
     else e.stoch))

/-- TUNE_CLOSE (R329). -/
def Block.tuneClose (b : Block) (page : Nat) : Block :=
  b.mbOp page 0x0109 (fun b m =>
    if (b.ctx page).tune.isNone ∨ b.stochRuns page then b.mbReply page m stInvalid []
    else (b.modCtx page (fun x => { x with tune := none })).mbReply page m stOK [])

def execTuneClose (page : Nat) (s : State) : Host.Outcome State Fault Refusal := s.run (·.tuneClose page)

/-! ### Trace rings (R38, R39, R42, R333) -/

/-- Every island of the module. -/
def allIslands : List Nat :=
  (List.range 4).flatMap islandsOf ++ (List.range 4).map firnIsl ++ [hubIsl] ++ (List.range 18).map weaveIsl ++ [trelebIsl, rimIsl, secIsl]

/-- Write a placed ring's control block (R39): whether it landed. -/
def Block.placeRing (b : Block) (pa log2 mode : Nat) : Block × Bool :=
  let d := natLe 24 0 ++ natLe 1 log2 ++ natLe 1 mode ++ natLe 38 0
  if bits pa 51 48 = 0 then (b.dramWrite (bits pa 47 0) d [], true) else b.hostPut (bits pa 47 0) d

/-- TRACE_RING_CONFIG (R333, R42). -/
def Block.traceRingConfig (b : Block) (page : Nat) : Block :=
  b.mbOp page 0x0602 (fun b m =>
    let p := mPl m
    let r := fld p 0 1
    let n := fld p 1 1
    let pa := fld p 8 8
    let off := bits pa 47 0
    let inDram := bits pa 51 48 == 0
    let no : Block := b.mbReply page m stInvalid []
    if 4 < r ∨ 1 < fld p 2 1 ∨ !rsv p 3 5 ∨ !rsv p 16 40 ∨ (n ≠ 0 ∧ (n < 11 ∨ 25 < n)) then no
    else if n = 0 then (b.setRing r { b.ring r with placed := none, wait := [] }).mbReply page m stOK []
    else if bits pa 63 52 ≠ b.self ∨ (bits pa 51 48 ≠ 0 ∧ bits pa 51 48 ≠ 2) ∨ pa % 64 ≠ 0 ∨
        (inDram ∧ (!dramUsable off (64 + 32 * 2 ^ n) ∨ 2 ≤ (b.part (off / 2 ^ 40)).state)) then no
    else
      let w := b.placeRing pa n (fld p 2 1)
      if !w.2 then no
      else
        let b := w.1
        let first := !(b.ring r).ever
        let g := b.ring r
        let b := (b.setRing r { g with placed := some pa, log2 := n, stop := fld p 2 1 == 1, write := 0, dropped := 0, ever := true }).traceMoved r
        let b := if first then b.emitEach (allIslands.filter (fun i => ringOf i == r)) 0x0703 0xFF 0 2 else b
        b.mbReply page m stOK [])

def execTraceRingConfig (page : Nat) (s : State) : Host.Outcome State Fault Refusal := s.run (·.traceRingConfig page)

end Sys2Proof.Machine
end

