-- ==== Sys2Proof/Machine/Rim.lean ====
section
/-!
DEFINITION. The Rim controller (R471–R490): its commands and replies, the management rings, the event log, sensors with their
thresholds and the clamp they ask for (R475, R476, R515), firmware images and updates (R486–R488, R501), and its restart.
-/
namespace Sys2Proof.Machine

/-- Change the Rim controller. -/
def Block.modRim (b : Block) (f : Rim → Rim) : Block := { b with rim := f b.rim }

/-- The Rim firmware runs and takes commands (R474, R477, R512): RUNNING, HALTED, or started and not yet RUNNING. -/
def Block.rimServes (b : Block) : Bool :=
  b.rim.state == 2 || b.rim.state == 3 || (b.rim.state == 0 && (b.power.state == 4 || decide (3 ≤ b.power.step)))

/-- The Rim controller has power and one of its cores runs. -/
def Block.rimAwake (b : Block) : Bool := b.power.state != 0 && b.rim.state != 4

/-- A message leaves the Rim controller: over the outbound ring where one is placed, else at once on the sideband. -/
def Block.rimOut (b : Block) (m : List Byte) : Block :=
  b.modRim (fun r => { r with out := r.out ++ [m], carried := if r.rings.isSome then r.carried else r.out.length + 1 })

/-- Reply OK to a Rim command (R479). -/
def Block.rimOk (b : Block) (d : List Byte) : Block := b.rimOut (0x00#8 :: d)

/-- Refuse a Rim command (R479): reason 1 a field error, 2 a wrong state. -/
def Block.rimNo (b : Block) (reason : Nat) : Block := b.rimOut [0x50#8, BitVec.ofNat 8 reason]

/-! ### Status and log (R479, R483, R485) -/

/-- RIM_STATUS (R479). -/
def Block.rimStatus (b : Block) : Block :=
  if !b.rimServes then b
  else b.rimOk (natLe 1 b.rim.state ++ natLe 2 b.rim.boot ++ natLe 1 (if b.rim.imageValid then 1 else 0) ++
    natLe 1 (match b.rim.update with | some u => u.stage | none => 0) ++
    (List.range 4).flatMap (fun p => natLe 1 (b.part p).state))

def execRimStatus (s : State) : Host.Outcome State Fault Refusal := s.run (·.rimStatus)

/-- A log record's 32 bytes (R483). -/
def LogRec.bytes (r : LogRec) : List Byte :=
  let d := natLe 8 r.stamp ++ natLe 4 r.seq ++ natLe 2 r.code ++ natLe 1 (r.severity + r.time * 8) ++ natLe 1 r.part ++
    natLe 2 r.island ++ natLe 2 r.boot ++ natLe 8 r.arg
  d ++ natLe 4 (crc32c d).toNat

/-- LOG_INFO (R479). -/
def Block.logInfo (b : Block) : Block :=
  if !b.rimServes then b
  else
    let l := b.rim.log
    b.rimOk (natLe 4 (match l.head? with | some r => r.seq | none => 0) ++ natLe 4 (match l.getLast? with | some r => r.seq | none => 0) ++
      natLe 4 l.length ++ natLe 4 b.rim.dropped ++ natLe 2 b.rim.boot)

def execLogInfo (s : State) : Host.Outcome State Fault Refusal := s.run (·.logInfo)

/-- LOG_READ (R479): up to 7 programmed records from a LOG_SEQ on. -/
def Block.logRead (b : Block) (seq : Nat) : Block :=
  if !b.rimServes then b
  else b.rimOk (((b.rim.log.filter (fun r => decide ((r.seq + 2 ^ 32 - seq % 2 ^ 32) % 2 ^ 32 < 2 ^ 31))).take 7).flatMap LogRec.bytes)

def execLogRead (logSeq : Nat) (s : State) : Host.Outcome State Fault Refusal := s.run (·.logRead logSeq)

/-- Records of the log ring (R483) and of a sector (R485). -/
def logSlots : Nat := 262144
def logSector : Nat := 2048

/-- LOG_RECORD_PROGRAMMED (R485): the oldest queued record is programmed; drops are then reported. -/
def Block.logProgrammed (b : Block) : Block :=
  if !b.rimAwake then b
  else match b.rim.logQ with
    | [] => b
    | r :: q =>
      let b := b.modRim (fun x => { x with
        logQ := q, log := (if logSlots ≤ x.log.length then x.log.drop logSector else x.log) ++ [r] })
      if b.rim.overflow = 0 then b
      else
        let n := b.rim.overflow
        (b.modRim (fun x => { x with overflow := 0 })).rimLog 0x0809 0xFF n

def execLogRecordProgrammed (s : State) : Host.Outcome State Fault Refusal := s.run (·.logProgrammed)

/-! ### Commands on partitions (R457, R461, R479) -/

/-- WATCHDOG_SET (R457, R479, R489). -/
def Block.watchdogSet (b : Block) (mask ms : Nat) : Block :=
  if !b.rimServes then b
  else if 15 < mask ∨ ms = 0 ∨ 1000 < ms then b.rimNo 1
  else
    let b := (List.range 4).foldl (fun b p =>
      if !bit mask p then b
      else b.modPart p (fun t => if t.state = 1 then { t with wdNext := ms } else { t with wdMs := ms, wdNext := 0 })) b
    (b.rimLog 0x0807 0xFF (mask + ms * 2 ^ 16)).rimOk []

def execWatchdogSet (mask ms : Nat) (s : State) : Host.Outcome State Fault Refusal := s.run (·.watchdogSet mask ms)

/-- PARTITION_RESET (R461, R479, R489). -/
def Block.partitionReset (b : Block) (part : Nat) : Block :=
  if !b.rimServes then b
  else if 3 < part then b.rimNo 1
  else if !b.getisUp ∨ (b.part part).state ≠ 0 then b.rimNo 2
  else ((b.rimLog 0x0808 part (1 + part * 2 ^ 8)).rimOk []).resetBegin part 5

def execPartitionReset (part : Nat) (s : State) : Host.Outcome State Fault Refusal := s.run (·.partitionReset part)

/-! ### Start-up from its first step (R15, R490, R509, R518, R523) -/

/-- The package loses its state: what remains is in flash, in Firn, in the fuses, in the Rim controller, in the power stage
and outside the module (R42, R224, R267, R312, R465, R470). The hub's view of Firn comes back from the directory set in force
(R218, R224). -/
def Block.coldPackage (b : Block) : Block :=
  { firn := { b.firn with
      hostRegions := [], op := none, build := none, corrected := 0, uncorr := 0, scanAt := 0, scanning := none, models := [], owner := [] }
    parts := b.rim.retired.map (fun p => (p, { state := 3 })),
    rim := b.rim, sec := b.sec, power := b.power, hostMem := b.hostMem, hostAbsent := b.hostAbsent, hostPoison := b.hostPoison, freeCtr := b.freeCtr,
    kidCtr := b.kidCtr, abortId := b.abortId }

/-- The security island leaves reset: what it keeps is in the fuses (R493, R509). -/
def Sec.cold (x : Sec) : Sec := { unlocks := x.unlocks, floor := x.floor, decommissioned := x.decommissioned }

/-- The input stage changes state (R512, R521). -/
def Block.powerState (b : Block) (st cause : Nat) : Block :=
  ({ b with power := { b.power with state := st } }).rimLog 0x0840 0xFF (st + cause * 2 ^ 8)

/-- Start-up begins at step 1 (R490, R518): a cold start (`why` 1) or a module reset (`why` 2). Latches of PMIC faults and
sense lines and the I3C address last until a cold start (R517, R523, R532). -/
def Block.startUp (b : Block) (why : Nat) : Block :=
  let b := b.updateLost.coldPackage
  let cold := why == 1
  let b := { b with
    sec := b.sec.cold
    power := { b.power with
      cause := 0, step := 1, ready := false, rails := [25, 26], asks := [], level := 0
      sense := if cold then [] else b.power.sense, pmic := if cold then [] else b.power.pmic }
    rim := { b.rim with
      state := 0, boot := (b.rim.boot + 1) % 65536, why := why, sensors := [], receiver := none, rings := none, mail := []
      carried := b.rim.out.length, i3c := if cold then none else b.rim.i3c, tid := 0 } }
  b.powerState 1 0

/-- MODULE_RESET (R479, R489). -/
def Block.moduleReset (b : Block) (force : Bool) : Block :=
  if !b.rimServes then b
  else if b.rim.update.any (fun u => decide (3 ≤ u.stage)) ∨ (!b.rim.imageValid ∧ !force) then b.rimNo 2
  else ((b.rimLog 0x0808 0xFF 2).rimOk []).startUp 2

def execModuleReset (force : Bool) (s : State) : Host.Outcome State Fault Refusal := s.run (·.moduleReset force)

/-! ### The management rings (R478) -/

/-- MGMT_RING_SET (R478, R479). -/
def Block.mgmtRingSet (b : Block) (inbound outbound vector : Nat) : Block :=
  if !b.rimServes then b
  else if 127 < vector then b.rimNo 1
  else if inbound = 0 ∧ outbound = 0 then (b.modRim (fun r => { r with rings := none, carried := r.out.length })).rimOk []
  else if inbound % 4096 ≠ 0 ∨ outbound % 4096 ≠ 0 ∨ 2 ^ 48 ≤ inbound ∨ 2 ^ 48 ≤ outbound then b.rimNo 1
  else (b.rimOk []).modRim (fun r => { r with rings := some ⟨inbound, outbound, vector, 0, 0⟩ })

def execMgmtRingSet (inbound outbound vector : Nat) (s : State) : Host.Outcome State Fault Refusal :=
  s.run (·.mgmtRingSet inbound outbound vector)

/-- An access to a management ring failed (R449, R478): the rings are no longer used. The failure has been recorded. -/
def Block.mgmtFail (b : Block) : Block := b.modRim (fun r => { r with rings := none, carried := r.out.length })

/-- Read the inbound slots that hold the next packets in SEQ order (R478). -/
def Block.mgmtRead (b : Block) : Nat → Block
  | 0 => b
  | n + 1 => match b.rim.rings with
    | none => b
    | some g =>
      let addr := g.inbound + 256 * (g.inSeq % 64)
      match b.hostGet addr 256 with
      | none => (b.hostError (if b.hostAnswers addr 256 then some stData else none) addr).mgmtFail
      | some d =>
        if fld d 0 4 ≠ (g.inSeq + 1) % 2 ^ 32 ∨ 248 < fld d 4 2 then b
        else (b.modRim (fun r => { r with
          mail := r.mail ++ [(d.drop 8).take (fld d 4 2)], rings := some { g with inSeq := (g.inSeq + 1) % 2 ^ 32 } })).mgmtRead n

/-- Cut a message into packets of at most 248 bytes. -/
def packetsOf : (fuel : Nat) → List Byte → List (List Byte)
  | 0, _ => []
  | n + 1, m => if m.length ≤ 248 then [m] else m.take 248 :: packetsOf n (m.drop 248)

/-- Write a packet to the next outbound slot (R478). -/
def Block.mgmtWrite (b : Block) (p : List Byte) : Block :=
  match b.rim.rings with
  | none => b
  | some g =>
    let addr := g.outbound + 256 * (g.outSeq % 64)
    let w := b.hostPut addr (padTo 0#8 256 (natLe 4 ((g.outSeq + 1) % 2 ^ 32) ++ natLe 2 p.length ++ natLe 2 0 ++ p))
    if w.2 then w.1.modRim (fun r => { r with rings := some { g with outSeq := (g.outSeq + 1) % 2 ^ 32 } })
    else w.1.mgmtFail

/-- MGMT_RING_POLL (R478). -/
def Block.mgmtRingPoll (b : Block) : Block :=
  if !b.rimServes ∨ b.treleb.state ≠ 2 then b
  else
    let b := b.mgmtRead 64
    match b.rim.rings with
    | none => b
    | some g =>
      let due := (b.rim.out.drop b.rim.carried).flatMap (fun m => packetsOf (m.length + 1) m)
      if due.isEmpty then b
      else
        let b := due.foldl Block.mgmtWrite b
        let b := b.modRim (fun r => { r with carried := r.out.length })
        if b.rim.rings.isSome then b.raiseVector g.vector else b

def execMgmtRingPoll (s : State) : Host.Outcome State Fault Refusal := s.run (·.mgmtRingPoll)

/-! ### The clamp (R515) -/

/-- The clamp's level and cause follow what the causes ask for; an entry is logged and counted (R388, R515, R516). Islands stay at
0.8 GHz until start-up ends (R519). -/
def Block.clampSet (b : Block) (cause level : Nat) : Block :=
  let asks := SMap.set 0 b.power.asks cause level
  let new : Nat := (asks.map (·.2)).foldl max 0
  let why := if new = 0 then 0 else ((asks.find? (fun a => a.2 == new)).map (·.1)).getD 0
  let old := b.power.level
  let b := { b with power := { b.power with asks := asks, level := new, cause := why } }
  let b := if old = 0 ∧ new ≠ 0 then
      let b := b.rimLog 0x0804 0xFF (1 + cause * 2 ^ 8)
      { b with ctxs := b.ctxs.map (fun c => (c.1, if c.2.state = 0 then c.2 else { c.2 with clamps := c.2.clamps + 1 })) }
    else if old ≠ 0 ∧ new = 0 then b.rimLog 0x0804 0xFF (cause * 2 ^ 8)
    else b
  if b.power.ready then (List.range 4).foldl (fun b p => b.setPoints p) b else b

/-- Level that a cause asks for now. -/
def Block.asked (b : Block) (cause : Nat) : Nat := SMap.get 0 b.power.asks cause

/-- Level that a reading of a sensor asks of the clamp (R515): the cause and the level, in 1/16 °C. -/
def readingAsks (sensor : Nat) (r : Int) : Nat × Nat :=
  let by_ (one two : Int) : Nat := if two * 16 < r then 2 else if one * 16 < r then 1 else 0
  if sensor / 256 = 1 then (3, by_ 100 110)
  else if 0x0208 ≤ sensor ∧ sensor ≤ 0x020B then (4, by_ 80 83)
  else if sensor = 0x0600 then (5, by_ 40 45)
  else if sensor = 0x0601 then (5, if 60 * 16 < r then 2 else 0)
  else (0, 0)

/-- A reading keeps its cause at a level: it is not the release distance below the engaging threshold (R515). -/
def readingHolds (cause level : Nat) (sensor : Nat) (r : Int) : Bool :=
  let gap : Int := if cause = 3 then 5 else if cause = 4 then 3 else 2
  decide ((readingAsks sensor (r + gap * 16)).1 = cause ∧ level ≤ (readingAsks sensor (r + gap * 16)).2)

/-! ### Sensors (R475, R476) -/

/-- The sensor inventory (R475). -/
def sensorExists (id : Nat) : Bool :=
  decide (id % 256 < (match id / 256 with | 1 => 96 | 2 => 14 | 3 => 28 | 4 => 28 | 5 => 3 | 6 => 2 | _ => 0))

/-- A threshold is crossed (R477): an event message to the receiver, and a record. -/
def Block.threshold (b : Block) (id which : Nat) (reading : Int) : Block :=
  let r := (reading % 2 ^ 32).toNat
  let b := b.rimLog 0x0803 0xFF (id + which * 2 ^ 16 + r * 2 ^ 32)
  if b.rim.receiver.isNone then b else b.rimOut (Config.standardReply 9 ++ natLe 2 id ++ natLe 1 which ++ natLe 4 r)

/-- A DIMM zone's reading reaches its partition's channels (R258, R266, R481). -/
def Block.dimmReading (b : Block) (part : Nat) (r : Int) : Block :=
  (List.range 6).foldl (fun b i =>
    let ch := 6 * part + i
    let c : Chan := SMap.get {} b.dram.chans ch
    let hot := decide (85 * 16 < r)
    let b := b.modChan ch (fun c => { c with temp := r, refresh2x := hot })
    if hot = c.refresh2x then b else b.emit (dramIsl ch) 0x0306 0xFF 0 (ch + (if hot then 2 ^ 8 else 0))) b

/-- SENSOR_SAMPLE (R475–R477, R515). -/
def Block.sensorSample (b : Block) (id : Nat) (reading : Int) (isOpen : Bool) : Block :=
  if !b.rimServes ∨ !sensorExists id then b
  else
    let thermal := id / 256 == 1 || id / 256 == 2
    let opn := isOpen && thermal
    let r : Int := if opn then 0x7FFF else reading
    let old : Sensor := SMap.get {} b.rim.sensors id
    let above (t : Option Int) : Bool := match t with | some t => decide (t < r) | none => false
    let new : Sensor := { old with reading := r, isOpen := opn, warnOn := above old.warning, critOn := above old.critical }
    let b := b.modRim (fun x => { x with sensors := SMap.put x.sensors id new })
    let b := if opn ∧ !old.isOpen then b.rimLog 0x0802 0xFF id else b
    let b := if new.warnOn = old.warnOn then b else b.threshold id 1 r
    let b := if new.critOn = old.critOn then b else b.threshold id 2 r
    let b := if 0x0208 ≤ id ∧ id ≤ 0x020B then b.dimmReading (id - 0x0208) r else b
    let a := readingAsks id r
    if b.power.state = 3 ∧ b.asked a.1 < a.2 then b.clampSet a.1 a.2 else b

def execSensorSample (sensor : Nat) (reading : Int) (isOpen : Bool) (s : State) : Host.Outcome State Fault Refusal :=
  s.run (·.sensorSample sensor reading isOpen)

/-- CLAMP (R515): a cause asks for a higher level than it did. -/
def Block.clamp (b : Block) (cause level : Nat) : Block :=
  if b.power.state ≠ 3 ∨ cause = 0 ∨ 5 < cause ∨ 2 < level ∨ level ≤ b.asked cause ∨ (cause = 2 ∧ level = 2) then b
  else b.clampSet cause level

def execClamp (cause level : Nat) (s : State) : Host.Outcome State Fault Refusal := s.run (·.clamp cause level)

/-- CLAMP_RELEASE (R515): a cause falls to a lower level, unless a sampled reading still holds it above that level. -/
def Block.clampRelease (b : Block) (cause level : Nat) : Block :=
  if b.power.state ≠ 3 ∨ b.asked cause ≤ level ∨ b.rim.sensors.any (fun s => readingHolds cause (level + 1) s.1 s.2.reading) then b
  else b.clampSet cause level

def execClampRelease (cause level : Nat) (s : State) : Host.Outcome State Fault Refusal := s.run (·.clampRelease cause level)

/-! ### PLDM base and platform messages (R477) -/

/-- PLDM_PLATFORM_MESSAGE (R477, R488): completion codes and framing are those of the standard. -/
def Block.pldmPlatform (b : Block) (r : PldmReq) : Block :=
  match r with
  | .getTid => if b.rimServes || b.rim.state == 1 then b.rimOut (Config.standardReply 0 ++ natLe 1 b.rim.tid) else b
  | .readSensor id =>
    if !b.rimServes then b
    else if !sensorExists id then b.rimOut (Config.standardReply 2)
    else
      let x : Sensor := SMap.get {} b.rim.sensors id
      b.rimOut (Config.standardReply 1 ++ natLe 4 (x.reading % 2 ^ 32).toNat ++ natLe 1 (if x.isOpen then 1 else 0))
  | .setThresholds id w c =>
    if !b.rimServes then b
    else if !sensorExists id then b.rimOut (Config.standardReply 2)
    else
      let x : Sensor := SMap.get {} b.rim.sensors id
      let x := { x with warning := some w, critical := some c, warnOn := decide (w < x.reading), critOn := decide (c < x.reading) }
      (b.modRim (fun y => { y with sensors := SMap.put y.sensors id x })).rimOut (Config.standardReply 3)
  | .setEventReceiver a =>
    if !b.rimServes then b else (b.modRim (fun y => { y with receiver := some a })).rimOut (Config.standardReply 4)

def execPldmPlatformMessage (r : PldmReq) (s : State) : Host.Outcome State Fault Refusal := s.run (·.pldmPlatform r)

/-! ### Firmware images and updates (R486–R488, R501) -/

/-- Bytes of IMAGE (R472). -/
def imageMax : Nat := 25165824

/-- Verify a firmware image against a version floor (R501): 0, or 1 SIGNATURE, 2 ROLLBACK, 3 DIGEST. -/
def verifyImage (img : List Byte) (floor : Nat) : Nat :=
  let key := (img.drop 104).take 32
  let body := img.drop 16384
  let n := Config.imageParts img
  let parts := [body.take n.1, (body.drop n.1).take n.2, body.drop (n.1 + n.2)]
  if !Config.slhVerify Config.vendorRootKey key ((img.drop 136).take 7856) || !Config.slhVerify key (img.take 136) ((img.drop 7992).take 7856) then 1
  else if fld img 4 2 < floor then 2
  else if img.length < 16384 ∨ imageMax < img.length ∨ fld img 0 4 ≠ img.length ∨ parts.map sha256 ≠ [(img.drop 8).take 32, (img.drop 40).take 32, (img.drop 72).take 32] then 3
  else 0

/-- An UPDATE record (R484). -/
def Block.updateLog (b : Block) (stage reason : Nat) : Block := b.rimLog 0x0805 0xFF (stage + reason * 2 ^ 8)

/-- REQUEST_UPDATE (R487). -/
def Block.requestUpdate (b : Block) (len : Nat) : Block :=
  if !b.rimServes then b
  else if b.rim.state ≠ 2 ∨ b.halted ∨ b.power.state ≠ 3 then b.rimOut (Config.standardReply 6)
  else match (List.range 4).find? (fun p => (b.part p).state == 0) with
    | none => b.rimOut (Config.standardReply 6)
    | some p =>
      if imageMax < len ∨ b.rim.update.isSome then b.rimOut (Config.standardReply 6)
      else (b.modRim (fun r => { r with update := some ⟨1, len, [], p⟩ })).rimOut (Config.standardReply 5)

def execRequestUpdate (len : Nat) (s : State) : Host.Outcome State Fault Refusal := s.run (·.requestUpdate len)

/-- An update goes on to a stage. -/
def Block.updateTo (b : Block) (u : Update) (stage : Nat) : Block :=
  (b.updateLog u.stage 0).modRim (fun r => { r with update := some { u with stage := stage } })

/-- An update ends with a failure reason. -/
def Block.updateFails (b : Block) (u : Update) (reason : Nat) : Block :=
  (b.modRim (fun r => { r with update := none })).updateLog u.stage reason

/-- UPDATE_STAGE_END (R487): at stage 1 the image transferred, at stage 5 the bytes read back. IMAGE is erased from the start of
stage 3 on and written in stage 4. -/
def Block.updateStageEnd (b : Block) (image : List Byte) : Block :=
  match b.rim.update with
  | none => b
  | some u =>
    if b.rim.state ≠ 2 then b
    else match u.stage with
      | 1 => if image.length ≠ u.len then b else b.updateTo { u with image := image } 2
      | 2 =>
        let v := verifyImage u.image b.sec.floor
        if v ≠ 0 then b.updateFails u v
        else (b.updateTo u 3).modRim (fun r => { r with imageValid := false, image := [] })
      | 3 => b.updateTo u 4
      | 4 => (b.updateTo u 5).modRim (fun r => { r with image := u.image })
      | _ =>
        if sha256 image ≠ sha256 u.image then b.updateFails u 3
        else ((b.modRim (fun r => { r with update := none, imageValid := true })).updateLog 5 0).rimOut (Config.standardReply 7)

def execUpdateStageEnd (image : List Byte) (s : State) : Host.Outcome State Fault Refusal := s.run (·.updateStageEnd image)

/-- RECOVERY_UPDATE (R488): a valid image is copied into IMAGE and a cold start follows. -/
def Block.recoveryUpdate (b : Block) (image : List Byte) : Block :=
  if b.rim.state ≠ 1 then b
  else
    let v := verifyImage image b.sec.floor
    if v ≠ 0 then (b.updateLog 2 v).rimOut (Config.standardReply 6)
    else
      let b := (b.modRim (fun r => { r with image := image, imageValid := true })).updateLog 5 0
      ((b.rimLog 0x0806 0xFF 0).rimOut (Config.standardReply 7)).startUp 1

def execRecoveryUpdate (image : List Byte) (s : State) : Host.Outcome State Fault Refusal := s.run (·.recoveryUpdate image)

/-! ### The Rim controller's restart (R473, R490) -/

/-- RIM_LOCKSTEP (R473): the cores disagree; an update ends and the rings are unplaced. -/
def Block.rimLockstep (b : Block) : Block :=
  if b.rim.state ≠ 2 ∧ b.rim.state ≠ 3 then b
  else b.updateLost.modRim (fun r => { r with state := 4, rings := none, mail := [], carried := r.out.length })

def execRimLockstep (s : State) : Host.Outcome State Fault Refusal := s.run (·.rimLockstep)

/-- RIM_START (R473, R484): the restart has ended. -/
def Block.rimStart (b : Block) : Block :=
  if b.rim.state ≠ 4 then b
  else
    let st := if b.halted ∧ b.power.state ≠ 4 then 3 else 2
    let b := (b.modRim (fun r => { r with state := st, why := 3 })).rimLog 0x0801 0xFF 0
    b.rimLog 0x0800 0xFF (st + 3 * 2 ^ 8)

def execRimStart (s : State) : Host.Outcome State Fault Refusal := s.run (·.rimStart)

end Sys2Proof.Machine
end

