-- ==== Sys2Proof/Machine/Security.lean ====
section
/-!
DEFINITION. The security island (R491–R509): attestation and identity (R495, R502, R503), challenges and vendor tokens (R505),
zeroisation and unlocking (R504, R506), its continuous tests (R499) and the SPDM requests (R502).
-/
namespace Sys2Proof.Machine

/-- Change the security island. -/
def Block.modSec (b : Block) (f : Sec → Sec) : Block := { b with sec := f b.sec }

/-- A record of the island for the Rim event log (R507). -/
def Block.secLog (b : Block) (code arg : Nat) : Block :=
  let sb := (b.cross hubIsl secIsl).stamp secIsl 0
  sb.2.log sb.1 code 0xFF secIsl arg

/-- SECURITY_MODE (R497). -/
def Sec.mode (x : Sec) : Nat := if x.state = 2 then 2 else if x.unlocked then 1 else 0

/-! ### Attestation (R502, R503) -/

/-- A context entry of a report (R503). -/
def Block.attestCtx (b : Block) (c : Nat) : List Byte :=
  let x := b.ctx c
  let mask := ((b.boundCores c).map (fun k => 2 ^ k)).sum
  natLe 1 c ++ natLe 1 x.part ++ natLe 2 mask ++ natLe 1 x.grants.length ++ natLe 1 (if x.tune.isSome then 1 else 0) ++ natLe 2 0 ++
    x.grants.flatMap (fun m => padTo 0#8 32 (b.model m).digest)

/-- The contexts a report lists: every one for the operator, its own for a context. -/
def Block.attestList (b : Block) (page : Option Nat) : List Nat :=
  match page with
  | some p => if p < 64 then [p] else (List.range 64).filter (fun c => (b.ctx c).state != 0)
  | none => (List.range 64).filter (fun c => (b.ctx c).state != 0)

/-- The snapshot of the hub tables as an unsigned report (R503). -/
def Block.report (b : Block) (page : Option Nat) (nonce : List Byte) : List Byte :=
  let l := b.attestList page
  let entries := l.flatMap b.attestCtx
  let scope := match page with | some p => if p < 64 then 1 else 0 | none => 0
  let d := b.weave.domain
  let img := b.rim.running
  let fuse := b.sec.floor % 256 + min 255 b.sec.unlocks * 2 ^ 8 + (if b.sec.decommissioned then 2 else 1) * 2 ^ 16
  natLe 4 (288 + entries.length + 7856) ++ natLe 1 1 ++ natLe 1 scope ++ natLe 1 b.sec.mode ++ natLe 1 (if b.sec.unlocked then 1 else 0) ++
    moduleIdentity ++ padTo 0#8 32 nonce ++ natLe 8 b.time.keeper ++ natLe 2 (if d.idValid then d.moduleId else 0xFFFF) ++
    natLe 1 b.time.state ++ natLe 1 l.length ++ natLe 4 fuse ++ padTo 0#8 32 Config.bootRomDigest ++
    padTo 0#8 32 (img.drop 8) ++ padTo 0#8 32 (img.drop 40) ++ padTo 0#8 32 (img.drop 72) ++ padTo 0#8 32 Config.vendorRootDigest ++
    natLe 1 (((List.range 4).map (fun p => (b.part p).state * 4 ^ p)).sum) ++ natLe 39 0 ++ entries

/-- Queue an attestation request (R502): its snapshot is taken now, or after the resets of a zeroisation (R508). -/
def Block.attestQueue (b : Block) (page : Option Nat) (tag : Nat) (nonce : List Byte) (addr len : Nat) : Block :=
  let rep := if b.sec.zero.isSome then [] else b.report page nonce
  b.modSec (fun x => { x with queue := x.queue ++ [⟨page, tag, nonce, rep, addr, len, b.time.keeper⟩] })

/-- ATTEST (R502, R504). -/
def Block.attest (b : Block) (page : Nat) : Block :=
  b.mbOp page 0x0501 (fun b m =>
    let p := mPl m
    if b.sec.state ≠ 1 ∨ b.sec.decommissioned ∨ fld p 32 8 % 64 ≠ 0 then b.mbReply page m stInvalid []
    else if 16 ≤ b.sec.queue.length then b.mbReply page m stInvalid [0x01#8]
    else (b.attestQueue (some page) (mTag m) (p.take 32) (fld p 32 8) (fld p 40 8)).mbReply page m stOK [])

def execAttest (page : Nat) (s : State) : Host.Outcome State Fault Refusal := s.run (·.attest page)

/-- A signed report reaches its requester (R502). -/
def Block.attestDeliver (b : Block) (a : Attest) (rep : List Byte) : Block :=
  match a.page with
  | none => b.rimOut (Config.standardReply 13 ++ rep)
  | some p =>
    if p < 64 ∧ (b.ctx p).state = 0 then b
    else
      let n := rep.length
      let c := if p < 64 then p else 0
      if a.len < n then b.mbNotice p 0x0501 a.tag c stInvalid (natLe 8 2 ++ natLe 4 n)
      else
        let w := b.bufWrite p a.addr rep
        if w.2 then w.1.mbNotice p 0x0501 a.tag c stOK (natLe 8 n) else w.1.mbNotice p 0x0501 a.tag c (bufFail p) []

/-- The range of a context that a report will be written to. -/
def Attest.target (a : Attest) (n : Nat) : List (Nat × Nat) := match a.page with
  | some p => if p < 64 ∧ n ≤ a.len then [(a.addr, n)] else []
  | none => []

/-- ATTEST_REPORT_WRITTEN (R502, R508): the oldest report is signed and written. A write to a context's buffer waits as every
write of the front end does (R302). -/
def Block.attestWritten (b : Block) : Block :=
  if b.sec.state ≠ 1 ∨ b.sec.zero.isSome ∨ !b.getisUp then b
  else match b.sec.queue with
    | [] => b
    | a :: rest =>
      let body := if a.report.isEmpty then b.report a.page a.nonce else a.report
      b.feGate (a.page.getD 64) (a.target (body.length + 7856)) 2
        ((b.modSec (fun x => { x with queue := rest })).attestDeliver a (body ++ padTo 0#8 7856 (Config.slhSign body)))

def execAttestReportWritten (s : State) : Host.Outcome State Fault Refusal := s.run (·.attestWritten)

/-- IDENTITY_READ (R495, R504). -/
def Block.identityRead (b : Block) (page : Nat) : Block :=
  b.mbOpAt page 0x0502 (fun m => [(fld (mPl m) 8 8, 17392)]) 2 (fun b m =>
    let addr := fld (mPl m) 8 8
    if b.sec.decommissioned ∨ addr % 64 ≠ 0 then b.mbReply page m stInvalid []
    else
      let w := b.bufWrite page addr (moduleIdentity ++ padTo 0#8 17360 Config.identityTail)
      if w.2 then w.1.mbReply page m stOK (natLe 1 b.sec.state ++ natLe 1 b.sec.mode) else w.1.mbReply page m (bufFail page) [])

def execIdentityRead (page : Nat) (s : State) : Host.Outcome State Fault Refusal := s.run (·.identityRead page)

/-! ### Challenges and tokens (R505) -/

/-- CHALLENGE_ISSUE (R505): ZEROISE, of a LEVEL that exists (R9), or DEBUG_UNLOCK with payload byte 1 set to 1. -/
def Block.challengeIssue (b : Block) (page : Nat) : Block :=
  let op := if (b.mbTurn page 0x0504).isSome then 0x0504 else 0x0503
  b.mbOpIf page op (fun m => fld (mPl m) 1 1 == 1) (fun b m =>
    if b.sec.state ≠ 1 ∨ (op = 0x0503 ∧ 1 < fld (mPl m) 0 1) then b.mbReply page m stInvalid []
    else
      let f := b.draw
      let c := padTo 0#8 32 (Config.drbgBytes f.1)
      (f.2.modSec (fun x => { x with challenge := some (c, b.time.keeper), requests := x.requests + 1 })).mbReply page m stOK c)

def execChallengeIssue (page : Nat) (s : State) : Host.Outcome State Fault Refusal := s.run (·.challengeIssue page)

/-- Nanoseconds a challenge is valid for (R505). -/
def challengeLife : Nat := 600000000000

/-- The reason a vendor token is refused with (R505): 0 where it is accepted. -/
def Block.tokenReason (b : Block) (token sig : List Byte) (scope : Nat) : Nat :=
  let key := (token.drop 96).take 32
  let fresh := match b.sec.challenge with
    | some c => (token.drop 32).take 32 == c.1 && decide (b.time.keeper ≤ c.2 + challengeLife)
    | none => false
  if token.take 32 ≠ moduleIdentity ∨ !fresh ∨ fld token 64 1 ≠ scope then 3
  else if !Config.slhVerify Config.vendorRootKey (key ++ (token.drop 64).take 1) ((token.drop 128).take 7856) ||
      !Config.slhVerify key (token.take 128) (sig.take 7856) then 4
  else 0

/-- Run what a token authorises: its challenge is used up; a refusal is logged and changes nothing else (R505, R507). -/
def Block.withToken (b : Block) (page : Nat) (m : List Byte) (scope : Nat) (f : Block → Block) : Block :=
  let t := fld (mPl m) 8 8
  let s := fld (mPl m) 16 8
  if t % 64 ≠ 0 then b.mbReply page m stInvalid []
  else match b.bufRead page t 15808, b.bufRead page s 7856 with
    | some token, some sig =>
      let r := b.tokenReason token sig scope
      if r = 0 then f (b.modSec (fun x => { x with challenge := none }))
      else (b.secLog 0x0823 r).mbReply page m stInvalid [BitVec.ofNat 8 r]
    | _, _ => ((b.bufMissed page t 15808).bufMissed page s 7856).mbReply page m stInvalid []

/-! ### Zeroisation and unlocking (R504, R506) -/

/-- Installs, restores and builds under way end (R504, R508). -/
def Block.zeroiseStores (b : Block) : Block :=
  let b := match b.firn.op with
    | some o => if o.kind = 0 then b.installFailed o 9 else if o.kind = 1 then b.firnOver.firnNotice 0x0303 o.tag 9 0 else b
    | none => b
  (b.modFirn (fun f => { f with build := f.build.map (fun u => { u with doomed := true }) })).buildEnd

/-- VOLATILE zeroisation (R504): the island's secrets and the tune seeds are overwritten within 1 ms, and every partition is
reset with new XTS pairs (R257). -/
def Block.zeroise (b : Block) : Block :=
  let b := b.modSec (fun x => { x with content := none, challenge := none, requests := 0 })
  let unseed (x : Ctx) : Ctx := { x with tune := x.tune.map (fun t => { t with seed := 0#64 }) }
  let b := { b with ctxs := b.ctxs.map (fun (c : Nat × Ctx) => (c.1, unseed c.2)) }
  let b := b.zeroiseStores.advanceTo (b.time.keeper + 1000000)
  (List.range 4).foldl (fun b p =>
    if (b.part p).state = 1 then b.newKeys p
    else (b.modPart p (fun t => if t.state = 0 then { t with newKeys := true } else t)).resetBegin p (256 + Config.zeroTrigger % 256)) b

/-- Zeroise and let the message reply when the resets end: `kind` 0 VOLATILE, 1 DECOMMISSION, 2 DEBUG_UNLOCK. -/
def Block.zeroiseFor (b : Block) (page : Nat) (m : List Byte) (kind : Nat) : Block :=
  let b := (b.mbBusy page m [] [0, 1, 2, 3]).zeroise
  let b := if kind = 2 then b else b.secLog 0x0821 kind
  let b := if kind ≠ 2 then b
    else
      let b := b.modSec (fun x => { x with unlocked := true, unlocks := min 255 (x.unlocks + 1) })
      b.secLog 0x0822 b.sec.unlocks
  (b.modSec (fun x => { x with zero := some ⟨kind, mTag m⟩ })).zeroEnd

/-- ZEROISE_VOLATILE (R504): LEVEL 0, and the messages with a LEVEL that is none. -/
def Block.zeroiseVolatile (b : Block) (page : Nat) : Block :=
  b.mbOpIf page 0x0503 (fun m => fld (mPl m) 1 1 != 1 && fld (mPl m) 0 1 != 1) (fun b m =>
    if fld (mPl m) 0 2 ≠ 0 ∨ b.sec.state ≠ 1 then b.mbReply page m stInvalid [] else b.zeroiseFor page m 0)

def execZeroiseVolatile (page : Nat) (s : State) : Host.Outcome State Fault Refusal := s.run (·.zeroiseVolatile page)

/-- ZEROISE_DECOMMISSION (R504): LEVEL 1 with a token of scope DECOMMISSION. -/
def Block.zeroiseDecommission (b : Block) (page : Nat) : Block :=
  b.mbOpIf page 0x0503 (fun m => fld (mPl m) 1 1 != 1 && fld (mPl m) 0 1 == 1) (fun b m =>
    if fld (mPl m) 1 1 ≠ 0 ∨ b.sec.state ≠ 1 then b.mbReply page m stInvalid []
    else b.withToken page m 2 (fun b => b.zeroiseFor page m 1))

def execZeroiseDecommission (page : Nat) (s : State) : Host.Outcome State Fault Refusal := s.run (·.zeroiseDecommission page)

/-- DEBUG_UNLOCK (R506): a token of scope DEBUG_UNLOCK. -/
def Block.debugUnlock (b : Block) (page : Nat) : Block :=
  b.mbOpIf page 0x0504 (fun m => fld (mPl m) 1 1 != 1) (fun b m =>
    if fld (mPl m) 1 1 ≠ 0 ∨ b.sec.state ≠ 1 then b.mbReply page m stInvalid []
    else b.withToken page m 1 (fun b => b.zeroiseFor page m 2))

def execDebugUnlock (page : Nat) (s : State) : Host.Outcome State Fault Refusal := s.run (·.debugUnlock page)

/-! ### Continuous tests (R492, R499) -/

/-- A self-test fails (R498, R499): the test is logged, keys are zeroised, and the module halts. `halt_` carries no cause that the
manual names: it is a free value. -/
def Block.selfTestFails (b : Block) (test : Nat) : Block :=
  let b := b.secLog 0x0820 test
  let b := (List.range 4).foldl (fun b p => b.modPart p (fun t => { t with keys := [] })) b
  let f := (b.modSec (fun x => { x with state := 2, content := none, challenge := none })).draw
  f.2.halt_ (Config.choice f.1)

/-- DRBG_RESEED (R492, R499). -/
def Block.drbgReseed (b : Block) (ok : Bool) : Block :=
  if b.sec.state ≠ 1 then b else if ok then b.modSec (fun x => { x with requests := 0 }) else b.selfTestFails 6

def execDrbgReseed (ok : Bool) (s : State) : Host.Outcome State Fault Refusal := s.run (·.drbgReseed ok)

/-- ENTROPY_HEALTH_FAIL (R499, R508): either continuous test of the entropy source is the fifth test of the table. -/
def execEntropyHealthFail (_test : Nat) (s : State) : Host.Outcome State Fault Refusal :=
  s.run (fun b => if b.sec.state ≠ 1 then b else b.selfTestFails 5)

/-! ### SPDM (R502) -/

/-- SPDM requests are answered: the firmware runs and the island offers services. -/
def Block.spdmServes (b : Block) : Bool := b.rimServes && b.sec.state == 1

/-- GET_VERSION (R502). -/
def execGetVersion (s : State) : Host.Outcome State Fault Refusal :=
  s.run (fun b => if b.spdmServes then b.rimOut (Config.standardReply 10) else b)

/-- GET_CAPABILITIES (R502). -/
def execGetCapabilities (s : State) : Host.Outcome State Fault Refusal :=
  s.run (fun b => if b.spdmServes then b.rimOut (Config.standardReply 11) else b)

/-- NEGOTIATE_ALGORITHMS (R502). -/
def execNegotiateAlgorithms (s : State) : Host.Outcome State Fault Refusal :=
  s.run (fun b => if b.spdmServes then b.rimOut (Config.standardReply 12) else b)

/-- VENDOR_DEFINED_REQUEST (R502): the report over the management path. -/
def Block.vendorRequest (b : Block) (nonce : List Byte) : Block :=
  if !b.spdmServes ∨ !b.getisUp then b
  else if b.sec.decommissioned ∨ 16 ≤ b.sec.queue.length then b.rimOut (Config.standardReply 14)
  else b.attestQueue none 0 nonce 0 0

def execVendorDefinedRequest (nonce : List Byte) (s : State) : Host.Outcome State Fault Refusal := s.run (·.vendorRequest nonce)

end Sys2Proof.Machine
end

