-- ==== Sys2Proof/Machine/Power.lean ====
section
/-!
DEFINITION. The power input and start-up (R510–R523, R532): input and rail faults, PROTECTED_OFF, the eight start-up steps, DRAM
training (R260) and the I3C address.
-/
namespace Sys2Proof.Machine

/-- Change the power stage. -/
def Block.modPower (b : Block) (f : Power → Power) : Block := { b with power := f b.power }

/-! ### The input (R510, R512, R517) -/

/-- INPUT_APPLIED (R518): the input reaches 40 V and start-up begins. -/
def Block.inputApplied (b : Block) (mv : Nat) : Block :=
  if b.power.state ≠ 0 ∨ mv < 40000 then b
  else (b.modPower (fun p => { p with inputMv := mv })).startUp 1

def execInputApplied (mv : Nat) (s : State) : Host.Outcome State Fault Refusal := s.run (·.inputApplied mv)

/-- The input is gone (R485, R490, R512): queued log records are lost with everything that is not in flash, Firn or the fuses. -/
def Block.powerOff (b : Block) : Block :=
  let b := b.coldPackage
  let last := match b.rim.log.getLast? with | some r => r.seq | none => 0
  { b with
    power := {}
    sec := b.sec.cold
    rim := { b.rim with
      state := 0, update := none, why := 0, logQ := [], logSeq := last, dropped := 0, overflow := 0, sensors := [], receiver := none
      rings := none, mail := [], carried := b.rim.out.length, i3c := none, tid := 0, running := [], address := 0 } }

/-- INPUT_LOST (R512, R526). -/
def execInputLost (s : State) : Host.Outcome State Fault Refusal := s.run (fun b => if b.power.state = 0 then b else b.powerOff)

/-- PROTECTED_OFF with its cause (R512, R517, R520, R523): the module stops as at a hub halt, rails 0–24 and 27 fall, and the
clamp is left. -/
def Block.protectedOff (b : Block) (cause : Nat) : Block :=
  let b := b.stopAll.modPower (fun p => { p with step := 0, ready := false, rails := p.rails.filter (fun r => r == 25 || r == 26), asks := [], level := 0, cause := 0 })
  b.powerState 4 cause

/-- UNDERVOLTAGE_LOCKOUT (R510, R517). -/
def execUndervoltageLockout (s : State) : Host.Outcome State Fault Refusal :=
  s.run (fun b => if b.power.state = 0 ∨ b.power.state = 4 then b else b.protectedOff 3)

/-- OVERVOLTAGE_LOCKOUT (R510, R517). -/
def execOvervoltageLockout (s : State) : Host.Outcome State Fault Refusal :=
  s.run (fun b => if b.power.state = 0 ∨ b.power.state = 4 then b else b.protectedOff 2)

/-- INPUT_TRANSIENT (R510, R521): above 60 V and not above 80 V. -/
def execInputTransient (peakMv : Nat) (s : State) : Host.Outcome State Fault Refusal :=
  s.run (fun b => if b.power.state = 0 ∨ peakMv ≤ 60000 ∨ 80000 < peakMv then b else b.rimLog 0x0844 0xFF (peakMv * 2 ^ 32))

/-- The main path behind the e-fuse carries current. -/
def Block.mainPath (b : Block) : Bool := b.power.state == 2 || b.power.state == 3

/-- E_FUSE_TRIP (R517): PROTECTED_OFF, or OFF where the input itself collapsed. -/
def execEFuseTrip (collapsed : Bool) (s : State) : Host.Outcome State Fault Refusal :=
  s.run (fun b => if !b.mainPath then b else if collapsed then b.powerOff else b.protectedOff 1)

/-- Rails that rise in step 3 (R513, R519): all but those of retired partitions. -/
def Block.railsUp (b : Block) : SSet :=
  (List.range 28).filter (fun r => decide (16 ≤ r) || !SSet.has b.rim.retired (r % 4))

/-- RAIL_FAULT (R514, R517): 1 overcurrent or short, 2 overvoltage, 3 undervoltage of a rail that is up or rises in
step 3. -/
def Block.railFault (b : Block) (rail kind reading : Nat) : Block :=
  let rising := b.power.state == 2 && SSet.has b.railsUp rail
  if !(SSet.has b.power.rails rail || rising) ∨ kind = 0 ∨ 3 < kind ∨ b.power.state = 4 then b
  else
    let b := b.rimLog 0x0841 0xFF (rail + kind * 2 ^ 8 + reading * 2 ^ 32)
    (b.protectedOff 4).modPower (fun p => { p with rails := SSet.erase p.rails rail })

def execRailFault (rail kind reading : Nat) (s : State) : Host.Outcome State Fault Refusal := s.run (·.railFault rail kind reading)

/-- SENSE_OPEN (R517): once per rail per cold start. -/
def Block.senseOpen (b : Block) (rail : Nat) : Block :=
  if !SSet.has b.power.rails rail ∨ SSet.has b.power.sense rail then b
  else (b.modPower (fun p => { p with sense := SSet.insert p.sense rail })).rimLog 0x0842 0xFF rail

def execSenseOpen (rail : Nat) (s : State) : Host.Outcome State Fault Refusal := s.run (·.senseOpen rail)

/-- A partition is disabled during start-up; at the second cold start in succession it is retired (R464, R465). -/
def Block.startDisable (b : Block) (part : Nat) : Block :=
  if 2 ≤ (b.part part).state then b
  else
    let n := SMap.get 0 b.rim.disabled part + 1
    (b.modRim (fun r => { r with disabled := SMap.put r.disabled part n })).disable part (decide (2 ≤ n))

/-- PMIC_FAULT (R260, R266, R464, R517): the PMIC is held off and its partition is reset, or ends where it cannot be: in a reset
once the channel has trained, and in start-up after its training. -/
def Block.pmicFault (b : Block) (ch status : Nat) : Block :=
  let p := ch / 6
  if 24 ≤ ch ∨ b.power.state ≠ 3 ∨ SSet.has b.power.pmic ch then b
  else
    let b := (b.modPower (fun w => { w with pmic := SSet.insert w.pmic ch })).rimLog 0x0843 p (ch + status % 256 * 2 ^ 8)
    let b := b.emit (dramIsl ch) 0x0305 0xFF 0 ch
    let done := (SMap.get ({} : Chan) b.dram.chans ch).trained
    if b.halted then b
    else if (b.part p).state = 1 then (if done then b.failReset p else b)
    else if b.getisUp then b.resetBegin p 4
    else if done ∨ 6 ≤ b.power.step then b.startDisable p
    else b

def execPmicFault (channel status : Nat) (s : State) : Host.Outcome State Fault Refusal := s.run (·.pmicFault channel status)

/-- THERMAL_TRIP (R517). -/
def execThermalTrip (s : State) : Host.Outcome State Fault Refusal := s.run (fun b => if b.mainPath then b.protectedOff 5 else b)

/-! ### DRAM training (R260, R464, R518) -/

/-- A channel has trained: `why` 1 at cold start, 2 at a partition reset. -/
def Block.channelTrained (b : Block) (ch why : Nat) : Block :=
  (b.modChan ch (fun c => { c with trained := true, trainFail := false, params := true })).emit (dramIsl ch) 0x0304 0xFF 0 (ch + why * 2 ^ 8)

/-- TRAIN_DONE (R260): at start-up a channel that fails is trained once more; at a reset a failure ends the reset. A channel whose
PMIC is held off fails. -/
def Block.trainDone (b : Block) (ch : Nat) (ok : Bool) : Block :=
  let p := ch / 6
  let c : Chan := SMap.get {} b.dram.chans ch
  let good := ok && !SSet.has b.power.pmic ch
  if 24 ≤ ch ∨ b.power.state ≠ 3 ∨ b.halted ∨ c.trained then b
  else if b.power.step = 5 ∧ (b.part p).state = 0 then
    if good then b.channelTrained ch 1
    else
      let b := b.emit (dramIsl ch) 0x0305 0xFF 0 ch
      if c.retried then (b.modChan ch (fun c => { c with trainFail := true })).startDisable p
      else b.modChan ch (fun c => { c with retried := true })
  else if (b.part p).state = 1 ∧ (b.part p).resetStep = 2 then
    if good then (b.channelTrained ch 2).clearNew p
    else ((b.modChan ch (fun c => { c with trainFail := true })).emit (dramIsl ch) 0x0305 0xFF 0 ch).failReset p
  else b

def execTrainDone (channel : Nat) (ok : Bool) (s : State) : Host.Outcome State Fault Refusal := s.run (·.trainDone channel ok)

/-! ### Start-up (R518, R519) -/

/-- A start-up step ends (R521) and the next begins. -/
def Block.stepEnds (b : Block) (n : Nat) (ok : Bool) (next : Nat) : Block :=
  (b.rimLog 0x0845 0xFF (n + (if ok then 0 else 2 ^ 8))).modPower (fun p => { p with step := next })

/-- A start-up step fails with a hub halt (R467, R499, R518). -/
def Block.startHalt (b : Block) : Block := b.stopAll.modRim (fun r => { r with state := 3 })

/-- Step 1 (R499, R518, R532): the straps are read and the self-tests run. Which of the five of this step fails is a free value. -/
def Block.upRom (b : Block) (ok : Bool) : Block :=
  if ok then
    let b := (b.modRim (fun r => { r with address := 0x60 + r.strap % 8 })).modSec (fun x => { x with state := 1 })
    b.stepEnds 1 true 2
  else
    let f := (b.stepEnds 1 false 0).draw
    ((f.2.secLog 0x0820 ([1, 2, 4, 5, 6].getD (Config.choice f.1 % 5) 1)).modSec (fun x => { x with state := 2 })).startHalt

/-- The running image advances the fused version floor (R501, R507). -/
def Block.advanceFloor (b : Block) : Block :=
  let img := b.rim.running
  let v := fld img 4 2 % 256
  if bit (fld img 6 2) 0 ∧ b.sec.floor < v then (b.modSec (fun x => { x with floor := v })).secLog 0x0824 v else b

/-- Step 2 (R488, R499, R501, R518): IMAGE is verified, and its firmware runs, or RECOVERY is entered. -/
def Block.upImage (b : Block) (ok : Bool) : Block :=
  if ok ∧ b.rim.imageValid then
    let b := ((b.modRim (fun r => { r with running := r.image })).advanceFloor).stepEnds 2 true 3
    b.powerState 2 0
  else ((b.stepEnds 2 false 0).modRim (fun r => { r with state := 1 })).rimLog 0x0806 0xFF 1

/-- Step 3 (R517, R518, R519). Which rail has failed, how, and its last reading are free values. -/
def Block.upRails (b : Block) (ok : Bool) : Block :=
  if ok then ((b.stepEnds 3 true 4).modPower (fun p => { p with rails := b.railsUp })).powerState 3 0
  else
    let f := b.draw
    let g := f.2.draw
    let rail := f.2.railsUp.getD (Config.choice f.1 % f.2.railsUp.length) 27
    ((g.2.rimLog 0x0841 0xFF (rail + (Config.choice g.1 % 3 + 1) * 2 ^ 8 + Config.choice g.1 / 3 % 2 ^ 32 * 2 ^ 32)).stepEnds 3 false 0).protectedOff 4

/-- Step 4 (R28, R42, R396, R438, R518): the hub leaves reset with the keeper at 0, and the links train. -/
def Block.upHub (b : Block) (ok : Bool) : Block :=
  if !ok then (b.stepEnds 4 false 0).startHalt
  else
    let b := { b with
      time := {}, islands := []
      treleb := { b.treleb with state := 1 }
      weave := { b.weave with ports := (List.range 18).map (fun p => (p, { state := 1 })) } }
    b.stepEnds 4 true 5

/-- Step 5 (R257, R260, R518): a partition whose channels have not all trained is disabled; the others hold new keys. -/
def Block.upTrain (b : Block) (ok : Bool) : Block :=
  let bad := (List.range 4).filter (fun p => (b.part p).state == 0 &&
    !(List.range 6).all (fun i => (SMap.get ({} : Chan) b.dram.chans (6 * p + i)).trained))
  let b := bad.foldl (fun b p => b.startDisable p) b
  let b := (List.range 4).foldl (fun b p => if (b.part p).state = 0 then b.newKeys p else b) b
  b.stepEnds 5 (ok && bad.isEmpty) 6

/-- A model found at the directory check (R218, R222, R224): `ok` false is a directory that fails. -/
def Block.checkModel (b : Block) (ok : Bool) (m : Nat) : Block :=
  let x := b.model m
  match x.state with
  | 1 | 2 => ((b.eraseExtents m).modFirn (fun f => { f with models := SMap.keep f.models (fun i => i != m) })).dirCommit
  | 6 => b.finishRemoval m
  | 3 | 4 =>
    if !ok then b.modelState m 5
    else if (x.placed 1).isEmpty ∧ (x.placed 2).isEmpty then b
    else
      let b := b.tagRegions m x.dramLen x.hostLen true
      if x.state = 4 then b else b.modelState m 4
  | _ => b

/-- A free choice of some of `n` things, one at least: thing `i` is in it (for the failures of which a row tells no more than
that there were some). -/
def among (c n i : Nat) : Bool := bit (c % (2 ^ n - 1) + 1) i

/-- The models whose directories are checked as such (R224): READY, INCOMPLETE and FAILED. -/
def DirSet.checked (d : DirSet) : List Nat := (d.models.filter (fun m => decide (3 ≤ m.2.state ∧ m.2.state ≤ 5))).map (·.1)

/-- Step 6 (R218, R224, R518): the directory set in force is loaded and checked. Which directories fail is a free value. -/
def Block.upFirn (b : Block) (ok : Bool) : Block :=
  let d := b.firn.inForce
  let f := (b.modFirn (fun x => { x with models := d.models, owner := d.owner })).draw
  let c := Config.choice f.1
  let good (m : Nat) : Bool := ok || !(d.checked.zipIdx.any (fun x => x.1 == m && among c d.checked.length x.2))
  ((d.models.map (·.1)).foldl (fun b m => b.checkModel (good m) m) f.2).stepEnds 6 ok 7

/-- Step 7 (R464, R518): where front ends fail, which partitions' they are is a free value among those that serve. -/
def Block.upGetis (b : Block) (ok : Bool) : Block :=
  let b := if ok then b
    else
      let f := b.draw
      let l := (List.range 4).filter (fun p => (f.2.part p).state == 0)
      (l.zipIdx.filter (fun x => among (Config.choice f.1) l.length x.2)).foldl (fun b x => b.startDisable x.1) f.2
  b.stepEnds 7 ok 8

/-- Step 8 (R465, R518, R519): the module is ready. -/
def Block.upReady (b : Block) : Block :=
  let now := b.time.keeper
  let up := (List.range 4).filter (fun p => (b.part p).state == 0)
  let b := up.foldl (fun b p => (b.modPart p (fun t => { t with beatAt := now })).modRim (fun r => { r with disabled := SMap.keep r.disabled (fun i => i != p) })) b
  let b := (b.modRim (fun r => { r with state := 2 })).rimLog 0x0800 0xFF (2 + b.rim.why * 2 ^ 8)
  let b := (b.stepEnds 8 true 0).modPower (fun p => { p with ready := true })
  let b := (List.range 4).foldl (fun b p => b.setPoints p) b
  b.mbDrain 64

/-- POWER_UP_STEP (R518, R521): the start-up step under way ends, or fails. Step 8 has no failure. -/
def Block.powerUpStep (b : Block) (ok : Bool) : Block :=
  match b.power.step with
  | 1 => b.upRom ok
  | 2 => b.upImage ok
  | 3 => b.upRails ok
  | 4 => b.upHub ok
  | 5 => b.upTrain ok
  | 6 => b.upFirn ok
  | 7 => b.upGetis ok
  | 8 => if ok then b.upReady else b
  | _ => b

def execPowerUpStep (ok : Bool) (s : State) : Host.Outcome State Fault Refusal := s.run (·.powerUpStep ok)

/-! ### The sideband (R532) -/

/-- I3C_DYNAMIC_ADDRESS (R532). -/
def execI3cDynamicAddress (addr : Nat) (s : State) : Host.Outcome State Fault Refusal :=
  s.run (fun b => if b.power.state = 0 ∨ 127 < addr then b else b.modRim (fun r => { r with i3c := some addr }))

/-! ### Time passes (R28) -/

/-- A nanosecond of domain time. -/
def Block.tick (b : Block) : Block := if b.hubRuns then b.advanceTo (b.time.keeper + 1) else b

end Sys2Proof.Machine
end

