-- ==== Sys2Proof/Machine/Scalar.lean ====
section
/-!
DEFINITION. The scalar forms of VEC (R107): each is issued by the sequencer, writes its destination and
advances the PC.
-/
namespace Sys2Proof.Machine

/-- Issue a scalar form: the destination takes `f x y` and the PC advances (R106, R107). -/
def Block.scalarOp (b : Block) (core op : Nat) (f : W64 → W64 → W64) : Block :=
  b.issue core (0x200 + op) (fun r =>
    let w := r.word
    let x := r.q.sel (wf_ w 108 102)
    let y := if bit w.toNat 94 then BitVec.ofNat 64 (wf_ w 63 0) else r.q.sel (wf_ w 101 95)
    b.issued core r.ctx ((r.q.setSel (wf_ w 115 109) (f x y)).advance))

/-- A shift count is taken modulo 64 (R107). -/
def shAmt (y : W64) : Nat := y.toNat % 64

def execAdd (core : Nat) (s : State) : Host.Outcome State Fault Refusal := s.run (·.scalarOp core 0x00 (fun x y => x + y))
def execSub (core : Nat) (s : State) : Host.Outcome State Fault Refusal := s.run (·.scalarOp core 0x01 (fun x y => x - y))
def execMul (core : Nat) (s : State) : Host.Outcome State Fault Refusal := s.run (·.scalarOp core 0x02 (fun x y => x * y))
def execAnd (core : Nat) (s : State) : Host.Outcome State Fault Refusal := s.run (·.scalarOp core 0x03 (fun x y => x &&& y))
def execOr (core : Nat) (s : State) : Host.Outcome State Fault Refusal := s.run (·.scalarOp core 0x04 (fun x y => x ||| y))
def execXor (core : Nat) (s : State) : Host.Outcome State Fault Refusal := s.run (·.scalarOp core 0x05 (fun x y => x ^^^ y))
def execShl (core : Nat) (s : State) : Host.Outcome State Fault Refusal := s.run (·.scalarOp core 0x06 (fun x y => x <<< shAmt y))
def execShr (core : Nat) (s : State) : Host.Outcome State Fault Refusal := s.run (·.scalarOp core 0x07 (fun x y => x >>> shAmt y))
def execSar (core : Nat) (s : State) : Host.Outcome State Fault Refusal := s.run (·.scalarOp core 0x08 (fun x y => x.sshiftRight (shAmt y)))
def execMinu (core : Nat) (s : State) : Host.Outcome State Fault Refusal := s.run (·.scalarOp core 0x09 (fun x y => if x.toNat ≤ y.toNat then x else y))
def execMaxu (core : Nat) (s : State) : Host.Outcome State Fault Refusal := s.run (·.scalarOp core 0x0A (fun x y => if x.toNat ≤ y.toNat then y else x))
def execMin (core : Nat) (s : State) : Host.Outcome State Fault Refusal := s.run (·.scalarOp core 0x0B (fun x y => if x.toInt ≤ y.toInt then x else y))
def execMax (core : Nat) (s : State) : Host.Outcome State Fault Refusal := s.run (·.scalarOp core 0x0C (fun x y => if x.toInt ≤ y.toInt then y else x))

/-- LDP reads the parameter page (R98, R107, R121). -/
def Block.ldp (b : Block) (core : Nat) : Block :=
  b.issue core 0x20D (fun r =>
    let w := r.word
    let x := r.q.sel (wf_ w 108 102)
    let y := if bit w.toNat 94 then BitVec.ofNat 64 (wf_ w 63 0) else r.q.sel (wf_ w 101 95)
    let o := (x + y).toNat
    if o % 8 ≠ 0 ∨ 4096 ≤ o then b.preciseStop core r.ctx stInvalid 5
    else if !(poisonedIn 16 r.bind.paramBad o 8).isEmpty then b.preciseStop core r.ctx stData 9
    else
      let v := BitVec.ofNat 64 (leNat (Mem.bytes r.bind.params o 8))
      b.issued core r.ctx ((r.q.setSel (wf_ w 115 109) v).advance))

def execLdp (core : Nat) (s : State) : Host.Outcome State Fault Refusal := s.run (·.ldp core)

/-- LIDX reads the iteration index of an active loop level, the outermost being level 0 (R107). -/
def Block.lidx (b : Block) (core : Nat) : Block :=
  b.issue core 0x20E (fun r =>
    let w := r.word
    let y := if bit w.toNat 94 then BitVec.ofNat 64 (wf_ w 63 0) else r.q.sel (wf_ w 101 95)
    match r.q.loops.reverse[y.toNat]? with
    | none => b.preciseStop core r.ctx stInvalid 3
    | some l => b.issued core r.ctx ((r.q.setSel (wf_ w 115 109) (BitVec.ofNat 64 l.index)).advance))

def execLidx (core : Nat) (s : State) : Host.Outcome State Fault Refusal := s.run (·.lidx core)

/-- TIME reads the island's stamp counter (R29, R107). -/
def execTime (core : Nat) (s : State) : Host.Outcome State Fault Refusal :=
  s.run (fun b => b.scalarOp core 0x0F (fun _ _ => BitVec.ofNat 64 (b.counter (arrIsl core))))

end Sys2Proof.Machine
end

