-- ==== Sys2Proof/Machine/Dispatch.lean ====
section
/-!
DEFINITION. Which meaning each command has: one arm per command of the opcode table.
-/
namespace Sys2Proof.Machine

def exec (i : Instr) (s : State) : Host.Outcome State Fault Refusal :=
  match i with
  | .halt core => Sys2Proof.Machine.execHalt core s
  | .tmma core => Sys2Proof.Machine.execTmma core s
  | .add core => Sys2Proof.Machine.execAdd core s
  | .sub core => Sys2Proof.Machine.execSub core s
  | .mul core => Sys2Proof.Machine.execMul core s
  | .and core => Sys2Proof.Machine.execAnd core s
  | .or core => Sys2Proof.Machine.execOr core s
  | .xor core => Sys2Proof.Machine.execXor core s
  | .shl core => Sys2Proof.Machine.execShl core s
  | .shr core => Sys2Proof.Machine.execShr core s
  | .sar core => Sys2Proof.Machine.execSar core s
  | .minu core => Sys2Proof.Machine.execMinu core s
  | .maxu core => Sys2Proof.Machine.execMaxu core s
  | .min core => Sys2Proof.Machine.execMin core s
  | .max core => Sys2Proof.Machine.execMax core s
  | .ldp core => Sys2Proof.Machine.execLdp core s
  | .lidx core => Sys2Proof.Machine.execLidx core s
  | .time core => Sys2Proof.Machine.execTime core s
  | .vld core => Sys2Proof.Machine.execVld core s
  | .vst core => Sys2Proof.Machine.execVst core s
  | .accrd core => Sys2Proof.Machine.execAccrd core s
  | .accwr core => Sys2Proof.Machine.execAccwr core s
  | .vbcast core => Sys2Proof.Machine.execVbcast core s
  | .vext core => Sys2Proof.Machine.execVext core s
  | .vins core => Sys2Proof.Machine.execVins core s
  | .vadd core => Sys2Proof.Machine.execVadd core s
  | .vsub core => Sys2Proof.Machine.execVsub core s
  | .vmul core => Sys2Proof.Machine.execVmul core s
  | .vfma core => Sys2Proof.Machine.execVfma core s
  | .vmax core => Sys2Proof.Machine.execVmax core s
  | .vmin core => Sys2Proof.Machine.execVmin core s
  | .vabs core => Sys2Proof.Machine.execVabs core s
  | .vneg core => Sys2Proof.Machine.execVneg core s
  | .vmuls core => Sys2Proof.Machine.execVmuls core s
  | .vfmas core => Sys2Proof.Machine.execVfmas core s
  | .vpairswap core => Sys2Proof.Machine.execVpairswap core s
  | .vmaskge core => Sys2Proof.Machine.execVmaskge core s
  | .rsum core => Sys2Proof.Machine.execRsum core s
  | .rsumsq core => Sys2Proof.Machine.execRsumsq core s
  | .rmax core => Sys2Proof.Machine.execRmax core s
  | .rmin core => Sys2Proof.Machine.execRmin core s
  | .ramax core => Sys2Proof.Machine.execRamax core s
  | .rtopk core => Sys2Proof.Machine.execRtopk core s
  | .smxupd core => Sys2Proof.Machine.execSmxupd core s
  | .quant core => Sys2Proof.Machine.execQuant core s
  | .quantsr core => Sys2Proof.Machine.execQuantsr core s
  | .dequant core => Sys2Proof.Machine.execDequant core s
  | .exp2 core => Sys2Proof.Machine.execExp2 core s
  | .log2 core => Sys2Proof.Machine.execLog2 core s
  | .rcp core => Sys2Proof.Machine.execRcp core s
  | .rsqrt core => Sys2Proof.Machine.execRsqrt core s
  | .sigmoid core => Sys2Proof.Machine.execSigmoid core s
  | .tanh core => Sys2Proof.Machine.execTanh core s
  | .softplus core => Sys2Proof.Machine.execSoftplus core s
  | .mov core => Sys2Proof.Machine.execMov core s
  | .setfull core => Sys2Proof.Machine.execSetfull core s
  | .setempty core => Sys2Proof.Machine.execSetempty core s
  | .waitfull core => Sys2Proof.Machine.execWaitfull core s
  | .waitempty core => Sys2Proof.Machine.execWaitempty core s
  | .test core => Sys2Proof.Machine.execTest core s
  | .swaphalf core => Sys2Proof.Machine.execSwaphalf core s
  | .push core => Sys2Proof.Machine.execPush core s
  | .pop core => Sys2Proof.Machine.execPop core s
  | .trypush core => Sys2Proof.Machine.execTrypush core s
  | .trypop core => Sys2Proof.Machine.execTrypop core s
  | .loop core => Sys2Proof.Machine.execLoop core s
  | .br core => Sys2Proof.Machine.execBr core s
  | .waitev core => Sys2Proof.Machine.execWaitev core s
  | .depmark core => Sys2Proof.Machine.execDepmark core s
  | .stamp core => Sys2Proof.Machine.execStamp core s
  | .waitevResume core => Sys2Proof.Machine.execWaitevResume core s
  | .flagReread core => Sys2Proof.Machine.execFlagReread core s
  | .tagWaitResume core waiter => Sys2Proof.Machine.execTagWaitResume core waiter s
  | .hqWaitResume core => Sys2Proof.Machine.execHqWaitResume core s
  | .tagSetTakesEffect core => Sys2Proof.Machine.execTagSetTakesEffect core s
  | .engineStop core engine => Sys2Proof.Machine.execEngineStop core engine s
  | .kernelStart core => Sys2Proof.Machine.execKernelStart core s
  | .kernelDone core => Sys2Proof.Machine.execKernelDone core s
  | .pieceIssue core mover => Sys2Proof.Machine.execPieceIssue core mover s
  | .pieceLanding core mover piece => Sys2Proof.Machine.execPieceLanding core mover piece s
  | .descDone core mover => Sys2Proof.Machine.execDescDone core mover s
  | .tlbResume stream => Sys2Proof.Machine.execTlbResume stream s
  | .finalSend core mover => Sys2Proof.Machine.execFinalSend core mover s
  | .creditTimeout core ctx => Sys2Proof.Machine.execCreditTimeout core ctx s
  | .codecBlockDone core mover piece => Sys2Proof.Machine.execCodecBlockDone core mover piece s
  | .attnUnitDone core => Sys2Proof.Machine.execAttnUnitDone core s
  | .quantumEnd core => Sys2Proof.Machine.execQuantumEnd core s
  | .mbPost page msg => Sys2Proof.Machine.execMbPost page msg s
  | .doorbellWrite ctx value => Sys2Proof.Machine.execDoorbellWrite ctx value s
  | .outPop page => Sys2Proof.Machine.execOutPop page s
  | .registerWrite page off value => Sys2Proof.Machine.execRegisterWrite page off value s
  | .ringFetch ctx => Sys2Proof.Machine.execRingFetch ctx s
  | .dispatch ctx => Sys2Proof.Machine.execDispatch ctx s
  | .launch ctx => Sys2Proof.Machine.execLaunch ctx s
  | .copy ctx => Sys2Proof.Machine.execCopy ctx s
  | .attn ctx => Sys2Proof.Machine.execAttn ctx s
  | .eventRecord ctx => Sys2Proof.Machine.execEventRecord ctx s
  | .eventWait ctx => Sys2Proof.Machine.execEventWait ctx s
  | .stepBegin ctx => Sys2Proof.Machine.execStepBegin ctx s
  | .stepEnd ctx => Sys2Proof.Machine.execStepEnd ctx s
  | .floeOpInit ctx => Sys2Proof.Machine.execFloeOpInit ctx s
  | .floeOpBind ctx => Sys2Proof.Machine.execFloeOpBind ctx s
  | .floeOpRelease ctx => Sys2Proof.Machine.execFloeOpRelease ctx s
  | .floeOpTruncate ctx => Sys2Proof.Machine.execFloeOpTruncate ctx s
  | .floeOpShare ctx => Sys2Proof.Machine.execFloeOpShare ctx s
  | .cadenceTick ctx => Sys2Proof.Machine.execCadenceTick ctx s
  | .deadline ctx => Sys2Proof.Machine.execDeadline ctx s
  | .abortDone abort => Sys2Proof.Machine.execAbortDone abort s
  | .abortEscalate abort => Sys2Proof.Machine.execAbortEscalate abort s
  | .ctxCreate page => Sys2Proof.Machine.execCtxCreate page s
  | .ctxDestroy page => Sys2Proof.Machine.execCtxDestroy page s
  | .ctxResume page => Sys2Proof.Machine.execCtxResume page s
  | .ctxAbort page => Sys2Proof.Machine.execCtxAbort page s
  | .ctxFloeConfig page => Sys2Proof.Machine.execCtxFloeConfig page s
  | .ctxInfo page => Sys2Proof.Machine.execCtxInfo page s
  | .eventSet page => Sys2Proof.Machine.execEventSet page s
  | .tuneOpen page => Sys2Proof.Machine.execTuneOpen page s
  | .tuneClose page => Sys2Proof.Machine.execTuneClose page s
  | .coreBind page => Sys2Proof.Machine.execCoreBind page s
  | .coreUnbind page => Sys2Proof.Machine.execCoreUnbind page s
  | .partitionAssign page => Sys2Proof.Machine.execPartitionAssign page s
  | .sliceConfig page => Sys2Proof.Machine.execSliceConfig page s
  | .modelInstall page => Sys2Proof.Machine.execModelInstall page s
  | .installEnd => Sys2Proof.Machine.execInstallEnd s
  | .modelInstallCancel page => Sys2Proof.Machine.execModelInstallCancel page s
  | .modelRestorePlaced page => Sys2Proof.Machine.execModelRestorePlaced page s
  | .modelRestoreEnd => Sys2Proof.Machine.execModelRestoreEnd s
  | .modelRemove page => Sys2Proof.Machine.execModelRemove page s
  | .modelRemoveEnd => Sys2Proof.Machine.execModelRemoveEnd s
  | .modelGrant page => Sys2Proof.Machine.execModelGrant page s
  | .modelRevoke page => Sys2Proof.Machine.execModelRevoke page s
  | .modelList page => Sys2Proof.Machine.execModelList page s
  | .modelDirectoryRead page => Sys2Proof.Machine.execModelDirectoryRead page s
  | .firnStatus page => Sys2Proof.Machine.execFirnStatus page s
  | .variantBuild page => Sys2Proof.Machine.execVariantBuild page s
  | .buildEnd => Sys2Proof.Machine.execBuildEnd s
  | .placedRecheckDone part => Sys2Proof.Machine.execPlacedRecheckDone part s
  | .marginScan => Sys2Proof.Machine.execMarginScan s
  | .scanDone => Sys2Proof.Machine.execScanDone s
  | .windowOpen page => Sys2Proof.Machine.execWindowOpen page s
  | .windowClose page => Sys2Proof.Machine.execWindowClose page s
  | .domainConfig page => Sys2Proof.Machine.execDomainConfig page s
  | .jobGroupSet page => Sys2Proof.Machine.execJobGroupSet page s
  | .jobGroupUnreachable => Sys2Proof.Machine.execJobGroupUnreachable s
  | .portStatus page => Sys2Proof.Machine.execPortStatus page s
  | .attest page => Sys2Proof.Machine.execAttest page s
  | .attestReportWritten => Sys2Proof.Machine.execAttestReportWritten s
  | .identityRead page => Sys2Proof.Machine.execIdentityRead page s
  | .zeroiseVolatile page => Sys2Proof.Machine.execZeroiseVolatile page s
  | .zeroiseDecommission page => Sys2Proof.Machine.execZeroiseDecommission page s
  | .debugUnlock page => Sys2Proof.Machine.execDebugUnlock page s
  | .challengeIssue page => Sys2Proof.Machine.execChallengeIssue page s
  | .timeQuery page => Sys2Proof.Machine.execTimeQuery page s
  | .traceRingConfig page => Sys2Proof.Machine.execTraceRingConfig page s
  | .countersRead page => Sys2Proof.Machine.execCountersRead page s
  | .powerRead page => Sys2Proof.Machine.execPowerRead page s
  | .faultQueueConfig page => Sys2Proof.Machine.execFaultQueueConfig page s
  | .faultReply page => Sys2Proof.Machine.execFaultReply page s
  | .tlbInvalidate page => Sys2Proof.Machine.execTlbInvalidate page s
  | .invalidateDone => Sys2Proof.Machine.execInvalidateDone s
  | .faultBatchClose => Sys2Proof.Machine.execFaultBatchClose s
  | .migrateDone part => Sys2Proof.Machine.execMigrateDone part s
  | .hostNoResponse stream => Sys2Proof.Machine.execHostNoResponse stream s
  | .transResp tag base size rights => Sys2Proof.Machine.execTransResp tag base size rights s
  | .inval ctx vaddr len => Sys2Proof.Machine.execInval ctx vaddr len s
  | .write h group data => Sys2Proof.Machine.execWrite h group data s
  | .final h group value count => Sys2Proof.Machine.execFinal h group value count s
  | .atomic h op value compare => Sys2Proof.Machine.execAtomic h op value compare s
  | .enc h group frag last data => Sys2Proof.Machine.execEnc h group frag last data s
  | .encReassemblyTimeout buf => Sys2Proof.Machine.execEncReassemblyTimeout buf s
  | .resp h status count retry old => Sys2Proof.Machine.execResp h status count retry old s
  | .retryResend core reqId => Sys2Proof.Machine.execRetryResend core reqId s
  | .remoteTimeout core reqId => Sys2Proof.Machine.execRemoteTimeout core reqId s
  | .groupExpired idx => Sys2Proof.Machine.execGroupExpired idx s
  | .nak port lseq => Sys2Proof.Machine.execNak port lseq s
  | .retryExhausted port => Sys2Proof.Machine.execRetryExhausted port s
  | .portUp port t => Sys2Proof.Machine.execPortUp port t s
  | .portRetrain port => Sys2Proof.Machine.execPortRetrain port s
  | .timeMessageSend => Sys2Proof.Machine.execTimeMessageSend s
  | .timeMessage port master tag masterTime => Sys2Proof.Machine.execTimeMessage port master tag masterTime s
  | .timeReply port delay => Sys2Proof.Machine.execTimeReply port delay s
  | .masterLost => Sys2Proof.Machine.execMasterLost s
  | .timeDistribution => Sys2Proof.Machine.execTimeDistribution s
  | .assign port m => Sys2Proof.Machine.execAssign port m s
  | .joined port count => Sys2Proof.Machine.execJoined port count s
  | .domainReady => Sys2Proof.Machine.execDomainReady s
  | .jobGroupDefinition port d => Sys2Proof.Machine.execJobGroupDefinition port d s
  | .linkTrainingEnd failedLanes reversed => Sys2Proof.Machine.execLinkTrainingEnd failedLanes reversed s
  | .linkRetrain => Sys2Proof.Machine.execLinkRetrain s
  | .trelebNak lseq => Sys2Proof.Machine.execTrelebNak lseq s
  | .recovery => Sys2Proof.Machine.execRecovery s
  | .recoveryEnd failedLanes reversed => Sys2Proof.Machine.execRecoveryEnd failedLanes reversed s
  | .cmp tag status => Sys2Proof.Machine.execCmp tag status s
  | .cmpd tag status poison => Sys2Proof.Machine.execCmpd tag status poison s
  | .completionTimeout tag => Sys2Proof.Machine.execCompletionTimeout tag s
  | .intrFailed tag => Sys2Proof.Machine.execIntrFailed tag s
  | .dramApertureAccess tag off cache len data => Sys2Proof.Machine.execDramApertureAccess tag off cache len data s
  | .snpAck line modified => Sys2Proof.Machine.execSnpAck line modified s
  | .snoopTimeout line => Sys2Proof.Machine.execSnoopTimeout line s
  | .trainDone channel ok => Sys2Proof.Machine.execTrainDone channel ok s
  | .dramPatrolScrub channel line finding => Sys2Proof.Machine.execDramPatrolScrub channel line finding s
  | .scratchpadPatrolSweep core tile granule finding => Sys2Proof.Machine.execScratchpadPatrolSweep core tile granule finding s
  | .watchdog part engine => Sys2Proof.Machine.execWatchdog part engine s
  | .heartbeat part => Sys2Proof.Machine.execHeartbeat part s
  | .heartbeatLost part => Sys2Proof.Machine.execHeartbeatLost part s
  | .tileResetRelease part => Sys2Proof.Machine.execTileResetRelease part s
  | .partitionResetEnd part => Sys2Proof.Machine.execPartitionResetEnd part s
  | .resetFailed part => Sys2Proof.Machine.execResetFailed part s
  | .rimStatus => Sys2Proof.Machine.execRimStatus s
  | .logInfo => Sys2Proof.Machine.execLogInfo s
  | .logRead logSeq => Sys2Proof.Machine.execLogRead logSeq s
  | .watchdogSet mask ms => Sys2Proof.Machine.execWatchdogSet mask ms s
  | .partitionReset part => Sys2Proof.Machine.execPartitionReset part s
  | .moduleReset force => Sys2Proof.Machine.execModuleReset force s
  | .mgmtRingSet inbound outbound vector => Sys2Proof.Machine.execMgmtRingSet inbound outbound vector s
  | .mgmtRingPoll => Sys2Proof.Machine.execMgmtRingPoll s
  | .pldmPlatformMessage r => Sys2Proof.Machine.execPldmPlatformMessage r s
  | .getVersion => Sys2Proof.Machine.execGetVersion s
  | .getCapabilities => Sys2Proof.Machine.execGetCapabilities s
  | .negotiateAlgorithms => Sys2Proof.Machine.execNegotiateAlgorithms s
  | .vendorDefinedRequest nonce => Sys2Proof.Machine.execVendorDefinedRequest nonce s
  | .requestUpdate len => Sys2Proof.Machine.execRequestUpdate len s
  | .updateStageEnd image => Sys2Proof.Machine.execUpdateStageEnd image s
  | .recoveryUpdate image => Sys2Proof.Machine.execRecoveryUpdate image s
  | .rimLockstep => Sys2Proof.Machine.execRimLockstep s
  | .sensorSample sensor reading isOpen => Sys2Proof.Machine.execSensorSample sensor reading isOpen s
  | .clamp cause level => Sys2Proof.Machine.execClamp cause level s
  | .clampRelease cause level => Sys2Proof.Machine.execClampRelease cause level s
  | .drbgReseed ok => Sys2Proof.Machine.execDrbgReseed ok s
  | .entropyHealthFail test => Sys2Proof.Machine.execEntropyHealthFail test s
  | .inputApplied mv => Sys2Proof.Machine.execInputApplied mv s
  | .powerUpStep ok => Sys2Proof.Machine.execPowerUpStep ok s
  | .inputLost => Sys2Proof.Machine.execInputLost s
  | .undervoltageLockout => Sys2Proof.Machine.execUndervoltageLockout s
  | .overvoltageLockout => Sys2Proof.Machine.execOvervoltageLockout s
  | .inputTransient peakMv => Sys2Proof.Machine.execInputTransient peakMv s
  | .eFuseTrip collapsed => Sys2Proof.Machine.execEFuseTrip collapsed s
  | .railFault rail kind reading => Sys2Proof.Machine.execRailFault rail kind reading s
  | .senseOpen rail => Sys2Proof.Machine.execSenseOpen rail s
  | .pmicFault channel status => Sys2Proof.Machine.execPmicFault channel status s
  | .thermalTrip => Sys2Proof.Machine.execThermalTrip s
  | .engineInstructionCompletes core engine => Sys2Proof.Machine.execEngineInstructionCompletes core engine s
  | .idle port lack => Sys2Proof.Machine.execIdle port lack s
  | .trelebIdle lack => Sys2Proof.Machine.execTrelebIdle lack s
  | .controlUncorrectable part => Sys2Proof.Machine.execControlUncorrectable part s
  | .hubFault cause => Sys2Proof.Machine.execHubFault cause s
  | .rimStart => Sys2Proof.Machine.execRimStart s
  | .logRecordProgrammed => Sys2Proof.Machine.execLogRecordProgrammed s
  | .i3cDynamicAddress addr => Sys2Proof.Machine.execI3cDynamicAddress addr s
  | .stepUpTakesEffect core => Sys2Proof.Machine.execStepUpTakesEffect core s

end Sys2Proof.Machine
end

