-- ==== Sys2Proof/Safety.lean ====
section
/-!
DEFINITION. The vocabulary of the model's statements: what it is for a command to run, when a core's word issues, when a
message is taken, what a command leaves alone, and what a good state is.
-/
namespace Sys2Proof.Machine

/-- A command runs: it answers a next state that satisfies `P`, and the commands that wait are those that waited. -/
def Answers (i : Instr) (s : State) (P : State → Prop) : Prop :=
  ∃ t, exec i s = .next t ∧ t.pending = s.pending ∧ P t

/-- The block without its stamps, record counts and log. -/
def Block.muted (b : Block) : Block :=
  { b with islands := [], rim := { b.rim with logQ := [], logSeq := 0, dropped := 0, overflow := 0 } }

/-- The block without what trace records and log records change: stamps, rings, the log's queue, the memory that holds
rings and the Treleb requests that carry records. -/
def Block.quiet (b : Block) : Block :=
  { b.muted with
    rings := [], hostMem := [], hostPoison := []
    dram := { b.dram with mem := [], poison := [], fails := [] }
    treleb := { b.treleb with nextTag := 0, txSeq := 0, buf := [], reqs := [] } }

/-- Beside what `f` hides, `c` is `b` after some trace records and log records (R35, R40, R483): with no ring placed, only
stamps and the log differ. -/
def Leaves (f : Block → Block) (b c : Block) : Prop :=
  f c.quiet = f b.quiet ∧ ((∀ r, (b.ring r).placed = none) → f c.muted = f b.muted)

/-- `c` is `b` after some trace records and log records, and nothing else differs. -/
def Traced (b c : Block) : Prop := Leaves id b c

/-- The word at a core's PC is the instruction `id` and issues now: the core runs `r`, the word and the registers it uses
can be read (R95, R121), and no register interlock holds it (R94, R102, R119). -/
abbrev State.Issues (s : State) (core id : Nat) (r : Run) : Prop :=
  s.running core = some r ∧ (s.core core).wordBad r = false ∧ wordId r.word = some id ∧
    (s.core core).interlocked r = false ∧ r.regBad = false

/-- Operands of a scalar form (R106). -/
def Run.x (r : Run) : W64 := r.q.sel (wf_ r.word 108 102)
def Run.y (r : Run) : W64 := if bit r.word.toNat 94 then BitVec.ofNat 64 (wf_ r.word 63 0) else r.q.sel (wf_ r.word 101 95)

/-- The iteration count of a LOOP word (R112). -/
def Run.loopCount (r : Run) : Nat := if bit r.word.toNat 123 then (r.q.sreg (wf_ r.word 75 70)).toNat else wf_ r.word 63 32

/-- The second operand of a BR word (R114). -/
def Run.brY (r : Run) : W64 := if bit r.word.toNat 107 then BitVec.ofNat 64 (wf_ r.word 63 0) else r.q.sreg (wf_ r.word 113 108)

/-- Sequencer state after an instruction that does not branch and does not wait. -/
def SeqState.next (q : SeqState) : SeqState := { q.advance with wait := .none }

/-- No byte of any memory of the machine differs. -/
def sameBytes (s t : State) : Prop :=
  (∀ a, Mem.byte t.hostMem a = Mem.byte s.hostMem a) ∧ (∀ a, Mem.byte t.dram.mem a = Mem.byte s.dram.mem a) ∧
    (∀ a, Mem.byte t.firn.mem a = Mem.byte s.firn.mem a) ∧
    (∀ c a, Mem.byte (t.core c).scratch a = Mem.byte (s.core c).scratch a) ∧
    (∀ p a, Mem.byte (t.part p).tile a = Mem.byte (s.part p).tile a)

/-- Clock islands may have taken stamps (R24, R35); nothing else of them differs. -/
def stampsOnly (s t : State) : Prop :=
  ∀ i, (t.island i).skew = (s.island i).skew ∧ (t.island i).seq = (s.island i).seq ∧ (s.island i).last ≤ (t.island i).last

/-- Nothing but one context's sequencer state on one core, the time of that sequencer's last progress, and stamps, differs. -/
def onlySeq (s t : State) (core ctx : Nat) : Prop :=
  (∀ c, c ≠ core → t.core c = s.core c) ∧ (∀ x, x ≠ ctx → (t.core core).seq x = (s.core core).seq x) ∧
    { t.core core with seqs := [], seqProg := 0 } = { s.core core with seqs := [], seqProg := 0 } ∧
    { t.toBlock with cores := [], islands := [] } = { s.toBlock with cores := [], islands := [] } ∧ stampsOnly s t ∧ sameBytes s t

/-- The instruction `id` of a core, where `ok` holds, leaves its context's sequencer at `q'` and nothing else changed. -/
def Sequences (i : Instr) (core id : Nat) (ok : State → Run → Prop) (q' : State → Run → SeqState) : Prop :=
  ∀ s r, s.Issues core id r → ok s r →
    Answers i s (fun t => (t.core core).seq r.ctx = q' s r ∧ onlySeq s t core r.ctx)

/-- A scalar form of VEC: operation, and the value it writes (R106, R107). -/
def Scalar (mk : Nat → Instr) (op : Nat) (f : W64 → W64 → W64) : Prop :=
  ∀ core, Sequences (mk core) core (0x200 + op) (fun _ _ => True)
    (fun _ r => (r.q.setSel (wf_ r.word 115 109) (f r.x r.y)).next)

/-- Nothing but one core, and stamps, differs. -/
def onlyCore (s t : State) (core : Nat) : Prop :=
  (∀ c, c ≠ core → t.core c = s.core c) ∧
    { t.toBlock with cores := [], islands := [] } = { s.toBlock with cores := [], islands := [] } ∧ stampsOnly s t

/-- Two names of handle queues, each a binding's POSITION with a QSEL, name one queue (R111, R160). -/
def sameQueue (p q p' q' : Nat) : Prop := q = q' ∧ (16 ≤ q ∨ p = p')

/-- Handle queue `qsel` of the core, as the binding `bd` sees it, holds `l`, and beside it one context's sequencer state,
prefetch entries and stamps nothing differs (R111, R164). -/
def onlyQueue (s t : State) (core ctx : Nat) (bd : Binding) (qsel : Nat) (l : List W32) : Prop :=
  t.queueOf core bd qsel = some l ∧ (∀ bd' q, ¬ sameQueue bd.pos qsel bd'.pos q → t.queueOf core bd' q = s.queueOf core bd' q) ∧
    (∀ c, c ≠ core → t.core c = s.core c) ∧ (∀ p, { t.part p with tqs := [] } = { s.part p with tqs := [] }) ∧
    (∀ x, x ≠ ctx → (t.core core).seq x = (s.core core).seq x) ∧
    { t.core core with seqs := [], seqProg := 0, hq := [], movers := [] } = { s.core core with seqs := [], seqProg := 0, hq := [], movers := [] } ∧
    { t.toBlock with cores := [], parts := [], islands := [] } = { s.toBlock with cores := [], parts := [], islands := [] } ∧
    stampsOnly s t ∧ sameBytes s t

/-- The landing descriptor of a mover and a piece of it that goes unconverted and untagged to the space `sp` on the core's
own tile, or at its VIRT address, with nothing poisoned and no earlier write of the mover to the same granules due (R163). -/
abbrev State.PlainLanding (s : State) (core m i : Nat) (d : Desc) (p : Piece) (sp : Nat) : Prop :=
  s.coreUp core = true ∧ m < 4 ∧ ((s.core core).mover m).landHead = some d ∧ d.pieces[i]? = some p ∧ d.dstSp = sp ∧
    d.dstTag = 0 ∧ d.convert = false ∧ d.transpose = false ∧ p.poison = [] ∧
    s.landWaits core m d [((d.dstRow p.row + p.off) % 2 ^ 64, p.len)] = false

/-- The entry `e` of a context is dispatched, is the oldest of its operation and takes its turn now (R340). -/
abbrev State.RingTurn (s : State) (ctx op : Nat) (e : Entry) : Prop :=
  s.serves ctx = true ∧ (s.ctx ctx).turn op = some e ∧ (s.ctx ctx).entry? e.seq = some e

/-- The entry of a sequence number has ended with a status (R344, R345, R358): it is finished or completed with it, or the
completed sequence number covers it, whose word is written, with its record where one is due. -/
def State.Ended (t : State) (ctx seq st : Nat) : Prop :=
  (∃ e ∈ (t.ctx ctx).entries, e.seq = seq ∧ (e.state = .finished ∨ e.state = .completed) ∧ e.status = st) ∨
    ((∀ e ∈ (t.ctx ctx).entries, e.seq ≠ seq) ∧
      (∃ w ∈ (t.ctx ctx).doneQ, w.kind = 1 ∧ w.data = natLe 8 (t.ctx ctx).doneSeq) ∧
      (st ≠ stOK → (t.ctx ctx).recLog2 ≠ 0 → ∃ w ∈ (t.ctx ctx).doneQ, w.kind = 2 ∧ w.seq = seq ∧ fld w.data 16 1 = st % 256))

/-- The parameter block `p` of a FLOE_OP can be read, names SUBOP `k` and a sequence of the configuration `f` to which the
step has not appended, and sets no reserved byte; no earlier ATTN of the ring has still to begin (R281). -/
abbrev State.FloeBlock (s : State) (ctx : Nat) (e : Entry) (f : FloeCfg) (p : List Byte) (k : Nat) : Prop :=
  (s.ctx ctx).floe = some f ∧ (s.ctx ctx).behind e.seq (fun y => y.op == 3) = false ∧
    s.feStall ctx [(fld e.raw 16 8, 64)] 1 = none ∧ s.feRead ctx (fld e.raw 16 8) 64 = .ok p ∧ fld p 0 1 = k ∧
    floeBlockOk p = true ∧ fld p 4 4 < f.seqs ∧ (s.ctx ctx).appended.contains (fld p 4 4) = false

/-- The FLOE_OP of SUBOP `k` does `work` on the block `b` it finds, with the record `r`, and its entry ends OK, or with the
status of what stood against it (R281, R290). -/
def FloeForm (mk : Nat → Instr) (k : Nat) (found : State → Nat → Entry → FloeCfg → List Byte → Block → SeqRec → Prop)
    (work : Block → Nat → FloeCfg → SeqRec → List Byte → FloeRes) : Prop :=
  ∀ ctx s e f p b r, s.RingTurn ctx 8 e → s.FloeBlock ctx e f p k → found s ctx e f p b r →
    ((work b ctx f r p).2 = none →
      Answers (mk ctx) s (fun t => t.toBlock = (work b ctx f r p).1.finishEntry ctx e.seq stOK [])) ∧
    ∀ er, (work b ctx f r p).2 = some er → er.st < stWait →
      Answers (mk ctx) s (fun t => t.toBlock = ((work b ctx f r p).1.opFailed ctx none er).finishEntry ctx e.seq er.st [])

/-- A FLOE_OP finds a live record of its sequence. -/
abbrev FloeFound (s : State) (ctx : Nat) (e : Entry) (f : FloeCfg) (p : List Byte) (b : Block) (r : SeqRec) : Prop :=
  s.seqRec ctx none f (fld p 4 4) = .ok r ∧ r.live = true ∧
    b = (s.toBlock.feSeen ctx (fld e.raw 16 8) 64).opSeen ctx none [(f.recAt (fld p 4 4), 32)]

/-- The reset of a partition has begun (R461): its state and trigger, its contexts in RESETTING or DESTROYING, and no work
left on its cores. -/
def State.ResetBegun (s t : State) (part trigger : Nat) : Prop :=
  (t.part part).state = 1 ∧ (t.part part).resetStep = 1 ∧ (t.part part).trigger = trigger ∧ (t.part part).resetAt = t.time.keeper ∧
    (t.part part).resets = (s.part part).resets + 1 ∧
    (∀ ctx < 64, (s.ctx ctx).part = part → (s.ctx ctx).state ≠ 0 → (t.ctx ctx).state = if (s.ctx ctx).state = 4 then 4 else 3) ∧
    (∀ i < 4, let k := t.core (4 * part + i)
      k.kernels = [] ∧ k.waiting = [] ∧ k.units = [] ∧ k.array = [] ∧ k.vector = [] ∧ k.sfu = [] ∧ k.tagOps = [] ∧ k.live = [] ∧
        k.groups = [] ∧ k.hq = [] ∧ k.seqs = [] ∧ ∀ m, k.mover m = {}) ∧
    ∀ p, p ≠ part → (t.part p).state = (s.part p).state

/-- A message's operation is in execution, and an abort of a context at a scope is under way for it (R323, R368). -/
def State.Aborting (s t : State) (page : Nat) (m : List Byte) (ctx scope : Nat) : Prop :=
  (∃ a, t.aborts = s.aborts ++ [a] ∧ a.id = s.abortId ∧ a.ctx = ctx ∧ a.scope = scope ∧ a.page = some page ∧ a.t0 = t.time.keeper) ∧
    (∃ o, (t.mbox page).busy = some o ∧ o.opcode = mOp m ∧ o.tag = mTag m ∧ o.ctx = mCtx m ∧ o.payload = mPl m ∧
      o.aborts.contains s.abortId = true ∧ o.replied = false) ∧
    (∀ p, p ≠ page → t.mbox p = s.mbox p) ∧ (∀ c, (t.core c).scratch = (s.core c).scratch) ∧ (∀ p, (t.part p).tile = (s.part p).tile)

/-- The module is halted (R467): Treleb is down, MOD_READY has fallen, the Rim controller is in HALTED, and no Weave port is up
or training. Cores, contexts and stores keep what they hold. -/
def State.Halted (s t : State) : Prop :=
  t.halted = true ∧ t.treleb.state = 0 ∧ t.power = { s.power with ready := false, step := 0 } ∧ t.rim.state = 3 ∧ t.rim.rings = none ∧
    t.rim.update = none ∧ (∀ p ∈ t.weave.ports, p.2.state ≠ 1 ∧ p.2.state ≠ 2) ∧ { t.weave with ports := [] } = { s.weave with ports := [] } ∧
    Leaves (fun b => { b with halted := false, power := {}, rim := {}, treleb := {}, weave := {}, freeCtr := 0, sec := {}, parts := [] })
      s.toBlock t.toBlock

/-- A message was a repeat (R321): beside its mailbox, nothing but trace, log and the count of repeats of its context differs. -/
def State.OnlyRepeat (s t : State) (page : Nat) (m : List Byte) : Prop :=
  (∀ p, p ≠ page → t.mbox p = s.mbox p) ∧
    (∀ x, t.ctx x = if x = msgCtx page m ∧ x < 64 ∧ (s.ctx x).state ≠ 0 then { s.ctx x with mbRepeats := (s.ctx x).mbRepeats + 1 } else s.ctx x) ∧
    Leaves (fun b => { b with mboxes := [], ctxs := [] }) s.toBlock t.toBlock

/-- The engine instruction `id` of a core, where its checks `ok` hold and its queue has a place, enters queue `e` and the
sequencer goes on to `next` (R119). -/
def EngineIssues (mk : Nat → Instr) (id e : Nat) (ok : State → Nat → Run → Prop) (next : Run → SeqState) : Prop :=
  ∀ core s r, s.Issues core id r → ok s core r → ((s.core core).engineQ e).length < engineDepth e →
    Answers (mk core) s (fun t => onlyCore s t core ∧
      (t.core core).seq r.ctx = { next r with wait := .none } ∧
      (t.core core).issueCtr = (s.core core).issueCtr + 1 ∧
      ({ t.core core with seqs := [], seqProg := 0, issueCtr := 0, array := [], vector := [], sfu := [], arrProg := 0, vecProg := 0, sfuProg := 0 } =
        { s.core core with seqs := [], seqProg := 0, issueCtr := 0, array := [], vector := [], sfu := [], arrProg := 0, vecProg := 0, sfuProg := 0 }) ∧
      (∀ e', e' < 3 → e' ≠ e → (t.core core).engineQ e' = (s.core core).engineQ e') ∧
      ∃ o : EngOp, (t.core core).engineQ e = (s.core core).engineQ e ++ [o] ∧ o.word = r.word ∧ o.ctx = r.ctx ∧
        o.kid = r.ker.kid ∧ o.pc = r.q.pc ∧ o.id = (s.core core).issueCtr ∧ o.swap = (s.core core).swap)

/-- A vector form of operation `op` issues to the vector engine where R144 finds nothing wrong. -/
def VecIssues (mk : Nat → Instr) (op : Nat) : Prop :=
  EngineIssues mk (0x200 + op) 1 (fun s _ r => vecCheck s.toBlock r = none) Run.vecNext

/-- A special function issues to the SFU with 1 to 512 active lanes. -/
def SfuIssues (mk : Nat → Instr) (fn : Nat) : Prop :=
  EngineIssues mk (0x300 + fn) 2 (fun _ _ r => 1 ≤ wf_ r.word 109 100 ∧ wf_ r.word 109 100 ≤ 512) (·.q.advance)

/-- The operation `op` gives each active lane of VD the value `f` and leaves every other lane alone. -/
def LaneForm (op : Nat) (f : SeqState → W128 → Nat → Nat → W32) : Prop :=
  ∀ (q : SeqState) (w : W128) (sv v i : Nat), wf_ w 123 116 = op → nelem w ≤ 512 → v < 32 → i < 512 →
    (q.vecOp w sv).lane v i = if v = wf_ w 115 111 ∧ i < nelem w then f q w sv i else q.lane v i

/-- Operand lanes of a vector form. -/
def vaLane (q : SeqState) (w : W128) (i : Nat) : W32 := q.lane (wf_ w 110 106) i
def vbLane (q : SeqState) (w : W128) (i : Nat) : W32 := q.lane (wf_ w 105 101) i
def vcLane (q : SeqState) (w : W128) (i : Nat) : W32 := q.lane (wf_ w 100 96) i

/-- The head `o` of an engine queue may execute now and finds nothing wrong in its data. -/
abbrev State.HeadRuns (s : State) (core engine : Nat) (o : EngOp) (rest : List EngOp) : Prop :=
  s.coreUp core = true ∧ engine ≤ 2 ∧ (s.core core).engineQ engine = o :: rest ∧ (s.core core).headReady o = true ∧
    s.engineFault core o = none

/-- A control message is taken on a port: it is UP and the module is not halted (R404, R413). -/
abbrev State.Hears (s : State) (port : Nat) : Prop := (s.port port).state = 2 ∧ s.halted = false

/-- The block once a port has taken a control message: the next one is expected (R404). -/
def State.heard (s : State) (port : Nat) : Block :=
  s.toBlock.setPort port { s.port port with rxSeq := ((s.port port).rxSeq + 1) % 4096, rxAt := s.time.keeper }

/-- A time message that a module of a domain takes from its parent (R31, R416). -/
abbrev State.HearsTime (s : State) (port master : Nat) (tag : W64) : Prop :=
  s.Hears port ∧ s.weave.domain.tag = tag ∧ (s.weave.domain.state = 2 ∨ s.weave.domain.state = 4) ∧ s.weave.domain.master = master ∧
    s.weave.domain.parent = some port

/-- A request packet is taken from its port for this module (R404, R410, R414). -/
abbrev State.Arrives (s : State) (h : Pkt) : Prop :=
  (s.port h.port).state = 2 ∧ s.halted = false ∧ h.crcOk = true ∧ h.lseq = (s.port h.port).rxSeq ∧
    s.weave.domain.idValid = true ∧ h.dst = s.self

/-- A request for `n` bytes at `off` arrives and passes every check of R424 at its window, and nothing at the window's stores
stands against it (R238, R265, R303, R444). -/
abbrev State.Inbound (s : State) (h : Pkt) (w : Window) (off n : Nat) (atomic : Bool) : Prop :=
  s.Arrives h ∧ s.window? h.window = some w ∧
    (h.inStep = false ∨ h.step = 0 ∨ stepAbove h.step (s.ctx w.ctx).retired = true) ∧ (s.part (s.ctx w.ctx).part).state ≠ 1 ∧
    (∃ p ∈ w.peers, p.1 = h.src ∧ (p.2 = none ∨ p.2 = some h.ctx)) ∧ off + n ≤ w.len ∧ (atomic = true → w.atomics = true) ∧
    s.winCheck w off n = stOK ∧ s.winSnooped w off n = []

/-- The response to a request (R402, R403). -/
def respOut (self : Nat) (h : Pkt) (st : Nat) (old : Option W64) : Out :=
  { type := 0x20, inStep := h.inStep, last := false, ctx := h.ctx, core := h.core, dst := h.src, src := self, window := h.window,
    reqId := h.reqId, poison := 0, addr := st, step := h.step,
    payload := match old with | some v => natLe 8 v.toNat ++ natLe 8 0 | none => [] }

/-- A request is answered OK: where a port leads to its source, the response is in that port's retry buffer. -/
def State.Responds (s t : State) (h : Pkt) (old : Option W64) : Prop :=
  ∀ dir p, s.weave.domain.route s.self h.src = some dir → (s.linkAccept h).1.pickPort dir = some p →
    ∃ x ∈ (t.port p).buf, ∃ vc lack, x.bytes = (respOut s.self h stOK old).bytes vc x.lseq lack

/-- What landed in a window is `data` and nothing else changed in a tile buffer, nor in the DRAM tier where it holds no
trace ring. -/
def State.Lands (s t : State) (w : Window) (off : Nat) (data : List Byte) (bad : List Nat) : Prop :=
  (∀ p, (t.part p).tile = ((s.toBlock.winWrite w off data bad).part p).tile) ∧
    ((∀ r, (s.ring r).placed = none) → t.dram = (s.toBlock.winWrite w off data bad).dram)

/-- The access of a parked stream has faulted: its fault is pending with its kind, and the stream waits for it (R303). -/
def State.Faulted (s t : State) (stream va acc kind level : Nat) : Prop :=
  ((t.core (stream / 4)).mover (stream % 4)).park = .fault s.faults.nextId ∧
    (t.ctx ((s.core (stream / 4)).mover (stream % 4)).parkCtx).parked = (s.ctx ((s.core (stream / 4)).mover (stream % 4)).parkCtx).parked + 1 ∧
    ∃ f, t.faults.pending = s.faults.pending ++ [f] ∧ f.id = s.faults.nextId ∧ f.va = va ∧ f.access = acc ∧ f.kind = kind ∧
      f.level = level ∧ f.ctx = ((s.core (stream / 4)).mover (stream % 4)).parkCtx ∧ f.written = false

/-- No TLB of the module holds a translation of a context's range (R307). -/
def State.NoTranslation (t : State) (ctx va len : Nat) : Prop :=
  (∀ p < 4, ∀ e ∈ (t.part p).tlb, e.ctx = ctx → inRange va len e.va e.size = false) ∧
    ∀ c < 16, ∀ m < 4, ∀ e ∈ ((t.core c).mover m).utlb, e.ctx = ctx → inRange va len e.va e.size = false

/-- The companion may access `n` bytes of the DRAM tier through the aperture (R440). -/
abbrev State.ApertureOpen (s : State) (off n : Nat) : Prop :=
  s.treleb.state = 2 ∧ s.halted = false ∧ s.treleb.dramBase.toNat % 2 = 1 ∧ off < 2 ^ 42 ∧ 1 ≤ n ∧ n ≤ 256 ∧ off % 4096 + n ≤ 4096

/-- Start-up is at its first step with nothing of the package's earlier state (R490, R518). -/
def State.Restarted (t : State) : Prop :=
  t.power.state = 1 ∧ t.power.step = 1 ∧ t.power.ready = false ∧ t.rim.state = 0 ∧ t.rim.update = none ∧ t.rim.rings = none ∧
    t.halted = false ∧ t.cores = [] ∧ t.ctxs = [] ∧ t.dram = {} ∧ t.weave = {} ∧ t.treleb = {} ∧ t.faults = {}

/-- The module is OFF and keeps what flash, Firn and host memory hold (R485, R512). -/
def State.PoweredOff (s t : State) : Prop :=
  t.power = {} ∧ t.rim.state = 0 ∧ t.rim.logQ = [] ∧ t.rim.log = s.rim.log ∧ t.rim.image = s.rim.image ∧ t.cores = [] ∧ t.ctxs = [] ∧
    t.dram = {} ∧ t.firn.mem = s.firn.mem ∧ t.hostMem = s.hostMem

/-- The module is in PROTECTED_OFF, stopped (R512, R517). -/
def State.Protected (t : State) : Prop :=
  t.power.state = 4 ∧ t.power.step = 0 ∧ t.power.ready = false ∧ t.halted = true ∧ t.treleb.state = 0 ∧ t.power.level = 0 ∧
    ∀ r, SSet.has t.power.rails r = true → r = 25 ∨ r = 26

/-- A partition's key pair is the DRBG's output of the draws numbered `n` and `n + 1` (R256). -/
def State.Keyed (t : State) (p n : Nat) : Prop :=
  (t.part p).keys = padTo 0#8 32 (Config.drbgBytes n) ++ padTo 0#8 32 (Config.drbgBytes (n + 1))

/-- The island's secrets and the tune seeds are cleared, and every partition is under reset with a new key pair of its own
(R257, R504). -/
def State.Zeroised (s t : State) : Prop :=
  t.sec.content = none ∧ t.sec.challenge = none ∧ (∀ x u, (t.ctx x).tune = some u → u.seed = 0#64) ∧
    ∃ n : Nat → Nat, (∀ p < 4, (t.part p).state = 1 ∧ s.freeCtr ≤ n p ∧ t.Keyed p (n p)) ∧ ∀ p < 4, ∀ q < p, n q + 2 ≤ n p

/-- A message's token and signature can be read (R505). -/
abbrev State.TokenRead (s : State) (page : Nat) (m token sig : List Byte) : Prop :=
  fld (mPl m) 8 8 % 64 = 0 ∧ (s.mbTake page m).bufRead page (fld (mPl m) 8 8) 15808 = some token ∧
    (s.mbTake page m).bufRead page (fld (mPl m) 16 8) 7856 = some sig

/-- The message `m`, of opcode `op`, is alone in a page's inbound queue and may execute now (R318, R320, R321). -/
abbrev State.Turn (s : State) (page op : Nat) (m : List Byte) : Prop :=
  s.mbTurn page op = some m ∧ (s.mbox page).inq = [m]

/-- A page's outbound queue holds the reply to a message (R319). -/
def State.Replied (t : State) (page : Nat) (m : List Byte) (st : Nat) (pl : List Byte) : Prop :=
  mbBytes (mOp m) (mTag m) (mCtx m) 1 st pl ∈ (t.mbox page).outq

/-- Wherever `ok` holds of a message of opcode `op` whose turn it is, it executes: it is answered with the status `st` and the
payload `pl`, and beside the page's mailbox, trace and log, the block is then `eff` (R318, R319). -/
def Message (mk : Nat → Instr) (op : Nat) (ok : State → Nat → List Byte → Prop) (st : Nat) (pl : State → Nat → List Byte → List Byte)
    (eff : State → Nat → List Byte → Block) : Prop :=
  ∀ page s m, s.Turn page op m → ok s page m →
    Answers (mk page) s (fun t => t.Replied page m st (pl s page m) ∧ (t.mbox page).inq = [] ∧ (∀ p, p ≠ page → t.mbox p = s.mbox p) ∧
      Leaves (fun b => { b with mboxes := [] }) (eff s page m) t.toBlock)

/-- The buffer of R332 that a message names can be written with `d`, nothing stands against the access, and `d` is what fits. -/
abbrev State.BufferOpen (s : State) (page : Nat) (m : List Byte) (d : List Byte) : Prop :=
  fld (mPl m) 8 8 % 64 = 0 ∧ (page < 64 → s.feStall page [(fld (mPl m) 8 8, d.length)] 2 = none) ∧
    ((s.mbTake page m).bufWrite page (fld (mPl m) 8 8) d).2 = true

/-- The block after the record `d` has been written to the buffer that a message names. -/
def State.buffered (s : State) (page : Nat) (m d : List Byte) : Block :=
  ((s.mbTake page m).bufWrite page (fld (mPl m) 8 8) d).1

/-- The unsolicited message that ends an operation is in the admin page's queue or waits for a place there (R322). -/
def State.Noticed (t : State) (page op tag ctx st : Nat) (pl : List Byte) : Prop :=
  mbBytes op tag ctx 3 st pl ∈ (t.mbox page).outq ∨ mbBytes op tag ctx 3 st pl ∈ (t.mbox page).notices

/-- A token with no reason against it is used up and its work, with a zeroisation, is done; another is refused with its reason
and the island keeps its secrets (R505). -/
def State.ActsOnToken (s t : State) (page : Nat) (m : List Byte) (reason : Nat) (done : Prop) : Prop :=
  if reason = 0 then s.Zeroised t ∧ done
  else t.sec = s.sec ∧ t.parts = s.parts ∧ t.Replied page m stInvalid [BitVec.ofNat 8 reason]

/-- The DRAM tier, Firn and host memory list rising keys and no byte equal to what an unlisted address reads as. -/
structure Block.Canon (b : Block) : Prop where
  host  : Mem.wf b.hostMem = true
  dram  : Mem.wf b.dram.mem = true
  firn  : Mem.wf b.firn.mem = true

/-- The module-wide states are ones that the manual names (R32, R412, R437, R474, R498, R512), and the time keeper holds 64 bits
(R28). -/
structure Block.Legal (b : Block) : Prop where
  keeper : b.time.keeper ≤ timeEnd
  time   : b.time.state ≤ 3
  treleb : b.treleb.state ≤ 3
  power  : b.power.state ≤ 4
  rim    : b.rim.state ≤ 4
  sec    : b.sec.state ≤ 2
  domain : b.weave.domain.state ≤ 5

end Sys2Proof.Machine
end

