-- ==== Sys2Proof/Certificates/Slice0/Obligations.lean ====
section
/-!
DEFINITION. What the model claims, for the provers: each statement formalises rules of the manual, named in its text. A claim whose
text says so rests on a choice of the model instead, named in the assumption log.
-/
open Sys2Proof Sys2Proof.Machine

/-- Each command is taken from the front of the queue and run on the state with the rest waiting. -/
def Obligations.StepRunsTheFrontCommand : Prop :=
  ∀ (s : State) (c : Instr) (rest : List Instr), s.pending = c :: rest → step s = exec c { s with pending := rest }

/-- Waiting commands run in the order in which they wait, whatever each of them does.
On an empty queue a nanosecond of domain time passes where the hub runs, and nothing else changes: the model's own
choice (assumption log 2). -/
def Obligations.TheQueueRunsInOrder : Prop :=
  (
  ∀ (cs rest : List Instr) (s : State), s.pending = cs ++ rest →
    ∃ run : List State, run.length = cs.length + 1 ∧ run.head? = some s ∧
      (∀ i, (h : i < cs.length) → ∃ a b, run[i]? = some a ∧ run[i + 1]? = some b ∧ a.pending = cs.drop i ++ rest ∧
        step a = .next b ∧ step a = exec cs[i] { a with pending := cs.drop (i + 1) ++ rest }) ∧
      (∃ t, run.getLast? = some t ∧ t.pending = rest)
  ) ∧
  (
  ∀ s : State, s.pending = [] → ∃ t, step s = .next t ∧ t.pending = [] ∧
    t.time.keeper = s.time.keeper + (if s.hubRuns then 1 else 0) ∧
    { t.toBlock with time := s.time } = s.toBlock
  )

/-- R107: what the two-operand scalar forms write, with the destination's PC past them and nothing else changed; a write
to s0 is discarded by `setSel`.
R107: LDP reads the parameter page, LIDX the index of an active loop level, the outermost being 0, and TIME the stamp
counter of the core's array island.
R91, R93: s0 reads zero and discards writes; any other register reads back what was written, its word then passes its WCC
check, and no other register changes. -/
def Obligations.ScalarFormsWriteTheirResults : Prop :=
  (
  Scalar .add 0x00 (fun x y => x + y) ∧ Scalar .sub 0x01 (fun x y => x - y) ∧ Scalar .mul 0x02 (fun x y => x * y) ∧
  Scalar .and 0x03 (fun x y => x &&& y) ∧ Scalar .or 0x04 (fun x y => x ||| y) ∧ Scalar .xor 0x05 (fun x y => x ^^^ y) ∧
  Scalar .shl 0x06 (fun x y => x <<< (y.toNat % 64)) ∧ Scalar .shr 0x07 (fun x y => x >>> (y.toNat % 64)) ∧
  Scalar .sar 0x08 (fun x y => x.sshiftRight (y.toNat % 64)) ∧
  Scalar .minu 0x09 (fun x y => BitVec.ofNat 64 (Nat.min x.toNat y.toNat)) ∧
  Scalar .maxu 0x0A (fun x y => BitVec.ofNat 64 (Nat.max x.toNat y.toNat)) ∧
  Scalar .min 0x0B (fun x y => BitVec.ofInt 64 (Min.min x.toInt y.toInt)) ∧
  Scalar .max 0x0C (fun x y => BitVec.ofInt 64 (Max.max x.toInt y.toInt))
  ) ∧
  (
  (∀ core, Sequences (.ldp core) core 0x20D (fun _ r => (r.x + r.y).toNat % 8 = 0 ∧ (r.x + r.y).toNat < 4096 ∧
      poisonedIn 16 r.bind.paramBad (r.x + r.y).toNat 8 = [])
    (fun _ r => (r.q.setSel (wf_ r.word 115 109) (BitVec.ofNat 64 (leNat (Mem.bytes r.bind.params (r.x + r.y).toNat 8)))).next)) ∧
  (∀ core, Sequences (.lidx core) core 0x20E (fun _ r => r.y.toNat < r.q.loops.length)
    (fun _ r => (r.q.setSel (wf_ r.word 115 109)
      (BitVec.ofNat 64 ((r.q.loops.reverse[r.y.toNat]?).elim 0 LoopLevel.index))).next)) ∧
  (∀ core, Sequences (.time core) core 0x20F (fun _ _ => True)
    (fun s r => (r.q.setSel (wf_ r.word 115 109) (BitVec.ofNat 64 (s.counter (arrIsl core)))).next))
  ) ∧
  (
  (∀ q : SeqState, q.sel 0 = 0#64 ∧ ∀ v, q.setSel 0 v = q) ∧
  (∀ (q : SeqState) (n : Nat) (v : W64), n ≠ 0 → n < 80 → (q.setSel n v).sel n = v) ∧
  (∀ (q : SeqState) (n m : Nat) (v : W64), n < 80 → m < 80 → m ≠ n → (q.setSel n v).sel m = q.sel m) ∧
  (∀ (q : SeqState) (n m : Nat) (v : W64), n ≠ 0 → n < 80 → SSet.has (q.setSel n v).bad m = (decide (m ≠ n) && SSet.has q.bad m)) ∧
  (∀ (q : SeqState) (n : Nat) (v : W64), { q.setSel n v with s := q.s, a := q.a, bad := q.bad } = q)
  )

/-- R113: past an instruction that ends no level the PC rises by one; past the last instruction of the innermost level
with iterations left, its increments are applied, one iteration is done and the PC is the body's first instruction;
past a last iteration the level closes and the outer level decides.
R112: LOOP opens a level of `count` iterations over the next `len` instructions, or with a count of zero passes over
them.
R114: BR compares as its condition says; taken inside the program it goes to PC plus its signed offset and leaves the
levels whose body does not hold the target, not taken it passes on. -/
def Obligations.LoopsAndBranchesMoveThePc : Prop :=
  (
  (∀ q : SeqState, (∀ l ∈ q.loops.head?, l.last ≠ q.pc) → q.advance = { q with pc := (q.pc + 1) % 32768 }) ∧
  (∀ (q : SeqState) (l : LoopLevel) (rest : List LoopLevel), q.loops = l :: rest → l.last = q.pc → 1 < l.remaining →
    q.advance = { l.bump q with
      loops := { l with remaining := l.remaining - 1, index := l.index + 1 } :: rest, pc := l.first }) ∧
  (∀ (q : SeqState) (l : LoopLevel) (rest : List LoopLevel), q.loops = l :: rest → l.last = q.pc → l.remaining ≤ 1 →
    q.advance = { l.bump q with loops := rest }.advance)
  ) ∧
  (
  (∀ core, Sequences (.loop core) core 0x700
    (fun _ r => 1 ≤ wf_ r.word 119 104 ∧ wf_ r.word 119 104 ≤ 32767 ∧ 1 ≤ r.loopCount ∧ r.loopCount < 2 ^ 32 ∧
      r.q.pc + wf_ r.word 119 104 < r.ker.words ∧
      (∀ l ∈ r.q.loops.head?, r.q.pc + wf_ r.word 119 104 ≤ l.last) ∧ r.q.loops.length < 4)
    (fun _ r => { r.q with
      loops := ⟨r.loopCount, 0, r.q.pc + 1, r.q.pc + wf_ r.word 119 104,
        if bit r.word.toNat 96 then some (wf_ r.word 103 97, wf_ r.word 95 90) else none,
        if bit r.word.toNat 82 then some (wf_ r.word 89 83, wf_ r.word 81 76) else none⟩ :: r.q.loops
      pc := r.q.pc + 1, wait := .none })) ∧
  (∀ core, Sequences (.loop core) core 0x700
    (fun _ r => 1 ≤ wf_ r.word 119 104 ∧ wf_ r.word 119 104 ≤ 32767 ∧ r.loopCount = 0 ∧
      r.q.pc + wf_ r.word 119 104 < r.ker.words ∧
      (∀ l ∈ r.q.loops.head?, r.q.pc + wf_ r.word 119 104 ≤ l.last))
    (fun _ r => { r.q.endAt (r.q.pc + wf_ r.word 119 104) r.q.loops with wait := .none }))
  ) ∧
  (
  (∀ core, Sequences (.br core) core 0x800
    (fun _ r => wf_ r.word 123 120 ≤ 6 ∧ brTaken (wf_ r.word 123 120) (r.q.sreg (wf_ r.word 119 114)) r.brY ∧
      0 ≤ (r.q.pc : Int) + signed 20 (wf_ r.word 106 87) ∧ (r.q.pc : Int) + signed 20 (wf_ r.word 106 87) < r.ker.words)
    (fun _ r =>
      let t := ((r.q.pc : Int) + signed 20 (wf_ r.word 106 87)).toNat
      { r.q with loops := r.q.loops.dropWhile (fun l => decide (t < l.first ∨ l.last < t)), pc := t, wait := .none })) ∧
  (∀ core, Sequences (.br core) core 0x800
    (fun _ r => wf_ r.word 123 120 ≤ 6 ∧ brTaken (wf_ r.word 123 120) (r.q.sreg (wf_ r.word 119 114)) r.brY = false)
    (fun _ r => r.q.next)) ∧
  (∀ x y : W64, brTaken 0 x y = true ∧ brTaken 1 x y = decide (x = y) ∧ brTaken 2 x y = decide (x ≠ y) ∧
    brTaken 3 x y = x.ult y ∧ brTaken 4 x y = !x.ult y ∧ brTaken 5 x y = x.slt y ∧ brTaken 6 x y = !x.slt y)
  )

/-- R110, R155, R193: TEST writes the tags of its slots, slot i of them in bit i; WAITFULL and WAITEMPTY go on once every
slot they name has the tag and wait until then; SWAPHALF exchanges the pairs of its slots.
R156: SETFULL and SETEMPTY issue at once, and their slots take the tag, in the order of issue, once no earlier array,
vector or SFU instruction is unfinished. -/
def Obligations.TagsGuardSlots : Prop :=
  (
  (∀ core s r slots, s.Issues core 0x504 r → tagSlots r = .ok slots →
    Answers (.test core) s (fun t => onlySeq s t core r.ctx ∧ ∃ v : W64,
      (t.core core).seq r.ctx = (r.q.setSel (wf_ r.word 95 89) v).next ∧
      ∀ i, v.getLsbD i = (slots[i]?).elim false (fun x => (s.core core).full (physSlot (s.core core).swap x)))) ∧
  (∀ core s r slots, s.Issues core 0x502 r → tagSlots r = .ok slots →
    Answers (.waitfull core) s (fun t => onlySeq s t core r.ctx ∧ (t.core core).seq r.ctx =
      if (∀ x ∈ slots, (s.core core).full (physSlot (s.core core).swap x) = true) then r.q.next else { r.q with wait := .tag })) ∧
  (∀ core s r slots, s.Issues core 0x503 r → tagSlots r = .ok slots →
    Answers (.waitempty core) s (fun t => onlySeq s t core r.ctx ∧ (t.core core).seq r.ctx =
      if (∀ x ∈ slots, (s.core core).full (physSlot (s.core core).swap x) = false) then r.q.next else { r.q with wait := .tag })) ∧
  (∀ core s r slots, s.Issues core 0x505 r → tagSlots r = .ok slots →
    Answers (.swaphalf core) s (fun t => onlyCore s t core ∧ (t.core core).seq r.ctx = r.q.next ∧
      (∀ x, x ≠ r.ctx → (t.core core).seq x = (s.core core).seq x) ∧
      { t.core core with swap := [], seqs := [], seqProg := 0 } = { s.core core with swap := [], seqs := [], seqProg := 0 } ∧
      ∀ p, SSet.has (t.core core).swap p = (SSet.has (s.core core).swap p != slots.contains (2 * p))))
  ) ∧
  (
  (∀ (full : Bool) core s r slots, s.Issues core (if full then 0x500 else 0x501) r → tagSlots r = .ok slots →
    Answers (if full then .setfull core else .setempty core) s (fun t => onlyCore s t core ∧
      (t.core core).seq r.ctx = r.q.next ∧ (∀ x, x ≠ r.ctx → (t.core core).seq x = (s.core core).seq x) ∧
      { t.core core with tagOps := [], issueCtr := 0, seqs := [], seqProg := 0 } =
        { s.core core with tagOps := [], issueCtr := 0, seqs := [], seqProg := 0 } ∧
      (t.core core).issueCtr = (s.core core).issueCtr + 1 ∧
      (t.core core).tagOps = (s.core core).tagOps ++
        [⟨(s.core core).issueCtr, r.ctx, full, slots.map (physSlot (s.core core).swap)⟩])) ∧
  (∀ core s (o : TagOp) rest, s.coreUp core = true → (s.core core).tagOps = o :: rest → (s.core core).computeDone o.id = true →
    Answers (.tagSetTakesEffect core) s (fun t => onlyCore s t core ∧ (t.core core).tagOps = rest ∧
      { t.core core with tags := [], tagOps := [] } = { s.core core with tags := [], tagOps := [] } ∧
      ∀ x, (t.core core).full x = if x ∈ o.slots then o.full else (s.core core).full x))
  )

/-- R111, R160, R165: a PUSH or TRYPUSH with no earlier array, vector or SFU instruction unfinished appends its handle to a
queue with room; TRYPUSH says whether it did, and leaves a full queue as it was; a PUSH at a full queue waits, and either
waits for earlier compute. POP and TRYPOP take the oldest handle; TRYPOP says whether there was one, and a POP at an empty
queue waits. Beside the queue, the sequencer and, after a POP of a tile queue, entries fetched ahead of the tile buffer
(R164), nothing changes. -/
def Obligations.TileQueuesAreFirstInFirstOut : Prop :=
  (
  (∀ core s r l, s.Issues core 0x600 r → s.queueOf core r.bind (wf_ r.word 121 117) = some l → l.length < 64 →
    (s.core core).computeDone (s.core core).issueCtr = true →
    Answers (.push core) s (fun t => (t.core core).seq r.ctx = r.q.next ∧
      onlyQueue s t core r.ctx r.bind (wf_ r.word 121 117) (l ++ [(r.q.sreg (wf_ r.word 116 111)).setWidth 32]) ∧
      (t.core core).movers = (s.core core).movers)) ∧
  (∀ core s r l, s.Issues core 0x600 r → s.queueOf core r.bind (wf_ r.word 121 117) = some l →
    (64 ≤ l.length ∨ (s.core core).computeDone (s.core core).issueCtr = false) →
    Answers (.push core) s (fun t => (t.core core).seq r.ctx = { r.q with wait := .hq } ∧ onlySeq s t core r.ctx)) ∧
  (∀ core s r l, s.Issues core 0x602 r → s.queueOf core r.bind (wf_ r.word 121 117) = some l →
    (s.core core).computeDone (s.core core).issueCtr = true →
    Answers (.trypush core) s (fun t =>
      (t.core core).seq r.ctx = (r.q.setS (wf_ r.word 110 105) (if l.length < 64 then 1#64 else 0#64)).next ∧
      onlyQueue s t core r.ctx r.bind (wf_ r.word 121 117)
        (if l.length < 64 then l ++ [(r.q.sreg (wf_ r.word 116 111)).setWidth 32] else l) ∧
      (t.core core).movers = (s.core core).movers)) ∧
  (∀ core s r l, s.Issues core 0x602 r → s.queueOf core r.bind (wf_ r.word 121 117) = some l →
    (s.core core).computeDone (s.core core).issueCtr = false →
    Answers (.trypush core) s (fun t => (t.core core).seq r.ctx = { r.q with wait := .hq } ∧ onlySeq s t core r.ctx))
  ) ∧
  (
  (∀ core s r h l, s.Issues core 0x601 r → s.queueOf core r.bind (wf_ r.word 121 117) = some (h :: l) →
    Answers (.pop core) s (fun t => (t.core core).seq r.ctx = (r.q.setS (wf_ r.word 116 111) (h.setWidth 64)).next ∧
      onlyQueue s t core r.ctx r.bind (wf_ r.word 121 117) l ∧
      (wf_ r.word 121 117 < 16 → (t.core core).movers = (s.core core).movers) ∧
      (16 ≤ wf_ r.word 121 117 → ∀ m < 4, ((t.core core).mover m).prefetch = ((s.core core).mover m).prefetch.filter (fun e => e.space != 1)))) ∧
  (∀ core s r, s.Issues core 0x601 r → s.queueOf core r.bind (wf_ r.word 121 117) = some [] →
    Answers (.pop core) s (fun t => (t.core core).seq r.ctx = { r.q with wait := .hq } ∧ onlySeq s t core r.ctx)) ∧
  (∀ core s r h l, s.Issues core 0x603 r → s.queueOf core r.bind (wf_ r.word 121 117) = some (h :: l) →
    Answers (.trypop core) s (fun t => onlyQueue s t core r.ctx r.bind (wf_ r.word 121 117) l ∧
      (wf_ r.word 121 117 < 16 → (t.core core).movers = (s.core core).movers) ∧
      (16 ≤ wf_ r.word 121 117 → ∀ m < 4, ((t.core core).mover m).prefetch = ((s.core core).mover m).prefetch.filter (fun e => e.space != 1)) ∧
      (t.core core).seq r.ctx = ((r.q.setS (wf_ r.word 116 111) (h.setWidth 64)).setS (wf_ r.word 110 105) 1#64).next)) ∧
  (∀ core s r, s.Issues core 0x603 r → s.queueOf core r.bind (wf_ r.word 121 117) = some [] →
    Answers (.trypop core) s (fun t => onlySeq s t core r.ctx ∧
      (t.core core).seq r.ctx = (r.q.setS (wf_ r.word 110 105) 0#64).next))
  )

/-- R115, R116: a WAITEV on an event counter or on time goes on once the value is reached and waits until then; so does one
on a flag, whose word must match or be reached, and an acquire that goes on discards the core's prefetch entries (R168).
R111, R116, R155: a waiting instruction that finds its condition met goes on when it is evaluated again: a WAITEV on
an event, a FLAG wait on host memory, a WAITFULL and a POP. -/
def Obligations.WaitsEndWhenTheirConditionHolds : Prop :=
  (
  (∀ core, Sequences (.waitev core) core 0x900
    (fun s r => wf_ r.word 123 120 = 0 ∧
      (r.q.sreg (wf_ r.word 103 98)).toNat ≤ (SMap.get 0#64 (s.ctx r.ctx).events (wf_ r.word 119 108)).toNat)
    (fun _ r => r.q.next)) ∧
  (∀ core, Sequences (.waitev core) core 0x900
    (fun s r => wf_ r.word 123 120 = 0 ∧
      (SMap.get 0#64 (s.ctx r.ctx).events (wf_ r.word 119 108)).toNat < (r.q.sreg (wf_ r.word 103 98)).toNat)
    (fun _ r => { r.q with wait := .event })) ∧
  (∀ core, Sequences (.waitev core) core 0x900
    (fun s r => wf_ r.word 123 120 = 8 ∧ (r.q.sreg (wf_ r.word 103 98)).toNat ≤ s.counter (arrIsl core))
    (fun _ r => r.q.next)) ∧
  (∀ core, Sequences (.waitev core) core 0x900
    (fun s r => wf_ r.word 123 120 = 8 ∧ s.counter (arrIsl core) < (r.q.sreg (wf_ r.word 103 98)).toNat)
    (fun _ r => { r.q with wait := .time })) ∧
  (∀ core s r x isl, s.Issues core 0x900 r → wf_ r.word 123 122 = 1 →
    bits (r.q.areg (wf_ r.word 107 104)).toNat 63 56 ≤ 1 → (r.q.areg (wf_ r.word 107 104)).toNat % 8 = 0 →
    s.readFlag core r.ctx (r.q.areg (wf_ r.word 107 104)) = .ok (x, isl) →
    (if bit r.word.toNat 120 then x = (r.q.sreg (wf_ r.word 103 98)).toNat else (r.q.sreg (wf_ r.word 103 98)).toNat ≤ x) →
    Answers (.waitev core) s (fun t => onlyCore s t core ∧ (t.core core).seq r.ctx = r.q.next ∧
      (∀ y, y ≠ r.ctx → (t.core core).seq y = (s.core core).seq y) ∧
      (if bit r.word.toNat 121 then ∀ m < 4, ((t.core core).mover m).prefetch = [] else (t.core core).movers = (s.core core).movers) ∧
      { t.core core with seqs := [], seqProg := 0, movers := [] } = { s.core core with seqs := [], seqProg := 0, movers := [] })) ∧
  (∀ core s r x isl, s.Issues core 0x900 r → wf_ r.word 123 122 = 1 →
    bits (r.q.areg (wf_ r.word 107 104)).toNat 63 56 ≤ 1 → (r.q.areg (wf_ r.word 107 104)).toNat % 8 = 0 →
    s.readFlag core r.ctx (r.q.areg (wf_ r.word 107 104)) = .ok (x, isl) →
    (if bit r.word.toNat 120 then x ≠ (r.q.sreg (wf_ r.word 103 98)).toNat else x < (r.q.sreg (wf_ r.word 103 98)).toNat) →
    Answers (.waitev core) s (fun t => onlySeq s t core r.ctx ∧
      (t.core core).seq r.ctx = { r.q with wait := if isl = trelebIsl then .flagHost else .flag }))
  ) ∧
  (
  (∀ core, Sequences (.waitevResume core) core 0x900
    (fun s r => s.waitAt core = .event ∧ wf_ r.word 123 120 = 0 ∧
      (r.q.sreg (wf_ r.word 103 98)).toNat ≤ (SMap.get 0#64 (s.ctx r.ctx).events (wf_ r.word 119 108)).toNat)
    (fun _ r => r.q.next)) ∧
  (∀ core s r x, s.Issues core 0x900 r → s.waitAt core = .flagHost → wf_ r.word 123 120 = 4 →
    bits (r.q.areg (wf_ r.word 107 104)).toNat 63 56 ≤ 1 → (r.q.areg (wf_ r.word 107 104)).toNat % 8 = 0 →
    s.readFlag core r.ctx (r.q.areg (wf_ r.word 107 104)) = .ok (x, trelebIsl) → (r.q.sreg (wf_ r.word 103 98)).toNat ≤ x →
    Answers (.flagReread core) s (fun t => (t.core core).seq r.ctx = r.q.next ∧ onlySeq s t core r.ctx)) ∧
  (∀ core s r slots, s.Issues core 0x502 r → s.coreUp core = true → s.waitAt core = .tag → tagSlots r = .ok slots →
    (∀ x ∈ slots, (s.core core).full (physSlot (s.core core).swap x) = true) →
    Answers (.tagWaitResume core 0) s (fun t => (t.core core).seq r.ctx = r.q.next ∧ onlySeq s t core r.ctx)) ∧
  (∀ core s r h l, s.Issues core 0x601 r → s.waitAt core = .hq → s.queueOf core r.bind (wf_ r.word 121 117) = some (h :: l) →
    Answers (.hqWaitResume core) s (fun t => (t.core core).seq r.ctx = (r.q.setS (wf_ r.word 116 111) (h.setWidth 64)).next ∧
      onlyQueue s t core r.ctx r.bind (wf_ r.word 121 117) l))
  )

/-- R117, R191: DEPMARK puts its mark at the end of each selected mover's queue and leaves the other movers alone.
R118: STAMP writes the kernel trace record of its code with the register's value and goes on. -/
def Obligations.MarksAndStamps : Prop :=
  (
  ∀ core s r, s.Issues core 0xA00 r → wf_ r.word 119 118 ≤ 1 →
    Answers (.depmark core) s (fun t => onlyCore s t core ∧ (t.core core).seq r.ctx = r.q.next ∧
      (∀ x, x ≠ r.ctx → (t.core core).seq x = (s.core core).seq x) ∧
      { t.core core with movers := [], issueCtr := 0, seqs := [], seqProg := 0 } =
        { s.core core with movers := [], issueCtr := 0, seqs := [], seqProg := 0 } ∧
      (t.core core).issueCtr = (s.core core).issueCtr + 1 ∧
      ∀ m < 4, (t.core core).mover m = if bit (wf_ r.word 123 120) m then { (s.core core).mover m with
          marks := ((s.core core).mover m).marks ++
            [⟨(s.core core).issueCtr, r.ctx, wf_ r.word 117 102, wf_ r.word 119 118 == 1, wf_ r.word 123 120, false⟩]
          markIds := ((s.core core).mover m).markIds ++ [(s.core core).issueCtr] }
        else (s.core core).mover m)
  ) ∧
  (
  ∀ core s r, s.Issues core 0xB00 r →
    Answers (.stamp core) s (fun t => t.toBlock =
        (s.toBlock.emit (arrIsl core) (0x8000 + wf_ r.word 123 109) r.ctx r.ker.step (r.q.sreg (wf_ r.word 108 103)).toNat).issued
          core r.ctx r.q.advance ∧
      (t.core core).seq r.ctx = r.q.next ∧ (∀ x, x ≠ r.ctx → (t.core core).seq x = (s.core core).seq x) ∧
      { t.core core with seqs := [], seqProg := 0 } = { s.core core with seqs := [], seqProg := 0 } ∧
      (∀ c, c ≠ core → t.core c = s.core c) ∧ Leaves (fun b => { b with cores := [] }) s.toBlock t.toBlock)
  )

/-- R104, R383: HALT ends its kernel's issue on the core with a report of status OK at its PC; the core goes on with another
context that runs a kernel there, if one may be taken up; no other core, no other kernel, and no memory of the core changes.
R102, R120, R121: under any issue command a word that R102 refuses stops its kernel at its PC with INVALID, DETAIL 1 and the
word's class, and the core's own report says so where no newer kernel is there; no byte of any scratchpad or tile buffer
changes.
R95, R121: a word that fails its WCC check stops its kernel with DATA_UNCORRECTABLE and DETAIL POISON. -/
def Obligations.KernelsEndAtHaltOrRefusal : Prop :=
  (
  ∀ core s r, s.Issues core 0x000 r →
    Answers (.halt core) s (fun t =>
      (t.core core).report = { status := 0, core := core, cls := 0, precise := false, other := false, pc := r.q.pc, detail := 0, movId := 0, block := 0 } ∧
      (t.core core).kernels = (s.core core).kernels.map (fun x => if x.kid = r.ker.kid then { x with state := .halted, report := (t.core core).report } else x) ∧
      { t.core core with report := {}, kernels := [], seqs := [], cur := 0, lastPos := none, sliceAt := 0, quantum := 0, seqProg := 0, busyFrom := 0, movers := [] } =
        { s.core core with report := {}, kernels := [], seqs := [], cur := 0, lastPos := none, sliceAt := 0, quantum := 0, seqProg := 0, busyFrom := 0, movers := [] } ∧
      (∀ c, c ≠ core → t.core c = s.core c) ∧ (∀ x, { t.ctx x with busyNs := 0 } = { s.ctx x with busyNs := 0 }) ∧
      Leaves (fun b => { b with cores := [], ctxs := [] }) s.toBlock t.toBlock)
  ) ∧
  (
  ∀ core id f (b : Block) (r : Run), b.running core = some r → (b.core core).wordBad r = false → wordId r.word = none →
    let t := b.issue core id f
    (∀ c, (t.core c).scratch = (b.core c).scratch) ∧ (∀ p, (t.part p).tile = (b.part p).tile) ∧
    ∃ ker, (t.core core).kernels.find? (fun x => x.kid == r.ker.kid) = some ker ∧ ker.state = .stopped ∧
      ker.report = { status := stInvalid, core := core, cls := wordClass r.word, precise := true, other := false, pc := r.q.pc, detail := 1, movId := 0, block := 0 } ∧
      ((∀ x ∈ (b.core core).kernels, x.kid ≤ r.ker.kid) → (t.core core).report = ker.report)
  ) ∧
  (
  ∀ core id f (b : Block) (r : Run), b.running core = some r → (b.core core).wordBad r = true →
    let t := b.issue core id f
    (∀ c, (t.core c).scratch = (b.core c).scratch) ∧ (∀ p, (t.part p).tile = (b.part p).tile) ∧
    ∃ ker, (t.core core).kernels.find? (fun x => x.kid == r.ker.kid) = some ker ∧ ker.state = .stopped ∧
      ker.report.status = stData ∧ ker.report.detail = 9 ∧ ker.report.pc = r.q.pc ∧ ker.report.precise = true
  )

/-- R119, R127: each register vector form that passes the checks of R144 enters the vector queue with its word and the
sequencer goes on.
R119, R127: the reductions and the forms that read or write the scratchpad issue as the other vector forms do.
R105, R108, R119: TMMA that passes its checks enters the array's queue, each special function the SFU's.
R94: a vector form goes on to the next instruction, but for a VEXT whose register the loop increments after it read or
write: those wait for its result. -/
def Obligations.EngineFormsIssue : Prop :=
  (
  VecIssues .accrd 0x22 ∧ VecIssues .accwr 0x23 ∧ VecIssues .vbcast 0x24 ∧ VecIssues .vext 0x25 ∧ VecIssues .vins 0x26 ∧
  VecIssues .vadd 0x30 ∧ VecIssues .vsub 0x31 ∧ VecIssues .vmul 0x32 ∧ VecIssues .vfma 0x33 ∧ VecIssues .vmax 0x34 ∧
  VecIssues .vmin 0x35 ∧ VecIssues .vabs 0x36 ∧ VecIssues .vneg 0x37 ∧ VecIssues .vmuls 0x38 ∧ VecIssues .vfmas 0x39 ∧
  VecIssues .vpairswap 0x3A ∧ VecIssues .vmaskge 0x3B
  ) ∧
  (
  VecIssues .rsum 0x40 ∧ VecIssues .rsumsq 0x41 ∧ VecIssues .rmax 0x42 ∧ VecIssues .rmin 0x43 ∧ VecIssues .ramax 0x44 ∧
  VecIssues .rtopk 0x45 ∧ VecIssues .smxupd 0x48 ∧ VecIssues .vld 0x20 ∧ VecIssues .vst 0x21 ∧ VecIssues .quant 0x50 ∧
  VecIssues .quantsr 0x51 ∧ VecIssues .dequant 0x52
  ) ∧
  (
  (EngineIssues .tmma 0x100 0 (fun s core r => tmmaCheck (s.core core) r
      [(r.q.areg (wf_ r.word 97 94)).toNat, (r.q.sreg (wf_ r.word 93 88)).toNat, (r.q.sreg (wf_ r.word 87 82)).toNat,
       (r.q.areg (wf_ r.word 77 74)).toNat, (r.q.sreg (wf_ r.word 73 68)).toNat, (r.q.sreg (wf_ r.word 67 62)).toNat]
      ((s.core core).scratchBytes (s.core core).swap (r.q.areg (wf_ r.word 81 78)).toNat 32)
      ((s.core core).scratchBytes (s.core core).swap (r.q.areg (wf_ r.word 61 58)).toNat 32) = none) (·.q.advance)) ∧
  SfuIssues .exp2 0 ∧ SfuIssues .log2 1 ∧ SfuIssues .rcp 2 ∧ SfuIssues .rsqrt 3 ∧ SfuIssues .sigmoid 4 ∧ SfuIssues .tanh 5 ∧
  SfuIssues .softplus 6
  ) ∧
  (
  ∀ r : Run, r.vecNext =
    if wf_ r.word 123 116 = 0x25 ∧ wf_ r.word 95 90 ≠ 0 ∧ wf_ r.word 95 90 ∈ r.q.endSels then { r.q with owes := true } else r.q.advance
  )

/-- R124, R127: what the elementwise forms give each active lane: the exact result of the lane's operands rounded once, in
FP32 or in packed BF16.
R119, R127: a register form at the head of the vector queue that may run leaves the queue and writes its result to the
registers of its context's kernel; a special function does so with its own (R126); neither touches the scratchpad, the tags
or another core. Where a later kernel of the context runs, the registers of the context are not those of the instruction
(R194) and stay as they are. A VEXT applies the loop increments that waited for it (R94).
R127, R150: a VST at the head of the vector queue with no swapped pair stores its lanes' bytes at its address and no
other byte of the scratchpad changes; a VLD changes no byte. -/
def Obligations.VectorFormsComplete : Prop :=
  (
  LaneForm 0x30 (fun q w _ i => lane2 (isPk w) Val.add (vaLane q w i) (vbLane q w i)) ∧
  LaneForm 0x31 (fun q w _ i => lane2 (isPk w) (fun a b => a.add b.negate) (vaLane q w i) (vbLane q w i)) ∧
  LaneForm 0x32 (fun q w _ i => lane2 (isPk w) Val.mul (vaLane q w i) (vbLane q w i)) ∧
  LaneForm 0x33 (fun q w _ i => lane3 (isPk w) (fun a b c => (a.mul b).add c) (vaLane q w i) (vbLane q w i) (vcLane q w i)) ∧
  LaneForm 0x34 (fun q w _ i => lane2 (isPk w) Val.max (vaLane q w i) (vbLane q w i)) ∧
  LaneForm 0x35 (fun q w _ i => lane2 (isPk w) Val.min (vaLane q w i) (vbLane q w i)) ∧
  LaneForm 0x36 (fun q w _ i => lane1 (isPk w) Val.abs (vaLane q w i)) ∧
  LaneForm 0x37 (fun q w _ i => lane1 (isPk w) Val.negate (vaLane q w i)) ∧
  LaneForm 0x38 (fun q w sv i => lane1 (isPk w) (fun a => a.mul (fp32.val (sv % 2 ^ 32))) (vaLane q w i)) ∧
  LaneForm 0x39 (fun q w sv i => lane2 (isPk w) (fun a b => (a.mul (fp32.val (sv % 2 ^ 32))).add b) (vaLane q w i) (vbLane q w i)) ∧
  LaneForm 0x3B (fun q w sv i => if sv % 1024 ≤ i % segW w then 0xFF800000#32 else vaLane q w i) ∧
  LaneForm 0x24 (fun _ w _ _ => BitVec.ofNat 32 (wf_ w 63 32))
  ) ∧
  (
  (∀ core s o rest, s.HeadRuns core 1 o rest → 0x222 ≤ o.op → o.op ≤ 0x248 →
    Answers (.engineInstructionCompletes core 1) s (fun t => onlyCore s t core ∧ (t.core core).vector = rest ∧
      { t.core core with seqs := [], vector := [], vecProg := 0, old := [] } = { s.core core with seqs := [], vector := [], vecProg := 0, old := [] } ∧
      (∀ x, x ≠ o.ctx → (t.core core).seq x = (s.core core).seq x) ∧
      ((∀ x ∈ (s.core core).old, x.1 ≠ o.kid) → (t.core core).seq o.ctx =
        (let q := ((s.core core).seq o.ctx).vecOp o.word (o.vals.getD 0 0)
         if o.op = 0x225 ∧ q.owes = true ∧ q.pc = o.pc ∧ q.kid = o.kid then { q.advance with owes := false } else q)) ∧
      ((∃ x ∈ (s.core core).old, x.1 = o.kid) → (t.core core).seqs = (s.core core).seqs))) ∧
  (∀ core s o rest, s.HeadRuns core 2 o rest → 0x300 ≤ o.op →
    Answers (.engineInstructionCompletes core 2) s (fun t => onlyCore s t core ∧ (t.core core).sfu = rest ∧
      { t.core core with seqs := [], sfu := [], sfuProg := 0, old := [] } = { s.core core with seqs := [], sfu := [], sfuProg := 0, old := [] } ∧
      (∀ x, x ≠ o.ctx → (t.core core).seq x = (s.core core).seq x) ∧
      ((∀ x ∈ (s.core core).old, x.1 ≠ o.kid) → (t.core core).seq o.ctx = ((s.core core).seq o.ctx).sfuOp o.word) ∧
      ((∃ x ∈ (s.core core).old, x.1 = o.kid) → (t.core core).seqs = (s.core core).seqs))) ∧
  (∀ (q : SeqState) (w : W128) (f : SfuFn) (v i : Nat), SfuFn.ofCode (wf_ w 123 120) = some f → wf_ w 109 100 ≤ 512 → v < 32 → i < 512 →
    (q.sfuOp w).lane v i = if v = wf_ w 119 115 ∧ i < wf_ w 109 100
      then toF32 (f.apply (rne ((f32 (q.lane (wf_ w 114 110) i)).mul (fp32.val (wf_ w 95 64))))) else q.lane v i)
  ) ∧
  (
  (∀ core s o rest, s.HeadRuns core 1 o rest → o.op = 0x221 → o.swap = [] →
    Answers (.engineInstructionCompletes core 1) s (fun t => onlyCore s t core ∧ (t.core core).vector = rest ∧
      { t.core core with scratch := [], poison := [], tags := [], vector := [], vecProg := 0, old := [] } =
        { s.core core with scratch := [], poison := [], tags := [], vector := [], vecProg := 0, old := [] } ∧
      let a := vecAddr (o.vals.getD 1 0) o.word
      let l := vstBytes o.word ((s.core core).engSeq o)
      (t.core core).scratch = ((s.core core).scratchWrite [] a l []).scratch ∧
      ∀ x, (x < a ∨ a + l.length ≤ x) → Mem.byte (t.core core).scratch x = Mem.byte (s.core core).scratch x)) ∧
  (∀ core s o rest, s.HeadRuns core 1 o rest → o.op = 0x220 →
    Answers (.engineInstructionCompletes core 1) s (fun t => onlyCore s t core ∧ (t.core core).vector = rest ∧
      { t.core core with seqs := [], tags := [], vector := [], vecProg := 0, old := [] } =
        { s.core core with seqs := [], tags := [], vector := [], vecProg := 0, old := [] } ∧
      (∀ x, x ≠ o.ctx → (t.core core).seq x = (s.core core).seq x) ∧
      ((∀ x ∈ (s.core core).old, x.1 ≠ o.kid) → (t.core core).seq o.ctx = ((s.core core).seq o.ctx).setLanes (wf_ o.word 115 111) 0
        (vldLanes o.word ((s.core core).scratchBytes o.swap (vecAddr (o.vals.getD 1 0) o.word) (nelem o.word * laneBytes o.word))))))
  )

/-- R73, R77, R79, R83: a TMMA gives each element of its tile the grouped sum of 32 products of its A operand with its B
operand, which it reads or finds in the hold register, started from the element or from zero; every other accumulator, the
other registers of the context and the scratchpad stay as they were. -/
def Obligations.TmmaAccumulates : Prop :=
  ∀ core s o rest d1 h, s.HeadRuns core 0 o rest → o.op = 0x100 → ScaleDesc.parse o.descA = some d1 →
    (∀ x ∈ (s.core core).old, x.1 ≠ o.kid) →
    (if bit o.word.toNat 120 then ((s.core core).seq o.ctx).hold = some h
     else ∃ d2, ScaleDesc.parse o.descB = some d2 ∧ h = ⟨wf_ o.word 105 98, d2.elem, d2.bscale,
       (s.core core).operandCodes o.swap (tmmaB o.word o.vals d2), (s.core core).operandScales o.swap (tmmaB o.word o.vals d2)⟩) →
    wf_ o.word 113 106 ≤ 128 → wf_ o.word 105 98 ≤ 128 →
    Answers (.engineInstructionCompletes core 0) s (fun t => onlyCore s t core ∧ (t.core core).array = rest ∧
      { t.core core with seqs := [], tags := [], array := [], arrProg := 0, old := [] } =
        { s.core core with seqs := [], tags := [], array := [], arrProg := 0, old := [] } ∧
      (∀ x, x ≠ o.ctx → (t.core core).seq x = (s.core core).seq x) ∧
      let k := s.core core
      let q := k.seq o.ctx
      let q' := (t.core core).seq o.ctx
      let a := tmmaA o.word o.vals d1
      { q' with acc := [], accBad := [], hold := none, holdBad := false } = { q with acc := [], accBad := [], hold := none, holdBad := false } ∧
      q'.hold = (if bit o.word.toNat 119 then some h else q.hold) ∧
      (∀ bank, ∀ i < 128, ∀ j < 128, (bank ≠ wf_ o.word 123 122 ∨ wf_ o.word 113 106 ≤ i ∨ wf_ o.word 105 98 ≤ j) →
        q'.accAt bank i j = q.accAt bank i j) ∧
      ∀ i < wf_ o.word 113 106, ∀ j < wf_ o.word 105 98,
        q'.accAt (wf_ o.word 123 122) i j =
          toF32 (group (if bit o.word.toNat 121 then Val.fin false 0 0 else f32 (q.accAt (wf_ o.word 123 122) i j))
            (((lineVals d1.elem d1.bscale (k.operandCodes o.swap a) (k.operandScales o.swap a) i).zip
              (lineVals h.fmt h.bscale h.codes h.scales j)).map (fun p => p.1.mul p.2))))

/-- R120, R144: an engine that finds bad data stops the kernel of the instruction, which runs or has halted: its report has
the error's status and DETAIL, the instruction's class and PC and no claim to be precise; that instruction and the kernel's
later ones leave the queue, and no byte of a scratchpad or tile buffer changes. -/
def Obligations.EngineStopReportsTheInstruction : Prop :=
  ∀ core engine s o rest e ker, s.coreUp core = true → engine ≤ 2 → (s.core core).engineQ engine = o :: rest →
    (s.core core).headReady o = true → s.engineFault core o = some e →
    (s.core core).kernels.find? (fun x => x.kid == o.kid) = some ker → (ker.state = .running ∨ ker.state = .halted) →
    Answers (.engineStop core engine) s (fun t =>
      (t.core core).engineQ engine = ((s.core core).engineQ engine).filter (fun x => !(x.kid == o.kid && decide (o.id ≤ x.id))) ∧
      (∀ c, (t.core c).scratch = (s.core c).scratch) ∧ (∀ p, (t.part p).tile = (s.part p).tile) ∧
      ∃ k, (t.core core).kernels.find? (fun x => x.kid == o.kid) = some k ∧ k.state = .stopped ∧ k.ctx = ker.ctx ∧ k.seq = ker.seq ∧
        k.report = { status := e.1, core := core, cls := wordClass o.word, precise := false, other := false, pc := o.pc, detail := e.2, movId := 0, block := 0 })

/-- R97–R100: a free core that may take up the next ready context, which has a launch waiting, starts its kernel: the context
is on the core, the program begins at the image's entry point, s1 to s7 hold rank, count, slot range, step, sequence and
identity, no other register or accumulator holds anything, the swap bits of its slots are clear (R194), nothing is
prefetched (R164), and the kernel runs.
R101: a kernel of the core that has halted or stopped and whose transfers have ended is done; while its launch goes on
elsewhere nothing else changes but trace, and once it was the last of its launch the entry ends, outside a step with the
status of the launch's first stop or OK.
R383: at the end of a quantum the core goes to another context that runs a kernel there and may be taken up: its sequencer
state comes back as it was left, the former one is kept, and no prefetched data stays. -/
def Obligations.KernelsStartEndAndSwitch : Prop :=
  (
  ∀ core s bd w, s.coreUp core = true → (s.core core).busy = false → s.nextReady core = some bd → s.mayTake core bd.ctx = true →
    (s.core core).runs bd.ctx = false → (s.core core).units.any (fun u => u.ctx == bd.ctx) = false →
    (s.core core).waiting.find? (fun x => x.ctx == bd.ctx) = some w → (s.ctx bd.ctx).holdsCore core w.seq = false →
    Answers (.kernelStart core) s (fun t => (t.core core).cur = bd.ctx + 1 ∧
      (let q := (t.core core).seq w.ctx
       q.pc = fld w.hdr 4 4 ∧ q.kid = w.kid ∧ q.loops = [] ∧ q.acc = [] ∧ q.v = [] ∧ q.a = [] ∧ q.hold = none ∧
       q.sel 1 = BitVec.ofNat 64 w.rank ∧ q.sel 2 = BitVec.ofNat 64 w.count ∧ q.sel 3 = BitVec.ofNat 64 bd.slotFirst ∧
       q.sel 4 = BitVec.ofNat 64 bd.slotCount ∧ q.sel 5 = BitVec.ofNat 64 w.step ∧ q.sel 6 = BitVec.ofNat 64 w.seq ∧
       q.sel 7 = BitVec.ofNat 64 (w.ctx + core * 2 ^ 8 + partOf core * 2 ^ 16 + s.self * 2 ^ 32) ∧
       ∀ n, 8 ≤ n → n < 80 → q.sel n = 0#64) ∧
      (∃ k, (t.core core).kernels = (s.core core).kernels ++ [k] ∧ k.kid = w.kid ∧ k.ctx = w.ctx ∧ k.seq = w.seq ∧ k.step = w.step ∧
        k.state = .running ∧ k.done = false) ∧
      (t.core core).waiting = (s.core core).waiting.filter (fun x => x.kid != w.kid) ∧
      (∀ p, bd.slotFirst ≤ 2 * p + 1 → 2 * p < bd.slotFirst + bd.slotCount → SSet.has (t.core core).swap p = false) ∧
      (∀ m < 4, ((t.core core).mover m).prefetch = []) ∧
      { t.core core with seqs := [], cur := 0, lastPos := none, kernels := [], waiting := [], prog := [], progBad := [], old := [], binds := [], movers := [], swap := [], sliceAt := 0, quantum := 0, seqProg := 0, busyFrom := 0 } =
        { s.core core with seqs := [], cur := 0, lastPos := none, kernels := [], waiting := [], prog := [], progBad := [], old := [], binds := [], movers := [], swap := [], sliceAt := 0, quantum := 0, seqProg := 0, busyFrom := 0 } ∧
      (∀ c, c ≠ core → t.core c = s.core c) ∧ (∀ x, { t.ctx x with busyNs := 0 } = { s.ctx x with busyNs := 0 }) ∧
      Leaves (fun b => { b with cores := [], ctxs := [] }) s.toBlock t.toBlock)
  ) ∧
  (
  ∀ core s ker, s.coreUp core = true →
    (s.core core).kernels.find? (fun x => (x.state == .halted || x.state == .stopped) && !x.done && (s.core core).drained x.kid) = some ker →
    Answers (.kernelDone core) s (fun t => (∀ x ∈ (t.core core).kernels, x.kid = ker.kid → x.done = true) ∧
      (∀ c, (t.core c).scratch = (s.core c).scratch ∧ (t.core c).prog = (s.core c).prog) ∧
      ((∃ c < 16, (∃ x ∈ (s.core c).kernels, x.ctx = ker.ctx ∧ x.seq = ker.seq ∧ x.done = false ∧ (c ≠ core ∨ x.kid ≠ ker.kid)) ∨
          ∃ w ∈ (s.core c).waiting, w.ctx = ker.ctx ∧ w.seq = ker.seq) →
        (t.core core).kernels = (s.core core).kernels.map (fun x => if x.kid = ker.kid then { x with done := true } else x) ∧
        { t.core core with kernels := [] } = { s.core core with kernels := [] } ∧
        (∀ c, c ≠ core → t.core c = s.core c) ∧ Leaves (fun b => { b with cores := [] }) s.toBlock t.toBlock) ∧
      ((∀ c < 16, (∀ x ∈ (s.core c).kernels, x.ctx = ker.ctx → x.seq = ker.seq → x.done = true ∨ (c = core ∧ x.kid = ker.kid)) ∧
          ∀ w ∈ (s.core c).waiting, w.ctx = ker.ctx → w.seq ≠ ker.seq) →
        ∀ e, (s.ctx ker.ctx).entry? ker.seq = some e → e.state ≠ .finished → e.state ≠ .completed → e.held = false →
          (s.ctx ker.ctx).inStep e = false →
          t.Ended ker.ctx ker.seq ((s.firstStop ker.ctx ker.seq).elim stOK (·.status))))
  ) ∧
  (
  ∀ core s bd, s.coreUp core = true → (s.core core).cur ≠ 0 → s.aborting ((s.core core).cur - 1) = false →
    s.nextReady core = some bd → bd.ctx + 1 ≠ (s.core core).cur → s.mayTake core bd.ctx = true → (s.core core).runs bd.ctx = true →
    Answers (.quantumEnd core) s (fun t => (t.core core).cur = bd.ctx + 1 ∧
      t.time = s.time.pass ((s.core core).sliceAt + (s.core core).quantum * 1000 - s.time.keeper) ∧
      (∀ x, { (t.core core).seq x with held := 0 } = { (s.core core).seq x with held := 0 }) ∧
      (∀ m < 4, ((t.core core).mover m).prefetch = []) ∧
      { t.core core with seqs := [], cur := 0, lastPos := none, movers := [], sliceAt := 0, quantum := 0, seqProg := 0, busyFrom := 0 } =
        { s.core core with seqs := [], cur := 0, lastPos := none, movers := [], sliceAt := 0, quantum := 0, seqProg := 0, busyFrom := 0 } ∧
      (∀ c, c ≠ core → t.core c = s.core c) ∧ (∀ x, { t.ctx x with busyNs := 0 } = { s.ctx x with busyNs := 0 }) ∧
      Leaves (fun b => { b with cores := [], ctxs := [], time := {} }) s.toBlock t.toBlock)
  )

/-- R109, R173, R182: MOV whose descriptor is well placed, sound and not refused puts it at the end of its mover's queue, with
the pieces of its walk, and goes on; nothing else of the core changes but the group it opens or closes (R180), and nothing
of the module but trace. At a full queue it waits. -/
def Obligations.MovQueuesItsDescriptor : Prop :=
  (
  ∀ core s r, s.Issues core 0x400 r →
    let k := s.core core
    let w := r.word
    let m := wf_ w 123 122
    let a := ((r.q.areg (wf_ w 121 118)).toNat + 64 * wf_ w 117 102) % 2 ^ 64
    let len := descLen (k.scratchBytes k.swap a 64)
    let raw := k.scratchBytes k.swap a len
    let raw := if bit w.toNat 101 then patch raw 8 (natLe 8 (r.q.areg (wf_ w 100 97)).toNat) else raw
    let raw := if bit w.toNat 96 then patch raw 16 (natLe 8 (r.q.areg (wf_ w 95 92)).toNat) else raw
    let d := newDesc r.ctx r.ker.kid r.ker.step r.q.pc (wf_ w 91 76) raw k.swap
    (k.mover m).queue.length < 64 → a % 64 = 0 → r.bind.holds a 64 = true → r.bind.holds a len = true →
    k.scratchBad k.swap a len = [] → s.descRefusal core r.bind d = none →
    Answers (.mov core) s (fun t => (t.core core).seq r.ctx = r.q.next ∧
      (∃ d' : Desc, (t.core core).mover m = { k.mover m with queue := (k.mover m).queue ++ [d'] } ∧ d'.raw = raw ∧ d'.ctx = r.ctx ∧
        d'.kid = r.ker.kid ∧ d'.step = r.ker.step ∧ d'.pc = r.q.pc ∧ d'.movId = wf_ w 91 76 ∧ d'.swap = k.swap ∧ d'.pieces = d.mkPieces ∧
        d'.id = k.issueCtr) ∧
      (∀ x, x ≠ m → (t.core core).mover x = k.mover x) ∧ (∀ x, x ≠ r.ctx → (t.core core).seq x = k.seq x) ∧
      { t.core core with seqs := [], seqProg := 0, movers := [], movProg := [], issueCtr := 0, groups := [] } =
        { k with seqs := [], seqProg := 0, movers := [], movProg := [], issueCtr := 0, groups := [] } ∧
      (∀ c, c ≠ core → t.core c = s.core c) ∧ Leaves (fun b => { b with cores := [] }) s.toBlock t.toBlock)
  ) ∧
  (
  ∀ core s r, s.Issues core 0x400 r → 64 ≤ ((s.core core).mover (wf_ r.word 123 122)).queue.length →
    Answers (.mov core) s (fun t => t = s)
  )

/-- R163, R174, R175: a mover that is not parked, has credits, no mark in its way and no earlier write of its own to the same
granules due, reads the next piece of an unconverted copy whose source is the scratchpad or the tile buffer: the piece is
fetched and holds the bytes of its source; the source keeps them. Its descriptor's page may be looked up ahead (R301).
R175, R184, R240: a fetched piece, or a decoded block without an error, lands at its destination's address and nowhere
else, and the piece is landed: in the scratchpad under the descriptor's swap bits, in the tile buffer within the
context's range, in the DRAM tier at the physical address of its one page. -/
def Obligations.MoversMoveTheirPieces : Prop :=
  (
  ∀ core m s d i p seen, s.coreUp core = true → m < 4 → ((s.core core).mover m).park = .none →
    ((s.core core).mover m).nextPending = some (d, i, p) →
    (∀ x ∈ ((s.core core).mover m).marks, d.id ≤ x.id ∨ (s.core core).markMet x = true) →
    ((s.core core).mover m).credits + p.credits ≤ 256 → (s.core core).credits + p.credits ≤ 512 →
    (s.core core).srcTags d (d.srcRanges p) = some seen → (d.dstSp = 3 → s.targetOk d = true) → d.decodes = false → d.convert = false →
    s.readWaits core m d [(d.srcSp, p.src, p.len)] = false → ((s.core core).mover m).serves d p = none → d.srcSp ≤ 1 →
    Answers (.pieceIssue core m) s (fun t => (∀ c, c ≠ core → t.core c = s.core c) ∧
      { t.core core with movers := [], tags := [] } = { s.core core with movers := [], tags := [] } ∧
      ((d.srcSp ≠ 0 ∨ d.srcTag ≠ 2) → (t.core core).tags = (s.core core).tags) ∧
      (∀ x, { t.part x with tlb := [], walks := [] } = { s.part x with tlb := [], walks := [] }) ∧
      Leaves (fun b => { b with cores := [], parts := [], treleb := {} }) s.toBlock t.toBlock ∧
      (d.dstSp ≠ 2 → t.parts = s.parts ∧ t.treleb = s.treleb) ∧
      ∃ d' p', d' ∈ ((t.core core).mover m).queue ∧ d'.id = d.id ∧ d'.pieces[i]? = some p' ∧ p'.state = .fetched ∧
        p'.data = if d.srcSp = 0 then (s.core core).scratchBytes d.swap p.src p.len
          else Mem.bytes (s.part (partOf core)).tile (((s.part (partOf core)).rangeOf d.ctx).1 + p.src) p.len)
  ) ∧
  (
  (∀ core m i s d p, State.PlainLanding s core m i d p 0 → p.state = .fetched → d.decodes = false →
    Answers (.pieceLanding core m i) s (fun t =>
      (t.core core).scratch = ((s.core core).scratchWrite d.swap ((d.dstRow p.row + p.off) % 2 ^ 64) p.data []).scratch ∧
      { t.core core with scratch := [], poison := [], tags := [], movers := [], movProg := [], pfCtr := 0 } =
        { s.core core with scratch := [], poison := [], tags := [], movers := [], movProg := [], pfCtr := 0 } ∧
      (∀ c, c ≠ core → t.core c = s.core c) ∧ Leaves (fun b => { b with cores := [] }) s.toBlock t.toBlock ∧
      ∃ d' p', d' ∈ ((t.core core).mover m).queue ∧ d'.id = d.id ∧ d'.pieces[i]? = some p' ∧ p'.state = .landed)) ∧
  (∀ core m i s d p, State.PlainLanding s core m i d p 1 → p.state = .fetched → d.decodes = false →
    Answers (.pieceLanding core m i) s (fun t =>
      (t.part (partOf core)).tile = Mem.write (s.part (partOf core)).tile
        (((s.part (partOf core)).rangeOf d.ctx).1 + (d.dstRow p.row + p.off) % 2 ^ 64) p.data ∧
      { t.part (partOf core) with tile := [], tilePoison := [] } = { s.part (partOf core) with tile := [], tilePoison := [] } ∧
      (∀ x, x ≠ partOf core → t.part x = s.part x) ∧
      { t.core core with tags := [], movers := [], movProg := [], pfCtr := 0 } = { s.core core with tags := [], movers := [], movProg := [], pfCtr := 0 } ∧
      (∀ c, c ≠ core → t.core c = s.core c) ∧ Leaves (fun b => { b with cores := [], parts := [] }) s.toBlock t.toBlock ∧
      ∃ d' p', d' ∈ ((t.core core).mover m).queue ∧ d'.id = d.id ∧ d'.pieces[i]? = some p' ∧ p'.state = .landed)) ∧
  (∀ core m i s d p pa, State.PlainLanding s core m i d p 2 → p.state = .fetched → d.decodes = false →
    s.needs core m d.ctx [((d.dstRow p.row + p.off) % 2 ^ 64, p.data.length)] true =
      .go [((d.dstRow p.row + p.off) % 2 ^ 64, p.data.length, pa)] → bits pa 51 48 = 0 →
    s.shareFree core 1 (if acrossLink core pa then p.data.length else 0) = true →
    Answers (.pieceLanding core m i) s (fun t => t.dram = (s.toBlock.dramWrite (bits pa 47 0) p.data []).dram ∧
      { t.core core with tags := [], movers := [], movProg := [], pfCtr := 0, spent := [] } =
        { s.core core with tags := [], movers := [], movProg := [], pfCtr := 0, spent := [] } ∧
      (∀ c, c ≠ core → t.core c = s.core c) ∧ Leaves (fun b => { b with cores := [], dram := {} }) s.toBlock t.toBlock ∧
      ∃ d' p', d' ∈ ((t.core core).mover m).queue ∧ d'.id = d.id ∧ d'.pieces[i]? = some p' ∧ p'.state = .landed)) ∧
  (∀ core m i s d p, State.PlainLanding s core m i d p 0 → p.state = .reading → p.open_ = 0 → d.decodes = true → p.err = 0 →
    Answers (.codecBlockDone core m i) s (fun t =>
      (t.core core).scratch = ((s.core core).scratchWrite d.swap ((d.dstRow p.row + p.off) % 2 ^ 64) p.data []).scratch ∧
      { t.core core with scratch := [], poison := [], tags := [], movers := [], movProg := [], pfCtr := 0 } =
        { s.core core with scratch := [], poison := [], tags := [], movers := [], movProg := [], pfCtr := 0 } ∧
      (∀ c, c ≠ core → t.core c = s.core c) ∧ Leaves (fun b => { b with cores := [] }) s.toBlock t.toBlock ∧
      ∃ d' p', d' ∈ ((t.core core).mover m).queue ∧ d'.id = d.id ∧ d'.pieces[i]? = some p' ∧ p'.state = .landed))
  )

/-- R167, R180: a FINAL with a tile-buffer flag, or one in the DRAM tier, writes its eight bytes there once the context's
earlier writes on the core have landed, and is acknowledged; a FINAL whose group has been sent, or an ATOMIC, for another
module's window becomes a live request.
R185, R338: the oldest descriptor of a mover whose pieces have all landed leaves the queue; where it says so its handle goes
to the end of its queue, which has room; a COPY's entry ends with it.
R198, R200: 200 µs after the first of a context's descriptors on a core ended without an answer, the credits of those that
ended by then are free and their requests retired. -/
def Obligations.DescriptorsEnd : Prop :=
  (
  (∀ core m s d, s.coreUp core = true → m < 4 → ((s.core core).mover m).landHead = some d → d.op = 1 → d.dstSp = 1 →
    (s.core core).earlierLanded d = true →
    Answers (.finalSend core m) s (fun t =>
      (t.part (partOf core)).tile = Mem.write (s.part (partOf core)).tile
        (((s.part (partOf core)).rangeOf d.ctx).1 + d.dst) ((d.raw.drop 8).take 8) ∧
      { t.part (partOf core) with tile := [], tilePoison := [] } = { s.part (partOf core) with tile := [], tilePoison := [] } ∧
      (∀ x, x ≠ partOf core → t.part x = s.part x) ∧
      { t.core core with movers := [], movProg := [] } = { s.core core with movers := [], movProg := [] } ∧
      (∀ c, c ≠ core → t.core c = s.core c) ∧ Leaves (fun b => { b with cores := [], parts := [] }) s.toBlock t.toBlock ∧
      ∃ d' ∈ ((t.core core).mover m).queue, d'.id = d.id ∧ d'.sentOut = true ∧ d'.acked = true)) ∧
  (∀ core m s d pa, s.coreUp core = true → m < 4 → ((s.core core).mover m).landHead = some d → d.op = 1 → d.dstSp = 2 →
    (s.core core).earlierLanded d = true → s.needs core m d.ctx [(d.dst, 8)] true = .go [(d.dst, 8, pa)] → bits pa 51 48 = 0 →
    s.shareFree core 1 (if acrossLink core pa then 8 else 0) = true →
    Answers (.finalSend core m) s (fun t => t.dram = (s.toBlock.dramWrite (bits pa 47 0) ((d.raw.drop 8).take 8) []).dram ∧
      { t.core core with movers := [], movProg := [], spent := [] } = { s.core core with movers := [], movProg := [], spent := [] } ∧
      (∀ c, c ≠ core → t.core c = s.core c) ∧ Leaves (fun b => { b with cores := [], dram := {} }) s.toBlock t.toBlock ∧
      ∃ d' ∈ ((t.core core).mover m).queue, d'.id = d.id ∧ d'.sentOut = true ∧ d'.acked = true)) ∧
  (∀ core m s d, s.coreUp core = true → m < 4 → ((s.core core).mover m).landHead = some d → (d.op = 1 ∨ d.op = 2) → d.dstSp = 3 →
    s.targetOk d = true → (d.op = 1 → (s.core core).groupSent d = true ∧ ((s.core core).live.filter (fun r => r.kind == 1)).length < 64) →
    (s.core core).live.length < 512 → s.shareFree core 2 8 = true → d.target ≠ s.self →
    Answers (.finalSend core m) s (fun t =>
      (∃ r, (t.core core).live = (s.core core).live ++ [r] ∧ r.reqId = (s.core core).reqCtr ∧ r.ctx = d.ctx ∧ r.kind = d.op ∧
        r.mover = m ∧ r.desc = d.id ∧ r.target = d.target ∧ r.window = d.window ∧ r.group = d.group ∧ r.step = d.step ∧ r.sentAt = s.time.keeper) ∧
      { t.core core with movers := [], live := [], reqCtr := 0, groups := [], spent := [] } =
        { s.core core with movers := [], live := [], reqCtr := 0, groups := [], spent := [] } ∧
      (∀ c, c ≠ core → t.core c = s.core c) ∧ Leaves (fun b => { b with cores := [], weave := {} }) s.toBlock t.toBlock ∧
      ∃ d' ∈ ((t.core core).mover m).queue, d'.id = d.id ∧ d'.sentOut = true))
  ) ∧
  (
  (∀ core m s d rest, s.coreUp core = true → m < 4 → ((s.core core).mover m).queue = d :: rest → d.landed = true →
    d.push = false → (∀ k ∈ (s.core core).kernels, k.kid = d.kid → k.isCopy = false) →
    Answers (.descDone core m) s (fun t => (t.core core).mover m = { (s.core core).mover m with queue := rest } ∧
      (∀ x, x ≠ m → (t.core core).mover x = (s.core core).mover x) ∧
      { t.core core with movers := [], movProg := [] } = { s.core core with movers := [], movProg := [] } ∧
      (∀ c, c ≠ core → t.core c = s.core c) ∧ Leaves (fun b => { b with cores := [] }) s.toBlock t.toBlock)) ∧
  (∀ core m s d rest bd l, s.coreUp core = true → m < 4 → ((s.core core).mover m).queue = d :: rest → d.landed = true →
    d.push = true → (s.core core).bind? d.ctx = some bd → s.queueOf core bd d.qsel = some l → l.length < 64 →
    (∀ k ∈ (s.core core).kernels, k.kid = d.kid → k.isCopy = false) →
    Answers (.descDone core m) s (fun t => (t.core core).mover m = { (s.core core).mover m with queue := rest } ∧
      (∀ x, x ≠ m → (t.core core).mover x = (s.core core).mover x) ∧
      t.queueOf core bd d.qsel = some (l ++ [BitVec.ofNat 32 (fld d.raw 48 4)]) ∧
      (∀ bd' q, ¬ sameQueue bd.pos d.qsel bd'.pos q → t.queueOf core bd' q = s.queueOf core bd' q) ∧
      { t.core core with movers := [], movProg := [], hq := [] } = { s.core core with movers := [], movProg := [], hq := [] } ∧
      (∀ x, { t.part x with tqs := [] } = { s.part x with tqs := [] }) ∧
      (∀ c, c ≠ core → t.core c = s.core c) ∧ Leaves (fun b => { b with cores := [], parts := [] }) s.toBlock t.toBlock)) ∧
  (∀ core m s d rest ker e, s.coreUp core = true → m < 4 → ((s.core core).mover m).queue = d :: rest → d.landed = true → d.push = false →
    (s.core core).kernels.find? (fun x => x.kid == d.kid && x.isCopy) = some ker → (s.ctx ker.ctx).entry? ker.seq = some e →
    e.state ≠ .finished → e.state ≠ .completed → e.held = false → (s.ctx ker.ctx).inStep e = false →
    Answers (.descDone core m) s (fun t => ((t.core core).mover m).queue = rest ∧ t.Ended ker.ctx ker.seq stOK ∧
      (t.core core).kernels = (s.core core).kernels.filter (fun x => x.kid != ker.kid) ∧
      { t.core core with movers := [], movProg := [], kernels := [] } = { s.core core with movers := [], movProg := [], kernels := [] } ∧
      (∀ c, c ≠ core → t.core c = s.core c) ∧ (∀ x, x ≠ ker.ctx → t.ctx x = s.ctx x) ∧
      Leaves (fun b => { b with cores := [], ctxs := [], treleb := {} }) s.toBlock t.toBlock))
  ) ∧
  (
  ∀ core ctx s t0, (((s.core core).dyingOf ctx).map (·.endedAt)).min? = some t0 →
    Answers (.creditTimeout core ctx) s (fun t => t.time = s.time.pass (t0 + 200000 - s.time.keeper) ∧
      onlyCore { s with time := t.time } t core ∧
      { t.core core with movers := [], live := [] } = { s.core core with movers := [], live := [] } ∧
      (∀ m < 4, (t.core core).mover m = { (s.core core).mover m with
        dying := ((s.core core).mover m).dying.filter (fun d => !(d.ctx == ctx && decide (d.endedAt + 200000 ≤ t.time.keeper))) }) ∧
      ∀ r, r ∈ (t.core core).live ↔ r ∈ (s.core core).live ∧ ∀ m < 4, ∀ d ∈ ((s.core core).mover m).dying, d.ctx = ctx →
        d.endedAt + 200000 ≤ t.time.keeper → d.id ≠ r.desc)
  )

/-- R314, R343: a doorbell value above the latch raises it and wakes the fetcher; nothing else of the module changes but
trace and log.
R335, R338: a fetch that finds the next sequence number in its slot accepts the entry, refused where R338 says so, and moves
to the next slot; one that finds a greater number stops there, accepts nothing and keeps that number.
R282, R340, R355, R359, R360: the next accepted entry, with nothing that must come before it outstanding, is dispatched, an
ATTN with its block as it stands then; one that R338 refuses ends INVALID.
R342: EVENT_RECORD, once every earlier entry has completed, sets its event and ends; EVENT_WAIT ends once its event has
reached its value and waits until then.
R344, R358: an entry that ends outside a step is completed with its status, DETAIL and stamp; the entries up to the first
that has not completed are covered by the completed sequence number. One that ends OK inside an open step is finished. -/
def Obligations.RingEntriesAreTaken : Prop :=
  (
  ∀ (ctx : Nat) (v : W64) (s : State), ctx < 64 → s.mmioOn = true → (s.ctx ctx).state ≠ 0 → (s.ctx ctx).latch < v.toNat →
    Answers (.doorbellWrite ctx v) s (fun t =>
      Traced (s.toBlock.setCtx ctx { s.ctx ctx with latch := v.toNat, wake := true, reread := (s.ctx ctx).gap }) t.toBlock ∧
      (t.ctx ctx).latch = v.toNat)
  ) ∧
  (
  ∀ (ctx : Nat) (s : State) (raw : List Byte), ctx < 64 → s.serves ctx = true → (s.ctx ctx).gap = false →
    (s.ctx ctx).latch = (s.ctx ctx).last + 1 → ((s.ctx ctx).entries.filter (fun e => e.state == .accepted)).length < 1024 →
    (s.ctx ctx).step = .none → (∀ e ∈ (s.ctx ctx).entries.head?, e.state ≠ .completed) →
    s.hostGet ((s.ctx ctx).ringBase + 64 * (s.ctx ctx).fetchSlot) 64 = some raw →
    (fld raw 0 8 = (s.ctx ctx).last + 1 →
      Answers (.ringFetch ctx) s (fun t => Traced (s.toBlock.setCtx ctx { s.ctx ctx with
          wake := false, reread := false, gap := false, foundSeq := 0, skipRun := 0, last := (s.ctx ctx).last + 1
          fetchSlot := ((s.ctx ctx).fetchSlot + 1) % 2 ^ (s.ctx ctx).ringLog2
          entries := (s.ctx ctx).entries ++
            [{ seq := (s.ctx ctx).last + 1, raw := raw, refused := !entryOk (s.ctx ctx).recLog2 raw, state := .accepted, step := 0,
               status := 0, detail := [], stamp := 0, held := false }] }) t.toBlock)) ∧
    ((s.ctx ctx).last + 1 < fld raw 0 8 →
      Answers (.ringFetch ctx) s (fun t =>
        Leaves (fun b => { b with mboxes := [] })
          (s.toBlock.setCtx ctx { s.ctx ctx with wake := false, reread := false, gap := true, foundSeq := fld raw 0 8, skipRun := 0 })
          t.toBlock))
  ) ∧
  (
  ∀ (ctx : Nat) (s : State) (e : Entry), s.serves ctx = true → (s.ctx ctx).state = 1 →
    (s.ctx ctx).entries.find? (fun e => e.state == .accepted) = some e → (s.ctx ctx).mayDispatch e = true →
    let x := (s.ctx ctx).modEntry e.seq (fun y => { y with state := .dispatched, step := (s.ctx ctx).curStep })
    (e.refused = false → e.op ≠ 3 → Answers (.dispatch ctx) s (fun t => Traced (s.toBlock.setCtx ctx x) t.toBlock)) ∧
    (∀ p, e.refused = false → e.op = 3 → s.feStall ctx [(fld e.raw 16 8, 128)] 1 = none →
      s.feRead ctx (fld e.raw 16 8) 128 = .ok p →
      Answers (.dispatch ctx) s (fun t =>
        Traced (s.toBlock.setCtx ctx { x with attn := x.attn ++ [attnTaken e.seq (.ok p)] }) t.toBlock)) ∧
    (e.refused = true → Answers (.dispatch ctx) s (fun t =>
      t.toBlock = s.toBlock.finishEntry ctx e.seq stInvalid (refusedDetail e.op (s.ctx ctx).stepNo)))
  ) ∧
  (
  (∀ ctx s e, s.RingTurn ctx 4 e → (∀ y ∈ (s.ctx ctx).entries, y.seq < e.seq → y.past = true) → fld e.raw 16 2 ≤ 4095 →
    Answers (.eventRecord ctx) s (fun t => t.toBlock = (s.toBlock.setCtx ctx { s.ctx ctx with
      events := SMap.set 0#64 (s.ctx ctx).events (fld e.raw 16 2) (BitVec.ofNat 64 (fld e.raw 24 8)) }).finishEntry ctx e.seq stOK [])) ∧
  (∀ ctx s e, s.RingTurn ctx 5 e → fld e.raw 16 2 ≤ 4095 → fld e.raw 24 8 ≤ ((s.ctx ctx).event (fld e.raw 16 2)).toNat →
    Answers (.eventWait ctx) s (fun t => t.toBlock = s.toBlock.finishEntry ctx e.seq stOK [])) ∧
  (∀ ctx s e, s.RingTurn ctx 5 e → fld e.raw 16 2 ≤ 4095 → ((s.ctx ctx).event (fld e.raw 16 2)).toNat < fld e.raw 24 8 →
    Answers (.eventWait ctx) s (fun t => t = s))
  ) ∧
  (
  (∀ (b : Block) (ctx : Nat) (e : Entry) (st : Nat) (det : List Byte), (b.ctx ctx).entry? e.seq = some e →
    e.state ≠ .finished → e.state ≠ .completed → e.held = false → (b.ctx ctx).inStep e = false →
    let x := b.ctx ctx
    let y := (b.finishEntry ctx e.seq st det).ctx ctx
    let es := x.entries.map (fun y => if y.seq = e.seq then
      { y with state := .completed, status := st, detail := det, stamp := (b.stamp (fabIsl x.part) 0).1, held := false } else y)
    let cov := es.takeWhile (fun y => y.state == .completed)
    y.entries = es.drop cov.length ∧ y.doneSeq = (cov.getLast?.map (·.seq)).getD x.doneSeq ∧
      y.lastStatus = ((cov.filter (fun y => y.status != 0)).getLast?.map (·.status)).getD x.lastStatus ∧
      y.entriesDone = x.entriesDone + 1) ∧
  (∀ (b : Block) (ctx : Nat) (e : Entry) (det : List Byte), (b.ctx ctx).entry? e.seq = some e →
    e.state ≠ .finished → e.state ≠ .completed → (b.ctx ctx).inStep e = true → (b.ctx ctx).step = .opened →
    b.finishEntry ctx e.seq stOK det = b.setCtx ctx ((b.ctx ctx).modEntry e.seq (fun y =>
      { y with state := .finished, status := stOK, detail := det })))
  )

/-- R96–R99, R338: a LAUNCH that names bound cores, of an aligned image with a sound header that fits them and whose
parameters can be read, leaves the kernel waiting on each of them with its rank, on no other core: with the words of the
image where it is resident on all of them, and else with the words read, whose digest agrees. Its entry is started.
R338, R340: a COPY for a free core of the context whose descriptor can be read and is not refused enters the mover's queue as
a kernel of one instruction; its entry is started, and nothing else changes but trace. -/
def Obligations.LaunchAndCopyStartTheirWork : Prop :=
  (
  ∀ ctx s e h w p, s.RingTurn ctx 1 e →
    let cores := maskCores (fld e.raw 32 2)
    let img := fld e.raw 16 8
    cores ≠ [] → (∀ c ∈ cores, ((s.core c).bind? ctx).isSome = true) → img % 64 = 0 →
    s.feStall ctx [(img, 64)] 1 = none → s.feRead ctx img 64 = .ok h → headerOk h = true → s.imageFits ctx (fld h 0 4) cores = true →
    (fld h 10 2 ≠ 0 → fld e.raw 24 8 % 8 = 0) → (bit (fld h 9 1) 0 = true → (s.ctx ctx).tune.isSome = true) →
    (if (∀ c ∈ cores, s.residentOn ctx c ((h.drop 16).take 32) = true) then w = s.residentWords ctx (cores.headD 0) ((h.drop 16).take 32)
     else s.feStall ctx [(img + 64, 16 * fld h 0 4)] 1 = none ∧ ∃ d, s.feRead ctx (img + 64) (16 * fld h 0 4) = .ok d ∧
       sha256 d = (h.drop 16).take 32 ∧ w = imageWords (fld h 0 4) d) →
    (if fld h 10 2 = 0 then p = []
     else s.feStall ctx [(fld e.raw 24 8, fld h 10 2)] 1 = none ∧ s.feRead ctx (fld e.raw 24 8) (fld h 10 2) = .ok p) →
    Answers (.launch ctx) s (fun t =>
      (∀ c ∈ cores, (t.core c).waiting = (s.core c).waiting ++
          [⟨ctx, e.seq, s.kidCtr, (s.ctx ctx).curStep, cores.idxOf c, cores.length, h, w, p, bit e.flags 2⟩] ∧
        { t.core c with waiting := [] } = { s.core c with waiting := [] }) ∧
      (∀ c, c ∉ cores → t.core c = s.core c) ∧
      t.ctx ctx = (s.ctx ctx).modEntry e.seq (fun y => { y with state := .started, stoch := bit (fld h 9 1) 0 }) ∧
      (∀ x, x ≠ ctx → t.ctx x = s.ctx x) ∧ t.kidCtr = s.kidCtr + 1 ∧ stampsOnly s t ∧
      { t.toBlock with cores := [], ctxs := [], islands := [], kidCtr := 0 } = { s.toBlock with cores := [], ctxs := [], islands := [], kidCtr := 0 })
  ) ∧
  (
  ∀ ctx s e bd main raw, s.serves ctx = true → ((s.ctx ctx).turns 2).find? (s.copyTurn ctx) = some e →
    let addr := fld e.raw 16 8
    let core := fld e.raw 24 1
    let m := fld e.raw 25 1
    let k := ((s.core core).clearSwap bd).dropPrefetch (fun _ => true)
    let d := newDesc ctx s.kidCtr (s.ctx ctx).curStep 0 (fld e.raw 26 2) raw k.swap
    core < 16 → (s.core core).bind? ctx = some bd → m ≤ 3 → addr % 64 = 0 →
    s.feStall ctx [(addr, 64)] 1 = none → s.feRead ctx addr 64 = .ok main →
    s.feStall ctx [(addr, descLen main)] 1 = none → s.feRead ctx addr (descLen main) = .ok raw → s.descRefusal core bd d = none →
    Answers (.copy ctx) s (fun t =>
      (∃ d' : Desc, (t.core core).mover m = { k.mover m with queue := (k.mover m).queue ++ [d'] } ∧ d'.raw = raw ∧ d'.ctx = ctx ∧
        d'.kid = s.kidCtr ∧ d'.step = (s.ctx ctx).curStep ∧ d'.movId = fld e.raw 26 2 ∧ d'.pieces = d.mkPieces ∧ d'.id = k.issueCtr) ∧
      (∀ x, x ≠ m → (t.core core).mover x = k.mover x) ∧ (t.core core).swap = k.swap ∧
      (∃ y : Kernel, (t.core core).kernels = (s.core core).kernels ++ [y] ∧ y.kid = s.kidCtr ∧ y.ctx = ctx ∧ y.seq = e.seq ∧
        y.isCopy = true ∧ y.state = .halted ∧ y.done = false) ∧
      { t.core core with movers := [], movProg := [], issueCtr := 0, groups := [], kernels := [], swap := [] } =
        { s.core core with movers := [], movProg := [], issueCtr := 0, groups := [], kernels := [], swap := [] } ∧
      (∀ c, c ≠ core → t.core c = s.core c) ∧
      t.ctx ctx = (s.ctx ctx).modEntry e.seq (fun y => { y with state := .started }) ∧ (∀ x, x ≠ ctx → t.ctx x = s.ctx x) ∧
      t.kidCtr = s.kidCtr + 1 ∧ Leaves (fun b => { b with cores := [], ctxs := [], kidCtr := 0 }) s.toBlock t.toBlock)
  )

/-- R281: a FLOE_OP that may run, whose block names a sequence of the context's configuration to which the step has not
appended, does the work of its SUBOP and its entry ends OK, or with the status of what stood against it; all but INIT need a
live record.
R271–R273, R281: an INIT writes free list entries and then a live record of length 0; a BIND of one floe writes its address into
its free entry; a RELEASE or TRUNCATE that shortens the sequence and a SHARE that lengthens it end with the new length in the
record.
R281: an INIT with a list that is not 64-byte aligned or a capacity of 0 or above 4,096, a BIND or RELEASE beyond the
capacity, a BIND of a layer that does not exist, a TRUNCATE above the committed length and a SHARE from a sequence that does not
exist end INVALID and write nothing. -/
def Obligations.FloeOperationsRun : Prop :=
  (
  FloeForm .floeOpInit 0 (fun s ctx e _ _ b _ => b = s.toBlock.feSeen ctx (fld e.raw 16 8) 64) (fun b ctx f _ p => b.floeInit ctx f p) ∧
  FloeForm .floeOpBind 1 FloeFound Block.floeBind ∧ FloeForm .floeOpRelease 2 FloeFound Block.floeRelease ∧
  FloeForm .floeOpTruncate 3 FloeFound Block.floeTruncate ∧ FloeForm .floeOpShare 4 FloeFound Block.floeShare
  ) ∧
  (
  (∀ (b c : Block) ctx f p, fld p 24 8 % 64 = 0 → fld p 24 8 < 2 ^ 56 → 1 ≤ fld p 32 2 → fld p 32 2 ≤ 4096 →
    b.opWrite ctx none (fld p 24 8) (List.replicate (16 * fld p 32 2 * f.layers) 0#8) = (c, none) →
    b.floeInit ctx f p = (c.stamp (fabIsl (b.ctx ctx).part) 0).2.opWrite ctx none (f.recAt (fld p 4 4))
      (natLe 8 0 ++ natLe 8 (fld p 24 8) ++ natLe 2 (fld p 32 2) ++ natLe 1 1 ++ natLe 5 0 ++
        natLe 8 (c.stamp (fabIsl (b.ctx ctx).part) 0).1)) ∧
  (∀ (b : Block) ctx f r p d, fld p 2 2 < f.layers → fld p 2 2 ≠ 0xFFFF → fld p 12 4 = 1 → fld p 16 4 < r.cap →
    b.opRead ctx none (fld p 40 8) 8 [0, 1, 2] = .ok d → fld d 0 8 ≠ 0 → fld d 0 8 % 4096 = 0 → fld d 0 8 < 2 ^ 56 →
    (∃ x, b.floeEnt ctx none f r (fld p 16 4) (fld p 2 2) = .ok x ∧ x.state = 0) →
    b.floeBind ctx f r p = b.opWrite ctx none (f.entAt r (fld p 16 4) (fld p 2 2)) (natLe 8 (fld d 0 8))) ∧
  (∀ (b : Block) ctx f r p, (b.floeRelease ctx f r p).2 = none → 256 * fld p 16 4 < r.len →
    ∃ c : Block, b.floeRelease ctx f r p = c.setLen ctx f (fld p 4 4) (256 * fld p 16 4)) ∧
  (∀ (b : Block) ctx f r p, (b.floeTruncate ctx f r p).2 = none → fld p 48 8 < r.len →
    ∃ c : Block, b.floeTruncate ctx f r p = c.setLen ctx f (fld p 4 4) (fld p 48 8)) ∧
  (∀ (b : Block) ctx f r p, (b.floeShare ctx f r p).2 = none → fld p 12 4 ≠ 0 →
    ∃ c : Block, b.floeShare ctx f r p = c.setLen ctx f (fld p 4 4) (256 * fld p 12 4))
  ) ∧
  (
  (∀ (b : Block) ctx f p, (fld p 24 8 % 64 ≠ 0 ∨ fld p 32 2 = 0 ∨ 4096 < fld p 32 2) → b.floeInit ctx f p = (b, some (.of stInvalid))) ∧
  (∀ (b : Block) ctx f r p, (r.cap < fld p 16 4 + fld p 12 4 ∨ (f.layers ≤ fld p 2 2 ∧ fld p 2 2 ≠ 0xFFFF)) →
    b.floeBind ctx f r p = (b, some (.of stInvalid))) ∧
  (∀ (b : Block) ctx f r p, r.cap ≤ fld p 16 4 → b.floeRelease ctx f r p = (b, some (.of stInvalid))) ∧
  (∀ (b : Block) ctx f r p, r.len < fld p 48 8 → b.floeTruncate ctx f r p = (b, some (.of stInvalid))) ∧
  (∀ (b : Block) ctx f r p, f.seqs ≤ fld p 8 4 → b.floeShare ctx f r p = (b, some (.of stInvalid)))
  )

/-- R282, R283, R287–R289: an ATTN whose block is sound, whose batch is read, that appends nothing, names live sequences long
enough and may begin places its units in batch order: 128 rows each, the first on each of its cores. Its entry is started.
R274, R277: an append to a sequence and layer raises their count in the step's append table by its tokens and leaves the
counts of the others alone.
R287, R290: a unit whose rows all landed is done, and its core takes the ATTN's next unit; with the last the ATTN ends, OK where
none failed. A unit that failed with a status is done too and leaves its number, status and sequence where no lower unit failed
before. -/
def Obligations.AttnRunsItsUnits : Prop :=
  (
  ∀ ctx s e f a, s.RingTurn ctx 3 e → (s.ctx ctx).floe = some f → (s.ctx ctx).attn.find? (fun x => x.seq == e.seq) = some a →
    a.batch ≠ [] → a.next = 0 → a.cores = aCores a.block → s.attnBlock ctx e a = none → s.attnMayBegin ctx a = true →
    aAppend a.block = false → attnUnits a.block a.batch ≠ [] →
    (∀ t ∈ a.batch, ∃ r, s.seqRec ctx (some (a.cores.headD 0)) f (fld t 0 4) = .ok r ∧ r.live = true ∧
      fld t 4 4 ≤ r.len + ((s.ctx ctx).append (fld t 0 4) (aLayer a.block)).count) →
    Answers (.attn ctx) s (fun t =>
      (∃ y, (t.ctx ctx).attn.find? (fun x => x.seq == e.seq) = some y ∧ y.begun = true ∧ y.units = attnUnits a.block a.batch ∧
        y.next = a.cores.length ∧ y.done = a.done ∧ y.failed = none ∧ y.block = a.block ∧ y.batch = a.batch ∧ y.cores = a.cores) ∧
      (∀ c ∈ a.cores, (t.core c).units = (s.core c).units ++ [⟨ctx, e.seq, a.cores.idxOf c⟩]) ∧
      (∀ c, c ∉ a.cores → t.core c = s.core c) ∧ (∀ c, (t.core c).scratch = (s.core c).scratch) ∧ t.parts = s.parts ∧
      (∃ y ∈ (t.ctx ctx).entries, y.seq = e.seq ∧ y.state = .started) ∧
      Leaves (fun b => { b with cores := [], ctxs := [] }) s.toBlock t.toBlock)
  ) ∧
  (
  ∀ (b : Block) ctx f p s w n,
    (((b.noteAppend ctx f p s w n).ctx ctx).append s (aLayer p)).count = ((b.ctx ctx).append s (aLayer p)).count + n ∧
    ∀ s' l, (s' ≠ s ∨ l ≠ aLayer p) → ((b.noteAppend ctx f p s w n).ctx ctx).append s' l = (b.ctx ctx).append s' l
  ) ∧
  (
  ∀ core s u f a ent ctx p, s.coreUp core = true → (s.core core).cur = ctx + 1 →
    (s.core core).units.find? (fun x => x.ctx == ctx) = some u → (s.ctx ctx).floe = some f →
    (s.ctx ctx).attn.find? (fun x => x.seq == u.seq) = some a → a.units[u.unit]? = some ent →
    s.keepProj ctx core f a = .ok p →
    let r := p.1.attnUnit ctx (some core) f a ent p.2
    (r.2 = none → a.done + 1 < a.units.length →
      Answers (.attnUnitDone core) s (fun t =>
        (∃ y, (t.ctx ctx).attn.find? (fun x => x.seq == u.seq) = some y ∧ y.done = a.done + 1 ∧ y.next = a.next + 1 ∧
          y.units = a.units ∧ y.failed = a.failed) ∧
        (t.core core).units = (s.core core).units.filter (fun v => !(v.ctx == ctx && v.seq == u.seq)) ++ [⟨ctx, u.seq, a.next⟩] ∧
        (∀ c, c ≠ core → t.core c = s.core c) ∧ t.dram = r.1.dram ∧ t.hostMem = r.1.hostMem ∧ t.firn = r.1.firn)) ∧
    (∀ er, r.2 = some er → er.st < stWait → a.done + 1 < a.units.length →
      Answers (.attnUnitDone core) s (fun t =>
        ∃ y, (t.ctx ctx).attn.find? (fun x => x.seq == u.seq) = some y ∧ y.done = a.done + 1 ∧ y.next = a.next + 1 ∧
          y.units = a.units ∧ y.failed = (a.fail u.unit er.st (fld (a.batch.getD ent.1 []) 0 4)).failed)) ∧
    (r.2 = none → a.done + 1 = a.units.length → a.failed = none →
      ∀ e, (s.ctx ctx).entry? u.seq = some e → e.state ≠ .finished → e.state ≠ .completed →
      Answers (.attnUnitDone core) s (fun t => t.Ended ctx u.seq stOK ∧ (∀ y ∈ (t.ctx ctx).attn, y.seq ≠ u.seq) ∧
        ∀ c ∈ a.cores, ∀ v ∈ (t.core c).units, ¬ (v.ctx = ctx ∧ v.seq = u.seq)))
  )

/-- R353, R355: STEP_BEGIN of the immediate kind with its deadline ahead and no step in force opens the next step number at
once; one whose deadline has passed is LATE at once: its number retires, the drop is counted and its entry ends LATE. A
STEP_BEGIN of a member of a job whose tick is ahead waits; a waiting step opens at its tick. In each no other STEP_BEGIN lies
in the step. Beside the context nothing changes but trace, log and the time that passed.
R360, R361: STEP_END with every earlier entry finished, before the deadline, with appends that agree and commit writes that
wait for nothing commits: the step's number retires, the commit is counted, the append table is empty, no step is in force,
and where nothing was appended its entry ends OK. The commit of a sequence ends with its new length in its record.
R362–R364: at its deadline an open step is dropped: its number retires at once, the drop is counted and an abort at step scope
of its unfinished entries is under way; no scratchpad or tile buffer changes. -/
def Obligations.StepsOpenCommitAndDrop : Prop :=
  (
  (∀ ctx s e, s.RingTurn ctx 6 e → (s.ctx ctx).step = .none → fld e.raw 16 1 = 0 → s.time.keeper < fld e.raw 24 8 →
    (∀ y ∈ (s.ctx ctx).entries, e.seq < y.seq → y.op = 6 → y.refused = true) →
    Answers (.stepBegin ctx) s (fun t => Traced (s.toBlock.setCtx ctx { (s.ctx ctx).modEntry e.seq (fun y =>
        { y with state := .finished, status := stOK, detail := stepDetail ((s.ctx ctx).stepNo + 1) }) with
      step := .opened, stepNo := (s.ctx ctx).stepNo + 1, stepSeq := e.seq, deadline := fld e.raw 24 8 }) t.toBlock)) ∧
  (∀ ctx s e, s.RingTurn ctx 6 e → (s.ctx ctx).step = .none → fld e.raw 16 1 = 0 → fld e.raw 24 8 ≤ s.time.keeper →
    Answers (.stepBegin ctx) s (fun t => t.Ended ctx e.seq stLate ∧ (t.ctx ctx).retired = (s.ctx ctx).stepNo + 1 ∧
      (t.ctx ctx).dropped = (s.ctx ctx).dropped + 1 ∧ (t.ctx ctx).committed = (s.ctx ctx).committed ∧ t.aborts = s.aborts)) ∧
  (∀ ctx s e g y, s.RingTurn ctx 6 e → (s.ctx ctx).step = .none → fld e.raw 16 1 = 1 →
    s.jobMember? ctx (s.part (s.ctx ctx).part).jobGroup = some (g, y) → (s.ctx ctx).stepNo < fld e.raw 24 8 →
    s.time.keeper < g.origin + fld e.raw 24 8 * (g.period * 1000) →
    (∀ y ∈ (s.ctx ctx).entries, e.seq < y.seq → y.op = 6 → y.refused = true) →
    Answers (.stepBegin ctx) s (fun t => t.toBlock = s.toBlock.setCtx ctx { s.ctx ctx with
      step := .waiting, stepNo := fld e.raw 24 8, stepSeq := e.seq, tick := g.origin + fld e.raw 24 8 * (g.period * 1000)
      deadline := g.origin + fld e.raw 24 8 * (g.period * 1000) + g.period * 1000 })) ∧
  (∀ ctx s, s.serves ctx = true → (s.ctx ctx).step = .waiting →
    (∀ y ∈ (s.ctx ctx).entries, (s.ctx ctx).stepSeq < y.seq → y.op = 6 → y.refused = true) →
    Answers (.cadenceTick ctx) s (fun t => t.time = s.time.pass ((s.ctx ctx).tick - s.time.keeper) ∧
      Leaves (fun b => { b with time := {} }) (s.toBlock.setCtx ctx { (s.ctx ctx).modEntry (s.ctx ctx).stepSeq (fun y =>
        { y with state := .finished, status := stOK, detail := stepDetail (s.ctx ctx).stepNo }) with step := .opened }) t.toBlock))
  ) ∧
  (
  (∀ ctx s e, s.RingTurn ctx 7 e → (s.ctx ctx).step = .opened → (s.ctx ctx).inStep e = true →
    (∀ y ∈ (s.ctx ctx).entries, y.seq < e.seq → y.past = true) → s.time.keeper < (s.ctx ctx).deadline →
    s.appendsAgree ctx = true → s.commitStall ctx = none →
    Answers (.stepEnd ctx) s (fun t => (t.ctx ctx).step = .none ∧ (t.ctx ctx).retired = (s.ctx ctx).stepNo ∧
      (t.ctx ctx).committed = (s.ctx ctx).committed + 1 ∧ (t.ctx ctx).dropped = (s.ctx ctx).dropped ∧ ((s.ctx ctx).floe.isSome = true → (t.ctx ctx).appends = []) ∧
      (∀ x, x ≠ ctx → t.ctx x = s.ctx x) ∧ t.aborts = s.aborts ∧
      (∀ c, (t.core c).scratch = (s.core c).scratch) ∧ (∀ p, (t.part p).tile = (s.part p).tile) ∧
      ((s.ctx ctx).appends = [] → t.Ended ctx e.seq stOK))) ∧
  (∀ (b : Block) ctx f s r, b.seqRec ctx none f s = .ok r → (b.commitSeq ctx f s).2 = none →
    ∃ (c : Block) (st : Nat), (c.putLen ctx f s (r.len + ((b.ctx ctx).append s 0).count) st).2 = none ∧
      (b.commitSeq ctx f s).1 = (c.putLen ctx f s (r.len + ((b.ctx ctx).append s 0).count) st).1.emitAt st
        (fabIsl (b.ctx ctx).part) 0x0343 ctx ((b.ctx ctx).curStep) (floeArg s 0 0 (min ((b.ctx ctx).append s 0).count 4095)))
  ) ∧
  (
  ∀ ctx s, s.serves ctx = true → (s.ctx ctx).step = .opened →
    Answers (.deadline ctx) s (fun t => (t.ctx ctx).step = .dropping ∧ (t.ctx ctx).dropWhy = 1 ∧
      (t.ctx ctx).retired = (s.ctx ctx).stepNo ∧ (t.ctx ctx).dropped = (s.ctx ctx).dropped + 1 ∧
      (t.ctx ctx).committed = (s.ctx ctx).committed ∧
      t.time = s.time.pass ((s.ctx ctx).deadline - s.time.keeper) ∧
      (∀ c, (t.core c).scratch = (s.core c).scratch) ∧ t.parts = s.parts ∧
      ∃ a, t.aborts = s.aborts ++ [a] ∧ a.ctx = ctx ∧ a.scope = 1 ∧ a.drop = 1 ∧ a.seqs = (s.ctx ctx).unfinished ∧ a.t0 = t.time.keeper)
  )

/-- R327, R328, R382: CTX_DESTROY, CTX_ABORT of a kernel, a step or a context and CORE_UNBIND accept an abort, at the scope
asked for or of the whole context, and their message stays in execution until it has ended; CTX_DESTROY puts the context in
DESTROYING.
R369: an abort whose work has ended everywhere completes and is under way no longer; the entries in the scope of one of a step
or a context end with the status of R365.
R370: an abort that outlasts a millisecond resets the partition that holds its context. -/
def Obligations.AbortsAreAcceptedAndEnd : Prop :=
  (
  (∀ page s m, s.Turn page 0x0102 m → mCtx m < 64 → (s.ctx (mCtx m)).state ≠ 0 → (s.ctx (mCtx m)).state ≠ 4 →
    Answers (.ctxDestroy page) s (fun t => (t.ctx (mCtx m)).state = 4 ∧ s.Aborting t page m (mCtx m) 2)) ∧
  (∀ page s m, s.Turn page 0x0104 m → msgCtx page m < 64 → (s.ctx (msgCtx page m)).state ≠ 0 →
    (fld (mPl m) 0 1 = 2 ∨
      (fld (mPl m) 0 1 = 1 ∧ fld (mPl m) 8 8 = 0 ∧ ((s.ctx (msgCtx page m)).step = .waiting ∨ (s.ctx (msgCtx page m)).step = .opened)) ∨
      (fld (mPl m) 0 1 = 0 ∧ ∃ e, (s.ctx (msgCtx page m)).entry? (fld (mPl m) 8 8) = some e ∧ (e.op = 1 ∨ e.op = 2 ∨ e.op = 3) ∧
        e.refused = false ∧ e.state ≠ .finished ∧ e.state ≠ .completed)) →
    Answers (.ctxAbort page) s (fun t => (t.ctx (msgCtx page m)).state = (s.ctx (msgCtx page m)).state ∧
      s.Aborting t page m (msgCtx page m) (fld (mPl m) 0 1))) ∧
  (∀ page s m, s.Turn page 0x0202 m → mCtx m < 64 → fld (mPl m) 0 1 < 16 → ((s.core (fld (mPl m) 0 1)).bind? (mCtx m)).isSome = true →
    Answers (.coreUnbind page) s (fun t => (t.ctx (mCtx m)).state = (s.ctx (mCtx m)).state ∧ s.Aborting t page m (mCtx m) 2))
  ) ∧
  (
  (∀ id s a, s.aborts.find? (fun x => x.id == id) = some a → id < s.abortId →
    (∀ c ∈ s.aborts, (c.id = id ∨ a.joins c = true) → s.abortQuiet c = true) →
    Answers (.abortDone id) s (fun t => ∀ x ∈ t.aborts, x.id ≠ id)) ∧
  (∀ id s a e, s.aborts.find? (fun x => x.id == id) = some a → id < s.abortId → a.scope ≠ 0 → s.abortQuiet a = true →
    s.aborts.filter (fun c => c.id == id || a.joins c) = [a] → (∀ page o, (s.mbox page).busy = some o → o.aborts.contains id = false) →
    (s.ctx a.ctx).entry? e.seq = some e → a.seqs.contains e.seq = true → e.state ≠ .completed →
    Answers (.abortDone id) s (fun t => t.Ended a.ctx e.seq ((s.ctx a.ctx).finalStatus e)))
  ) ∧
  (
  ∀ id s a, s.aborts.find? (fun x => x.id == id) = some a → (s.ctx a.ctx).part ≤ 3 → (s.part (s.ctx a.ctx).part).state = 0 →
    Answers (.abortEscalate id) s (fun t => s.ResetBegun t (s.ctx a.ctx).part 3 ∧
      t.time = s.time.pass (a.t0 + 1000000 - s.time.keeper))
  )

/-- R455, R458, R460, R461: every trigger on a serving partition begins its reset: an uncorrectable control word, a heartbeat
lost 10 ms after the last, and the watchdog of the engine that has made no progress for longest.
R460: a heartbeat is remembered with its time and nothing else changes. -/
def Obligations.TriggersBeginTheReset : Prop :=
  (
  (∀ part s, part ≤ 3 → (s.part part).state = 0 → s.halted = false →
    Answers (.controlUncorrectable part) s (fun t => s.ResetBegun t part 0 ∧ t.time = s.time)) ∧
  (∀ part s, part ≤ 3 → (s.part part).state = 0 → s.getisUp = true →
    Answers (.heartbeatLost part) s (fun t => s.ResetBegun t part 2 ∧
      t.time = s.time.pass ((s.part part).beatAt + 10000000 - s.time.keeper))) ∧
  (∀ part engine s, part ≤ 3 → (s.part part).state = 0 → s.getisUp = true → s.timers part engine ≠ [] →
    Answers (.watchdog part engine) s (fun t => s.ResetBegun t part 1 ∧ (t.part part).expiries = (s.part part).expiries + 1 ∧
      ∃ x ∈ s.timers part engine, (∀ y ∈ s.timers part engine, x.2 ≤ y.2) ∧
        t.time = s.time.pass (x.2 + (s.part part).wdMs * 1000000 - s.time.keeper)))
  ) ∧
  (
  ∀ part s, part ≤ 3 → (s.part part).state = 0 → s.getisUp = true →
    Answers (.heartbeat part) s (fun t =>
      t.toBlock = s.toBlock.setPart part { s.part part with beatAt := s.time.keeper, beats := true })
  )

/-- R461 step 5, R43: 11 ms after a reset began, with no snoop of the partition outstanding, its tile is released: it holds
zeros everywhere, its cores keep only bindings, shares, quantum and operating point, and its islands' counters start anew;
nothing else of the module changes but trace.
R461 step 8, R465: with its channels trained a partition serves again, and its contexts are active or held as they were; at
the third counted reset within 24 hours it retires for good and its contexts end.
R461, R464: a reset that fails leaves its partition disabled or retired, with its contexts ended and its tile, where no packet
waits for a snoop, cleared. -/
def Obligations.ResetsClearAndEnd : Prop :=
  (
  ∀ part s, (s.part part).state = 1 → (s.part part).resetStep = 1 → s.snoopOpen part = false →
    Answers (.tileResetRelease part) s (fun t =>
      t.time = s.time.pass ((s.part part).resetAt + 11000000 - s.time.keeper) ∧
      t.part part = { s.part part with resetStep := 2, tile := [], tilePoison := [], tqs := [], tlb := [], walks := [], snoop := [] } ∧
      (∀ i < 4, t.core (4 * part + i) = (s.core (4 * part + i)).afterReset) ∧ (∀ i ∈ islandsOf part, (t.island i).skew = 0) ∧
      (∀ c, c / 4 ≠ part → t.core c = s.core c) ∧ (∀ p, p ≠ part → t.part p = s.part p) ∧
      Leaves (fun b => { b with cores := [], parts := [], time := {}, treleb := {}, rings := [] }) s.toBlock t.toBlock)
  ) ∧
  (
  (∀ part s, part ≤ 3 → (s.part part).state = 1 → (s.part part).resetStep = 2 → s.allTrained part = true → s.recentResets part < 3 →
    s.sec.zero = none → (∀ page, (s.mbox page).after = []) →
    Answers (.partitionResetEnd part) s (fun t => (t.part part).state = 0 ∧ (t.part part).resetStep = 0 ∧
      (t.part part).beatAt = s.time.keeper ∧ t.time = s.time ∧
      (∀ ctx < 64, (s.ctx ctx).part = part → (s.ctx ctx).state = 3 → (t.ctx ctx).state = if (s.ctx ctx).resetHold then 2 else 1) ∧
      ∀ p, p ≠ part → (t.part p).state = (s.part p).state)) ∧
  (∀ part s, part ≤ 3 → (s.part part).state = 1 → (s.part part).resetStep = 2 → s.allTrained part = true → 3 ≤ s.recentResets part →
    Answers (.partitionResetEnd part) s (fun t => (t.part part).state = 3 ∧ SSet.has t.rim.retired part = true ∧
      ∀ ctx < 64, (s.ctx ctx).part = part → (t.ctx ctx).state = 0))
  ) ∧
  (
  ∀ part s, part ≤ 3 → (s.part part).state = 1 →
    Answers (.resetFailed part) s (fun t => 2 ≤ (t.part part).state ∧ (∀ ctx < 64, (s.ctx ctx).part = part → (t.ctx ctx).state = 0) ∧
      t.time = s.time.pass ((s.part part).resetAt + 4000000000 - s.time.keeper) ∧
      (s.weave.waiting = [] → (t.part part).tile = [] ∧ ∀ i < 4, (t.core (4 * part + i)).scratch = [] ∧ (t.core (4 * part + i)).prog = []))
  )

/-- R455, R467: a fault of the hub while the module is powered halts it: Treleb is down, MOD_READY falls, the Rim controller is
in HALTED with no ring and no update, and no Weave port is up or training; cores, contexts, stores and the rest of the module
keep what they hold.
R492, R498, R499: a reseed that succeeds starts the count of requests again; one that fails, or an entropy test that fails,
clears the island's secrets and the partitions' keys, puts the island in FAILED and halts the module. -/
def Obligations.HaltsStopTheModule : Prop :=
  (
  ∀ cause s, s.power.state = 3 → s.halted = false → Answers (.hubFault cause) s (fun t => s.Halted t ∧ t.parts = s.parts ∧ t.sec = s.sec)
  ) ∧
  (
  (∀ s, s.sec.state = 1 → Answers (.drbgReseed true) s (fun t => t.toBlock = { s.toBlock with sec := { s.sec with requests := 0 } })) ∧
  (∀ s, s.sec.state = 1 → s.halted = false → Answers (.drbgReseed false) s (fun t => s.Halted t ∧
    t.sec = { s.sec with state := 2, content := none, challenge := none } ∧ ∀ p < 4, t.part p = { s.part p with keys := [] })) ∧
  (∀ test s, s.sec.state = 1 → s.halted = false → Answers (.entropyHealthFail test) s (fun t => s.Halted t ∧
    t.sec = { s.sec with state := 2, content := none, challenge := none } ∧ ∀ p < 4, t.part p = { s.part p with keys := [] }))
  )

/-- R263, R264: the patrol of a channel reads a line and goes on behind it, or begins again after the last; a corrected word is
counted in its channel and its partition, an uncorrectable line is counted in both and, as R255 stores it, poisoned, and its
bytes stay.
R151: a patrol of a scratchpad or tile buffer counts a corrected granule; an uncorrectable one is poisoned and counted, and no
byte changes. A clean one changes nothing. -/
def Obligations.PatrolsCountAndPoison : Prop :=
  (
  ∀ ch line s, ch < 24 → line < chanLines → s.getisUp = true → (s.part (ch / 6)).state = 0 →
    let h := SMap.get ({} : Chan) s.dram.chans ch
    let next := if line + 1 = chanLines then 0 else line + 1
    let frame (t : State) : Prop := (∀ p, p ≠ ch / 6 → t.part p = s.part p) ∧
      (∀ c, c ≠ ch → SMap.get ({} : Chan) t.dram.chans c = SMap.get ({} : Chan) s.dram.chans c)
    Answers (.dramPatrolScrub ch line .clean) s (fun t => frame t ∧ SMap.get ({} : Chan) t.dram.chans ch = { h with scrubAt := next } ∧
      t.part (ch / 6) = s.part (ch / 6) ∧ Leaves (fun b => { b with dram := { b.dram with chans := [] } }) s.toBlock t.toBlock) ∧
    Answers (.dramPatrolScrub ch line .corrected) s (fun t => frame t ∧
      SMap.get ({} : Chan) t.dram.chans ch = { h with scrubAt := next, corrected := h.corrected + 1 } ∧
      t.part (ch / 6) = (s.part (ch / 6)).countCorrected s.time.keeper ∧
      Leaves (fun b => { b with parts := [], dram := { b.dram with chans := [] } }) s.toBlock t.toBlock) ∧
    Answers (.dramPatrolScrub ch line .uncorrectable) s (fun t => frame t ∧
      SMap.get ({} : Chan) t.dram.chans ch = { h with scrubAt := next, uncorr := h.uncorr + 1 } ∧
      t.part (ch / 6) = { s.part (ch / 6) with uncorr := (s.part (ch / 6)).uncorr + 1 } ∧
      ((∀ r, (s.ring r).placed = none) → { t.dram with chans := [] } = { s.dram with
        chans := [], poison := SSet.insert s.dram.poison (lineOf ch line), fails := SMap.set 0 s.dram.fails (lineOf ch line) 0 }) ∧
      Leaves (fun b => { b with parts := [], dram := {} }) s.toBlock t.toBlock)
  ) ∧
  (
  ∀ core tile g s, s.coreUp core = true →
    Answers (.scratchpadPatrolSweep core tile g .clean) s (fun t => t = s) ∧
    Answers (.scratchpadPatrolSweep core tile g .corrected) s (fun t =>
      Traced (s.toBlock.setPart (partOf core) ((s.part (partOf core)).countCorrected s.time.keeper)) t.toBlock) ∧
    Answers (.scratchpadPatrolSweep core tile g .uncorrectable) s (fun t =>
      (∀ w ∈ granuleWords g, SSet.has (if tile then (t.part (partOf core)).tilePoison else (t.core core).poison) w = true) ∧
      { t.core core with poison := [] } = { s.core core with poison := [] } ∧
      (tile = true → t.cores = s.cores) ∧ (tile = false → (t.part (partOf core)).tilePoison = (s.part (partOf core)).tilePoison) ∧
      { t.part (partOf core) with tilePoison := [] } = { s.part (partOf core) with tilePoison := [], uncorr := (s.part (partOf core)).uncorr + 1 } ∧
      (∀ c, c ≠ core → t.core c = s.core c) ∧ (∀ p, p ≠ partOf core → t.part p = s.part p) ∧
      { t.toBlock with cores := [], parts := [] } = { s.toBlock with cores := [], parts := [] })
  )

/-- R313, R315, R318: with the MMIO aperture open, a message posted to a page joins the end of its queue, or at a full queue
is lost and sets IN_OVERRUN; a write to part of MB_IN changes the bytes it holds. Popping removes the oldest reply, whether by
the port or by the status register, whose W1C bits clear.
R439: the configuration block takes its bases and clears its error bits.
R320, R321: a message with a recorded tag is answered with its recorded reply, marked repeated, or discarded while the first is
in execution; one that R320 refuses is answered with the status of the refusal. Either changes nothing else of the module but
trace, log and the context's count of repeats. -/
def Obligations.MailboxesQueueAndAnswer : Prop :=
  (
  (∀ page (msg : W512) s, page ≤ 64 → s.mmioOn = true → 16 ≤ (s.mbox page).inq.length →
    Answers (.mbPost page msg) s (fun t => t.toBlock = s.toBlock.setMbox page { s.mbox page with input := msg, overrun := true })) ∧
  (∀ page (msg : W512) s h, page ≤ 64 → s.mmioOn = true → (s.mbox page).inq.length < 16 →
    ((s.mbox page).inq ++ [natLe 64 msg.toNat]).head? = some h → (∀ x ∈ (s.mbox page).tags, x.tag ≠ mTag h) →
    (s.mbOpen page = false ∨ s.mbRefusal page h = none) → (s.mbox page).notices = [] →
    Answers (.mbPost page msg) s (fun t => t.toBlock = s.toBlock.setMbox page
      { s.mbox page with input := msg, inq := (s.mbox page).inq ++ [natLe 64 msg.toNat] })) ∧
  (∀ page s r l, page ≤ 64 → s.mmioOn = true → (s.mbox page).outq = r :: l → (s.mbox page).inq = [] → (s.mbox page).notices = [] →
    Answers (.outPop page) s (fun t => t.toBlock = s.toBlock.setMbox page { s.mbox page with outq := l })) ∧
  (∀ page (v : W64) s, page ≤ 64 → s.mmioOn = true → (s.mbox page).inq = [] → (s.mbox page).notices = [] →
    Answers (.registerWrite page 0x088 v) s (fun t => t.toBlock = s.toBlock.setMbox page { s.mbox page with
      overrun := (s.mbox page).overrun && !bit v.toNat 2, lost := (s.mbox page).lost && !(page == 64 && bit v.toNat 3)
      outq := if bit v.toNat 1 then (s.mbox page).outq.drop 1 else (s.mbox page).outq })) ∧
  (∀ page off (v : W64) s, page ≤ 64 → s.mmioOn = true → off < 0x038 → off % 8 = 0 →
    Answers (.registerWrite page off v) s (fun t => t.toBlock = s.toBlock.setMbox page { s.mbox page with
      input := BitVec.ofNat 512 (leNat (patch (natLe 64 (s.mbox page).input.toNat) off (natLe 8 v.toNat))) }))
  ) ∧
  (
  ∀ (v : W64) s, s.treleb.state = 2 →
    Answers (.registerWrite 65 0x010 v) s (fun t => t.toBlock = { s.toBlock with treleb := { s.treleb with mmioBase := cfgBase 47 20 v } }) ∧
    Answers (.registerWrite 65 0x018 v) s (fun t => t.toBlock = { s.toBlock with treleb := { s.treleb with dramBase := cfgBase 47 42 v } }) ∧
    Answers (.registerWrite 65 0x020 v) s (fun t => t.toBlock = { s.toBlock with treleb := { s.treleb with err := s.treleb.err &&& ~~~(v &&& 0xF8#64) } }) ∧
    ∀ off, off ≠ 0x010 → off ≠ 0x018 → off ≠ 0x020 → Answers (.registerWrite 65 off v) s (fun t => t = s)
  ) ∧
  (
  (∀ page (msg : W512) s c, page ≤ 64 → s.mmioOn = true → (s.mbox page).inq = [] → (s.mbox page).notices = [] →
    (s.mbox page).tags.find? (fun x => x.tag == mTag (natLe 64 msg.toNat)) = some c →
    ((∀ r, c.reply = some r → s.mbOpen page = true →
      Answers (.mbPost page msg) s (fun t => t.mbox page = { s.mbox page with
          input := msg, outq := (s.mbox page).outq ++ [patch r 5 (natLe 1 (fld r 5 1 + 4))] } ∧ s.OnlyRepeat t page (natLe 64 msg.toNat))) ∧
     (c.reply = none → s.mbRuns page = true →
      Answers (.mbPost page msg) s (fun t => t.mbox page = { s.mbox page with input := msg } ∧ s.OnlyRepeat t page (natLe 64 msg.toNat))))) ∧
  (∀ page (msg : W512) s st, page ≤ 64 → s.mmioOn = true → (s.mbox page).inq = [] → (s.mbox page).notices = [] → s.mbOpen page = true →
    (∀ x ∈ (s.mbox page).tags, x.tag ≠ mTag (natLe 64 msg.toNat)) → s.mbRefusal page (natLe 64 msg.toNat) = some st →
    let m := natLe 64 msg.toNat
    Answers (.mbPost page msg) s (fun t => (t.mbox page).inq = [] ∧
      (t.mbox page).outq = (s.mbox page).outq ++ [mbBytes (mOp m) (mTag m) (mCtx m) 1 st []] ∧
      (∀ p, p ≠ page → t.mbox p = s.mbox p) ∧ Leaves (fun b => { b with mboxes := [] }) s.toBlock t.toBlock))
  )

/-- R326: CTX_CREATE of a free context with sound fields, whose partition is not disabled and whose completion word the
host takes, writes FIRST_SEQ − 1 to the completion word and makes the context with the given ring, tables and first sequence
number, RESETTING where its partition is being reset; nothing else changes.
R347: CTX_RESUME of a held context whose outstanding writes the host takes under their new addresses makes it active
again, with nothing outstanding, and raises its vector where an interrupt is owed. -/
def Obligations.ContextsAreMadeAndResumed : Prop :=
  (
  (Message .ctxCreate 0x0101 (fun s _ m => mCtx m < 64 ∧ fld (mPl m) 0 1 = 2 ∧ (s.ctx (mCtx m)).state = 0 ∧
      createOk (mCtx m) (mPl m) = true ∧ (s.part (fld (mPl m) 1 1)).state < 2 ∧ s.hostUp = true ∧
      s.hostAnswers (fld (mPl m) 24 8) 8 = true)
    stOK (fun _ _ _ => [])
    (fun s _ m => (s.toBlock.hostWrite (fld (mPl m) 24 8) (natLe 8 (fld (mPl m) 40 8 - 1)) []).setCtx (mCtx m)
      (newCtx (mPl m) (if (s.part (fld (mPl m) 1 1)).state = 1 then 3 else 1)))) ∧
  (∀ page s m, s.Turn page 0x0101 m → mCtx m < 64 → fld (mPl m) 0 1 = 2 → (s.ctx (mCtx m)).state = 0 →
    createOk (mCtx m) (mPl m) = true → (s.part (fld (mPl m) 1 1)).state < 2 → s.hostUp = true →
    s.hostAnswers (fld (mPl m) 24 8) 8 = true → Mem.wf s.hostMem = true →
    Answers (.ctxCreate page) s (fun t =>
      Mem.bytes t.hostMem (fld (mPl m) 24 8) 8 = natLe 8 (fld (mPl m) 40 8 - 1) ∧ (t.ctx (mCtx m)).part = fld (mPl m) 1 1 ∧
      (t.ctx (mCtx m)).ringBase = fld (mPl m) 16 8 ∧ (t.ctx (mCtx m)).ptRoot = fld (mPl m) 8 8 ∧
      (t.ctx (mCtx m)).doneSeq = fld (mPl m) 40 8 - 1 ∧ (t.ctx (mCtx m)).last + 1 = fld (mPl m) 40 8 ∧
      (t.ctx (mCtx m)).entries = [] ∧ (t.ctx (mCtx m)).step = .none))
  ) ∧
  (
  let done (s : State) (m : List Byte) : Nat := if fld (mPl m) 0 8 = 0 then (s.ctx (mCtx m)).doneAddr else fld (mPl m) 0 8
  let rec_ (s : State) (m : List Byte) : Nat := if fld (mPl m) 8 8 = 0 then (s.ctx (mCtx m)).recBase else fld (mPl m) 8 8
  let taken (s : State) (page : Nat) (m : List Byte) : Block × Bool := (s.mbTake page m).resumeWrites (mCtx m) (done s m) (rec_ s m)
  Message .ctxResume 0x0103 (fun s page m => mCtx m < 64 ∧ (s.ctx (mCtx m)).state = 2 ∧ done s m % 8 = 0 ∧ rec_ s m % 4096 = 0 ∧
      (taken s page m).2 = true)
    stOK (fun _ _ _ => [])
    (fun s page m =>
      let c := (taken s page m).1.setCtx (mCtx m) { s.ctx (mCtx m) with
        state := 1, doneAddr := done s m, recBase := rec_ s m, doneQ := [] }
      if (s.ctx (mCtx m)).doneQ.any (fun d => d.kind == 4) then c.raiseVector (s.ctx (mCtx m)).vector else c)
  )

/-- R268, R330, R342: CTX_FLOE_CONFIG stores a sound configuration once; CTX_INFO reports the ring's place; EVENT_SET sets
its event and replies with the old value.
R143, R329: TUNE_OPEN with a granted model and a rank of 1 to 512 opens the context's one session; TUNE_CLOSE ends it
when no stochastic kernel is left. Each changes nothing else. -/
def Obligations.ContextMessagesAct : Prop :=
  (
  (Message .ctxFloeConfig 0x0105 (fun s page m => msgCtx page m < 64 ∧ (s.ctx (msgCtx page m)).state ≠ 0 ∧
      (s.ctx (msgCtx page m)).floe = none ∧ FloeCfg.ok ⟨mPl m⟩ = true)
    stOK (fun _ _ _ => [])
    (fun s page m => s.toBlock.setCtx (msgCtx page m) { s.ctx (msgCtx page m) with floe := some ⟨mPl m⟩ })) ∧
  (Message .ctxInfo 0x0106 (fun s page m => msgCtx page m < 64 ∧ (s.ctx (msgCtx page m)).state ≠ 0)
    stOK (fun s page m =>
      let x := s.ctx (msgCtx page m)
      natLe 8 x.last ++ natLe 8 x.latch ++ natLe 8 x.skipped ++ natLe 4 x.mbRepeats ++ natLe 4 x.fetchSlot ++
        natLe 8 x.curStep ++ natLe 8 (x.last + 1) ++ natLe 8 (if x.gap then x.foundSeq else 0))
    (fun s _ _ => s.toBlock)) ∧
  (Message .eventSet 0x0107 (fun _ page m => page < 64 ∧ fld (mPl m) 0 2 ≤ 4095)
    stOK (fun s page m => natLe 8 ((s.ctx page).event (fld (mPl m) 0 2)).toNat)
    (fun s page m => s.toBlock.setCtx page { s.ctx page with
      events := SMap.set 0#64 (s.ctx page).events (fld (mPl m) 0 2) (BitVec.ofNat 64 (fld (mPl m) 8 8)) }))
  ) ∧
  (
  (Message .tuneOpen 0x0108 (fun s page m => SSet.has (s.ctx page).grants (fld (mPl m) 2 1) = true ∧ 1 ≤ fld (mPl m) 0 2 ∧
      fld (mPl m) 0 2 ≤ 512 ∧ (s.ctx page).tune = none)
    stOK (fun _ _ _ => [])
    (fun s page m => s.toBlock.setCtx page { s.ctx page with
      tune := some ⟨fld (mPl m) 0 2, fld (mPl m) 2 1, BitVec.ofNat 64 (fld (mPl m) 8 8)⟩ })) ∧
  (Message .tuneClose 0x0109 (fun s page m => (s.ctx page).tune.isSome = true ∧ (s.mbTake page m).stochRuns page = false)
    stOK (fun _ _ _ => [])
    (fun s page _ => s.toBlock.setCtx page { s.ctx page with tune := none }))
  )

/-- R378, R383: an accepted CORE_BIND adds the binding with its slot, program and queue ranges and its shares to the core, and
with the context's first core on a tile its tile range and queues to the tile; SLICE_CONFIG sets the quantum of the next switch.
R384: PARTITION_ASSIGN within the module's watts and lanes, with no change of job group or no binding, gives a partition its job
group, power slice and decode lanes, and R25: its cores' operating points follow.
R25, R388, R389, R480, R481: a core's step up takes effect at the point it was raised to; COUNTERS_READ writes the record of its
page to a buffer that can be written, and POWER_READ replies with measured values, which the model leaves free. -/
def Obligations.TenancyIsSet : Prop :=
  (
  (Message .coreBind 0x0201 (fun s _ m => s.bindRefusal (mCtx m) (mPl m) = none)
    stOK (fun _ _ _ => [])
    (fun s _ m =>
      let p := mPl m
      let core := fld p 0 1
      let bd : Binding := ⟨mCtx m, fld p 1 1, fld p 8 2, fld p 10 2, fld p 12 2, fld p 14 2, [], [], []⟩
      let k := ((s.core core).dropPrefetch (fun _ => true)).clearSwap bd
      let c := s.toBlock.setCore core { k with
        binds := (s.core core).binds ++ [bd], shares := (fld p 3 1, fld p 4 1, fld p 5 1)
        lastPos := if (s.core core).binds.isEmpty then none else (s.core core).lastPos }
      let t := s.part (partOf core)
      if (s.boundCores (mCtx m)).any (fun c => partOf c == partOf core) then c
      else c.setPart (partOf core) { t with
        ranges := t.ranges ++ [(mCtx m, fld p 16 2, fld p 18 2)]
        tqOwner := ((List.range 16).filter (fun i => bit (fld p 6 2) i)).foldl (fun l i => SMap.put l i (mCtx m + 1)) t.tqOwner })) ∧
  (Message .sliceConfig 0x0204 (fun _ _ m => fld (mPl m) 0 1 < 16 ∧ 20 ≤ fld (mPl m) 4 4 ∧ fld (mPl m) 4 4 ≤ 10000)
    stOK (fun _ _ _ => [])
    (fun s _ m => s.toBlock.setCore (fld (mPl m) 0 1) { s.core (fld (mPl m) 0 1) with quantumTo := fld (mPl m) 4 4 }))
  ) ∧
  (
  (Message .partitionAssign 0x0203 (fun s _ m =>
      let p := mPl m
      fld p 0 1 ≤ 3 ∧ fld p 1 1 ≤ 1 ∧ rsv p 7 49 = true ∧ fld p 4 2 % 5 = 0 ∧ 100 ≤ fld p 4 2 ∧ fld p 4 2 ≤ 400 ∧ fld p 6 1 ≤ 16 ∧
      fld p 4 2 + (((List.range 4).filter (· != fld p 0 1)).map (fun q => (s.part q).sliceW)).sum ≤ 1080 ∧
      fld p 6 1 + (((List.range 4).filter (· != fld p 0 1)).map (fun q => (s.part q).lanes)).sum ≤ 16 ∧
      (fld p 2 2 = (s.part (fld p 0 1)).jobGroup ∨ ∀ i < 4, (s.core (4 * fld p 0 1 + i)).binds = []))
    stOK (fun _ _ _ => [])
    (fun s _ m => (s.toBlock.setPart (fld (mPl m) 0 1) { s.part (fld (mPl m) 0 1) with
      jobGroup := fld (mPl m) 2 2, sliceW := fld (mPl m) 4 2, lanes := fld (mPl m) 6 1 }).setPoints (fld (mPl m) 0 1))) ∧
  (∀ (b : Block) p i, i < 4 →
    let want := min (slicePoint (b.part p).sliceW) (clampCap b.power.level)
    let k := b.core (4 * p + i)
    (b.setPoints p).core (4 * p + i) = if want ≤ k.point then { k with point := want, pointTo := want } else { k with pointTo := want })
  ) ∧
  (
  (∀ core s, core < 16 → Answers (.stepUpTakesEffect core) s (fun t =>
    t.toBlock = s.toBlock.setCore core { s.core core with point := max (s.core core).point (s.core core).pointTo })) ∧
  (let record (s : State) (page : Nat) (m : List Byte) : List Byte :=
     if page < 64 then s.ctxCounters page (s.time.keeper / 1000 * 1000)
     else natLe 8 s.time.keeper ++ natLe 1 (fld (mPl m) 0 1) ++ natLe 55 0 ++ (match fld (mPl m) 0 1 with
       | 0 => (List.range 4).flatMap s.partCounters
       | 1 => (List.range 24).flatMap s.chanCounters
       | _ => s.ctxCounters (mCtx m) s.time.keeper)
   Message .countersRead 0x0603 (fun s page m => fld (mPl m) 8 8 % 64 = 0 ∧
       (page < 64 → s.feStall page [(fld (mPl m) 8 8, 128)] 2 = none) ∧
       (64 ≤ page → fld (mPl m) 0 1 ≤ 2 ∧ (fld (mPl m) 0 1 = 2 → mCtx m < 64 ∧ (s.ctx (mCtx m)).state ≠ 0)) ∧
       ((s.mbTake page m).bufWrite page (fld (mPl m) 8 8) (record s page m)).2 = true)
     stOK (fun _ _ _ => []) (fun s page m => s.buffered page m (record s page m))) ∧
  (Message .powerRead 0x0604 (fun _ _ _ => True)
    stOK (fun s page _ =>
      let clamped := if s.power.level ≠ 0 then 1 else 0
      if page < 64 then natLe 8 (s.time.keeper / 100000000 * 100000000) ++ natLe 2 (Config.powerReading (s.freeCtr * 8)) ++ natLe 1 clamped
      else natLe 8 (s.time.keeper / 1000000 * 1000000) ++
        (List.range 5).flatMap (fun i => natLe 4 (Config.powerReading (s.freeCtr * 8 + i))) ++ natLe 1 clamped ++ natLe 1 s.power.cause_)
    (fun s _ _ => { s.toBlock with freeCtr := s.freeCtr + 1 }))
  )

/-- R38, R333: TRACE_RING_CONFIG with size 0 takes a ring away; a sound placement in the DRAM tier places it, and one that was
placed before and is placed nowhere now is then empty, with its control block of zeros, its size and its mode.
R39, R40: a record that lands in a ring in the DRAM tier is in the slot of its number, the ring's control block counts
it, and no other byte changes; a record that is dropped is counted in the control block. -/
def Obligations.TraceRingsTakeRecords : Prop :=
  (
  (Message .traceRingConfig 0x0602 (fun _ _ m => fld (mPl m) 0 1 ≤ 4 ∧ fld (mPl m) 1 1 = 0 ∧ fld (mPl m) 2 1 ≤ 1 ∧ rsv (mPl m) 3 5 = true ∧
      rsv (mPl m) 16 40 = true)
    stOK (fun _ _ _ => [])
    (fun s page m => (s.mbTake page m).setRing (fld (mPl m) 0 1) { (s.mbTake page m).ring (fld (mPl m) 0 1) with placed := none, wait := [] })) ∧
  (∀ page s m, s.Turn page 0x0602 m → fld (mPl m) 0 1 ≤ 4 → 11 ≤ fld (mPl m) 1 1 → fld (mPl m) 1 1 ≤ 25 → fld (mPl m) 2 1 ≤ 1 →
    rsv (mPl m) 3 5 = true → rsv (mPl m) 16 40 = true → bits (fld (mPl m) 8 8) 63 52 = s.self → bits (fld (mPl m) 8 8) 51 48 = 0 →
    fld (mPl m) 8 8 % 64 = 0 → dramUsable (bits (fld (mPl m) 8 8) 47 0) (64 + 32 * 2 ^ fld (mPl m) 1 1) = true →
    (s.part (bits (fld (mPl m) 8 8) 47 0 / 2 ^ 40)).state < 2 →
    Answers (.traceRingConfig page) s (fun t => t.Replied page m stOK [] ∧
      (t.ring (fld (mPl m) 0 1)).placed = some (fld (mPl m) 8 8) ∧ (t.ring (fld (mPl m) 0 1)).log2 = fld (mPl m) 1 1 ∧
      (t.ring (fld (mPl m) 0 1)).stop = (fld (mPl m) 2 1 == 1) ∧ (t.ring (fld (mPl m) 0 1)).ever = true ∧
      Leaves (fun b => { b with mboxes := [], rings := [], dram := { b.dram with mem := [], poison := [], fails := [] } }) s.toBlock t.toBlock ∧
      ((s.ring (fld (mPl m) 0 1)).ever = true → (s.ring (fld (mPl m) 0 1)).placed = none → (s.ring (fld (mPl m) 0 1)).wait = [] →
        Mem.wf s.dram.mem = true →
        (t.ring (fld (mPl m) 0 1)).write = 0 ∧ (t.ring (fld (mPl m) 0 1)).dropped = 0 ∧
          Mem.bytes t.dram.mem (bits (fld (mPl m) 8 8) 47 0) 64 =
            natLe 24 0 ++ natLe 1 (fld (mPl m) 1 1) ++ natLe 1 (fld (mPl m) 2 1) ++ natLe 38 0)))
  ) ∧
  (
  ∀ (b : Block) (r pa : Nat) (rec : List Byte), (b.ring r).placed = some pa → bits pa 51 48 = 0 → rec.length = 32 →
    bits pa 47 0 + 64 + 32 * 2 ^ (b.ring r).log2 ≤ 2 ^ 48 → Mem.wf b.dram.mem = true →
    let a := bits pa 47 0
    let slot := a + 64 + 32 * ((b.ring r).write % 2 ^ (b.ring r).log2)
    (let c := b.traceLand r rec
     Mem.bytes c.dram.mem slot 32 = rec ∧ Mem.bytes c.dram.mem a 8 = natLe 8 ((b.ring r).write + 1) ∧
       c.ring r = { b.ring r with write := (b.ring r).write + 1 } ∧ c.hostMem = b.hostMem ∧
       ∀ x, (x < slot ∨ slot + 32 ≤ x) → (x < a ∨ a + 8 ≤ x) → Mem.byte c.dram.mem x = Mem.byte b.dram.mem x) ∧
    (let c := b.traceDrop r
     Mem.bytes c.dram.mem (a + 16) 8 = natLe 8 ((b.ring r).dropped + 1) ∧
       c.ring r = { b.ring r with dropped := (b.ring r).dropped + 1 } ∧ c.hostMem = b.hostMem ∧
       ∀ x, (x < a + 16 ∨ a + 24 ≤ x) → Mem.byte c.dram.mem x = Mem.byte b.dram.mem x)
  )

/-- R216: an accepted MODEL_INSTALL replies OK and is the one operation of Firn under way; MODEL_RESTORE_PLACED of an
INCOMPLETE model likewise; MODEL_REMOVE of a model that nobody holds puts it in REMOVING.
R213, R217: an install with a sound package whose tensors fit takes the extents, places the tensors, holds the content key and
puts the model in INSTALLING; an unsound one is doomed with its reason. R218: a change of state other than to VERIFYING puts the
directory set as it stands in force.
R217, R219: an install whose payload is authentic and whose tensors read back with their digests makes the model
READY; one that is doomed leaves its ID free, with no extent and no region; in both the content key is gone and a notice ends it.
R219, R214, R222: a cancelled install leaves its ID free; a restore that succeeds makes the model READY again, and one
that fails gives its reason; a removal that ends frees the ID. Each ends the operation. -/
def Obligations.FirnOperationsRun : Prop :=
  (
  (Message .modelInstall 0x0301 (fun s _ m => s.firn.op = none ∧ 1 ≤ fld (mPl m) 16 1 ∧ fld (mPl m) 16 1 ≤ 15 ∧
      (s.model (fld (mPl m) 16 1)).state = 0 ∧ rsv (mPl m) 18 6 = true ∧ fld (mPl m) 0 8 % 4096 = 0 ∧
      s.regionsOk (mPl m) (fld (mPl m) 16 1) = true)
    stOK (fun _ _ _ => [0#8])
    (fun s page m => (s.mbTake page m).beginInstall ⟨0, mTag m, fld (mPl m) 16 1, mPl m, none, 0, 0, 0⟩)) ∧
  (Message .modelRestorePlaced 0x0303 (fun s _ m => s.firn.op = none ∧ 1 ≤ fld (mPl m) 16 1 ∧ fld (mPl m) 16 1 ≤ 15 ∧
      (s.model (fld (mPl m) 16 1)).state = 4 ∧ rsv (mPl m) 18 6 = true ∧ fld (mPl m) 0 8 % 4096 = 0 ∧
      s.regionsOk (mPl m) (fld (mPl m) 16 1) = true)
    stOK (fun _ _ _ => [0#8])
    (fun s _ m => { s.toBlock with firn := { s.firn with op := some ⟨1, mTag m, fld (mPl m) 16 1, mPl m, none, 0, 0, 0⟩ } })) ∧
  (Message .modelRemove 0x0304 (fun s _ m => s.firn.op = none ∧ 1 ≤ fld (mPl m) 0 1 ∧ fld (mPl m) 0 1 ≤ 15 ∧ rsv (mPl m) 1 55 = true ∧
      3 ≤ (s.model (fld (mPl m) 0 1)).state ∧ (s.model (fld (mPl m) 0 1)).state ≤ 5 ∧
      s.ctxs.any (fun c => SSet.has c.2.grants (fld (mPl m) 0 1)) = false ∧ s.regionRead (fld (mPl m) 0 1) = false ∧
      s.firn.build.any (fun u => fld u.payload 12 1 == fld (mPl m) 0 1) = false)
    stOK (fun _ _ _ => [])
    (fun s _ m => (s.toBlock.modFirn (fun f => { f with op := some ⟨2, mTag m, fld (mPl m) 0 1, mPl m, none, 0, 0, 0⟩ })).modelState
      (fld (mPl m) 0 1) 6))
  ) ∧
  (
  (∀ (b : Block) o,
    let p := o.payload
    let c := b.beginInstall o
    let doomed (r : Nat) : Prop :=
      c.firn = { b.firn with op := some { o with doomed := some r } } ∧ c.sec = b.sec ∧ c.dram.regions = b.dram.regions ∧ c.cores = b.cores ∧
        c.ctxs = b.ctxs
    match b.readPkg (fld p 0 8) with
    | .error r => doomed r
    | .ok k =>
      if fld p 48 8 ≠ 0 ∧ k.flags = 0 then doomed 7
      else match placeAll (b.firn.freeExtents * 2097152) (fld p 32 8) (fld p 48 8) (k.flags == 1) k.tensors with
        | none => doomed 6
        | some (ts, used) =>
          let ext := b.firn.choose ((used + 2097151) / 2097152)
          (c.model o.model).state = 1 ∧ (c.model o.model).tensors = ts ∧ (c.model o.model).extents = ext ∧
            (c.model o.model).digest = k.digest ∧ (∀ e ∈ ext, SMap.get 0 c.firn.owner e = o.model) ∧
            (∀ e, e ∉ ext → SMap.get 0 c.firn.owner e = SMap.get 0 b.firn.owner e) ∧
            c.firn.op = some { o with body := k.body, bytes := k.bytes, chunks := k.chunks } ∧ c.sec = { b.sec with content := some k.key } ∧
            c.cores = b.cores ∧ c.ctxs = b.ctxs) ∧
  (∀ (b : Block) m st, ((b.modelState m st).model m) = { b.model m with state := st } ∧
    (∀ n, n ≠ m → (b.modelState m st).model n = b.model n) ∧
    (st = 2 → (b.modelState m st).firn.inForce = b.firn.inForce) ∧
    (st ≠ 2 → (b.modelState m st).firn.inForce = (b.modelState m st).firn.current ∧ (b.modelState m st).firn.gen = b.firn.gen + 1))
  ) ∧
  (
  (∀ s o, s.firn.op = some o → o.kind = 0 → o.doomed = none → s.placeWaits (s.model o.model).dramPart = false →
    let x := s.model o.model
    let w := s.chunks o x s.contentKey (fun _ => true) o.chunks
    w.2 = true → ((w.1.modelState o.model 2).badTensors x x.tensors).2 = [] →
    Answers .installEnd s (fun t => (t.model o.model).state = 3 ∧ (t.model o.model).stamp = s.time.keeper ∧ t.firn.op = none ∧
      t.sec = { s.sec with content := none } ∧ t.cores = s.cores ∧ t.ctxs = s.ctxs ∧ t.time = s.time ∧ t.Noticed 64 0x0301 o.tag 0 stOK [3#8])) ∧
  (∀ s o r, s.firn.op = some o → o.kind = 0 → o.doomed = some r → r ≠ 0 →
    Answers .installEnd s (fun t => (t.model o.model).state = 0 ∧ t.firn.op = none ∧ t.sec = { s.sec with content := none } ∧
      (∀ e ∈ t.firn.owner, e.2 ≠ o.model) ∧ (∀ g ∈ t.dram.regions, g.model ≠ o.model) ∧ t.cores = s.cores ∧ t.ctxs = s.ctxs ∧ t.time = s.time ∧
      t.Noticed 64 0x0301 o.tag 0 stInvalid [BitVec.ofNat 8 r]))
  ) ∧
  (
  (∀ page s m o, s.Turn page 0x0302 m → s.firn.op = some o → o.model = fld (mPl m) 0 1 → o.kind ≤ 1 →
    Answers (.modelInstallCancel page) s (fun t => t.Replied page m stOK [] ∧ t.firn.op = none ∧ t.sec = { s.sec with content := none } ∧
      (o.kind = 0 → (t.model o.model).state = 0 ∧ (∀ e ∈ t.firn.owner, e.2 ≠ o.model) ∧ t.Noticed 64 0x0301 o.tag 0 stInvalid [11#8]) ∧
      (o.kind = 1 → t.firn.models = s.firn.models ∧ t.Noticed 64 0x0303 o.tag 0 stInvalid [11#8]) ∧ t.cores = s.cores ∧ t.ctxs = s.ctxs)) ∧
  (∀ s o, s.firn.op = some o → o.kind = 1 → s.placeWaits (fld o.payload 17 1) = false →
    Answers .modelRestoreEnd s (fun t => t.firn.op = none ∧ t.sec = { s.sec with content := none } ∧ t.cores = s.cores ∧ t.ctxs = s.ctxs ∧
      ((s.restoreWork o).2 = 0 → (t.model o.model).state = 3 ∧ t.Noticed 64 0x0303 o.tag 0 stOK [3#8]) ∧
      ((s.restoreWork o).2 ≠ 0 → (t.model o.model).state = (s.model o.model).state ∧
        t.Noticed 64 0x0303 o.tag 0 stInvalid [BitVec.ofNat 8 (s.restoreWork o).2]))) ∧
  (∀ s o, s.firn.op = some o → o.kind = 2 →
    Answers .modelRemoveEnd s (fun t => (t.model o.model).state = 0 ∧ t.firn.op = none ∧
      (∀ e ∈ t.firn.owner, e.2 ≠ o.model) ∧ (∀ r ∈ t.dram.regions, r.model ≠ o.model) ∧ (∀ r ∈ t.firn.hostRegions, r.model ≠ o.model) ∧
      (∀ n, n ≠ o.model → t.model n = s.model n) ∧ t.firn.inForce = t.firn.current ∧
      t.cores = s.cores ∧ t.ctxs = s.ctxs ∧ t.Noticed 64 0x0304 o.tag 0 stOK [0#8]))
  )

/-- R209, R331: MODEL_GRANT of a READY or INCOMPLETE model to a context lets it read the model; MODEL_REVOKE without FORCE
takes the grant away; no other grant of the context and nothing else changes. A MODEL_REVOKE with FORCE of a grant held accepts
an abort of the context, and its message stays in execution until it has ended.
R221, R332: MODEL_LIST, MODEL_DIRECTORY_READ and FIRN_STATUS write their record, cut to the buffer's length, to a
buffer that can be written, and reply with the bytes written. -/
def Obligations.GrantsAndFirnRecords : Prop :=
  (
  (Message .modelGrant 0x0305 (fun s _ m => 1 ≤ fld (mPl m) 0 1 ∧ fld (mPl m) 0 1 ≤ 15 ∧ fld (mPl m) 1 1 = 0 ∧ mCtx m < 64 ∧
      (s.ctx (mCtx m)).state ≠ 0 ∧ (SSet.has (s.ctx (mCtx m)).grants (fld (mPl m) 0 1) = true ∨
        (s.model (fld (mPl m) 0 1)).state = 3 ∨ (s.model (fld (mPl m) 0 1)).state = 4))
    stOK (fun _ _ _ => [])
    (fun s _ m => if SSet.has (s.ctx (mCtx m)).grants (fld (mPl m) 0 1) then s.toBlock
      else s.toBlock.setCtx (mCtx m) { s.ctx (mCtx m) with grants := SSet.insert (s.ctx (mCtx m)).grants (fld (mPl m) 0 1) })) ∧
  (Message .modelRevoke 0x0306 (fun s _ m => 1 ≤ fld (mPl m) 0 1 ∧ fld (mPl m) 0 1 ≤ 15 ∧ fld (mPl m) 1 1 = 0 ∧ mCtx m < 64 ∧
      (s.ctx (mCtx m)).state ≠ 0)
    stOK (fun _ _ _ => [])
    (fun s _ m => if SSet.has (s.ctx (mCtx m)).grants (fld (mPl m) 0 1) then
        s.toBlock.setCtx (mCtx m) { s.ctx (mCtx m) with grants := SSet.erase (s.ctx (mCtx m)).grants (fld (mPl m) 0 1) }
      else s.toBlock)) ∧
  (∀ (g : Sys2Proof.SSet) i x, SSet.has (SSet.insert g i) x = (x == i || SSet.has g x) ∧ SSet.has (SSet.erase g i) x = (x != i && SSet.has g x)) ∧
  (∀ page s m, s.Turn page 0x0306 m → 1 ≤ fld (mPl m) 0 1 → fld (mPl m) 0 1 ≤ 15 → fld (mPl m) 1 1 = 1 → mCtx m < 64 →
    (s.ctx (mCtx m)).state ≠ 0 → SSet.has (s.ctx (mCtx m)).grants (fld (mPl m) 0 1) = true →
    Answers (.modelRevoke page) s (fun t => (t.ctx (mCtx m)).grants = (s.ctx (mCtx m)).grants ∧ s.Aborting t page m (mCtx m) 2))
  ) ∧
  (
  let listed (s : State) (page : Nat) (m : List Byte) : List Byte := ((List.range 15).flatMap (fun i =>
    if (s.model (i + 1)).state = 0 ∨ (page < 64 ∧ !SSet.has (s.ctx page).grants (i + 1)) then natLe 1 0 ++ natLe 1 (i + 1) ++ natLe 94 0
    else ((s.model (i + 1)).header (i + 1) []).take 96)).take (fld (mPl m) 16 8)
  let directory (s : State) (m : List Byte) : List Byte :=
    (((s.model (fld (mPl m) 0 1)).directory (fld (mPl m) 0 1)).drop (fld (mPl m) 24 8)).take (fld (mPl m) 16 8)
  let status (s : State) (m : List Byte) : List Byte := s.firnRecord.take (fld (mPl m) 16 8)
  (Message .modelList 0x0307 (fun s page m => listed s page m ≠ [] ∧ s.BufferOpen page m (listed s page m))
    stOK (fun s page m => natLe 8 (listed s page m).length) (fun s page m => s.buffered page m (listed s page m))) ∧
  (Message .modelDirectoryRead 0x0308 (fun s page m => 1 ≤ fld (mPl m) 0 1 ∧ fld (mPl m) 0 1 ≤ 15 ∧
      (s.model (fld (mPl m) 0 1)).state ≠ 0 ∧ (64 ≤ page ∨ SSet.has (s.ctx page).grants (fld (mPl m) 0 1) = true) ∧
      directory s m ≠ [] ∧ s.BufferOpen page m (directory s m))
    stOK (fun s _ m => natLe 8 (directory s m).length) (fun s page m => s.buffered page m (directory s m))) ∧
  (Message .firnStatus 0x0309 (fun s page m => status s m ≠ [] ∧ s.BufferOpen page m (status s m))
    stOK (fun s _ m => natLe 8 (status s m).length) (fun s page m => s.buffered page m (status s m)))
  )

/-- R234, R237, R238: an accepted VARIANT_BUILD is the one build under way and closes its region; a build that ends
opens the region to grant holders where it succeeded, or keeps or releases its tag as R237 says, and ends with a notice of its
reason.
R214, R221: after a recheck every placement region of the partition's models is readable again, but for tensors found
bad, which leave the model INCOMPLETE; a margin scan begins and ends, and then each model it covered has an estimate, which the
model leaves free, and the directory set is committed. -/
def Obligations.VariantsRechecksAndScans : Prop :=
  (
  (Message .variantBuild 0x030A (fun s _ m => s.firn.build = none ∧ fld (mPl m) 12 1 ≤ 15 ∧
      (fld (mPl m) 12 1 = 0 ∨ (s.model (fld (mPl m) 12 1)).state = 3) ∧ fld (mPl m) 24 8 ≠ 0 ∧
      s.dramRangeOk (fld (mPl m) 13 1) (fld (mPl m) 16 8) (fld (mPl m) 24 8) 0x100 = true ∧
      fld (mPl m) 0 8 % 64 = 0 ∧ 1 ≤ fld (mPl m) 8 4 ∧ fld (mPl m) 8 4 ≤ 65536 ∧ rsv (mPl m) 14 2 = true ∧ rsv (mPl m) 32 24 = true)
    stOK (fun _ _ _ => [0#8])
    (fun s _ m => { s.toBlock with
      firn := { s.firn with build := some ⟨mTag m, mPl m, false⟩ }
      dram := { s.dram with regions := if fld (mPl m) 12 1 = 0 then s.dram.regions
        else s.dram.regions ++ [⟨fld (mPl m) 16 8, fld (mPl m) 24 8, fld (mPl m) 12 1, true, false, []⟩] } })) ∧
  (∀ s u, s.firn.build = some u → s.placeWaits (fld u.payload 13 1) = false →
    let r := (if u.doomed then s.buildDoomed u else s.buildWork u).2.1
    let mine (g : Region) : Bool := g.variant && g.base == fld u.payload 16 8
    Answers .buildEnd s (fun t => t.firn.build = none ∧ t.firn.models = s.firn.models ∧ t.cores = s.cores ∧ t.ctxs = s.ctxs ∧
      (r = 0 → t.Noticed 64 0x030A u.tag 0 stOK [0#8]) ∧ (r ≠ 0 → t.Noticed 64 0x030A u.tag 0 stInvalid [BitVec.ofNat 8 r]) ∧
      t.dram.regions = if r = 0 ∨ r = 5 then s.dram.regions.map (fun g => if mine g then { g with present := true } else g)
        else s.dram.regions.filter (fun g => !mine g)))
  ) ∧
  (
  (∀ part s, (s.part part).state = 0 → Answers (.placedRecheckDone part) s (fun t => t.cores = s.cores ∧ t.ctxs = s.ctxs ∧
    ∀ r ∈ t.dram.regions, r.variant = false → r.model ∈ s.modelsIn part → r.present = true)) ∧
  (∀ (b : Block) m,
    let bad := ((b.badTensors (b.model m) ((b.model m).placed 1)).2).map (fun t => ((b.model m).tensorAt t, t.length))
    (b.recheck m).dram.regions = b.dram.regions.map (fun r =>
        if r.model = m ∧ r.variant = false ∧ r.present = false then { r with present := true, gone := bad } else r) ∧
      ((b.recheck m).model m).state = if bad = [] then (b.model m).state else 4) ∧
  (∀ s, s.getisUp = true → s.firn.scanning = none →
    Answers .marginScan s (fun t =>
      let now := if s.firn.scanAt = 0 then s.time else s.time.pass (s.firn.scanAt + 86400000000000 - s.time.keeper)
      t.toBlock = { s.toBlock with
        time := now
        firn := { s.firn with
          scanAt := max 1 now.keeper, scans := s.firn.scans + 1
          scanning := some ((s.firn.models.filter (fun m => !m.2.extents.isEmpty && (m.2.state == 3 || m.2.state == 4 || m.2.state == 5))).map (·.1)) } })) ∧
  (∀ s l, s.firn.scanning = some l →
    Answers .scanDone s (fun t => t.firn.scanning = none ∧ t.firn.lastScan = s.time.keeper ∧ t.firn.inForce = t.firn.current ∧
      (∀ m ∈ l, t.model m = { s.model m with days := some (Config.retentionDays s.firn.scans m % 0xFFFFFFFE) }) ∧
      (∀ m, m ∉ l → t.model m = s.model m) ∧ Leaves (fun b => { b with firn := {} }) s.toBlock t.toBlock))
  )

/-- R412, R413, R415: DOMAIN_CONFIG with role MASTER and sound fields makes a module outside any domain its master, with
the ID of its coordinates, locked time and itself joined; role FOLLOWER makes it join the domain of its tag; LEAVE with no
window open and no job group assigned keeps no trace of the domain.
R413, R416: an ASSIGN with the module's tag makes a joining module a member with the coordinates and the ID given, and puts a
master that hears another's in conflict; a master counts what has joined, and is ready when all have or 1 s after the
assignment, which it reports. -/
def Obligations.DomainsFormAndEnd : Prop :=
  (
  (∀ page s m, s.Turn page 0x0403 m → fld (mPl m) 0 1 = 2 → masterFields (mPl m) = true → rsv (mPl m) 9 7 = true →
    rsv (mPl m) 24 32 = true → fld (mPl m) 16 8 ≠ 0 → s.weave.domain.state = 0 →
    let id := fld (mPl m) 6 1 + fld (mPl m) 2 1 * (fld (mPl m) 7 1 + fld (mPl m) 3 1 * fld (mPl m) 8 1)
    Answers (.domainConfig page) s (fun t => t.Replied page m stOK [] ∧ t.time = { s.time with state := 2 } ∧ t.cores = s.cores ∧
      t.ctxs = s.ctxs ∧ t.weave.domain = {
        state := 3, tag := BitVec.ofNat 64 (fld (mPl m) 16 8), topology := fld (mPl m) 1 1, sizeX := fld (mPl m) 2 1
        sizeY := fld (mPl m) 3 1, sizeZ := fld (mPl m) 4 1, parallel := fld (mPl m) 5 1, x := fld (mPl m) 6 1, y := fld (mPl m) 7 1
        z := fld (mPl m) 8 1, moduleId := id, idValid := true, master := id, joined := 1, assignAt := s.time.keeper })) ∧
  (∀ page s m, s.Turn page 0x0403 m → fld (mPl m) 0 1 = 1 → rsv (mPl m) 1 8 = true → rsv (mPl m) 9 7 = true →
    rsv (mPl m) 24 32 = true → fld (mPl m) 16 8 ≠ 0 → BitVec.ofNat 64 (fld (mPl m) 16 8) ≠ s.weave.domain.tag → s.domainBusy = false →
    Answers (.domainConfig page) s (fun t => t.Replied page m stOK [] ∧
      t.time = { s.time with state := if s.time.state = 0 then 0 else 1 } ∧
      t.weave = { s.weave with domain := { tag := BitVec.ofNat 64 (fld (mPl m) 16 8), state := 1 } } ∧ t.cores = s.cores ∧ t.ctxs = s.ctxs)) ∧
  (∀ page s m, s.Turn page 0x0403 m → fld (mPl m) 0 1 = 0 → rsv (mPl m) 1 8 = true → rsv (mPl m) 9 7 = true →
    rsv (mPl m) 24 32 = true → s.weave.domain.state ≠ 0 → s.domainBusy = false →
    Answers (.domainConfig page) s (fun t => t.Replied page m stOK [] ∧ t.time = { s.time with state := 0, owed := 0, acc := 0 } ∧
      t.weave = { s.weave with domain := {}, jobs := [] } ∧ t.cores = s.cores ∧ t.ctxs = s.ctxs))
  ) ∧
  (
  (∀ port a s, s.Hears port → a.tag = s.weave.domain.tag → s.weave.domain.state = 1 →
    Answers (.assign port a) s (fun t => t.cores = s.cores ∧ t.ctxs = s.ctxs ∧ t.time = s.time ∧ t.weave.domain = { s.weave.domain with
      state := 2, topology := a.topology, sizeX := a.sizeX, sizeY := a.sizeY, sizeZ := a.sizeZ, parallel := a.parallel
      x := a.x, y := a.y, z := a.z, master := a.master, idValid := true, parent := some port
      moduleId := a.x + a.sizeX * (a.y + a.sizeY * a.z) })) ∧
  (∀ port a s, s.Hears port → a.tag = s.weave.domain.tag → s.weave.domain.state = 3 → a.master ≠ s.self →
    Answers (.assign port a) s (fun t => t.weave.domain = { s.weave.domain with state := 5 } ∧
      Leaves (fun b => { b with mboxes := [], weave := { b.weave with domain := {} } }) (s.heard port) t.toBlock)) ∧
  (∀ port n s, s.Hears port → s.weave.domain.state = 3 → s.weave.domain.joined < s.weave.domain.modules →
    Answers (.joined port n) s (fun t => Traced ((s.heard port).modDomain (fun d => { d with joined := d.joined + n })) t.toBlock)) ∧
  (∀ s, s.weave.domain.state = 3 → s.weave.domain.ready = false →
    Answers .domainReady s (fun t => t.weave = { s.weave with domain := { s.weave.domain with ready := true } } ∧
      (t.time = if s.weave.domain.joined < s.weave.domain.modules then s.time.pass (s.weave.domain.assignAt + 1000000000 - s.time.keeper)
        else s.time) ∧
      t.Noticed 64 0x0403 0 0xFF stOK
        (natLe 1 3 ++ natLe 1 0 ++ natLe 2 s.weave.domain.master ++ natLe 2 s.weave.domain.joined ++ natLe 50 0) ∧
      Leaves (fun b => { b with mboxes := [], time := {}, weave := {} }) s.toBlock t.toBlock))
  )

/-- R31–R34: the master sends time every 64 µs on each of its links; a follower that has measured the path delay steps to
the master's time plus that delay while no context exists and it has not locked, and otherwise slews by what it is off; without
messages for 200 µs it is in HOLDOVER and its domain in MASTER_LOST, which the next message ends; the path delay of a link is
what was measured. OFFSET_NS with its sign is the model's choice (log 84).
R29, R33: every 1,024 ns the keeper distributes time: every island's counter then equals the keeper. As time passes the keeper
counts on to the end of its 64 bits, and what is left to slew shrinks.
R32: TIME_QUERY replies with the keeper's time and state, and with the master where time follows one. -/
def Obligations.DomainTimeIsKept : Prop :=
  (
  (∀ s, s.weave.domain.state = 3 → s.halted = false →
    Answers .timeMessageSend s (fun t =>
      let now := s.time.pass (s.time.sentAt + 64000 - s.time.keeper)
      t.time = { now with sentAt := now.keeper } ∧
      Leaves (fun b => { b with time := {}, weave := { b.weave with ports := [] } }) s.toBlock t.toBlock ∧
      ∀ p ∈ s.weave.domain.ports, (s.port p).state = 2 → ∃ x ∈ (t.port p).buf, x.bytes =
        natLe 1 0x30 ++ natLe 8 s.weave.domain.master ++ natLe 8 s.weave.domain.tag.toNat ++ natLe 8 t.time.corrected)) ∧
  (∀ port master tag mt s, s.HearsTime port master tag → (s.port port).delay ≠ 0 →
    let now := min (mt + (s.port port).delay) timeEnd
    let off : Int := (now : Int) - (s.time.keeper : Int)
    Answers (.timeMessage port master tag mt) s (fun t =>
      (t.time = if s.time.state ≤ 1 ∧ (List.range 64).all (fun c => (s.ctx c).state == 0) = true then
          { s.time with keeper := now, lastSync := now, offset := off, owed := 0, acc := 0, distAt := now, state := 2 }
        else { s.time with
          lastSync := s.time.keeper, offset := off, owed := off, acc := 0
          state := if -12 ≤ off ∧ off ≤ 12 ∧ (s.time.state = 1 ∨ s.time.state = 2) then 2 else 1 }) ∧
      t.weave.domain = { s.weave.domain with state := 2 } ∧ t.cores = s.cores ∧ t.ctxs = s.ctxs)) ∧
  (∀ port master tag mt s, s.HearsTime port master tag → (s.port port).delay = 0 →
    Answers (.timeMessage port master tag mt) s (fun t =>
      t.time = { s.time with lastSync := s.time.keeper, state := if s.time.state = 2 then 2 else 1 } ∧
      t.weave.domain = { s.weave.domain with state := 2 } ∧ t.cores = s.cores ∧ t.ctxs = s.ctxs)) ∧
  (∀ port delay s, s.Hears port →
    Answers (.timeReply port delay) s (fun t => Traced ((s.heard port).modPort port (fun x => { x with delay := delay })) t.toBlock)) ∧
  (∀ s, s.weave.domain.state = 2 → s.time.state = 2 →
    Answers .masterLost s (fun t =>
      let now := s.time.pass (s.time.lastSync + 200000 - s.time.keeper)
      t.time = { now with state := 3, holdover := now.keeper } ∧ t.weave = { s.weave with domain := { s.weave.domain with state := 4 } } ∧
      Leaves (fun b => { b with time := {}, weave := {}, mboxes := [] }) s.toBlock t.toBlock))
  ) ∧
  (
  (∀ s, s.hubRuns = true → Answers .timeDistribution s (fun t =>
    let now := s.time.pass (s.time.distAt + 1024 - s.time.keeper)
    t.time = { now with distAt := now.keeper } ∧ (∀ i, t.counter i = now.keeper ∧ (t.island i).last = (s.island i).last ∧
      (t.island i).seq = (s.island i).seq) ∧
    { t.toBlock with time := {}, islands := [] } = { s.toBlock with time := {}, islands := [] })) ∧
  (∀ (t : Time) n, (t.pass n).keeper = min (t.keeper + n) timeEnd ∧
    (t.pass n).owed.natAbs = t.owed.natAbs - (t.acc + n) / t.slewEvery ∧ (t.pass n).state = t.state)
  ) ∧
  Message .timeQuery 0x0601 (fun _ _ _ => True) stOK
    (fun s _ _ => natLe 8 s.time.keeper ++ natLe 1 s.time.state ++ natLe 1 0 ++
      natLe 2 (if s.time.state = 0 then 0xFFFF else s.weave.domain.master) ++
      natLe 4 (((if s.time.owed = 0 then 0 else if 0 < s.time.owed then 1000000 else -1000000) % (2 ^ 32 : Nat) : Int).toNat) ++
      natLe 8 s.time.lastSync ++ natLe 8 ((s.time.offset % (2 ^ 64 : Nat)).toNat) ++ natLe 8 s.time.holdover ++ natLe 16 0)
    (fun s _ _ => s.toBlock)

/-- R396–R398: training ends with the port UP where nothing is wrong with the peer, else MISWIRED or DOWN with the reason;
a port that is DOWN or MISWIRED trains again 1 s after it went down.
R401, R404, R433: a NAK resends from its LSEQ on, an IDLE flit frees what it acknowledges, an exhausted retry takes
the port down with reason 9 and an empty buffer, and PORT_STATUS reports the port. -/
def Obligations.WeaveLinksTrainAndResend : Prop :=
  (
  (∀ port r s, port ≤ 17 → (s.port port).state = 1 →
    Answers (.portUp port r) s (fun t =>
      let why := s.trainReason port r
      (t.port port).state = (if why = 0 then 2 else if [2, 3, 5, 6, 7, 8].contains why then 4 else 3) ∧ (t.port port).reason = why ∧
        (t.port port).peerModule = r.peerModule ∧ (t.port port).peerPort = r.peerPort ∧ (t.port port).peerTag = r.peerTag ∧
        (t.port port).reversed = r.reversed ∧ (t.port port).changed = s.time.keeper ∧ (t.port port).rxSeq = 0 ∧
        (why ≠ 0 → (t.port port).buf = []) ∧ (∀ p, p ≠ port → t.port p = s.port p) ∧
        Leaves (fun b => { b with weave := { b.weave with ports := [] } }) s.toBlock t.toBlock)) ∧
  (∀ port s, ((s.port port).state = 3 ∨ (s.port port).state = 4) → s.halted = false →
    let now := s.time.pass ((s.port port).downAt + 1000000000 - s.time.keeper)
    Answers (.portRetrain port) s (fun t => t.toBlock =
      ({ s.toBlock with time := now } : Block).setPort port { s.port port with state := 1, changed := now.keeper }))
  ) ∧
  (
  (∀ port lseq s, (s.port port).state = 2 →
    Answers (.nak port lseq) s (fun t => t.toBlock = s.toBlock.setPort port { s.port port with
      rxAt := s.time.keeper, buf := resendFrom 4096 lseq s.time.keeper (s.port port).buf
      retries := satAdd (s.port port).retries (resendCount 4096 lseq (s.port port).buf) })) ∧
  (∀ port lack s, (s.port port).state = 2 →
    Answers (.idle port lack) s (fun t => t.toBlock = s.toBlock.setPort port { s.port port with
      rxAt := s.time.keeper, buf := ackedBuf 4096 lack (s.port port).buf })) ∧
  (∀ port s, (s.port port).state = 2 →
    let now := s.time.pass ((s.port port).exhaustedAt s.time.keeper - s.time.keeper)
    Answers (.retryExhausted port) s (fun t => Traced (({ s.toBlock with time := now } : Block).setPort port { s.port port with
      state := 3, reason := 9, buf := [], downs := satInc (s.port port).downs, changed := now.keeper, downAt := now.keeper }) t.toBlock)) ∧
  (Message .portStatus 0x0405 (fun _ _ m => fld (mPl m) 0 1 ≤ 17) stOK
    (fun s _ m =>
      let q := s.port (fld (mPl m) 0 1)
      natLe 1 q.state ++ natLe 1 q.reason ++ natLe 2 (q.peerModule.getD 0xFFFF) ++
        natLe 1 (q.peerPort.getD 0xFF) ++ natLe 1 q.polarity ++ natLe 1 (if q.reversed then 1 else 0) ++ natLe 1 0 ++
        natLe 8 q.corrected ++ natLe 8 q.retries ++ natLe 8 q.downs ++ natLe 8 q.unroutable ++ natLe 8 q.changed ++ natLe 8 q.discarded)
    (fun s _ _ => s.toBlock))
  )

/-- R417–R420: a sound JOB_GROUP_SET on the master installs the definition and waits for the other modules, kind 3 deletes
a group that no partition has; a member installs a definition it receives, or deletes one; 10 ms without every acknowledgement
ends it with INVALID_OPERATION. -/
def Obligations.JobGroupsAreInstalled : Prop :=
  (∀ s m l, s.Turn 64 0x0404 m → s.weave.domain.state = 3 → 1 < s.weave.domain.modules →
    (let p := mPl m
     fld p 0 2 ≠ 0xFFFF ∧ fld p 2 1 ≤ 2 ∧ rsv p 3 1 = true ∧ rsv p 22 2 = true ∧ rsv p 32 24 = true ∧ 250 ≤ fld p 4 4 ∧
       fld p 4 4 ≤ 10000000 ∧ (if fld p 2 1 = 1 then fld p 16 4 < fld p 4 4 else fld p 16 4 = 0) ∧ 1 ≤ fld p 20 2 ∧
       fld p 20 2 ≤ 4096 ∧ fld p 24 8 % 64 = 0 ∧ (s.mbTake 64 m).bufRead 64 (fld p 24 8) (8 * fld p 20 2) = some l ∧
       membersOk (fld p 2 1) ((List.range (fld p 20 2)).map (fun i => parseMember ((l.drop (8 * i)).take 8))) = true) →
    (s.weave.jobs.length < 1024 ∨ s.weave.jobs.any (fun x => x.1 == fld (mPl m) 0 2) = true) →
    Answers (.jobGroupSet 64) s (fun t =>
      (t.mbox 64).busy = some ⟨0x0404, mTag m, mCtx m, mPl m, [], [], false⟩ ∧
      t.weave.domain = { s.weave.domain with defining := some (fld (mPl m) 0 2, 1), defAt := s.time.keeper } ∧
      t.weave.jobs = SMap.put s.weave.jobs (fld (mPl m) 0 2)
        ⟨fld (mPl m) 2 1, fld (mPl m) 4 4, fld (mPl m) 8 8, fld (mPl m) 16 4,
          ((List.range (fld (mPl m) 20 2)).map (fun i => parseMember ((l.drop (8 * i)).take 8))).map (·.1)⟩ ∧
      Leaves (fun b => { b with mboxes := [], weave := {} }) s.toBlock t.toBlock)) ∧
  (∀ s m, s.Turn 64 0x0404 m → s.weave.domain.state = 3 → 1 < s.weave.domain.modules → fld (mPl m) 2 1 = 3 →
    fld (mPl m) 0 2 ≠ 0xFFFF → s.weave.jobs.any (fun x => x.1 == fld (mPl m) 0 2) = true →
    (∀ q < 4, (s.part q).jobGroup ≠ fld (mPl m) 0 2) →
    Answers (.jobGroupSet 64) s (fun t =>
      (t.mbox 64).busy = some ⟨0x0404, mTag m, mCtx m, mPl m, [], [], false⟩ ∧
      t.weave.domain = { s.weave.domain with defining := some (fld (mPl m) 0 2, 1), defAt := s.time.keeper } ∧
      t.weave.jobs = s.weave.jobs.filter (fun x => x.1 != fld (mPl m) 0 2) ∧
      Leaves (fun b => { b with mboxes := [], weave := {} }) s.toBlock t.toBlock)) ∧
  (∀ port d s, s.Hears port → (s.weave.domain.state = 2 ∨ s.weave.domain.state = 4) →
    (d.kind ≤ 2 → (s.weave.jobs.length < 1024 ∨ s.weave.jobs.any (fun x => x.1 == d.group) = true) →
      Answers (.jobGroupDefinition port d) s (fun t =>
        t.weave.jobs = SMap.put s.weave.jobs d.group ⟨d.kind, d.periodUs, d.origin, d.stageUs, d.members⟩ ∧
        t.weave.domain = s.weave.domain ∧ Leaves (fun b => { b with weave := {} }) s.toBlock t.toBlock)) ∧
    (d.kind = 3 → (∀ q < 4, (s.part q).jobGroup ≠ d.group) →
      Answers (.jobGroupDefinition port d) s (fun t => t.weave.jobs = s.weave.jobs.filter (fun x => x.1 != d.group) ∧
        t.weave.domain = s.weave.domain ∧ Leaves (fun b => { b with weave := {} }) s.toBlock t.toBlock))) ∧
  (∀ s o, s.weave.domain.defining.isSome = true → (s.mbox 64).busy = some o →
    Answers .jobGroupUnreachable s (fun t => t.weave = { s.weave with domain := { s.weave.domain with defining := none } } ∧
      t.time = s.time.pass (s.weave.domain.defAt + 10000000 - s.time.keeper) ∧ (t.mbox 64).busy = none ∧ t.cores = s.cores ∧
      mbBytes (mOp o.msg) (mTag o.msg) (mCtx o.msg) 1 stInvalid [4#8] ∈ (t.mbox 64).outq))

/-- R166, R402, R424, R427, R430, R431: a request that passes every check of its window takes effect and is answered OK: a
WRITE lands and counts for its group; a FINAL whose group is whole stores its flag and ends the group, and waits
otherwise; an ATOMIC answers the old value and stores the new one; an ENC fragment is kept, and a whole block lands
decoded. -/
def Obligations.InboundRequestsTakeEffect : Prop :=
  (∀ h group (data : List Byte) s w, s.Inbound h w h.off data.length false →
    s.groupRoom h group = true → (∀ g ∈ s.weave.groups, g.is h group = true → g.final = none) →
    Answers (.write h group data) s (fun t =>
      s.Lands t w h.off data ((List.range data.length).filter (fun i => bit h.poison (i / 16))) ∧ s.Responds t h none ∧
        (t.ctx w.ctx).inWindow = (s.ctx w.ctx).inWindow + data.length ∧
        ∃ g ∈ t.weave.groups, g.is h group = true ∧ g.lastAt = s.time.keeper ∧
          g.count = ((s.weave.groups.find? (fun g => g.is h group)).map (·.count)).getD 0 + 1)) ∧
  (∀ h group value count s w, s.Inbound h w h.off 8 false →
    (∃ g ∈ s.weave.groups, g.is h group = true ∧ g.count = count) →
    Answers (.final h group value count) s (fun t =>
      s.Lands t w h.off (natLe 8 value.toNat) (if bit h.poison 0 then List.range 8 else []) ∧ s.Responds t h none ∧
        ∀ g ∈ t.weave.groups, g.is h group = false)) ∧
  (∀ h group value count s w, s.Inbound h w h.off 8 false → s.groupRoom h group = true → count ≠ 0 →
    (∀ g ∈ s.weave.groups, g.is h group = true → g.count ≠ count) →
    Answers (.final h group value count) s (fun t => s.Lands t w h.off [] [] ∧
      ∃ g ∈ t.weave.groups, g.is h group = true ∧ g.final = some ⟨h, value, count⟩)) ∧
  (∀ h op value compare s w, s.Inbound h w h.off 8 true → (s.winWord w h.off).2 = false →
    Answers (.atomic h op value compare) s (fun t =>
      let old := BitVec.ofNat 64 (s.winWord w h.off).1
      s.Lands t w h.off (natLe 8 (atomicNew op old value compare).toNat) [] ∧ s.Responds t h (some old))) ∧
  (∀ h group frag (data : List Byte) s w, s.Inbound h w h.off 0 false → s.groupRoom h group = true →
    (∀ e ∈ s.weave.encs, e.is h = false) → s.weave.encs.length < 64 →
    Answers (.enc h group frag false data) s (fun t => s.Lands t w h.off [] [] ∧
      t.weave.encs = s.weave.encs ++ [⟨h, group, [(frag, data)], none, s.time.keeper, h.poison != 0⟩])) ∧
  (∀ h group (data : List Byte) s w out, s.Inbound h w h.off 0 false → s.groupRoom h group = true →
    (∀ e ∈ s.weave.encs, e.is h = false) → s.weave.encs.length < 64 → h.poison = 0 →
    bhOk (data.take 8) (bhDec (data.take 8)) = true → h.off + bhDec (data.take 8) ≤ w.len →
    s.winCheck w h.off (bhDec (data.take 8)) = stOK → s.winSnooped w h.off (bhDec (data.take 8)) = [] →
    (∀ g ∈ s.weave.groups, g.is h group = true → g.final = none) →
    decodeBlock (data.take 8) (data.drop 8) [] (bhDec (data.take 8)) = .ok out →
    Answers (.enc h group 0 true data) s (fun t => s.Lands t w h.off out [] ∧ s.Responds t h none ∧ t.weave.encs = s.weave.encs))

/-- R421–R423, R426: WINDOW_OPEN of a free ID over the context's own tile range, or over pages that R422 allows, with a list of
peers or those of its job group opens the window; its owner's WINDOW_CLOSE ends the window and its groups. With no FINAL held
there neither changes anything else.
R150, R421, R422: bytes that land in a TILE window are at the window's base in its owner's tile range, and bytes that
land in a VIRT window of one page are at that page's place in the DRAM tier; no other byte of either changes.
R424: a request to a window that is not open is answered CLOSED, and one outside the window or from no peer of it is
answered RIGHTS; no byte changes and no group starts. -/
def Obligations.WindowsOpenCloseAndCheck : Prop :=
  (
  (∀ page s m peers pages, s.Turn page 0x0401 m → fld (mPl m) 3 1 ≤ 3 → rsv (mPl m) 32 24 = true → s.window? (fld (mPl m) 0 2) = none →
    fld (mPl m) 8 8 % 64 = 0 → fld (mPl m) 16 8 % 64 = 0 → fld (mPl m) 16 8 ≠ 0 →
    ((fld (mPl m) 2 1 = 1 ∧ fld (mPl m) 8 8 + fld (mPl m) 16 8 ≤ ((s.part (s.ctx page).part).rangeOf page).2 ∧ pages = []) ∨
      (fld (mPl m) 2 1 = 2 ∧ s.winWaits page (mPl m) = false ∧
        (s.mbTake page m).winVirt page (fld (mPl m) 8 8) (fld (mPl m) 16 8) (bit (fld (mPl m) 3 1) 0) = some pages)) →
    ((peerList (mPl m) = true ∧ s.feStall page [(fld (mPl m) 24 8, 4 * fld (mPl m) 6 2)] 1 = none ∧
        ∃ d, (s.mbTake page m).feRead page (fld (mPl m) 24 8) (4 * fld (mPl m) 6 2) = .ok d ∧ listPeers d (fld (mPl m) 6 2) = some peers) ∨
      (bit (fld (mPl m) 3 1) 1 = true ∧ fld (mPl m) 6 2 = 0 ∧ s.groupPeers page (fld (mPl m) 4 2) = some peers)) →
    s.weave.windows.length < 4096 → (s.weave.windows.filter (fun w => w.ctx == page)).length < 256 → 2 ≤ s.weave.domain.state →
    Answers (.windowOpen page) s (fun t => t.Replied page m stOK [] ∧ t.weave = { s.weave with windows := s.weave.windows ++
      [⟨fld (mPl m) 0 2, page, fld (mPl m) 2 1 == 1, bit (fld (mPl m) 3 1) 0, fld (mPl m) 8 8, fld (mPl m) 16 8, peers, pages⟩] } ∧
      Leaves (fun b => { b with mboxes := [], weave := {} }) s.toBlock t.toBlock)) ∧
  (∀ page s m w, s.Turn page 0x0402 m → s.window? (fld (mPl m) 0 2) = some w → w.ctx = page → s.weave.waiting = [] →
    Answers (.windowClose page) s (fun t => t.Replied page m stOK [] ∧
      t.weave.windows = s.weave.windows.filter (fun x => x.id != w.id) ∧
      t.weave.groups = s.weave.groups.filter (fun g => g.window != w.id) ∧
      ((∀ g ∈ s.weave.groups, g.window = w.id → g.final = none) →
        Leaves (fun b => { b with mboxes := [], weave := { b.weave with windows := [], groups := [] } }) s.toBlock t.toBlock)))
  ) ∧
  (
  (∀ (b : Block) (w : Window) (off : Nat) (data : List Byte) (bad : List Nat), w.tile = true →
    Mem.wf (b.part (b.ctx w.ctx).part).tile = true →
    let p := (b.ctx w.ctx).part
    let at_ := ((b.part p).rangeOf w.ctx).1 + w.base + off
    let c := b.winWrite w off data bad
    c.dram = b.dram ∧ (∀ q, q ≠ p → c.part q = b.part q) ∧
      ∀ a, Mem.byte (c.part p).tile a =
        if at_ ≤ a ∧ a < at_ + data.length then data.getD (a - at_) 0 else Mem.byte (b.part p).tile a) ∧
  (∀ (b : Block) (w : Window) (off : Nat) (data : List Byte) (bad : List Nat) (va n po : Nat), w.tile = false →
    w.pages = [(va, n, po)] → va ≤ w.base + off → w.base + off + data.length ≤ va + n → Mem.wf b.dram.mem = true →
    let at_ := po + (w.base + off - va)
    let c := b.winWrite w off data bad
    c.parts = b.parts ∧ ∀ a, Mem.byte c.dram.mem a =
      if at_ ≤ a ∧ a < at_ + data.length then data.getD (a - at_) 0 else Mem.byte b.dram.mem a)
  ) ∧
  (
  ∀ h group (data : List Byte) s st, s.Arrives h → h.src ≠ s.self →
    ((s.window? h.window = none ∧ st = stClosed) ∨
      (∃ w, s.window? h.window = some w ∧ (h.inStep = false ∨ h.step = 0 ∨ stepAbove h.step (s.ctx w.ctx).retired = true) ∧
        (s.part (s.ctx w.ctx).part).state ≠ 1 ∧ st = stRights ∧
        (w.len < h.off + data.length ∨ ∀ p ∈ w.peers, ¬ (p.1 = h.src ∧ (p.2 = none ∨ p.2 = some h.ctx))))) →
    Answers (.write h group data) s (fun t => t.weave.groups = s.weave.groups ∧ t.parts = s.parts ∧ t.cores = s.cores ∧ t.ctxs = s.ctxs ∧
      ((∀ r, (s.ring r).placed = none) → t.dram = s.dram) ∧
      ∀ dir p, s.weave.domain.route s.self h.src = some dir → (s.linkAccept h).1.pickPort dir = some p →
        ∃ x ∈ (t.port p).buf, ∃ vc lack, x.bytes = (respOut s.self h st none).bytes vc x.lseq lack)
  )

/-- R403, R405, R428: a response retires the live request it answers, or marks it for a resend 2 µs later; the old value
of an atomic is stored at the descriptor's scratchpad address; the resend clears the mark.
R406, R428, R431: a request without a response 200 µs after its sending is retired and its descriptor fails; a group
without a packet for 1 ms is freed, and a reassembly buffer 1 ms after its first fragment. -/
def Obligations.RequestersTakeResponses : Prop :=
  (
  (∀ h st s, s.Arrives h → h.reqId < 65536 → s.toBlock.respStale h = false → ((s.core h.core).req? h.reqId).isSome = true →
    Answers (.resp h st 1 false none) s (fun t => (t.core h.core).req? h.reqId = none ∧
      (st = 0 → (∀ c, c ≠ h.core → t.core c = s.core c) ∧ t.ctxs = s.ctxs ∧ t.parts = s.parts ∧ t.dram = s.dram ∧
        (t.core h.core).scratch = (s.core h.core).scratch))) ∧
  (∀ h st s r, s.Arrives h → h.reqId < 65536 → s.toBlock.respStale h = false → (s.core h.core).req? h.reqId = some r →
    Answers (.resp h st 1 true none) s (fun t => (t.core h.core).req? h.reqId = some { r with retryAt := some (s.time.keeper + 2000) } ∧
      t.toBlock = (s.linkAccept h).1.setCore h.core { s.core h.core with live := (s.core h.core).live.map (fun x =>
        if x.reqId = h.reqId then { x with retryAt := some (s.time.keeper + 2000) } else x) })) ∧
  (∀ h s r d (v : W64), s.Arrives h → h.reqId < 65536 → s.toBlock.respStale h = false → (s.core h.core).req? h.reqId = some r →
    r.kind = 2 → ((s.core h.core).mover r.mover).queue.find? (fun d => d.id == r.desc) = some d →
    fld d.raw 24 4 ≠ 0xFFFFFFFF → fld d.raw 24 4 % 8 = 0 → Mem.wf (s.core h.core).scratch = true →
    Answers (.resp h 0 1 false (some v)) s (fun t => (t.core h.core).req? h.reqId = none ∧
      (t.core h.core).scratchBytes d.swap (fld d.raw 24 4) 8 = natLe 8 v.toNat ∧ (∀ c, c ≠ h.core → t.core c = s.core c))) ∧
  (∀ core id s r due, (s.core core).req? id = some r → r.retryAt = some due → (∀ o ∈ r.packets, o.dst ≠ s.self) →
    Answers (.retryResend core id) s (fun t => (t.core core).req? id = some { r with retryAt := none } ∧
      t.time = s.time.pass (due - s.time.keeper) ∧ (∀ c, c ≠ core → t.core c = s.core c) ∧
      { t.core core with live := [] } = { s.core core with live := [] } ∧
      Leaves (fun b => { b with time := {}, cores := [], weave := { b.weave with ports := [] } }) s.toBlock t.toBlock))
  ) ∧
  (
  (∀ core id s r, (s.core core).req? id = some r →
    Answers (.remoteTimeout core id) s (fun t => (t.core core).req? id = none ∧ t.time = s.time.pass (r.sentAt + 200000 - s.time.keeper) ∧
      ∀ d ∈ ((t.core core).mover r.mover).queue, d.id ≠ r.desc)) ∧
  (∀ i s g, s.weave.groups[i]? = some g →
    Answers (.groupExpired i) s (fun t => t.weave = { s.weave with
        groups := s.weave.groups.eraseIdx i, expired := s.weave.expired + (if g.final.isSome then 1 else 0) } ∧
      t.time = s.time.pass (g.lastAt + 1000000 - s.time.keeper) ∧
      Leaves (fun b => { b with time := {}, weave := {} }) s.toBlock t.toBlock)) ∧
  (∀ i s e, s.weave.encs[i]? = some e →
    Answers (.encReassemblyTimeout i) s (fun t => t.toBlock = { s.toBlock with
      time := s.time.pass (e.firstAt + 1000000 - s.time.keeper)
      weave := { s.weave with encs := s.weave.encs.eraseIdx i } }))
  )

/-- R295, R300–R303, R447: a parked stream's translation ends. A page found, or sent by the companion, with the right
needed resumes the stream and is cached; one without it, and a table entry that cannot be read, end its descriptor; a
host-served page asks the companion; a page not present, not translated or not answered within 200 µs faults, and the fault is
pending with its kind, or with no queue configured ends its descriptor. An operation of the front end learns its answer in the
same way; streams 64 to 67 for the front ends are the model's choice (log 87). -/
def Obligations.ParkedStreamsResolve : Prop :=
  (∀ stream s va acc e l d, s.coreUp (stream / 4) = true → ((s.core (stream / 4)).mover (stream % 4)).park = .walk va acc →
    s.streamWalk (stream / 4) ((s.core (stream / 4)).mover (stream % 4)).parkCtx va = (.page e, l) →
    ((s.core (stream / 4)).mover (stream % 4)).parked? = some d →
    (e.allows acc = true → Answers (.tlbResume stream) s (fun t => ((t.core (stream / 4)).mover (stream % 4)).park = .none ∧
      e ∈ ((t.core (stream / 4)).mover (stream % 4)).utlb ∧ e ∈ (t.part (partOf (stream / 4))).tlb ∧
      ((t.core (stream / 4)).mover (stream % 4)).queue = ((s.core (stream / 4)).mover (stream % 4)).queue ∧
      (∀ c, { t.core c with movers := [], movProg := [] } = { s.core c with movers := [], movProg := [] }) ∧
      (∀ p, { t.part p with tlb := [], walks := [] } = { s.part p with tlb := [], walks := [] }) ∧
      Leaves (fun b => { b with cores := [], parts := [] }) s.toBlock t.toBlock)) ∧
    (e.allows acc = false → Answers (.tlbResume stream) s (fun t =>
      ∀ d' ∈ ((t.core (stream / 4)).mover (stream % 4)).queue, d'.id ≠ d.id))) ∧
  (∀ stream s va acc a l d, s.coreUp (stream / 4) = true → ((s.core (stream / 4)).mover (stream % 4)).park = .walk va acc →
    s.streamWalk (stream / 4) ((s.core (stream / 4)).mover (stream % 4)).parkCtx va = (.dead a, l) →
    ((s.core (stream / 4)).mover (stream % 4)).parked? = some d →
    Answers (.tlbResume stream) s (fun t => ∀ d' ∈ ((t.core (stream / 4)).mover (stream % 4)).queue, d'.id ≠ d.id)) ∧
  (∀ stream s va acc l, s.coreUp (stream / 4) = true → ((s.core (stream / 4)).mover (stream % 4)).park = .walk va acc →
    s.streamWalk (stream / 4) ((s.core (stream / 4)).mover (stream % 4)).parkCtx va = (.host, l) →
    Answers (.tlbResume stream) s (fun t => ((t.core (stream / 4)).mover (stream % 4)).park = .host va acc s.treleb.nextTag ∧
      ∃ r ∈ t.treleb.reqs, r.tag = s.treleb.nextTag ∧ r.at_ = s.time.keeper ∧
        r.kind = .transReq stream ((s.core (stream / 4)).mover (stream % 4)).parkCtx (va / 2 ^ 16 * 2 ^ 16) acc)) ∧
  (∀ stream s va acc kind level at_ e l, s.coreUp (stream / 4) = true → ((s.core (stream / 4)).mover (stream % 4)).park = .walk va acc →
    s.streamWalk (stream / 4) ((s.core (stream / 4)).mover (stream % 4)).parkCtx va = (.fault kind level at_ e, l) →
    (kind = 2 → s.migrating at_ = false) →
    (s.faults.queueAddr.isSome = true → Answers (.tlbResume stream) s (fun t => s.Faulted t stream va acc kind level)) ∧
    (∀ d, s.faults.queueAddr = none → ((s.core (stream / 4)).mover (stream % 4)).parked? = some d →
      Answers (.tlbResume stream) s (fun t => ∀ d' ∈ ((t.core (stream / 4)).mover (stream % 4)).queue, d'.id ≠ d.id))) ∧
  (∀ stream s va acc tag r, stream < 64 → ((s.core (stream / 4)).mover (stream % 4)).park = .host va acc tag → s.req? tag = some r →
    s.faults.queueAddr.isSome = true →
    Answers (.hostNoResponse stream) s (fun t => s.Faulted t stream va acc 5 0xFF ∧
      t.time = s.time.pass (r.at_ + 200000 - s.time.keeper))) ∧
  (∀ stream s r part ctx va acc, 64 ≤ stream → s.transOf stream = some r → r.kind = .transFront part ctx va acc →
    Answers (.hostNoResponse stream) s (fun t => t.toBlock = { s.toBlock with
      time := s.time.pass (r.at_ + 200000 - s.time.keeper)
      treleb := { s.treleb with reqs := s.treleb.reqs.filter (fun q => q.tag != r.tag) }
      ctxs := SMap.put s.ctxs ctx { s.ctx ctx with feDenied := SSet.insert (s.ctx ctx).feDenied (va / 2 ^ 16) } })) ∧
  (∀ tag base size rights s stream ctx va acc a acc' r, s.treleb.state = 2 → s.halted = false → s.req? tag = some r →
    r.kind = .transReq stream ctx va acc → ((s.core (stream / 4)).mover (stream % 4)).park = .host a acc' tag →
    (∀ e d, s.transPage ctx va base size rights = some e → e.allows acc = true →
      ((s.core (stream / 4)).mover (stream % 4)).parked? = some d →
      Answers (.transResp tag base size rights) s (fun t => ((t.core (stream / 4)).mover (stream % 4)).park = .none ∧
        e ∈ ((t.core (stream / 4)).mover (stream % 4)).utlb ∧ e ∈ (t.part (partOf (stream / 4))).tlb)) ∧
    (s.transPage ctx va base size rights = none → s.faults.queueAddr.isSome = true →
      Answers (.transResp tag base size rights) s (fun t => s.Faulted t stream a acc 4 0xFF))) ∧
  (∀ tag base size rights s part ctx va acc r, s.treleb.state = 2 → s.halted = false → s.req? tag = some r →
    r.kind = .transFront part ctx va acc →
    (∀ e, s.transPage ctx va base size rights = some e →
      Answers (.transResp tag base size rights) s (fun t => e ∈ (t.part part).tlb ∧ t.ctxs = s.ctxs ∧ t.cores = s.cores)) ∧
    (s.transPage ctx va base size rights = none →
      Answers (.transResp tag base size rights) s (fun t => t.parts = s.parts ∧ t.cores = s.cores ∧
        t.ctx ctx = { s.ctx ctx with feDenied := SSet.insert (s.ctx ctx).feDenied (va / 2 ^ 16) }))) ∧
  (∀ (b : Block) ctx va base size rights sz, transSize size = some sz → base % sz = 0 → base < 2 ^ 48 →
    b.transPage ctx va base size rights = some ⟨ctx, va / sz * sz, sz, b.self * 2 ^ 52 + 2 * 2 ^ 48 + base, bit rights 0, bit rights 1, bit rights 2⟩)

/-- R304–R306, R308: an idle queue takes its place; a batch closes 20 µs after its oldest fault, which is then written at
the place of WRITE_INDEX, and the control block counts it; RETRY makes the stream walk again, FAIL ends its descriptor; a
migrated page holds the host's bytes and its entry names it.
R307, R447: an invalidation, by message or from the companion when none waits, drops every cached translation of its
range at once and ends when no piece runs under one; the companion is then answered. -/
def Obligations.FaultsAndInvalidations : Prop :=
  (
  (∀ page s m, s.Turn page 0x0701 m →
    (s.faults.queueAddr.isNone || (s.faults.pending.isEmpty && s.faults.write == s.faults.read)) = true →
    fld (mPl m) 0 8 % 4096 = 0 → fld (mPl m) 8 8 % 64 = 0 → fld (mPl m) 16 1 ≤ 127 → fld (mPl m) 0 8 < 2 ^ 48 → fld (mPl m) 8 8 < 2 ^ 48 →
    Answers (.faultQueueConfig page) s (fun t => t.Replied page m stOK [] ∧ t.faults = { s.faults with
        queueAddr := if fld (mPl m) 0 8 = 0 then none else some (fld (mPl m) 0 8), ctrlAddr := fld (mPl m) 8 8
        vector := fld (mPl m) 16 1, write := 0, read := 0, overflowCount := 0, batchId := 0, overflow := false } ∧
      Leaves (fun b => { b with mboxes := [], faults := {}, hostMem := [], hostPoison := [], freeCtr := 0 }) s.toBlock t.toBlock)) ∧
  (∀ s f a, s.faults.pending = [f] → f.written = false → f.noRoom = false → f.cancelled = false → s.faults.queueAddr = some a →
    s.halted = false → s.faults.write < s.faults.read + 8192 → s.treleb.state = 2 → s.hostAbsent = [] → Mem.wf s.hostMem = true →
    (a + 262144 ≤ s.faults.ctrlAddr ∨ s.faults.ctrlAddr + 64 ≤ a) → (∀ r, (s.ring r).placed = none) →
    Answers .faultBatchClose s (fun t => Mem.bytes t.hostMem (a + 32 * (s.faults.write % 8192)) 32 = f.bytes ∧
      Mem.bytes t.hostMem s.faults.ctrlAddr 64 = t.faults.block ∧
      t.faults.write = s.faults.write + 1 ∧ t.faults.batchId = (s.faults.batchId + 1) % 2 ^ 32 ∧
      t.faults.pending = [{ f with written := true, represented := false }] ∧
      t.time = s.time.pass (f.stamp + 20000 - s.time.keeper))) ∧
  (∀ s m f arr, s.Turn 64 0x0702 m → s.faults.queueAddr.isSome = true → fld (mPl m) 0 8 % 64 = 0 → fld (mPl m) 8 2 = 1 →
    s.faults.read ≤ fld (mPl m) 16 8 → fld (mPl m) 16 8 ≤ s.faults.write →
    (s.mbTake 64 m).bufRead 64 (fld (mPl m) 0 8) 16 = some arr → s.faults.pending = [f] → f.cancelled = false → f.noRoom = false →
    s.faults.migrations = [] → fld arr 0 4 = f.id → fld arr 8 8 = 0 →
    ((s.core (f.stream / 4)).mover (f.stream % 4)).park = .fault f.id →
    (fld arr 4 1 = 0 → Answers (.faultReply 64) s (fun t => t.Replied 64 m stOK [] ∧ t.faults.read = fld (mPl m) 16 8 ∧ t.faults.pending = [] ∧
      ((t.core (f.stream / 4)).mover (f.stream % 4)).park = .walk f.va f.access ∧ (t.ctx f.ctx).parked = (s.ctx f.ctx).parked - 1)) ∧
    (∀ d, fld arr 4 1 = 1 → ((s.core (f.stream / 4)).mover (f.stream % 4)).parked? = some d →
      Answers (.faultReply 64) s (fun t => t.Replied 64 m stOK [] ∧ t.faults.read = fld (mPl m) 16 8 ∧ t.faults.pending = [] ∧
        ∀ d' ∈ ((t.core (f.stream / 4)).mover (f.stream % 4)).queue, d'.id ≠ d.id))) ∧
  (∀ part s g, s.faults.migrations = [g] → g.part = part → s.halted = false → (s.part part).state = 0 →
    (s.part (g.entryAt / 2 ^ 40)).state = 0 → leNat (Mem.bytes s.dram.mem g.entryAt 8) % 4 ≠ 2 → s.hostUp = true →
    s.hostAnswers g.host g.size = true → s.pageFree g.dst g.size = true → Mem.wf s.dram.mem = true →
    (g.entryAt + 8 ≤ g.dst ∨ g.dst + g.size ≤ g.entryAt) → (∀ r, (s.ring r).placed = none) →
    Answers (.migrateDone part) s (fun t => t.faults.migrations = [] ∧
      Mem.bytes t.dram.mem g.dst g.size = Mem.bytes s.hostMem g.host g.size ∧
      Mem.bytes t.dram.mem g.entryAt 8 = natLe 8 (s.self * 2 ^ 52 + g.dst / 256 * 256 + bits g.entry 4 2 * 4 + 2)))
  ) ∧
  (
  (∀ page s m, s.Turn page 0x0703 m → mCtx m < 64 → (s.ctx (mCtx m)).state ≠ 0 → fld (mPl m) 0 8 < 2 ^ 56 →
    fld (mPl m) 0 8 + fld (mPl m) 8 8 ≤ 2 ^ 56 →
    Answers (.tlbInvalidate page) s (fun t => (t.mbox page).busy.isSome = true ∧ t.NoTranslation (mCtx m) (fld (mPl m) 0 8) (fld (mPl m) 8 8) ∧
      t.invals = s.invals ++ [⟨mCtx m, fld (mPl m) 0 8, fld (mPl m) 8 8,
        s.openPieces (mCtx m) (fld (mPl m) 0 8) (fld (mPl m) 8 8), .operator, s.time.keeper⟩])) ∧
  (∀ ctx va len s, s.treleb.state = 2 → s.halted = false → ctx < 64 →
    (s.treleb.invals = [] → Answers (.inval ctx va len) s (fun t => t.NoTranslation ctx va len ∧ t.treleb.invals = [⟨ctx, va, len, s.time.keeper⟩] ∧
      t.invals = s.invals ++ [⟨ctx, va, len, s.openPieces ctx va len, .companion, s.time.keeper⟩])) ∧
    (s.treleb.invals ≠ [] → Answers (.inval ctx va len) s (fun t => t.toBlock = { s.toBlock with
      treleb := { s.treleb with invals := s.treleb.invals ++ [⟨ctx, va, len, s.time.keeper⟩] } }))) ∧
  (∀ s i, s.invals.find? (fun i => !i.wait.any s.toBlock.pieceOpen) = some i →
    (∀ x, i.whom = .companion → s.treleb.invals = [x] → Answers .invalidateDone s (fun t => t.invals = s.invals.erase i ∧
      t.treleb.invals = [] ∧ ∃ p ∈ t.treleb.buf, ∃ q, p.bytes = trelebPacket 0x23 0 q 0 0 0 0 [])) ∧
    (∀ o, i.whom = .operator → (s.mbox 64).busy = some o → Answers .invalidateDone s (fun t => t.invals = s.invals.erase i ∧
      mbBytes (mOp o.msg) (mTag o.msg) (mCtx o.msg) 1 stOK [] ∈ (t.mbox 64).outq)) ∧
    (i.whom = .context → Answers .invalidateDone s (fun t => t.invals = s.invals.erase i ∧
      Leaves (fun b => { b with invals := [], freeCtr := 0 }) s.toBlock t.toBlock)))
  )

/-- R346, R443, R449: an answered write has landed in host memory at its address; an answer to no request is counted; an
answered read brings its piece the bytes, and with the last of them the piece is fetched; a write or completion write
unanswered after 50 ms sets TRB_ERR bit 6, and the context of a completion write is held, which is noticed; an INTR unanswered
is noticed to the contexts of its vector. -/
def Obligations.AnswersEndRequests : Prop :=
  (∀ tag s r core m id i, s.treleb.state = 2 → s.halted = false → s.req? tag = some r → r.kind = .pieceWrite core m id i →
    Answers (.cmp tag 0) s (fun t => t.hostMem = Mem.write s.hostMem r.addr r.data ∧
      t.hostPoison = poisonAfter 16 s.hostPoison r.addr r.data.length r.bad ∧ (∀ q ∈ t.treleb.reqs, q.tag ≠ tag) ∧
      t.dram = s.dram ∧ t.parts = s.parts ∧ ∀ c, c ≠ core → t.core c = s.core c)) ∧
  (∀ tag st s, s.treleb.state = 2 → s.halted = false → s.req? tag = none →
    Answers (.cmp tag st) s (fun t => t.toBlock = { s.toBlock with treleb := { s.treleb with stale := satInc s.treleb.stale } })) ∧
  (∀ tag poison s r core m id i at_ d p, s.treleb.state = 2 → s.halted = false → s.req? tag = some r →
    r.kind = .pieceRead core m id i at_ → ((s.core core).mover m).queue.find? (fun d => d.id == id) = some d → d.decodes = false →
    d.pieces[i]? = some p → p.state = .reading → p.open_ ≠ 0 →
    Answers (.cmpd tag 0 poison) s (fun t => ∃ d', ((t.core core).mover m).queue.find? (fun d => d.id == id) = some d' ∧
      d'.pieces[i]? = some { p.arrive at_ (Mem.bytes s.hostMem r.addr r.len)
          (poisonedIn 16 s.hostPoison r.addr r.len ++ r.poisoned poison) with
        open_ := p.open_ - 1, state := if p.open_ = 1 then .fetched else .reading })) ∧
  (∀ tag s r ctx w l, s.req? tag = some r → r.kind = .done ctx → (s.ctx ctx).state = 1 → (s.ctx ctx).doneQ = w :: l →
    Answers (.completionTimeout tag) s (fun t => (t.ctx ctx).state = 2 ∧ (t.ctx ctx).doneQ = { w with tag := none } :: l ∧
      bit t.treleb.err.toNat 6 = true ∧ t.time = s.time.pass (r.at_ + 50000000 - s.time.keeper) ∧
      t.Noticed 64 0x0710 0 ctx stOK (natLe 1 w.kind ++ natLe 1 ctx ++ natLe 6 0 ++ natLe 8 w.addr ++ natLe 8 t.time.keeper ++
        natLe 8 w.seq ++ natLe 24 0))) ∧
  (∀ tag s r v, s.req? tag = some r → r.kind = .intr v →
    Answers (.intrFailed tag) s (fun t => bit t.treleb.err.toNat 6 = true ∧ t.time = s.time.pass (r.at_ + 50000000 - s.time.keeper) ∧
      t.ctxs = s.ctxs ∧ t.cores = s.cores ∧
      ∀ c < 64, (s.ctx c).state ≠ 0 → (s.ctx c).vector = v → t.Noticed 64 0x0710 0 c stOK
        (natLe 1 4 ++ natLe 1 c ++ natLe 6 0 ++ natLe 8 0 ++ natLe 8 t.time.keeper ++ natLe 8 0 ++ natLe 24 0)))

/-- R438, R448: training ends UP at the width its failed lanes leave, or DOWN with none; the link trains again after 1 s;
recovery leaves UP, is counted, and ends as training does.
R404, R442: a NAK on Treleb resends from its LSEQ on; an idle flit frees what it acknowledges.
R440, R444: a companion's write through the aperture lands in the DRAM tier and its read is answered with the bytes
there; an access to memory that is not there or may not be given is answered with its status; a snoop that is
acknowledged or times out after 1 ms leaves the filter, and modified data is written first but for a line of a placed tensor. -/
def Obligations.TrelebTrainsAndServes : Prop :=
  (
  (∀ failed rev s, s.treleb.state = 1 →
    Answers (.linkTrainingEnd failed rev) s (fun t => t.treleb.failed = failed ∧ t.treleb.reversed = rev ∧
      t.treleb.state = (if trainWidth failed = 0 then 0 else 2) ∧ t.treleb.width = trainWidth failed ∧
      Leaves (fun b => { b with treleb := {} }) s.toBlock t.toBlock)) ∧
  (∀ s, s.treleb.state = 0 → s.power.state = 3 →
    Answers .linkRetrain s (fun t => t.treleb.state = 1 ∧ t.treleb.width = 0 ∧
      t.time = s.time.pass (s.treleb.downAt + 1000000000 - s.time.keeper) ∧
      Leaves (fun b => { b with treleb := {}, time := {} }) s.toBlock t.toBlock)) ∧
  (∀ s, s.treleb.state = 2 →
    Answers .recovery s (fun t => t.treleb.state = 3 ∧ t.treleb.recoveries = satInc s.treleb.recoveries ∧
      bit t.treleb.err.toNat 4 = true ∧ Leaves (fun b => { b with treleb := {} }) s.toBlock t.toBlock)) ∧
  (∀ failed rev s, s.treleb.state = 3 →
    Answers (.recoveryEnd failed rev) s (fun t => t.treleb.failed = failed ∧ t.treleb.reversed = rev ∧
      (trainWidth failed ≠ 0 → t.treleb.state = 2 ∧ t.treleb.width = trainWidth failed ∧
        Leaves (fun b => { b with treleb := {} }) s.toBlock t.toBlock) ∧
      (trainWidth failed = 0 → t.treleb.state = 0 ∧ ∀ p < 4, (t.part p).snoop = [])))
  ) ∧
  (
  (∀ lseq s, s.treleb.state = 2 →
    Answers (.trelebNak lseq) s (fun t => t.toBlock = { s.toBlock with treleb := { s.treleb with
      buf := resendFrom 4096 lseq s.time.keeper s.treleb.buf
      retries := satAdd s.treleb.retries (resendCount 4096 lseq s.treleb.buf) } })) ∧
  (∀ lack s, s.treleb.state = 2 →
    Answers (.trelebIdle lack) s (fun t =>
      t.toBlock = { s.toBlock with treleb := { s.treleb with buf := ackedBuf 4096 lack s.treleb.buf } }))
  ) ∧
  (
  (∀ tag off cache len (d : List Byte) poison s, s.ApertureOpen off d.length → s.apertureStatus off d.length = 0 →
    Mem.wf s.dram.mem = true →
    Answers (.dramApertureAccess tag off cache len (some (d, poison))) s (fun t => t.treleb.answers = (tag, 0, [], 0) :: s.treleb.answers ∧
      t.dram = (s.dramWrite off d (maskBytes poison d.length)).dram ∧ t.cores = s.cores ∧ t.parts = s.parts ∧ t.hostMem = s.hostMem ∧
      ∀ a, Mem.byte t.dram.mem a = if off ≤ a ∧ a < off + d.length then d.getD (a - off) 0 else Mem.byte s.dram.mem a)) ∧
  (∀ tag off cache len s, s.ApertureOpen off len → s.apertureStatus off len = 0 → (∀ r, (s.ring r).placed = none) →
    Answers (.dramApertureAccess tag off cache len none) s (fun t =>
      t.treleb.answers = (tag, 0, Mem.bytes s.dram.mem off len, flitMask (poisonedIn 64 s.dram.bad off len)) :: s.treleb.answers ∧
      t.dram = s.dram ∧ t.cores = s.cores)) ∧
  (∀ tag off cache len s, s.ApertureOpen off len → s.apertureStatus off len ≠ 0 →
    Answers (.dramApertureAccess tag off cache len none) s (fun t =>
      t.treleb.answers = (tag, s.apertureStatus off len, [], 0) :: s.treleb.answers ∧
      (∃ p ∈ t.treleb.buf, p.bytes = trelebPacket 0x12 0 p.lseq 0 tag (s.apertureStatus off len) 0 []) ∧
      { t.toBlock with treleb := {} } = { s.toBlock with treleb := {} })) ∧
  (∀ line poison s d, s.treleb.state = 2 → s.treleb.snoops.any (fun x => x.1 == line) = true → s.weave.waiting = [] → d.length = 64 →
    Answers (.snpAck line (some (d, poison))) s (fun t => (∀ x ∈ t.treleb.snoops, x.1 ≠ line) ∧
      line ∉ (t.part (line * 64 / 2 ^ 40)).snoop ∧ t.cores = s.cores ∧
      ((s.part (line * 64 / 2 ^ 40)).state < 2 → (s.regionAt (line * 64) 64).any (fun r => !r.variant) = false →
        Mem.wf s.dram.mem = true → Mem.bytes t.dram.mem (line * 64) 64 = d) ∧
      ((s.regionAt (line * 64) 64).any (fun r => !r.variant) = true → t.dram = s.dram))) ∧
  (∀ line s, s.treleb.state = 2 → s.treleb.snoops.any (fun x => x.1 == line) = true → s.weave.waiting = [] →
    Answers (.snpAck line none) s (fun t => (∀ x ∈ t.treleb.snoops, x.1 ≠ line) ∧
      line ∉ (t.part (line * 64 / 2 ^ 40)).snoop ∧ t.cores = s.cores ∧ t.dram = s.dram)) ∧
  (∀ line s x, s.treleb.snoops.find? (fun x => x.1 == line) = some x → s.weave.waiting = [] →
    Answers (.snoopTimeout line) s (fun t => (∀ x ∈ t.treleb.snoops, x.1 ≠ line) ∧ line ∉ (t.part (line * 64 / 2 ^ 40)).snoop ∧
      bit t.treleb.err.toNat 7 = true ∧ t.time = s.time.pass (x.2 + 1000000 - s.time.keeper) ∧ t.cores = s.cores))
  )

/-- R479, R483, R485: RIM_STATUS, LOG_INFO and LOG_READ reply from the controller's state and its log and change nothing
else; the byte layouts of the first two are the model's choice (log 57). The oldest queued record is programmed, and where
records had been lost a record of that follows.
R457, R461, R479, R489: WATCHDOG_SET gives the partitions of its mask their period, a resetting one after its reset;
PARTITION_RESET of a serving partition begins its reset; MODULE_RESET outside stages 3 to 5 of an update starts the module
again from step 1. -/
def Obligations.RimReportsAndActs : Prop :=
  (
  (∀ s, s.rimServes = true → Answers .rimStatus s (fun t => t.toBlock = s.toBlock.rimOut (0x00#8 ::
    (natLe 1 s.rim.state ++ natLe 2 s.rim.boot ++ natLe 1 (if s.rim.imageValid then 1 else 0) ++
      natLe 1 (match s.rim.update with | some u => u.stage | none => 0) ++ (List.range 4).flatMap (fun p => natLe 1 (s.part p).state))))) ∧
  (∀ s, s.rimServes = true → Answers .logInfo s (fun t => t.toBlock = s.toBlock.rimOut (0x00#8 ::
    (natLe 4 ((s.rim.log.head?.map (·.seq)).getD 0) ++ natLe 4 ((s.rim.log.getLast?.map (·.seq)).getD 0) ++ natLe 4 s.rim.log.length ++
      natLe 4 s.rim.dropped ++ natLe 2 s.rim.boot)))) ∧
  (∀ seq s, s.rimServes = true → Answers (.logRead seq) s (fun t => t.toBlock = s.toBlock.rimOut (0x00#8 ::
    ((s.rim.log.filter (fun r => decide ((r.seq + 2 ^ 32 - seq % 2 ^ 32) % 2 ^ 32 < 2 ^ 31))).take 7).flatMap LogRec.bytes))) ∧
  (∀ s r q, s.rimAwake = true → s.rim.logQ = r :: q →
    let log := (if 262144 ≤ s.rim.log.length then s.rim.log.drop 2048 else s.rim.log) ++ [r]
    (s.rim.overflow = 0 → Answers .logRecordProgrammed s (fun t => t.toBlock = { s.toBlock with rim := { s.rim with logQ := q, log := log } })) ∧
    (s.rim.overflow ≠ 0 → q.length < 512 → Answers .logRecordProgrammed s (fun t => t.rim.log = log ∧ t.rim.overflow = 0 ∧
      t.rim.dropped = s.rim.dropped ∧ (∃ x, t.rim.logQ = q ++ [x] ∧ x.code = 0x0809 ∧ x.arg = s.rim.overflow % 2 ^ 64) ∧
      Leaves (fun b => { b with rim := { b.rim with log := [] } }) s.toBlock t.toBlock)))
  ) ∧
  (
  (∀ mask ms s, s.rimServes = true → mask ≤ 15 → 1 ≤ ms → ms ≤ 1000 →
    Answers (.watchdogSet mask ms) s (fun t => t.rim.out = s.rim.out ++ [[0x00#8]] ∧
      (∀ p, t.part p = if p < 4 ∧ bit mask p = true then
          (if (s.part p).state = 1 then { s.part p with wdNext := ms } else { s.part p with wdMs := ms, wdNext := 0 })
        else s.part p) ∧
      Leaves (fun b => { b with parts := [], rim := { b.rim with out := [], carried := 0 } }) s.toBlock t.toBlock)) ∧
  (∀ part s, s.rimServes = true → part ≤ 3 → s.getisUp = true → (s.part part).state = 0 →
    Answers (.partitionReset part) s (fun t => s.ResetBegun t part 5 ∧ t.rim.out = s.rim.out ++ [[0x00#8]])) ∧
  (∀ force s, s.rimServes = true → (∀ u ∈ s.rim.update, u.stage < 3) → (s.rim.imageValid = true ∨ force = true) →
    Answers (.moduleReset force) s (fun t => t.Restarted ∧ t.rim.boot = (s.rim.boot + 1) % 65536 ∧ t.rim.why = 2 ∧
      t.rim.out = s.rim.out ++ [[0x00#8]] ∧ t.rim.image = s.rim.image ∧ t.rim.imageValid = s.rim.imageValid ∧ t.rim.log = s.rim.log ∧
      t.sec = s.sec.cold ∧ t.hostMem = s.hostMem ∧ t.firn.mem = s.firn.mem))
  )

/-- R478, R479: MGMT_RING_SET places both rings or takes both away; a poll writes a waiting message to the next outbound slot,
or takes the next packet of the inbound ring.
R477, R502: platform and SPDM requests are answered, with replies whose framing the manual leaves to the standards (log 66);
thresholds and the event receiver are set; a report asked for over the management path joins the queue. -/
def Obligations.ManagementIsAnswered : Prop :=
  (
  (∀ inb outb vec s, s.rimServes = true → (inb ≠ 0 ∨ outb ≠ 0) → inb % 4096 = 0 → outb % 4096 = 0 → inb < 2 ^ 48 → outb < 2 ^ 48 →
    vec ≤ 127 → Answers (.mgmtRingSet inb outb vec) s (fun t => t.toBlock = { s.toBlock with rim := { s.rim with
      rings := some ⟨inb, outb, vec, 0, 0⟩, out := s.rim.out ++ [[0x00#8]]
      carried := if s.rim.rings.isSome then s.rim.carried else s.rim.out.length + 1 } })) ∧
  (∀ vec s, s.rimServes = true → vec ≤ 127 → Answers (.mgmtRingSet 0 0 vec) s (fun t => t.toBlock = { s.toBlock with rim := { s.rim with
      rings := none, out := s.rim.out ++ [[0x00#8]], carried := s.rim.out.length + 1 } })) ∧
  (∀ s g d m, s.rimServes = true → s.treleb.state = 2 → s.rim.rings = some g → Mem.wf s.hostMem = true →
    s.hostGet (g.inbound + 256 * (g.inSeq % 64)) 256 = some d → fld d 0 4 ≠ (g.inSeq + 1) % 2 ^ 32 →
    s.rim.out.drop s.rim.carried = [m] → m.length ≤ 248 → s.hostAnswers (g.outbound + 256 * (g.outSeq % 64)) 256 = true →
    Answers .mgmtRingPoll s (fun t => t.rim = { s.rim with
        rings := some { g with outSeq := (g.outSeq + 1) % 2 ^ 32 }, carried := s.rim.out.length } ∧
      t.hostMem = Mem.write s.hostMem (g.outbound + 256 * (g.outSeq % 64))
        (padTo 0#8 256 (natLe 4 ((g.outSeq + 1) % 2 ^ 32) ++ natLe 2 m.length ++ natLe 2 0 ++ m)) ∧
      Mem.bytes t.hostMem (g.outbound + 256 * (g.outSeq % 64)) 256 =
        padTo 0#8 256 (natLe 4 ((g.outSeq + 1) % 2 ^ 32) ++ natLe 2 m.length ++ natLe 2 0 ++ m) ∧
      (∃ r ∈ t.treleb.reqs, r.kind = .intr g.vector) ∧
      { t.toBlock with rim := {}, hostMem := [], hostPoison := [], treleb := {} } =
        { s.toBlock with rim := {}, hostMem := [], hostPoison := [], treleb := {} })) ∧
  (∀ s g d d', s.rimServes = true → s.treleb.state = 2 → s.rim.rings = some g → s.rim.out.drop s.rim.carried = [] →
    s.hostGet (g.inbound + 256 * (g.inSeq % 64)) 256 = some d → fld d 0 4 = (g.inSeq + 1) % 2 ^ 32 → fld d 4 2 ≤ 248 →
    s.hostGet (g.inbound + 256 * ((g.inSeq + 1) % 2 ^ 32 % 64)) 256 = some d' → fld d' 0 4 ≠ ((g.inSeq + 1) % 2 ^ 32 + 1) % 2 ^ 32 →
    Answers .mgmtRingPoll s (fun t => t.toBlock = { s.toBlock with rim := { s.rim with
      rings := some { g with inSeq := (g.inSeq + 1) % 2 ^ 32 }, mail := s.rim.mail ++ [(d.drop 8).take (fld d 4 2)] } }))
  ) ∧
  (
  (∀ s, s.rimServes = true ∨ s.rim.state = 1 → Answers (.pldmPlatformMessage .getTid) s (fun t =>
    t.toBlock = s.toBlock.rimOut (Config.standardReply 0 ++ natLe 1 s.rim.tid))) ∧
  (∀ id s, s.rimServes = true → sensorExists id = true → Answers (.pldmPlatformMessage (.readSensor id)) s (fun t =>
    let x := SMap.get ({} : Sensor) s.rim.sensors id
    t.toBlock = s.toBlock.rimOut (Config.standardReply 1 ++ natLe 4 (x.reading % 2 ^ 32).toNat ++ natLe 1 (if x.isOpen then 1 else 0)))) ∧
  (∀ id w c s, s.rimServes = true → sensorExists id = true → Answers (.pldmPlatformMessage (.setThresholds id w c)) s (fun t =>
    let x := SMap.get ({} : Sensor) s.rim.sensors id
    SMap.get ({} : Sensor) t.rim.sensors id = { x with
      warning := some w, critical := some c, warnOn := decide (w < x.reading), critOn := decide (c < x.reading) } ∧
    (∀ j, j ≠ id → SMap.get ({} : Sensor) t.rim.sensors j = SMap.get ({} : Sensor) s.rim.sensors j) ∧
    t.rim.out = s.rim.out ++ [Config.standardReply 3] ∧
    { t.toBlock with rim := { t.rim with sensors := [], out := [], carried := 0 } } =
      { s.toBlock with rim := { s.rim with sensors := [], out := [], carried := 0 } })) ∧
  (∀ a s, s.rimServes = true → Answers (.pldmPlatformMessage (.setEventReceiver a)) s (fun t =>
    t.toBlock = ({ s.toBlock with rim := { s.rim with receiver := some a } }).rimOut (Config.standardReply 4))) ∧
  (∀ s, s.spdmServes = true → Answers .getVersion s (fun t => t.toBlock = s.toBlock.rimOut (Config.standardReply 10)) ∧
    Answers .getCapabilities s (fun t => t.toBlock = s.toBlock.rimOut (Config.standardReply 11)) ∧
    Answers .negotiateAlgorithms s (fun t => t.toBlock = s.toBlock.rimOut (Config.standardReply 12))) ∧
  (∀ nonce s, s.spdmServes = true → s.getisUp = true → s.sec.decommissioned = false → s.sec.queue.length < 16 →
    Answers (.vendorDefinedRequest nonce) s (fun t => t.toBlock = { s.toBlock with sec := { s.sec with
      queue := s.sec.queue ++ [⟨none, 0, nonce, if s.sec.zero.isSome then [] else s.report none nonce, 0, 0, s.time.keeper⟩] } }))
  )

/-- R487, R488, R501: an update passes its five stages: transfer, verification, erasure of IMAGE, programming and read-back,
from which an image read back as it was sent leaves IMAGE valid and another not; an image that does not verify ends it before
IMAGE is touched; in RECOVERY a valid image is taken and the module starts, and another changes nothing there.
R473, R474, R490, R532: a lockstep error stops the controller, which ends an update and takes the rings away; it starts again
RUNNING, or HALTED with the hub; the sideband's address is the one assigned. -/
def Obligations.UpdatesAndRestartsOfTheRim : Prop :=
  (
  let rimOnly (s t : State) : Prop := Leaves (fun b => { b with rim := { b.rim with
    update := none, image := [], imageValid := false, out := [], carried := 0 } }) s.toBlock t.toBlock
  let stage (k : Nat) (ok : List Byte → State → Update → Prop) (P : List Byte → State → Update → State → Prop) : Prop :=
    ∀ img s u, s.rim.state = 2 → s.rim.update = some u → u.stage = k → ok img s u →
      Answers (.updateStageEnd img) s (fun t => rimOnly s t ∧ P img s u t)
  let kept (s t : State) : Prop := t.rim.image = s.rim.image ∧ t.rim.imageValid = s.rim.imageValid
  (∀ len s p, s.rim.state = 2 → s.halted = false → s.power.state = 3 → p < 4 → (s.part p).state = 0 → (∀ q < p, (s.part q).state ≠ 0) →
    len ≤ 25165824 → s.rim.update = none →
    Answers (.requestUpdate len) s (fun t =>
      t.toBlock = ({ s.toBlock with rim := { s.rim with update := some ⟨1, len, [], p⟩ } }).rimOut (Config.standardReply 5))) ∧
  stage 1 (fun img _ u => img.length = u.len) (fun img s u t => t.rim.update = some { u with stage := 2, image := img } ∧ kept s t) ∧
  stage 2 (fun _ _ _ => True) (fun _ s u t => if verifyImage u.image s.sec.floor = 0
    then t.rim.update = some { u with stage := 3 } ∧ t.rim.image = [] ∧ t.rim.imageValid = false else t.rim.update = none ∧ kept s t) ∧
  stage 3 (fun _ _ _ => True) (fun _ s u t => t.rim.update = some { u with stage := 4 } ∧ kept s t) ∧
  stage 4 (fun _ _ _ => True) (fun _ s u t => t.rim.update = some { u with stage := 5 } ∧ t.rim.image = u.image ∧
    t.rim.imageValid = s.rim.imageValid) ∧
  stage 5 (fun img _ u => sha256 img = sha256 u.image) (fun _ s _ t => t.rim.update = none ∧ t.rim.imageValid = true ∧ t.rim.image = s.rim.image) ∧
  stage 5 (fun img _ u => sha256 img ≠ sha256 u.image) (fun _ s _ t => t.rim.update = none ∧ kept s t) ∧
  (∀ img s, s.rim.state = 1 → Answers (.recoveryUpdate img) s (fun t => if verifyImage img s.sec.floor = 0
    then t.Restarted ∧ t.rim.image = img ∧ t.rim.imageValid = true ∧ t.rim.boot = (s.rim.boot + 1) % 65536 ∧ t.rim.why = 1 ∧
      t.hostMem = s.hostMem ∧ t.firn.mem = s.firn.mem
    else rimOnly s t ∧ t.rim.update = s.rim.update ∧ kept s t))
  ) ∧
  (
  (∀ s, (s.rim.state = 2 ∨ s.rim.state = 3) → Answers .rimLockstep s (fun t =>
    t.rim.state = 4 ∧ t.rim.rings = none ∧ t.rim.update = none ∧ t.rim.mail = [] ∧
      Leaves (fun b => { b with freeCtr := 0, rim := { b.rim with state := 0, rings := none, update := none, mail := [], carried := 0 } })
        s.toBlock t.toBlock)) ∧
  (∀ s, s.rim.state = 4 → Answers .rimStart s (fun t => t.rim.why = 3 ∧
    (t.rim.state = if s.halted = true ∧ s.power.state ≠ 4 then 3 else 2) ∧
    Leaves (fun b => { b with rim := { b.rim with state := 0, why := 0 } }) s.toBlock t.toBlock)) ∧
  (∀ a s, s.power.state ≠ 0 → a ≤ 127 → Answers (.i3cDynamicAddress a) s (fun t =>
    t.toBlock = { s.toBlock with rim := { s.rim with i3c := some a } }))
  )

/-- R475, R476, R515: a sample is the sensor's reading, and an open thermistor reads 0x7FFF; its threshold states follow it, and
where the reading asks for a higher level than its cause does, the cause asks for it. A cause that asks for a higher level
raises the clamp, which stands at the highest level asked for, and a cause that no reading holds lowers what it asks; each
entry counts in every context. -/
def Obligations.SensorsAndClamp : Prop :=
  let clamped (s t : State) (cause lvl : Nat) : Prop :=
    t.power.asks = SMap.set 0 s.power.asks cause lvl ∧ t.power.level = (t.power.asks.map (·.2)).foldl max 0 ∧
      (∀ c, t.ctx c = if (s.ctx c).state ≠ 0 ∧ s.power.level = 0 ∧ t.power.level ≠ 0 then { s.ctx c with clamps := (s.ctx c).clamps + 1 }
        else s.ctx c) ∧
      (∀ c, { t.core c with point := 0, pointTo := 0 } = { s.core c with point := 0, pointTo := 0 })
  (∀ id r op s, s.rimServes = true → sensorExists id = true →
    let old := SMap.get ({} : Sensor) s.rim.sensors id
    let thermistor := op && (id / 256 == 1 || id / 256 == 2)
    let v : Int := if thermistor then 0x7FFF else r
    Answers (.sensorSample id r op) s (fun t =>
      SMap.get ({} : Sensor) t.rim.sensors id = { old with
        reading := v, isOpen := thermistor
        warnOn := old.warning.any (fun w => decide (w < v)), critOn := old.critical.any (fun w => decide (w < v)) } ∧
      (∀ j, j ≠ id → SMap.get ({} : Sensor) t.rim.sensors j = SMap.get ({} : Sensor) s.rim.sensors j) ∧
      (s.power.state = 3 → s.asked (readingAsks id v).1 < (readingAsks id v).2 → clamped s t (readingAsks id v).1 (readingAsks id v).2) ∧
      ((readingAsks id v).2 ≤ s.asked (readingAsks id v).1 → t.power = s.power ∧ t.ctxs = s.ctxs ∧ t.cores = s.cores))) ∧
  (∀ cause lvl s, s.power.state = 3 → 1 ≤ cause → cause ≤ 5 → lvl ≤ 2 → s.asked cause < lvl → (cause = 2 → lvl = 1) →
    Answers (.clamp cause lvl) s (fun t => clamped s t cause lvl ∧
      Leaves (fun b => { b with power := {}, ctxs := [], cores := [] }) s.toBlock t.toBlock)) ∧
  (∀ cause lvl s, s.power.state = 3 → lvl < s.asked cause → (∀ x ∈ s.rim.sensors, readingHolds cause (lvl + 1) x.1 x.2.reading = false) →
    Answers (.clampRelease cause lvl) s (fun t => clamped s t cause lvl ∧
      Leaves (fun b => { b with power := {}, ctxs := [], cores := [] }) s.toBlock t.toBlock))

/-- R495, R502, R503: ATTEST queues a request with its nonce and snapshot; the oldest report is signed, leaves the queue and is
written to the buffer asked for, or, where that is too small, its size is told, or is carried over the management path;
IDENTITY_READ writes the identity to its buffer and replies with the island's state and mode.
R504–R506: a challenge is a fresh free value that the island remembers, and none is issued for a LEVEL that does not exist;
zeroisation clears the island's secrets and resets every partition with new keys; DECOMMISSION and DEBUG_UNLOCK do so under an
accepted token, and the latter unlocks; another token changes no secret and is answered with its reason. -/
def Obligations.AttestationAndZeroisation : Prop :=
  (
  (Message .attest 0x0501 (fun s _ m => s.sec.state = 1 ∧ s.sec.decommissioned = false ∧ fld (mPl m) 32 8 % 64 = 0 ∧ s.sec.queue.length < 16)
    stOK (fun _ _ _ => [])
    (fun s page m => { s.toBlock with sec := { s.sec with queue := s.sec.queue ++ [⟨some page, mTag m, (mPl m).take 32,
      if s.sec.zero.isSome then [] else s.report (some page) ((mPl m).take 32), fld (mPl m) 32 8, fld (mPl m) 40 8, s.time.keeper⟩] } })) ∧
  (∀ s a l, s.sec.state = 1 → s.sec.zero = none → s.getisUp = true → s.sec.queue = a :: l →
    let body := if a.report.isEmpty then s.report a.page a.nonce else a.report
    let rep := body ++ padTo 0#8 7856 (Config.slhSign body)
    let taken : Block := { s.toBlock with sec := { s.sec with queue := l } }
    (a.page = none → Answers .attestReportWritten s (fun t => t.toBlock = taken.rimOut (Config.standardReply 13 ++ rep))) ∧
    (∀ p, a.page = some p → (p < 64 → (s.ctx p).state ≠ 0) → a.len < rep.length →
      Answers .attestReportWritten s (fun t =>
        t.Noticed p 0x0501 a.tag (if p < 64 then p else 0) stInvalid (natLe 8 2 ++ natLe 4 rep.length) ∧ t.sec = taken.sec ∧
          Leaves (fun b => { b with mboxes := [] }) taken t.toBlock)) ∧
    (∀ p, a.page = some p → (p < 64 → (s.ctx p).state ≠ 0 ∧ s.feStall p [(a.addr, rep.length)] 2 = none) → rep.length ≤ a.len →
      (taken.bufWrite p a.addr rep).2 = true →
      Answers .attestReportWritten s (fun t => t.Noticed p 0x0501 a.tag (if p < 64 then p else 0) stOK (natLe 8 rep.length) ∧
        Leaves (fun b => { b with mboxes := [] }) (taken.bufWrite p a.addr rep).1 t.toBlock))) ∧
  (Message .identityRead 0x0502 (fun s page m => s.sec.decommissioned = false ∧
      s.BufferOpen page m (moduleIdentity ++ padTo 0#8 17360 Config.identityTail))
    stOK (fun s _ _ => natLe 1 s.sec.state ++ natLe 1 s.sec.mode)
    (fun s page m => s.buffered page m (moduleIdentity ++ padTo 0#8 17360 Config.identityTail)))
  ) ∧
  (
  let issued (s : State) : Block := { s.toBlock with freeCtr := s.freeCtr + 1, sec := { s.sec with
    challenge := some (padTo 0#8 32 (Config.drbgBytes s.freeCtr), s.time.keeper), requests := s.sec.requests + 1 } }
  (Message .challengeIssue 0x0503 (fun s _ m => fld (mPl m) 1 1 = 1 ∧ s.sec.state = 1 ∧ fld (mPl m) 0 1 ≤ 1)
    stOK (fun s _ _ => padTo 0#8 32 (Config.drbgBytes s.freeCtr)) (fun s _ _ => issued s)) ∧
  (Message .challengeIssue 0x0504 (fun s _ m => fld (mPl m) 1 1 = 1 ∧ s.sec.state = 1)
    stOK (fun s _ _ => padTo 0#8 32 (Config.drbgBytes s.freeCtr)) (fun s _ _ => issued s)) ∧
  (Message .challengeIssue 0x0503 (fun _ _ m => fld (mPl m) 1 1 = 1 ∧ 1 < fld (mPl m) 0 1) stInvalid (fun _ _ _ => []) (fun s _ _ => s.toBlock)) ∧
  (Message .zeroiseVolatile 0x0503 (fun _ _ m => fld (mPl m) 1 1 ≠ 1 ∧ 1 < fld (mPl m) 0 1) stInvalid (fun _ _ _ => []) (fun s _ _ => s.toBlock)) ∧
  (∀ page s m, s.Turn page 0x0503 m → fld (mPl m) 0 2 = 0 → s.sec.state = 1 → (∀ p < 4, (s.part p).state = 0) →
    Answers (.zeroiseVolatile page) s (fun t => s.Zeroised t ∧ (t.mbox page).busy.isSome = true ∧ t.sec.zero = some ⟨0, mTag m⟩ ∧
      t.sec.unlocked = s.sec.unlocked ∧ t.sec.decommissioned = s.sec.decommissioned)) ∧
  (∀ page s m token sig, s.Turn page 0x0503 m → fld (mPl m) 0 1 = 1 → fld (mPl m) 1 1 = 0 → s.TokenRead page m token sig →
    s.sec.state = 1 → (∀ p < 4, (s.part p).state = 0) →
    Answers (.zeroiseDecommission page) s (fun t => s.ActsOnToken t page m (s.tokenReason token sig 2)
      ((t.mbox page).busy.isSome = true ∧ t.sec.zero = some ⟨1, mTag m⟩))) ∧
  (∀ page s m token sig, s.Turn page 0x0504 m → fld (mPl m) 1 1 = 0 → s.TokenRead page m token sig → s.sec.state = 1 →
    (∀ p < 4, (s.part p).state = 0) →
    Answers (.debugUnlock page) s (fun t => s.ActsOnToken t page m (s.tokenReason token sig 1)
      (t.sec.unlocked = true ∧ t.sec.unlocks = min 255 (s.sec.unlocks + 1))))
  )

/-- R490, R510, R512, R517, R518: at 40 V the module starts at step 1; without input it is OFF and keeps only what flash,
Firn, host memory and the fuses hold; a lockout, the e-fuse, a fault of a rail that is up or rises, and a thermal trip put it
in PROTECTED_OFF, where only the two rails of the Rim controller may stay up; a transient is logged.
R260, R464: a PMIC fault is latched and resets its serving partition; a partition whose channel has trained, and that is under
reset or still starting, ends by it. -/
def Obligations.PowerEventsMoveTheInputState : Prop :=
  (∀ mv s, s.power.state = 0 → 40000 ≤ mv → Answers (.inputApplied mv) s (fun t => t.Restarted ∧ t.power.inputMv = mv ∧
    t.rim.boot = (s.rim.boot + 1) % 65536 ∧ t.rim.why = 1 ∧ t.hostMem = s.hostMem ∧ t.firn.mem = s.firn.mem)) ∧
  (∀ s, s.power.state ≠ 0 → Answers .inputLost s (fun t => s.PoweredOff t ∧ t.sec = s.sec.cold)) ∧
  (∀ s, s.power.state ≠ 0 → s.power.state ≠ 4 → Answers .undervoltageLockout s (fun t => t.Protected)) ∧
  (∀ s, s.power.state ≠ 0 → s.power.state ≠ 4 → Answers .overvoltageLockout s (fun t => t.Protected)) ∧
  (∀ s, (s.power.state = 2 ∨ s.power.state = 3) → Answers (.eFuseTrip false) s (fun t => t.Protected) ∧
    Answers (.eFuseTrip true) s (fun t => s.PoweredOff t ∧ t.sec = s.sec.cold) ∧ Answers .thermalTrip s (fun t => t.Protected)) ∧
  (∀ rail kind r s, (SSet.has s.power.rails rail = true ∨ (s.power.state = 2 ∧ SSet.has s.railsUp rail = true)) → 1 ≤ kind → kind ≤ 3 →
    s.power.state ≠ 4 → Answers (.railFault rail kind r) s (fun t => t.Protected ∧ SSet.has t.power.rails rail = false)) ∧
  (∀ mv s, s.power.state ≠ 0 → 60000 < mv → mv ≤ 80000 → s.rim.logQ.length < 512 →
    Answers (.inputTransient mv) s (fun t => Traced s.toBlock t.toBlock ∧
      ∃ r, t.rim.logQ = s.rim.logQ ++ [r] ∧ r.code = 0x0844 ∧ r.arg = mv * 2 ^ 32)) ∧
  (∀ rail s, SSet.has s.power.rails rail = true → SSet.has s.power.sense rail = false →
    Answers (.senseOpen rail) s (fun t =>
      Traced { s.toBlock with power := { s.power with sense := SSet.insert s.power.sense rail } } t.toBlock)) ∧
  (∀ ch st s, ch < 24 → s.power.state = 3 → SSet.has s.power.pmic ch = false →
    (s.getisUp = true → (s.part (ch / 6)).state = 0 →
      Answers (.pmicFault ch st) s (fun t => SSet.has t.power.pmic ch = true ∧ s.ResetBegun t (ch / 6) 4)) ∧
    (s.halted = false → (SMap.get ({} : Chan) s.dram.chans ch).trained = true →
      (s.part (ch / 6)).state = 1 ∨ ((s.part (ch / 6)).state = 0 ∧ s.power.ready = false) →
      Answers (.pmicFault ch st) s (fun t => SSet.has t.power.pmic ch = true ∧ 2 ≤ (t.part (ch / 6)).state ∧
        ∀ c < 64, (s.ctx c).part = ch / 6 → (t.ctx c).state = 0)) ∧
    (s.halted = true ∨ ((SMap.get ({} : Chan) s.dram.chans ch).trained = false ∧ (s.part (ch / 6)).state = 1) →
      Answers (.pmicFault ch st) s (fun t =>
        Traced { s.toBlock with power := { s.power with pmic := SSet.insert s.power.pmic ch } } t.toBlock)))

/-- R488, R498, R518, R519: each start-up step that ends begins the next, up to step 8, which makes the module ready; a failed
self-test and a hub that does not start halt it, an image that does not verify puts the Rim controller in RECOVERY, rails that
do not rise end in PROTECTED_OFF, and a partition whose channels or front end fail is disabled or retired.
R218, R224, R257: in step 5 every partition that serves holds a new key pair; in step 6 models are as the directories in force
say, those with placed tensors INCOMPLETE, those being installed gone, and one at least FAILED where the check fails.
R260, R464: a channel that trains is ready; at start-up the first failure is tried again and the second disables the partition;
in a reset a failure ends it. -/
def Obligations.StartUpRunsItsSteps : Prop :=
  (
  (∀ s, s.power.step = 1 → Answers (.powerUpStep true) s (fun t =>
      t.power = { s.power with step := 2 } ∧ t.sec = { s.sec with state := 1 } ∧ t.rim.address = 0x60 + s.rim.strap % 8 ∧
        Leaves (fun b => { b with power := {}, sec := {}, rim := { b.rim with address := 0 } }) s.toBlock t.toBlock) ∧
    Answers (.powerUpStep false) s (fun t => t.power.step = 0 ∧ t.sec.state = 2 ∧ t.halted = true ∧ t.rim.state = 3 ∧ t.power.ready = false)) ∧
  (∀ s, s.power.step = 2 → (s.rim.imageValid = true →
      Answers (.powerUpStep true) s (fun t => t.power = { s.power with state := 2, step := 3 } ∧ t.rim.running = s.rim.image ∧
        t.rim.state = s.rim.state)) ∧
    Answers (.powerUpStep false) s (fun t => t.power = { s.power with step := 0 } ∧ t.rim.state = 1)) ∧
  (∀ s, s.power.step = 3 → Answers (.powerUpStep true) s (fun t => t.power.step = 4 ∧ t.power.state = 3 ∧
      (∀ r, SSet.has t.power.rails r = true ↔ r < 28 ∧ (16 ≤ r ∨ SSet.has s.rim.retired (r % 4) = false)) ∧
      Leaves (fun b => { b with power := {} }) s.toBlock t.toBlock) ∧
    Answers (.powerUpStep false) s (fun t => t.Protected)) ∧
  (∀ s, s.power.step = 4 → Answers (.powerUpStep true) s (fun t => t.power = { s.power with step := 5 } ∧ t.time = {} ∧
      t.treleb = { s.treleb with state := 1 } ∧ ∀ p < 18, t.port p = { state := 1 }) ∧
    Answers (.powerUpStep false) s (fun t => t.halted = true ∧ t.rim.state = 3 ∧ t.power.step = 0)) ∧
  (∀ ok s, s.power.step = 5 → Answers (.powerUpStep ok) s (fun t => t.power.step = 6 ∧
    ∀ p < 4, (s.part p).state = 0 →
      if s.allTrained p = true then (t.part p).state = 0 ∧ ∃ n, s.freeCtr ≤ n ∧ t.Keyed p n else 2 ≤ (t.part p).state)) ∧
  (∀ s, s.power.step = 6 → let d := s.firn.inForce
    Answers (.powerUpStep true) s (fun t => t.power.step = 7 ∧ t.cores = s.cores ∧ t.ctxs = s.ctxs ∧
      ∀ i x, SMap.get ({} : Model) d.models i = x →
        (x.state = 3 → (t.model i).state = if (x.placed 1).isEmpty ∧ (x.placed 2).isEmpty then 3 else 4) ∧
        (x.state = 4 ∨ x.state = 5 → (t.model i).state = x.state) ∧ (x.state = 1 ∨ x.state = 2 → (t.model i).state = 0)) ∧
    Answers (.powerUpStep false) s (fun t => t.power.step = 7 ∧ t.cores = s.cores ∧ t.ctxs = s.ctxs ∧
      (SMap.wf ({} : Model) d.models = true → d.checked ≠ [] → ∃ i ∈ d.checked, (t.model i).state = 5))) ∧
  (∀ s, s.power.step = 7 →
    Answers (.powerUpStep true) s (fun t => Traced { s.toBlock with power := { s.power with step := 8 } } t.toBlock) ∧
    Answers (.powerUpStep false) s (fun t => t.power.step = 8 ∧
      ((∃ p < 4, (s.part p).state = 0) → ∃ p < 4, (s.part p).state = 0 ∧ 2 ≤ (t.part p).state))) ∧
  (∀ s, s.power.step = 8 → Answers (.powerUpStep true) s (fun t => t.power = { s.power with step := 0, ready := true } ∧ t.rim.state = 2 ∧
      (∀ p < 4, (s.part p).state = 0 → t.part p = { s.part p with beatAt := s.time.keeper })) ∧
    Answers (.powerUpStep false) s (fun t => t.toBlock = s.toBlock))
  ) ∧
  (
  (∀ ch s, ch < 24 → s.power.state = 3 → s.halted = false → (SMap.get ({} : Chan) s.dram.chans ch).trained = false →
    SSet.has s.power.pmic ch = false →
    ((s.power.step = 5 ∧ (s.part (ch / 6)).state = 0) ∨ ((s.part (ch / 6)).state = 1 ∧ (s.part (ch / 6)).resetStep = 2)) →
    Answers (.trainDone ch true) s (fun t => (SMap.get ({} : Chan) t.dram.chans ch).trained = true ∧ t.cores = s.cores ∧ t.ctxs = s.ctxs ∧
      ∀ p, { t.part p with newKeys := false } = { s.part p with newKeys := false })) ∧
  (∀ ch ok s, ch < 24 → s.power.state = 3 → s.halted = false → (SMap.get ({} : Chan) s.dram.chans ch).trained = false →
    (ok = false ∨ SSet.has s.power.pmic ch = true) →
    (s.power.step = 5 → (s.part (ch / 6)).state = 0 → (SMap.get ({} : Chan) s.dram.chans ch).retried = false →
      Answers (.trainDone ch ok) s (fun t => (SMap.get ({} : Chan) t.dram.chans ch).retried = true ∧
        (SMap.get ({} : Chan) t.dram.chans ch).trained = false ∧ t.parts = s.parts ∧ t.cores = s.cores ∧ t.ctxs = s.ctxs)) ∧
    (s.power.step = 5 → (s.part (ch / 6)).state = 0 → (SMap.get ({} : Chan) s.dram.chans ch).retried = true →
      Answers (.trainDone ch ok) s (fun t => 2 ≤ (t.part (ch / 6)).state ∧ ∀ p, p ≠ ch / 6 → (t.part p).state = (s.part p).state)) ∧
    ((s.part (ch / 6)).state = 1 → (s.part (ch / 6)).resetStep = 2 →
      Answers (.trainDone ch ok) s (fun t => 2 ≤ (t.part (ch / 6)).state ∧ ∀ p, p ≠ ch / 6 → (t.part p).state = (s.part p).state)))
  )

/-- R5: a context is not created at a level other than 2: the request is answered INVALID_OPERATION, and nothing but its mailbox
and trace changes. -/
def Obligations.OtherLevelsAreRefused : Prop :=
  Message .ctxCreate 0x0101 (fun _ _ m => fld (mPl m) 0 1 ≠ 2) stInvalid (fun _ _ _ => [1#8]) (fun s _ _ => s.toBlock)

/-- R411: a packet for a direction without an UP port is counted in the lowest port of that direction, in a counter that
saturates; no port takes it and no core or context changes. So it is for a WRITE that another module sends through this one. -/
def Obligations.UnroutablePacketsAreCounted : Prop :=
  (∀ (b : Block) (o : Out) dir, b.weave.domain.route b.self o.dst = some dir → (∀ p ∈ b.weave.domain.dirPorts dir, (b.port p).state ≠ 2) →
    Traced (b.modPort (3 * dir) (fun t => { t with unroutable := satInc t.unroutable })) (b.sendOut o)) ∧
  (∀ h group (data : List Byte) s dir, (s.port h.port).state = 2 → s.halted = false → h.crcOk = true → h.lseq = (s.port h.port).rxSeq →
    s.weave.domain.idValid = true → h.dst ≠ s.self → s.weave.domain.route s.self h.dst = some dir →
    (∀ p ∈ s.weave.domain.dirPorts dir, (s.port p).state ≠ 2) →
    Answers (.write h group data) s (fun t => (t.port (3 * dir)).unroutable = satInc (s.port (3 * dir)).unroutable ∧ t.cores = s.cores ∧
      t.ctxs = s.ctxs ∧ t.parts = s.parts ∧ ∀ p, p ≠ h.port → (t.port p).buf = (s.port p).buf))

/-- R459: a watchdog's reset is not counted toward retirement. -/
def Obligations.WatchdogResetsAreNotCounted : Prop :=
  ∀ part engine s, part ≤ 3 → (s.part part).state = 0 → s.getisUp = true → s.timers part engine ≠ [] →
    Answers (.watchdog part engine) s (fun t => (t.part part).state = 1 ∧ (t.part part).counted = (s.part part).counted ∧
      t.rim.retired = s.rim.retired)

/-- R520: MOD_READY falls at the entry to PROTECTED_OFF, at a hub halt and at the start of MODULE_RESET, and it stays
through partition resets and clamps. -/
def Obligations.ModReadyFalls : Prop :=
  (∀ s, s.power.state ≠ 0 → s.power.state ≠ 4 → Answers .undervoltageLockout s (fun t => t.power.ready = false) ∧
    Answers .overvoltageLockout s (fun t => t.power.ready = false)) ∧
  (∀ s, (s.power.state = 2 ∨ s.power.state = 3) → Answers .thermalTrip s (fun t => t.power.ready = false) ∧
    ∀ c, Answers (.eFuseTrip c) s (fun t => t.power.ready = false)) ∧
  (∀ rail kind r s, (SSet.has s.power.rails rail = true ∨ (s.power.state = 2 ∧ SSet.has s.railsUp rail = true)) → 1 ≤ kind → kind ≤ 3 →
    s.power.state ≠ 4 → Answers (.railFault rail kind r) s (fun t => t.power.ready = false)) ∧
  (∀ cause s, s.power.state = 3 → s.halted = false → Answers (.hubFault cause) s (fun t => t.power.ready = false)) ∧
  (∀ test s, s.sec.state = 1 → s.halted = false → Answers (.entropyHealthFail test) s (fun t => t.power.ready = false) ∧
    Answers (.drbgReseed false) s (fun t => t.power.ready = false)) ∧
  (∀ force s, s.rimServes = true → (∀ u ∈ s.rim.update, u.stage < 3) → (s.rim.imageValid = true ∨ force = true) →
    Answers (.moduleReset force) s (fun t => t.power.ready = false)) ∧
  (∀ i s, (∃ p, i = .partitionReset p ∨ i = .controlUncorrectable p ∨ i = .heartbeatLost p ∨ i = .tileResetRelease p ∨
      i = .partitionResetEnd p ∨ i = .resetFailed p ∨ (∃ e, i = .watchdog p e) ∨ (∃ l, i = .clamp p l ∨ i = .clampRelease p l)) →
    Answers i s (fun t => t.power.ready = s.power.ready))

/-- R523: right after reset the module has no input power: it is OFF, not ready, its links are down, it is in no domain,
and nothing waits; its memories have the canonical form and its states are ones the manual names. -/
def Obligations.ResetIsColdAndUnpowered : Prop :=
  (let s := State.reset
   s.power.state = 0 ∧ s.power.ready = false ∧ s.power.rails = [] ∧ s.treleb.state = 0 ∧ s.rim.state = 0 ∧ s.sec.state = 0 ∧
     s.weave.domain.state = 0 ∧ s.time.state = 0 ∧ s.time.keeper = 0 ∧ s.ctxs = [] ∧ s.pending = [] ∧ s.halted = false) ∧
  State.reset.toBlock.Canon ∧ State.reset.toBlock.Legal

/-- Every step keeps the canonical form of the DRAM tier, of Firn and of host memory: rising keys, no byte listed that an
unlisted address reads as. -/
def Obligations.StepsKeepMemoriesCanonical : Prop :=
  ∀ s t : State, s.toBlock.Canon → step s = .next t → t.toBlock.Canon

/-- Every step keeps the states of time, link, power, Rim controller, security island and domain among those the manual
names, and the time keeper within its 64 bits. -/
def Obligations.StepsKeepStatesLegal : Prop :=
  ∀ s t : State, s.toBlock.Legal → step s = .next t → t.toBlock.Legal
end

