-- ==== Sys2Proof/Laws/Data.lean ====
section
/-!
SUPPORT. Lengths of the byte strings the model builds, and what an access to host memory answers.
-/
namespace Sys2Proof

@[simp] theorem natLe_length (n v : Nat) : (natLe n v).length = n := by
  induction n generalizing v with
  | zero => rfl
  | succ n ih => simp [natLe, ih]

@[simp] theorem padTo_length {α : Type} (d : α) (n : Nat) (l : List α) : (padTo d n l).length = n := by
  induction n generalizing l with
  | zero => rfl
  | succ n ih => cases l <;> simp [padTo, ih]

theorem shaBlocks_length_le (n : Nat) (bs : List Byte) (st : List W32) : (shaBlocks n bs st).length ≤ st.length := by
  induction n generalizing bs st with
  | zero => exact Nat.le_refl _
  | succ n ih => exact Nat.le_trans (ih ..) (by simp)

theorem sha256_length_le (m : List Byte) : (sha256 m).length ≤ 32 := by
  have h := shaBlocks_length_le ((m ++ [0x80#8] ++ List.replicate ((119 - m.length % 64) % 64) 0#8 ++
    (natLe 8 (8 * m.length)).reverse).length / 64) (m ++ [0x80#8] ++ List.replicate ((119 - m.length % 64) % 64) 0#8 ++
    (natLe 8 (8 * m.length)).reverse) shaH0
  simp only [sha256, List.length_flatMap, List.length_reverse, natLe_length, List.map_const', List.sum_replicate, smul_eq_mul]
  exact Nat.mul_le_mul_right 4 h

namespace Machine

/-- Host memory with no hole answers everywhere. -/
theorem Block.hostAnswers_whole (b : Block) (a n : Nat) (h : b.hostAbsent = []) : b.hostAnswers a n = true := by
  simp [Block.hostAnswers, h]

/-- A write to host memory lands where the link carries it and host memory answers. -/
theorem Block.hostPut_ok (b : Block) (a : Nat) (l : List Byte) (h : b.hostUp = true) (ha : b.hostAnswers a l.length = true) :
    b.hostPut a l = (b.hostWrite a l [], true) := by
  simp [Block.hostPut, h, ha]

/-- A read of host memory gives its bytes where the link carries it, host memory answers and nothing there is poisoned. -/
theorem Block.hostGet_ok (b : Block) (a n : Nat) (h : b.hostUp = true) (ha : b.hostAnswers a n = true)
    (hp : poisonedIn 16 b.hostPoison a n = []) : b.hostGet a n = some (Mem.bytes b.hostMem a n) := by
  simp [Block.hostGet, h, ha, hp]

/-- The operator's page writes a buffer in host memory. -/
theorem Block.bufWrite_operator (b : Block) (page a : Nat) (l : List Byte) (hp : 64 ≤ page) (h : b.hostUp = true)
    (ha : b.hostAnswers a l.length = true) (hn : a + l.length < 2 ^ 48) : b.bufWrite page a l = (b.hostWrite a l [], true) := by
  rw [Block.bufWrite, if_neg (by omega), if_neg (by omega), b.hostPut_ok a l h ha]

/-- The operator's page reads a buffer in host memory. -/
theorem Block.bufRead_operator (b : Block) (page a n : Nat) (hp : 64 ≤ page) (h : b.hostUp = true)
    (ha : b.hostAnswers a n = true) (hn : a + n < 2 ^ 48) (hz : poisonedIn 16 b.hostPoison a n = []) :
    b.bufRead page a n = some (Mem.bytes b.hostMem a n) := by
  rw [Block.bufRead, if_neg (by omega), if_neg (by omega), b.hostGet_ok a n h ha hz]

end Machine
end Sys2Proof
end

