-- ==== Sys2Proof/Laws/Map.lean ====
section
/-!
SUPPORT. Laws of the sparse stores: a read after a write, what a write leaves alone, and that every operation on a byte
store keeps its canonical form.
-/
namespace Sys2Proof

/-- A record just put is read back. -/
theorem SMap.get_put_same {α : Type} (d : α) (m : SMap α) (k : Nat) (v : α) : SMap.get d (SMap.put m k v) k = v := by
  induction m with
  | nil => simp [SMap.put, SMap.get]
  | cons p t ih =>
    obtain ⟨j, w⟩ := p
    simp only [SMap.put]
    split
    · simp [SMap.get]
    · split
      · simp [SMap.get]
      · next h => simp [SMap.get, h, ih]

/-- A put leaves every other key alone. -/
theorem SMap.get_put_other {α : Type} (d : α) (m : SMap α) (k : Nat) (v : α) (i : Nat) (h : i ≠ k) :
    SMap.get d (SMap.put m k v) i = SMap.get d m i := by
  induction m with
  | nil => simp [SMap.put, SMap.get, h]
  | cons p t ih =>
    obtain ⟨j, w⟩ := p
    simp only [SMap.put]
    split
    · simp [SMap.get, h]
    · split
      · next hk => subst hk; simp [SMap.get, h]
      · simp [SMap.get, ih]

/-- A set leaves every other key alone, in any list. -/
theorem SMap.get_set_other {α : Type} [DecidableEq α] (d : α) (m : SMap α) (k : Nat) (v : α) (i : Nat) (h : i ≠ k) :
    SMap.get d (SMap.set d m k v) i = SMap.get d m i := by
  induction m with
  | nil => simp only [SMap.set]; split <;> simp [SMap.get, h]
  | cons p t ih =>
    obtain ⟨j, w⟩ := p
    simp only [SMap.set]
    split
    · split <;> simp [SMap.get, h]
    · split
      · next hk => subst hk; split <;> simp [SMap.get, h]
      · simp [SMap.get, ih]

/-- Every listed key of a canonical table lies above its bound. -/
theorem SMap.get_below {α : Type} [DecidableEq α] (d : α) (m : SMap α) (l k : Nat) (h : SMap.wfFrom d (some l) m = true)
    (hk : k ≤ l) : SMap.get d m k = d := by
  induction m generalizing l with
  | nil => rfl
  | cons p t ih =>
    obtain ⟨j, w⟩ := p
    simp only [SMap.wfFrom, Bool.and_eq_true, decide_eq_true_eq] at h
    have : k ≠ j := by omega
    simp only [SMap.get, this, if_false]
    exact ih j h.2 (by omega)

theorem SMap.wfFrom_none {α : Type} [DecidableEq α] (d : α) (m : SMap α) (l : Option Nat) (h : SMap.wfFrom d l m = true) :
    SMap.wf d m = true := by
  cases m with
  | nil => rfl
  | cons p t =>
    obtain ⟨j, w⟩ := p
    simp only [SMap.wf, SMap.wfFrom, Bool.and_eq_true] at h ⊢
    exact ⟨⟨trivial, h.1.2⟩, h.2⟩

/-- A read after a write to a canonical table gives the value written. -/
theorem SMap.get_set_same {α : Type} [DecidableEq α] (d : α) (m : SMap α) (k : Nat) (v : α) (h : SMap.wf d m = true) :
    SMap.get d (SMap.set d m k v) k = v := by
  induction m with
  | nil => simp only [SMap.set]; split <;> simp_all [SMap.get]
  | cons p t ih =>
    obtain ⟨j, w⟩ := p
    have ht : SMap.wfFrom d (some j) t = true := by
      simp only [SMap.wf, SMap.wfFrom, Bool.and_eq_true] at h; exact h.2
    simp only [SMap.set]
    split
    · next hkj =>
      split
      · next hv =>
        have : k ≠ j := by omega
        simp only [SMap.get, this, if_false]
        rw [SMap.get_below d t j k ht (by omega), hv]
      · simp [SMap.get]
    · next hkj =>
      split
      · next hk =>
        subst hk
        split
        · next hv => rw [SMap.get_below d t k k ht (Nat.le_refl _), hv]
        · simp [SMap.get]
      · next hk => simp only [SMap.get, hk, if_false]; exact ih (SMap.wfFrom_none d t _ ht)

/-- A set keeps a table canonical above any bound below its key. -/
theorem SMap.wfFrom_set {α : Type} [DecidableEq α] (d : α) (m : SMap α) (lo : Option Nat) (k : Nat) (v : α)
    (h : SMap.wfFrom d lo m = true) (hk : ∀ l, lo = some l → l < k) : SMap.wfFrom d lo (SMap.set d m k v) = true := by
  induction m generalizing lo with
  | nil =>
    simp only [SMap.set]
    split
    · rfl
    · next hv => cases lo with
      | none => simp [SMap.wfFrom, hv]
      | some l => simp [SMap.wfFrom, hv, hk l rfl]
  | cons p t ih =>
    obtain ⟨j, w⟩ := p
    have h' := h
    simp only [SMap.wfFrom, Bool.and_eq_true] at h'
    obtain ⟨⟨h1, h2⟩, h3⟩ := h'
    simp only [SMap.set]
    split
    · next hkj =>
      split
      · exact h
      · next hv => cases lo with
        | none => simp [SMap.wfFrom, hv, hkj, h3]; simpa using h2
        | some l => simp [SMap.wfFrom, hv, hkj, hk l rfl, h3]; simpa using h2
    · next hkj =>
      split
      · next he =>
        subst he
        split
        · cases t with
          | nil => rfl
          | cons q t =>
            obtain ⟨i, x⟩ := q
            simp only [SMap.wfFrom, Bool.and_eq_true, decide_eq_true_eq] at h3 ⊢
            cases lo with
            | none => exact ⟨⟨rfl, h3.1.2⟩, h3.2⟩
            | some l =>
              have := hk l rfl
              exact ⟨⟨decide_eq_true (by omega), h3.1.2⟩, h3.2⟩
        · next hv => cases lo with
          | none => simp [SMap.wfFrom, hv, h3]
          | some l => simp [SMap.wfFrom, hv, h3, hk l rfl]
      · next he =>
        simp only [SMap.wfFrom, Bool.and_eq_true]
        exact ⟨⟨h1, h2⟩, ih (some j) h3 (by intro l hl; cases hl; omega)⟩

theorem SMap.wf_set {α : Type} [DecidableEq α] (d : α) (m : SMap α) (k : Nat) (v : α) (h : SMap.wf d m = true) :
    SMap.wf d (SMap.set d m k v) = true := SMap.wfFrom_set d m none k v h (by simp)

theorem SMap.wfFrom_weaken {α : Type} [DecidableEq α] (d : α) (m : SMap α) (lo : Option Nat) (l : Nat)
    (h : SMap.wfFrom d (some l) m = true) (hl : ∀ x, lo = some x → x ≤ l) : SMap.wfFrom d lo m = true := by
  cases m with
  | nil => rfl
  | cons p t =>
    obtain ⟨j, w⟩ := p
    simp only [SMap.wfFrom, Bool.and_eq_true, decide_eq_true_eq] at h ⊢
    cases lo with
    | none => exact ⟨⟨rfl, h.1.2⟩, h.2⟩
    | some x =>
      have := hl x rfl
      exact ⟨⟨decide_eq_true (by omega), h.1.2⟩, h.2⟩

theorem SMap.wfFrom_keep {α : Type} [DecidableEq α] (d : α) (m : SMap α) (lo : Option Nat) (p : Nat → Bool)
    (h : SMap.wfFrom d lo m = true) : SMap.wfFrom d lo (SMap.keep m p) = true := by
  induction m generalizing lo with
  | nil => rfl
  | cons q t ih =>
    obtain ⟨j, w⟩ := q
    have h' := h
    simp only [SMap.wfFrom, Bool.and_eq_true] at h'
    have ih' := ih (some j) h'.2
    cases hp : p j with
    | true =>
      simp only [SMap.keep, List.filter_cons, hp, if_true, SMap.wfFrom, Bool.and_eq_true] at ih' ⊢
      exact ⟨h'.1, ih'⟩
    | false =>
      simp only [SMap.keep, List.filter_cons, hp] at ih' ⊢
      refine SMap.wfFrom_weaken d _ lo j ih' ?_
      intro x hx
      subst hx
      have := h'.1.1
      simp only [decide_eq_true_eq] at this
      omega

/-- A byte write leaves every byte outside its range alone. -/
theorem Mem.byte_write_out (m : Mem) (a : Nat) (l : List Byte) (i : Nat) (h : i < a ∨ a + l.length ≤ i) :
    Mem.byte (Mem.write m a l) i = Mem.byte m i := by
  induction l generalizing m a with
  | nil => rfl
  | cons x t ih =>
    simp only [List.length_cons] at h
    simp only [Mem.write]
    rw [ih _ _ (by omega)]
    exact SMap.get_set_other _ _ _ _ _ (by omega)

/-- Writing bytes keeps the canonical form. -/
theorem Mem.wf_write (m : Mem) (a : Nat) (l : List Byte) (h : Mem.wf m = true) : Mem.wf (Mem.write m a l) = true := by
  induction l generalizing m a with
  | nil => exact h
  | cons x t ih => exact ih _ _ (SMap.wf_set _ _ _ _ h)

/-- Clearing a range keeps the canonical form. -/
theorem Mem.wf_clear (m : Mem) (a n : Nat) (h : Mem.wf m = true) : Mem.wf (Mem.clear m a n) = true :=
  SMap.wfFrom_keep _ _ _ _ h

/-- A byte written is read back. -/
theorem Mem.byte_write_in (m : Mem) (a : Nat) (l : List Byte) (i : Nat) (h : Mem.wf m = true) (hi : i < l.length) :
    Mem.byte (Mem.write m a l) (a + i) = l[i] := by
  induction l generalizing m a i with
  | nil => simp at hi
  | cons x t ih =>
    simp only [Mem.write]
    cases i with
    | zero =>
      rw [Mem.byte_write_out _ _ _ _ (by omega)]
      exact SMap.get_set_same _ _ _ _ h
    | succ i =>
      have := ih (SMap.set 0#8 m a x) (a + 1) i (SMap.wf_set _ _ _ _ h) (by simpa using hi)
      simpa [Nat.add_assoc, Nat.add_comm 1 i] using this

end Sys2Proof
end

