-- ==== Sys2Proof/Laws/State.lean ====
section
/-!
SUPPORT. What each update of the state changes: a lemma for each field of the block under each setter, and for each field
of a core under its own setters.
-/
namespace Sys2Proof.Machine

variable (b : Block) (k : Core) (s : State) (n : Nat)

@[simp] theorem Block.time_setCore (x : Core) : (b.setCore n x).time = b.time := rfl
@[simp] theorem Block.islands_setCore (x : Core) : (b.setCore n x).islands = b.islands := rfl
@[simp] theorem Block.rings_setCore (x : Core) : (b.setCore n x).rings = b.rings := rfl
@[simp] theorem Block.parts_setCore (x : Core) : (b.setCore n x).parts = b.parts := rfl
@[simp] theorem Block.ctxs_setCore (x : Core) : (b.setCore n x).ctxs = b.ctxs := rfl
@[simp] theorem Block.mboxes_setCore (x : Core) : (b.setCore n x).mboxes = b.mboxes := rfl
@[simp] theorem Block.aborts_setCore (x : Core) : (b.setCore n x).aborts = b.aborts := rfl
@[simp] theorem Block.abortId_setCore (x : Core) : (b.setCore n x).abortId = b.abortId := rfl
@[simp] theorem Block.kidCtr_setCore (x : Core) : (b.setCore n x).kidCtr = b.kidCtr := rfl
@[simp] theorem Block.faults_setCore (x : Core) : (b.setCore n x).faults = b.faults := rfl
@[simp] theorem Block.invals_setCore (x : Core) : (b.setCore n x).invals = b.invals := rfl
@[simp] theorem Block.dram_setCore (x : Core) : (b.setCore n x).dram = b.dram := rfl
@[simp] theorem Block.firn_setCore (x : Core) : (b.setCore n x).firn = b.firn := rfl
@[simp] theorem Block.weave_setCore (x : Core) : (b.setCore n x).weave = b.weave := rfl
@[simp] theorem Block.treleb_setCore (x : Core) : (b.setCore n x).treleb = b.treleb := rfl
@[simp] theorem Block.rim_setCore (x : Core) : (b.setCore n x).rim = b.rim := rfl
@[simp] theorem Block.sec_setCore (x : Core) : (b.setCore n x).sec = b.sec := rfl
@[simp] theorem Block.power_setCore (x : Core) : (b.setCore n x).power = b.power := rfl
@[simp] theorem Block.hostMem_setCore (x : Core) : (b.setCore n x).hostMem = b.hostMem := rfl
@[simp] theorem Block.hostAbsent_setCore (x : Core) : (b.setCore n x).hostAbsent = b.hostAbsent := rfl
@[simp] theorem Block.hostPoison_setCore (x : Core) : (b.setCore n x).hostPoison = b.hostPoison := rfl
@[simp] theorem Block.halted_setCore (x : Core) : (b.setCore n x).halted = b.halted := rfl
@[simp] theorem Block.freeCtr_setCore (x : Core) : (b.setCore n x).freeCtr = b.freeCtr := rfl
@[simp] theorem Block.part_setCore (x : Core) (j : Nat) : (b.setCore n x).part j = b.part j := rfl
@[simp] theorem Block.ctx_setCore (x : Core) (j : Nat) : (b.setCore n x).ctx j = b.ctx j := rfl
@[simp] theorem Block.mbox_setCore (x : Core) (j : Nat) : (b.setCore n x).mbox j = b.mbox j := rfl
@[simp] theorem Block.port_setCore (x : Core) (j : Nat) : (b.setCore n x).port j = b.port j := rfl
@[simp] theorem Block.island_setCore (x : Core) (j : Nat) : (b.setCore n x).island j = b.island j := rfl
@[simp] theorem Block.ring_setCore (x : Core) (j : Nat) : (b.setCore n x).ring j = b.ring j := rfl
@[simp] theorem Block.core_setCore_same (x : Core) : (b.setCore n x).core n = x := SMap.get_put_same ..
theorem Block.core_setCore_other (x : Core) (j : Nat) (h : j ≠ n) : (b.setCore n x).core j = b.core j := SMap.get_put_other _ _ _ _ _ h
@[simp] theorem Block.modCore_eq (f : Core → Core) : b.modCore n f = b.setCore n (f (b.core n)) := rfl

@[simp] theorem Block.time_setPart (x : Part) : (b.setPart n x).time = b.time := rfl
@[simp] theorem Block.islands_setPart (x : Part) : (b.setPart n x).islands = b.islands := rfl
@[simp] theorem Block.rings_setPart (x : Part) : (b.setPart n x).rings = b.rings := rfl
@[simp] theorem Block.cores_setPart (x : Part) : (b.setPart n x).cores = b.cores := rfl
@[simp] theorem Block.ctxs_setPart (x : Part) : (b.setPart n x).ctxs = b.ctxs := rfl
@[simp] theorem Block.mboxes_setPart (x : Part) : (b.setPart n x).mboxes = b.mboxes := rfl
@[simp] theorem Block.aborts_setPart (x : Part) : (b.setPart n x).aborts = b.aborts := rfl
@[simp] theorem Block.abortId_setPart (x : Part) : (b.setPart n x).abortId = b.abortId := rfl
@[simp] theorem Block.kidCtr_setPart (x : Part) : (b.setPart n x).kidCtr = b.kidCtr := rfl
@[simp] theorem Block.faults_setPart (x : Part) : (b.setPart n x).faults = b.faults := rfl
@[simp] theorem Block.invals_setPart (x : Part) : (b.setPart n x).invals = b.invals := rfl
@[simp] theorem Block.dram_setPart (x : Part) : (b.setPart n x).dram = b.dram := rfl
@[simp] theorem Block.firn_setPart (x : Part) : (b.setPart n x).firn = b.firn := rfl
@[simp] theorem Block.weave_setPart (x : Part) : (b.setPart n x).weave = b.weave := rfl
@[simp] theorem Block.treleb_setPart (x : Part) : (b.setPart n x).treleb = b.treleb := rfl
@[simp] theorem Block.rim_setPart (x : Part) : (b.setPart n x).rim = b.rim := rfl
@[simp] theorem Block.sec_setPart (x : Part) : (b.setPart n x).sec = b.sec := rfl
@[simp] theorem Block.power_setPart (x : Part) : (b.setPart n x).power = b.power := rfl
@[simp] theorem Block.hostMem_setPart (x : Part) : (b.setPart n x).hostMem = b.hostMem := rfl
@[simp] theorem Block.hostAbsent_setPart (x : Part) : (b.setPart n x).hostAbsent = b.hostAbsent := rfl
@[simp] theorem Block.hostPoison_setPart (x : Part) : (b.setPart n x).hostPoison = b.hostPoison := rfl
@[simp] theorem Block.halted_setPart (x : Part) : (b.setPart n x).halted = b.halted := rfl
@[simp] theorem Block.freeCtr_setPart (x : Part) : (b.setPart n x).freeCtr = b.freeCtr := rfl
@[simp] theorem Block.core_setPart (x : Part) (j : Nat) : (b.setPart n x).core j = b.core j := rfl
@[simp] theorem Block.ctx_setPart (x : Part) (j : Nat) : (b.setPart n x).ctx j = b.ctx j := rfl
@[simp] theorem Block.mbox_setPart (x : Part) (j : Nat) : (b.setPart n x).mbox j = b.mbox j := rfl
@[simp] theorem Block.port_setPart (x : Part) (j : Nat) : (b.setPart n x).port j = b.port j := rfl
@[simp] theorem Block.island_setPart (x : Part) (j : Nat) : (b.setPart n x).island j = b.island j := rfl
@[simp] theorem Block.ring_setPart (x : Part) (j : Nat) : (b.setPart n x).ring j = b.ring j := rfl
@[simp] theorem Block.part_setPart_same (x : Part) : (b.setPart n x).part n = x := SMap.get_put_same ..
theorem Block.part_setPart_other (x : Part) (j : Nat) (h : j ≠ n) : (b.setPart n x).part j = b.part j := SMap.get_put_other _ _ _ _ _ h
@[simp] theorem Block.modPart_eq (f : Part → Part) : b.modPart n f = b.setPart n (f (b.part n)) := rfl

@[simp] theorem Block.time_setCtx (x : Ctx) : (b.setCtx n x).time = b.time := rfl
@[simp] theorem Block.islands_setCtx (x : Ctx) : (b.setCtx n x).islands = b.islands := rfl
@[simp] theorem Block.rings_setCtx (x : Ctx) : (b.setCtx n x).rings = b.rings := rfl
@[simp] theorem Block.cores_setCtx (x : Ctx) : (b.setCtx n x).cores = b.cores := rfl
@[simp] theorem Block.parts_setCtx (x : Ctx) : (b.setCtx n x).parts = b.parts := rfl
@[simp] theorem Block.mboxes_setCtx (x : Ctx) : (b.setCtx n x).mboxes = b.mboxes := rfl
@[simp] theorem Block.aborts_setCtx (x : Ctx) : (b.setCtx n x).aborts = b.aborts := rfl
@[simp] theorem Block.abortId_setCtx (x : Ctx) : (b.setCtx n x).abortId = b.abortId := rfl
@[simp] theorem Block.kidCtr_setCtx (x : Ctx) : (b.setCtx n x).kidCtr = b.kidCtr := rfl
@[simp] theorem Block.faults_setCtx (x : Ctx) : (b.setCtx n x).faults = b.faults := rfl
@[simp] theorem Block.invals_setCtx (x : Ctx) : (b.setCtx n x).invals = b.invals := rfl
@[simp] theorem Block.dram_setCtx (x : Ctx) : (b.setCtx n x).dram = b.dram := rfl
@[simp] theorem Block.firn_setCtx (x : Ctx) : (b.setCtx n x).firn = b.firn := rfl
@[simp] theorem Block.weave_setCtx (x : Ctx) : (b.setCtx n x).weave = b.weave := rfl
@[simp] theorem Block.treleb_setCtx (x : Ctx) : (b.setCtx n x).treleb = b.treleb := rfl
@[simp] theorem Block.rim_setCtx (x : Ctx) : (b.setCtx n x).rim = b.rim := rfl
@[simp] theorem Block.sec_setCtx (x : Ctx) : (b.setCtx n x).sec = b.sec := rfl
@[simp] theorem Block.power_setCtx (x : Ctx) : (b.setCtx n x).power = b.power := rfl
@[simp] theorem Block.hostMem_setCtx (x : Ctx) : (b.setCtx n x).hostMem = b.hostMem := rfl
@[simp] theorem Block.hostAbsent_setCtx (x : Ctx) : (b.setCtx n x).hostAbsent = b.hostAbsent := rfl
@[simp] theorem Block.hostPoison_setCtx (x : Ctx) : (b.setCtx n x).hostPoison = b.hostPoison := rfl
@[simp] theorem Block.halted_setCtx (x : Ctx) : (b.setCtx n x).halted = b.halted := rfl
@[simp] theorem Block.freeCtr_setCtx (x : Ctx) : (b.setCtx n x).freeCtr = b.freeCtr := rfl
@[simp] theorem Block.core_setCtx (x : Ctx) (j : Nat) : (b.setCtx n x).core j = b.core j := rfl
@[simp] theorem Block.part_setCtx (x : Ctx) (j : Nat) : (b.setCtx n x).part j = b.part j := rfl
@[simp] theorem Block.mbox_setCtx (x : Ctx) (j : Nat) : (b.setCtx n x).mbox j = b.mbox j := rfl
@[simp] theorem Block.port_setCtx (x : Ctx) (j : Nat) : (b.setCtx n x).port j = b.port j := rfl
@[simp] theorem Block.island_setCtx (x : Ctx) (j : Nat) : (b.setCtx n x).island j = b.island j := rfl
@[simp] theorem Block.ring_setCtx (x : Ctx) (j : Nat) : (b.setCtx n x).ring j = b.ring j := rfl
@[simp] theorem Block.ctx_setCtx_same (x : Ctx) : (b.setCtx n x).ctx n = x := SMap.get_put_same ..
theorem Block.ctx_setCtx_other (x : Ctx) (j : Nat) (h : j ≠ n) : (b.setCtx n x).ctx j = b.ctx j := SMap.get_put_other _ _ _ _ _ h
@[simp] theorem Block.modCtx_eq (f : Ctx → Ctx) : b.modCtx n f = b.setCtx n (f (b.ctx n)) := rfl

@[simp] theorem Block.time_setMbox (x : Mbox) : (b.setMbox n x).time = b.time := rfl
@[simp] theorem Block.islands_setMbox (x : Mbox) : (b.setMbox n x).islands = b.islands := rfl
@[simp] theorem Block.rings_setMbox (x : Mbox) : (b.setMbox n x).rings = b.rings := rfl
@[simp] theorem Block.cores_setMbox (x : Mbox) : (b.setMbox n x).cores = b.cores := rfl
@[simp] theorem Block.parts_setMbox (x : Mbox) : (b.setMbox n x).parts = b.parts := rfl
@[simp] theorem Block.ctxs_setMbox (x : Mbox) : (b.setMbox n x).ctxs = b.ctxs := rfl
@[simp] theorem Block.aborts_setMbox (x : Mbox) : (b.setMbox n x).aborts = b.aborts := rfl
@[simp] theorem Block.abortId_setMbox (x : Mbox) : (b.setMbox n x).abortId = b.abortId := rfl
@[simp] theorem Block.kidCtr_setMbox (x : Mbox) : (b.setMbox n x).kidCtr = b.kidCtr := rfl
@[simp] theorem Block.faults_setMbox (x : Mbox) : (b.setMbox n x).faults = b.faults := rfl
@[simp] theorem Block.invals_setMbox (x : Mbox) : (b.setMbox n x).invals = b.invals := rfl
@[simp] theorem Block.dram_setMbox (x : Mbox) : (b.setMbox n x).dram = b.dram := rfl
@[simp] theorem Block.firn_setMbox (x : Mbox) : (b.setMbox n x).firn = b.firn := rfl
@[simp] theorem Block.weave_setMbox (x : Mbox) : (b.setMbox n x).weave = b.weave := rfl
@[simp] theorem Block.treleb_setMbox (x : Mbox) : (b.setMbox n x).treleb = b.treleb := rfl
@[simp] theorem Block.rim_setMbox (x : Mbox) : (b.setMbox n x).rim = b.rim := rfl
@[simp] theorem Block.sec_setMbox (x : Mbox) : (b.setMbox n x).sec = b.sec := rfl
@[simp] theorem Block.power_setMbox (x : Mbox) : (b.setMbox n x).power = b.power := rfl
@[simp] theorem Block.hostMem_setMbox (x : Mbox) : (b.setMbox n x).hostMem = b.hostMem := rfl
@[simp] theorem Block.hostAbsent_setMbox (x : Mbox) : (b.setMbox n x).hostAbsent = b.hostAbsent := rfl
@[simp] theorem Block.hostPoison_setMbox (x : Mbox) : (b.setMbox n x).hostPoison = b.hostPoison := rfl
@[simp] theorem Block.halted_setMbox (x : Mbox) : (b.setMbox n x).halted = b.halted := rfl
@[simp] theorem Block.freeCtr_setMbox (x : Mbox) : (b.setMbox n x).freeCtr = b.freeCtr := rfl
@[simp] theorem Block.core_setMbox (x : Mbox) (j : Nat) : (b.setMbox n x).core j = b.core j := rfl
@[simp] theorem Block.part_setMbox (x : Mbox) (j : Nat) : (b.setMbox n x).part j = b.part j := rfl
@[simp] theorem Block.ctx_setMbox (x : Mbox) (j : Nat) : (b.setMbox n x).ctx j = b.ctx j := rfl
@[simp] theorem Block.port_setMbox (x : Mbox) (j : Nat) : (b.setMbox n x).port j = b.port j := rfl
@[simp] theorem Block.island_setMbox (x : Mbox) (j : Nat) : (b.setMbox n x).island j = b.island j := rfl
@[simp] theorem Block.ring_setMbox (x : Mbox) (j : Nat) : (b.setMbox n x).ring j = b.ring j := rfl
@[simp] theorem Block.mbox_setMbox_same (x : Mbox) : (b.setMbox n x).mbox n = x := SMap.get_put_same ..
theorem Block.mbox_setMbox_other (x : Mbox) (j : Nat) (h : j ≠ n) : (b.setMbox n x).mbox j = b.mbox j := SMap.get_put_other _ _ _ _ _ h
@[simp] theorem Block.modMbox_eq (f : Mbox → Mbox) : b.modMbox n f = b.setMbox n (f (b.mbox n)) := rfl

@[simp] theorem Block.time_setPort (x : Port) : (b.setPort n x).time = b.time := rfl
@[simp] theorem Block.islands_setPort (x : Port) : (b.setPort n x).islands = b.islands := rfl
@[simp] theorem Block.rings_setPort (x : Port) : (b.setPort n x).rings = b.rings := rfl
@[simp] theorem Block.cores_setPort (x : Port) : (b.setPort n x).cores = b.cores := rfl
@[simp] theorem Block.parts_setPort (x : Port) : (b.setPort n x).parts = b.parts := rfl
@[simp] theorem Block.ctxs_setPort (x : Port) : (b.setPort n x).ctxs = b.ctxs := rfl
@[simp] theorem Block.mboxes_setPort (x : Port) : (b.setPort n x).mboxes = b.mboxes := rfl
@[simp] theorem Block.aborts_setPort (x : Port) : (b.setPort n x).aborts = b.aborts := rfl
@[simp] theorem Block.abortId_setPort (x : Port) : (b.setPort n x).abortId = b.abortId := rfl
@[simp] theorem Block.kidCtr_setPort (x : Port) : (b.setPort n x).kidCtr = b.kidCtr := rfl
@[simp] theorem Block.faults_setPort (x : Port) : (b.setPort n x).faults = b.faults := rfl
@[simp] theorem Block.invals_setPort (x : Port) : (b.setPort n x).invals = b.invals := rfl
@[simp] theorem Block.dram_setPort (x : Port) : (b.setPort n x).dram = b.dram := rfl
@[simp] theorem Block.firn_setPort (x : Port) : (b.setPort n x).firn = b.firn := rfl
@[simp] theorem Block.treleb_setPort (x : Port) : (b.setPort n x).treleb = b.treleb := rfl
@[simp] theorem Block.rim_setPort (x : Port) : (b.setPort n x).rim = b.rim := rfl
@[simp] theorem Block.sec_setPort (x : Port) : (b.setPort n x).sec = b.sec := rfl
@[simp] theorem Block.power_setPort (x : Port) : (b.setPort n x).power = b.power := rfl
@[simp] theorem Block.hostMem_setPort (x : Port) : (b.setPort n x).hostMem = b.hostMem := rfl
@[simp] theorem Block.hostAbsent_setPort (x : Port) : (b.setPort n x).hostAbsent = b.hostAbsent := rfl
@[simp] theorem Block.hostPoison_setPort (x : Port) : (b.setPort n x).hostPoison = b.hostPoison := rfl
@[simp] theorem Block.halted_setPort (x : Port) : (b.setPort n x).halted = b.halted := rfl
@[simp] theorem Block.freeCtr_setPort (x : Port) : (b.setPort n x).freeCtr = b.freeCtr := rfl
@[simp] theorem Block.core_setPort (x : Port) (j : Nat) : (b.setPort n x).core j = b.core j := rfl
@[simp] theorem Block.part_setPort (x : Port) (j : Nat) : (b.setPort n x).part j = b.part j := rfl
@[simp] theorem Block.ctx_setPort (x : Port) (j : Nat) : (b.setPort n x).ctx j = b.ctx j := rfl
@[simp] theorem Block.mbox_setPort (x : Port) (j : Nat) : (b.setPort n x).mbox j = b.mbox j := rfl
@[simp] theorem Block.island_setPort (x : Port) (j : Nat) : (b.setPort n x).island j = b.island j := rfl
@[simp] theorem Block.ring_setPort (x : Port) (j : Nat) : (b.setPort n x).ring j = b.ring j := rfl
@[simp] theorem Block.port_setPort_same (x : Port) : (b.setPort n x).port n = x := SMap.get_put_same ..
theorem Block.port_setPort_other (x : Port) (j : Nat) (h : j ≠ n) : (b.setPort n x).port j = b.port j := SMap.get_put_other _ _ _ _ _ h
@[simp] theorem Block.modPort_eq (f : Port → Port) : b.modPort n f = b.setPort n (f (b.port n)) := rfl

@[simp] theorem Block.time_setIsland (x : Island) : (b.setIsland n x).time = b.time := rfl
@[simp] theorem Block.rings_setIsland (x : Island) : (b.setIsland n x).rings = b.rings := rfl
@[simp] theorem Block.cores_setIsland (x : Island) : (b.setIsland n x).cores = b.cores := rfl
@[simp] theorem Block.parts_setIsland (x : Island) : (b.setIsland n x).parts = b.parts := rfl
@[simp] theorem Block.ctxs_setIsland (x : Island) : (b.setIsland n x).ctxs = b.ctxs := rfl
@[simp] theorem Block.mboxes_setIsland (x : Island) : (b.setIsland n x).mboxes = b.mboxes := rfl
@[simp] theorem Block.aborts_setIsland (x : Island) : (b.setIsland n x).aborts = b.aborts := rfl
@[simp] theorem Block.abortId_setIsland (x : Island) : (b.setIsland n x).abortId = b.abortId := rfl
@[simp] theorem Block.kidCtr_setIsland (x : Island) : (b.setIsland n x).kidCtr = b.kidCtr := rfl
@[simp] theorem Block.faults_setIsland (x : Island) : (b.setIsland n x).faults = b.faults := rfl
@[simp] theorem Block.invals_setIsland (x : Island) : (b.setIsland n x).invals = b.invals := rfl
@[simp] theorem Block.dram_setIsland (x : Island) : (b.setIsland n x).dram = b.dram := rfl
@[simp] theorem Block.firn_setIsland (x : Island) : (b.setIsland n x).firn = b.firn := rfl
@[simp] theorem Block.weave_setIsland (x : Island) : (b.setIsland n x).weave = b.weave := rfl
@[simp] theorem Block.treleb_setIsland (x : Island) : (b.setIsland n x).treleb = b.treleb := rfl
@[simp] theorem Block.rim_setIsland (x : Island) : (b.setIsland n x).rim = b.rim := rfl
@[simp] theorem Block.sec_setIsland (x : Island) : (b.setIsland n x).sec = b.sec := rfl
@[simp] theorem Block.power_setIsland (x : Island) : (b.setIsland n x).power = b.power := rfl
@[simp] theorem Block.hostMem_setIsland (x : Island) : (b.setIsland n x).hostMem = b.hostMem := rfl
@[simp] theorem Block.hostAbsent_setIsland (x : Island) : (b.setIsland n x).hostAbsent = b.hostAbsent := rfl
@[simp] theorem Block.hostPoison_setIsland (x : Island) : (b.setIsland n x).hostPoison = b.hostPoison := rfl
@[simp] theorem Block.halted_setIsland (x : Island) : (b.setIsland n x).halted = b.halted := rfl
@[simp] theorem Block.freeCtr_setIsland (x : Island) : (b.setIsland n x).freeCtr = b.freeCtr := rfl
@[simp] theorem Block.core_setIsland (x : Island) (j : Nat) : (b.setIsland n x).core j = b.core j := rfl
@[simp] theorem Block.part_setIsland (x : Island) (j : Nat) : (b.setIsland n x).part j = b.part j := rfl
@[simp] theorem Block.ctx_setIsland (x : Island) (j : Nat) : (b.setIsland n x).ctx j = b.ctx j := rfl
@[simp] theorem Block.mbox_setIsland (x : Island) (j : Nat) : (b.setIsland n x).mbox j = b.mbox j := rfl
@[simp] theorem Block.port_setIsland (x : Island) (j : Nat) : (b.setIsland n x).port j = b.port j := rfl
@[simp] theorem Block.ring_setIsland (x : Island) (j : Nat) : (b.setIsland n x).ring j = b.ring j := rfl
@[simp] theorem Block.island_setIsland_same (x : Island) : (b.setIsland n x).island n = x := SMap.get_put_same ..
theorem Block.island_setIsland_other (x : Island) (j : Nat) (h : j ≠ n) : (b.setIsland n x).island j = b.island j := SMap.get_put_other _ _ _ _ _ h

@[simp] theorem Block.time_setRing (x : TraceRing) : (b.setRing n x).time = b.time := rfl
@[simp] theorem Block.islands_setRing (x : TraceRing) : (b.setRing n x).islands = b.islands := rfl
@[simp] theorem Block.cores_setRing (x : TraceRing) : (b.setRing n x).cores = b.cores := rfl
@[simp] theorem Block.parts_setRing (x : TraceRing) : (b.setRing n x).parts = b.parts := rfl
@[simp] theorem Block.ctxs_setRing (x : TraceRing) : (b.setRing n x).ctxs = b.ctxs := rfl
@[simp] theorem Block.mboxes_setRing (x : TraceRing) : (b.setRing n x).mboxes = b.mboxes := rfl
@[simp] theorem Block.aborts_setRing (x : TraceRing) : (b.setRing n x).aborts = b.aborts := rfl
@[simp] theorem Block.abortId_setRing (x : TraceRing) : (b.setRing n x).abortId = b.abortId := rfl
@[simp] theorem Block.kidCtr_setRing (x : TraceRing) : (b.setRing n x).kidCtr = b.kidCtr := rfl
@[simp] theorem Block.faults_setRing (x : TraceRing) : (b.setRing n x).faults = b.faults := rfl
@[simp] theorem Block.invals_setRing (x : TraceRing) : (b.setRing n x).invals = b.invals := rfl
@[simp] theorem Block.dram_setRing (x : TraceRing) : (b.setRing n x).dram = b.dram := rfl
@[simp] theorem Block.firn_setRing (x : TraceRing) : (b.setRing n x).firn = b.firn := rfl
@[simp] theorem Block.weave_setRing (x : TraceRing) : (b.setRing n x).weave = b.weave := rfl
@[simp] theorem Block.treleb_setRing (x : TraceRing) : (b.setRing n x).treleb = b.treleb := rfl
@[simp] theorem Block.rim_setRing (x : TraceRing) : (b.setRing n x).rim = b.rim := rfl
@[simp] theorem Block.sec_setRing (x : TraceRing) : (b.setRing n x).sec = b.sec := rfl
@[simp] theorem Block.power_setRing (x : TraceRing) : (b.setRing n x).power = b.power := rfl
@[simp] theorem Block.hostMem_setRing (x : TraceRing) : (b.setRing n x).hostMem = b.hostMem := rfl
@[simp] theorem Block.hostAbsent_setRing (x : TraceRing) : (b.setRing n x).hostAbsent = b.hostAbsent := rfl
@[simp] theorem Block.hostPoison_setRing (x : TraceRing) : (b.setRing n x).hostPoison = b.hostPoison := rfl
@[simp] theorem Block.halted_setRing (x : TraceRing) : (b.setRing n x).halted = b.halted := rfl
@[simp] theorem Block.freeCtr_setRing (x : TraceRing) : (b.setRing n x).freeCtr = b.freeCtr := rfl
@[simp] theorem Block.core_setRing (x : TraceRing) (j : Nat) : (b.setRing n x).core j = b.core j := rfl
@[simp] theorem Block.part_setRing (x : TraceRing) (j : Nat) : (b.setRing n x).part j = b.part j := rfl
@[simp] theorem Block.ctx_setRing (x : TraceRing) (j : Nat) : (b.setRing n x).ctx j = b.ctx j := rfl
@[simp] theorem Block.mbox_setRing (x : TraceRing) (j : Nat) : (b.setRing n x).mbox j = b.mbox j := rfl
@[simp] theorem Block.port_setRing (x : TraceRing) (j : Nat) : (b.setRing n x).port j = b.port j := rfl
@[simp] theorem Block.island_setRing (x : TraceRing) (j : Nat) : (b.setRing n x).island j = b.island j := rfl
@[simp] theorem Block.ring_setRing_same (x : TraceRing) : (b.setRing n x).ring n = x := SMap.get_put_same ..
theorem Block.ring_setRing_other (x : TraceRing) (j : Nat) (h : j ≠ n) : (b.setRing n x).ring j = b.ring j := SMap.get_put_other _ _ _ _ _ h

@[simp] theorem Core.cur_setSeq (x : SeqState) : (k.setSeq n x).cur = k.cur := rfl
@[simp] theorem Core.lastPos_setSeq (x : SeqState) : (k.setSeq n x).lastPos = k.lastPos := rfl
@[simp] theorem Core.kernels_setSeq (x : SeqState) : (k.setSeq n x).kernels = k.kernels := rfl
@[simp] theorem Core.waiting_setSeq (x : SeqState) : (k.setSeq n x).waiting = k.waiting := rfl
@[simp] theorem Core.units_setSeq (x : SeqState) : (k.setSeq n x).units = k.units := rfl
@[simp] theorem Core.prog_setSeq (x : SeqState) : (k.setSeq n x).prog = k.prog := rfl
@[simp] theorem Core.binds_setSeq (x : SeqState) : (k.setSeq n x).binds = k.binds := rfl
@[simp] theorem Core.scratch_setSeq (x : SeqState) : (k.setSeq n x).scratch = k.scratch := rfl
@[simp] theorem Core.poison_setSeq (x : SeqState) : (k.setSeq n x).poison = k.poison := rfl
@[simp] theorem Core.tags_setSeq (x : SeqState) : (k.setSeq n x).tags = k.tags := rfl
@[simp] theorem Core.swap_setSeq (x : SeqState) : (k.setSeq n x).swap = k.swap := rfl
@[simp] theorem Core.hq_setSeq (x : SeqState) : (k.setSeq n x).hq = k.hq := rfl
@[simp] theorem Core.array_setSeq (x : SeqState) : (k.setSeq n x).array = k.array := rfl
@[simp] theorem Core.vector_setSeq (x : SeqState) : (k.setSeq n x).vector = k.vector := rfl
@[simp] theorem Core.sfu_setSeq (x : SeqState) : (k.setSeq n x).sfu = k.sfu := rfl
@[simp] theorem Core.tagOps_setSeq (x : SeqState) : (k.setSeq n x).tagOps = k.tagOps := rfl
@[simp] theorem Core.movers_setSeq (x : SeqState) : (k.setSeq n x).movers = k.movers := rfl
@[simp] theorem Core.shares_setSeq (x : SeqState) : (k.setSeq n x).shares = k.shares := rfl
@[simp] theorem Core.spent_setSeq (x : SeqState) : (k.setSeq n x).spent = k.spent := rfl
@[simp] theorem Core.quantum_setSeq (x : SeqState) : (k.setSeq n x).quantum = k.quantum := rfl
@[simp] theorem Core.quantumTo_setSeq (x : SeqState) : (k.setSeq n x).quantumTo = k.quantumTo := rfl
@[simp] theorem Core.sliceAt_setSeq (x : SeqState) : (k.setSeq n x).sliceAt = k.sliceAt := rfl
@[simp] theorem Core.issueCtr_setSeq (x : SeqState) : (k.setSeq n x).issueCtr = k.issueCtr := rfl
@[simp] theorem Core.report_setSeq (x : SeqState) : (k.setSeq n x).report = k.report := rfl
@[simp] theorem Core.reqCtr_setSeq (x : SeqState) : (k.setSeq n x).reqCtr = k.reqCtr := rfl
@[simp] theorem Core.live_setSeq (x : SeqState) : (k.setSeq n x).live = k.live := rfl
@[simp] theorem Core.groups_setSeq (x : SeqState) : (k.setSeq n x).groups = k.groups := rfl
@[simp] theorem Core.point_setSeq (x : SeqState) : (k.setSeq n x).point = k.point := rfl
@[simp] theorem Core.pointTo_setSeq (x : SeqState) : (k.setSeq n x).pointTo = k.pointTo := rfl
@[simp] theorem Core.seqProg_setSeq (x : SeqState) : (k.setSeq n x).seqProg = k.seqProg := rfl
@[simp] theorem Core.arrProg_setSeq (x : SeqState) : (k.setSeq n x).arrProg = k.arrProg := rfl
@[simp] theorem Core.vecProg_setSeq (x : SeqState) : (k.setSeq n x).vecProg = k.vecProg := rfl
@[simp] theorem Core.sfuProg_setSeq (x : SeqState) : (k.setSeq n x).sfuProg = k.sfuProg := rfl
@[simp] theorem Core.movProg_setSeq (x : SeqState) : (k.setSeq n x).movProg = k.movProg := rfl
@[simp] theorem Core.busyFrom_setSeq (x : SeqState) : (k.setSeq n x).busyFrom = k.busyFrom := rfl
@[simp] theorem Core.seq_setSeq_same (x : SeqState) : (k.setSeq n x).seq n = x := SMap.get_put_same ..
theorem Core.seq_setSeq_other (x : SeqState) (j : Nat) (h : j ≠ n) : (k.setSeq n x).seq j = k.seq j := SMap.get_put_other _ _ _ _ _ h
@[simp] theorem Core.seqs_setMover (x : Mover) : (k.setMover n x).seqs = k.seqs := rfl
@[simp] theorem Core.cur_setMover (x : Mover) : (k.setMover n x).cur = k.cur := rfl
@[simp] theorem Core.lastPos_setMover (x : Mover) : (k.setMover n x).lastPos = k.lastPos := rfl
@[simp] theorem Core.kernels_setMover (x : Mover) : (k.setMover n x).kernels = k.kernels := rfl
@[simp] theorem Core.waiting_setMover (x : Mover) : (k.setMover n x).waiting = k.waiting := rfl
@[simp] theorem Core.units_setMover (x : Mover) : (k.setMover n x).units = k.units := rfl
@[simp] theorem Core.prog_setMover (x : Mover) : (k.setMover n x).prog = k.prog := rfl
@[simp] theorem Core.binds_setMover (x : Mover) : (k.setMover n x).binds = k.binds := rfl
@[simp] theorem Core.scratch_setMover (x : Mover) : (k.setMover n x).scratch = k.scratch := rfl
@[simp] theorem Core.poison_setMover (x : Mover) : (k.setMover n x).poison = k.poison := rfl
@[simp] theorem Core.tags_setMover (x : Mover) : (k.setMover n x).tags = k.tags := rfl
@[simp] theorem Core.swap_setMover (x : Mover) : (k.setMover n x).swap = k.swap := rfl
@[simp] theorem Core.hq_setMover (x : Mover) : (k.setMover n x).hq = k.hq := rfl
@[simp] theorem Core.array_setMover (x : Mover) : (k.setMover n x).array = k.array := rfl
@[simp] theorem Core.vector_setMover (x : Mover) : (k.setMover n x).vector = k.vector := rfl
@[simp] theorem Core.sfu_setMover (x : Mover) : (k.setMover n x).sfu = k.sfu := rfl
@[simp] theorem Core.tagOps_setMover (x : Mover) : (k.setMover n x).tagOps = k.tagOps := rfl
@[simp] theorem Core.shares_setMover (x : Mover) : (k.setMover n x).shares = k.shares := rfl
@[simp] theorem Core.spent_setMover (x : Mover) : (k.setMover n x).spent = k.spent := rfl
@[simp] theorem Core.quantum_setMover (x : Mover) : (k.setMover n x).quantum = k.quantum := rfl
@[simp] theorem Core.quantumTo_setMover (x : Mover) : (k.setMover n x).quantumTo = k.quantumTo := rfl
@[simp] theorem Core.sliceAt_setMover (x : Mover) : (k.setMover n x).sliceAt = k.sliceAt := rfl
@[simp] theorem Core.issueCtr_setMover (x : Mover) : (k.setMover n x).issueCtr = k.issueCtr := rfl
@[simp] theorem Core.report_setMover (x : Mover) : (k.setMover n x).report = k.report := rfl
@[simp] theorem Core.reqCtr_setMover (x : Mover) : (k.setMover n x).reqCtr = k.reqCtr := rfl
@[simp] theorem Core.live_setMover (x : Mover) : (k.setMover n x).live = k.live := rfl
@[simp] theorem Core.groups_setMover (x : Mover) : (k.setMover n x).groups = k.groups := rfl
@[simp] theorem Core.point_setMover (x : Mover) : (k.setMover n x).point = k.point := rfl
@[simp] theorem Core.pointTo_setMover (x : Mover) : (k.setMover n x).pointTo = k.pointTo := rfl
@[simp] theorem Core.seqProg_setMover (x : Mover) : (k.setMover n x).seqProg = k.seqProg := rfl
@[simp] theorem Core.arrProg_setMover (x : Mover) : (k.setMover n x).arrProg = k.arrProg := rfl
@[simp] theorem Core.vecProg_setMover (x : Mover) : (k.setMover n x).vecProg = k.vecProg := rfl
@[simp] theorem Core.sfuProg_setMover (x : Mover) : (k.setMover n x).sfuProg = k.sfuProg := rfl
@[simp] theorem Core.movProg_setMover (x : Mover) : (k.setMover n x).movProg = k.movProg := rfl
@[simp] theorem Core.busyFrom_setMover (x : Mover) : (k.setMover n x).busyFrom = k.busyFrom := rfl
@[simp] theorem Core.seq_setMover (x : Mover) (j : Nat) : (k.setMover n x).seq j = k.seq j := rfl
@[simp] theorem Core.mover_setSeq (x : SeqState) (j : Nat) : (k.setSeq n x).mover j = k.mover j := rfl
@[simp] theorem Core.mover_setMover_same (x : Mover) : (k.setMover n x).mover n = x := SMap.get_put_same ..
theorem Core.mover_setMover_other (x : Mover) (j : Nat) (h : j ≠ n) : (k.setMover n x).mover j = k.mover j := SMap.get_put_other _ _ _ _ _ h
@[simp] theorem Core.modMover_eq (f : Mover → Mover) : k.modMover n f = k.setMover n (f (k.mover n)) := rfl

/-! ### The queue -/

@[simp] theorem State.run_eq (f : Block → Block) : s.run f = .next { s with toBlock := f s.toBlock } := rfl

@[simp] theorem State.time_withPending (l : List Instr) : (({ s with pending := l } : State)).time = s.time := rfl
@[simp] theorem State.islands_withPending (l : List Instr) : (({ s with pending := l } : State)).islands = s.islands := rfl
@[simp] theorem State.rings_withPending (l : List Instr) : (({ s with pending := l } : State)).rings = s.rings := rfl
@[simp] theorem State.cores_withPending (l : List Instr) : (({ s with pending := l } : State)).cores = s.cores := rfl
@[simp] theorem State.parts_withPending (l : List Instr) : (({ s with pending := l } : State)).parts = s.parts := rfl
@[simp] theorem State.ctxs_withPending (l : List Instr) : (({ s with pending := l } : State)).ctxs = s.ctxs := rfl
@[simp] theorem State.mboxes_withPending (l : List Instr) : (({ s with pending := l } : State)).mboxes = s.mboxes := rfl
@[simp] theorem State.aborts_withPending (l : List Instr) : (({ s with pending := l } : State)).aborts = s.aborts := rfl
@[simp] theorem State.abortId_withPending (l : List Instr) : (({ s with pending := l } : State)).abortId = s.abortId := rfl
@[simp] theorem State.kidCtr_withPending (l : List Instr) : (({ s with pending := l } : State)).kidCtr = s.kidCtr := rfl
@[simp] theorem State.faults_withPending (l : List Instr) : (({ s with pending := l } : State)).faults = s.faults := rfl
@[simp] theorem State.invals_withPending (l : List Instr) : (({ s with pending := l } : State)).invals = s.invals := rfl
@[simp] theorem State.dram_withPending (l : List Instr) : (({ s with pending := l } : State)).dram = s.dram := rfl
@[simp] theorem State.firn_withPending (l : List Instr) : (({ s with pending := l } : State)).firn = s.firn := rfl
@[simp] theorem State.weave_withPending (l : List Instr) : (({ s with pending := l } : State)).weave = s.weave := rfl
@[simp] theorem State.treleb_withPending (l : List Instr) : (({ s with pending := l } : State)).treleb = s.treleb := rfl
@[simp] theorem State.rim_withPending (l : List Instr) : (({ s with pending := l } : State)).rim = s.rim := rfl
@[simp] theorem State.sec_withPending (l : List Instr) : (({ s with pending := l } : State)).sec = s.sec := rfl
@[simp] theorem State.power_withPending (l : List Instr) : (({ s with pending := l } : State)).power = s.power := rfl
@[simp] theorem State.hostMem_withPending (l : List Instr) : (({ s with pending := l } : State)).hostMem = s.hostMem := rfl
@[simp] theorem State.hostAbsent_withPending (l : List Instr) : (({ s with pending := l } : State)).hostAbsent = s.hostAbsent := rfl
@[simp] theorem State.hostPoison_withPending (l : List Instr) : (({ s with pending := l } : State)).hostPoison = s.hostPoison := rfl
@[simp] theorem State.halted_withPending (l : List Instr) : (({ s with pending := l } : State)).halted = s.halted := rfl
@[simp] theorem State.freeCtr_withPending (l : List Instr) : (({ s with pending := l } : State)).freeCtr = s.freeCtr := rfl

end Sys2Proof.Machine
end

