-- ==== Sys2Proof/Laws/Trace.lean ====
section
/-!
SUPPORT. What a trace record and a log record change, said once: everything but `Block.quiet` stays.
-/
namespace Sys2Proof.Machine

variable (b c d : Block)

theorem Traced.refl : Traced b b := ⟨rfl, fun _ => rfl⟩

/-- What is nothing but trace and log is so whatever else is hidden. -/
theorem Traced.leaves {b c : Block} (h : Traced b c) (f : Block → Block) : Leaves f b c :=
  ⟨congrArg f h.1, fun hp => congrArg f (h.2 hp)⟩

theorem Block.quiet_setCore (n : Nat) (x : Core) : (b.setCore n x).quiet = b.quiet.setCore n x := rfl
theorem Block.quiet_core (n : Nat) : b.quiet.core n = b.core n := rfl
theorem Block.quiet_setIsland (n : Nat) (x : Island) : (b.setIsland n x).quiet = b.quiet := rfl
theorem Block.quiet_setRing (n : Nat) (x : TraceRing) : (b.setRing n x).quiet = b.quiet := rfl
theorem Block.quiet_dramWrite (o : Nat) (l : List Byte) (x : List Nat) : (b.dramWrite o l x).quiet = b.quiet := rfl
theorem Block.quiet_hostWrite (o : Nat) (l : List Byte) (x : List Nat) : (b.hostWrite o l x).quiet = b.quiet := rfl
theorem Block.quiet_ownWrite (o : Nat) (l : List Byte) : (b.ownWrite o l).quiet = b.quiet := by
  unfold Block.ownWrite; split <;> rfl
theorem Block.quiet_request (k : ReqKind) (a n : Nat) (l : List Byte) (x : List Nat) : (b.request k a n l x).quiet = b.quiet := rfl

theorem Block.quiet_traceDrop (r : Nat) : (b.traceDrop r).quiet = b.quiet := by
  unfold Block.traceDrop
  dsimp only
  rw [Block.quiet_setRing]
  split
  · rfl
  · rw [Block.quiet_ownWrite]

theorem Block.quiet_traceLand (r : Nat) (l : List Byte) : (b.traceLand r l).quiet = b.quiet := by
  unfold Block.traceLand
  dsimp only
  split
  · rfl
  · simp only [Block.quiet_setRing, Block.quiet_ownWrite]

theorem Block.quiet_traceSend (r : Nat) : (b.traceSend r).quiet = b.quiet := by
  unfold Block.traceSend
  dsimp only
  split
  · split
    · rfl
    · rfl
  · rfl

theorem Block.quiet_log (st code p i a : Nat) : (b.log st code p i a).quiet = b.quiet := by
  unfold Block.log
  dsimp only
  split
  · rfl
  · split <;> rfl

theorem Block.muted_log (st code p i a : Nat) : (b.log st code p i a).muted = b.muted := by
  unfold Block.log
  dsimp only
  split
  · rfl
  · split <;> rfl

theorem Block.ring_log (st code p i a r : Nat) : (b.log st code p i a).ring r = b.ring r := by
  unfold Block.log
  dsimp only
  split
  · rfl
  · split <;> rfl

theorem Block.quiet_emitAt (st i e x n a : Nat) : (b.emitAt st i e x n a).quiet = b.quiet := by
  unfold Block.emitAt
  dsimp only
  generalize hb : (if logged e = true then _ else b) = b'
  have hq : b'.quiet = b.quiet := by
    rw [← hb]; split
    · exact Block.quiet_log ..
    · rfl
  rw [← hq]
  split
  · rfl
  · split
    · rfl
    · split
      · rw [Block.quiet_traceDrop]; rfl
      · split
        · rw [Block.quiet_traceLand]; rfl
        · rw [Block.quiet_traceSend]; rfl

theorem Block.quiet_stamp (i x : Nat) : (b.stamp i x).2.quiet = b.quiet := rfl
theorem Block.muted_stamp (i x : Nat) : (b.stamp i x).2.muted = b.muted := rfl

/-- With no ring placed a record changes only stamps, record counts and the log. -/
theorem Block.muted_emitAt (st i e x n a : Nat) (h : ∀ r, (b.ring r).placed = none) :
    (b.emitAt st i e x n a).muted = b.muted := by
  unfold Block.emitAt
  dsimp only
  generalize hb : (if logged e = true then _ else b) = b'
  have hq : b'.muted = b.muted := by
    rw [← hb]; split
    · exact Block.muted_log ..
    · rfl
  have hr : ∀ r, (b'.ring r).placed = none := by
    intro r; rw [← hb]; split
    · rw [Block.ring_log]; exact h r
    · exact h r
  rw [← hq]
  split
  · rfl
  · have := hr (ringOf i)
    split
    · rfl
    · next pa hp => rw [hp] at this; exact absurd this (by simp)

/-- A record is nothing but trace and log. -/
theorem Block.emit_traced (i e x n a : Nat) : Traced b (b.emit i e x n a) := by
  refine ⟨?_, fun h => ?_⟩
  · show (b.emit i e x n a).quiet = b.quiet
    exact (Block.quiet_emitAt ..).trans (Block.quiet_stamp ..)
  · show (b.emit i e x n a).muted = b.muted
    exact ((b.stamp i 0).2.muted_emitAt _ i e x n a h).trans (Block.muted_stamp ..)

theorem Block.emitCtx_traced (i e x a : Nat) : Traced b (b.emitCtx i e x a) := b.emit_traced ..

/-- A crossing takes a stamp and changes nothing else (R24). -/
theorem Block.cross_eq (i j : Nat) : b.cross i j = { b with islands := (b.cross i j).islands } := by
  unfold Block.cross; split <;> rfl

theorem Block.cross_traced (i j : Nat) : Traced b (b.cross i j) := by
  rw [b.cross_eq]; exact ⟨rfl, fun _ => rfl⟩

/-- A stamp leaves an island's skew and record count, and its last stamp never falls (R35). -/
theorem Block.island_cross (i j n : Nat) : ((b.cross i j).island n).skew = (b.island n).skew ∧
    ((b.cross i j).island n).seq = (b.island n).seq ∧ (b.island n).last ≤ ((b.cross i j).island n).last := by
  unfold Block.cross
  split
  · exact ⟨rfl, rfl, Nat.le_refl _⟩
  · by_cases h : n = j
    · subst h
      simp only [Block.stamp, Block.island, Block.setIsland, SMap.get_put_same]
      refine ⟨trivial, trivial, ?_⟩
      omega
    · simp only [Block.stamp, Block.island, Block.setIsland, SMap.get_put_other _ _ _ _ _ h]
      exact ⟨trivial, trivial, Nat.le_refl _⟩

variable {b c d}

theorem Traced.rings (h : Traced b c) (hp : ∀ r, (b.ring r).placed = none) : ∀ r, (c.ring r).placed = none := by
  intro r
  have : c.ring r = b.ring r := congrArg (fun x => x.ring r) (h.2 hp)
  rw [this]; exact hp r

theorem Traced.trans (h : Traced b c) (h' : Traced c d) : Traced b d :=
  ⟨h'.1.trans h.1, fun hp => (h'.2 (h.rings hp)).trans (h.2 hp)⟩

theorem Traced.setCore (h : Traced b c) (n : Nat) (x : Core) : Traced (b.setCore n x) (c.setCore n x) :=
  ⟨congrArg (fun y => y.setCore n x) h.1, fun hp => congrArg (fun y => y.setCore n x) (h.2 hp)⟩

theorem Traced.core (h : Traced b c) (n : Nat) : c.core n = b.core n := by
  have := congrArg (fun x => x.core n) h.1; exact this
theorem Traced.time (h : Traced b c) : c.time = b.time := by
  have := congrArg (fun x => x.time) h.1; exact this
theorem Traced.cores (h : Traced b c) : c.cores = b.cores := by
  have := congrArg (fun x => x.cores) h.1; exact this
theorem Traced.parts (h : Traced b c) : c.parts = b.parts := by
  have := congrArg (fun x => x.parts) h.1; exact this
theorem Traced.ctxs (h : Traced b c) : c.ctxs = b.ctxs := by
  have := congrArg (fun x => x.ctxs) h.1; exact this
theorem Traced.mboxes (h : Traced b c) : c.mboxes = b.mboxes := by
  have := congrArg (fun x => x.mboxes) h.1; exact this
theorem Traced.aborts (h : Traced b c) : c.aborts = b.aborts := by
  have := congrArg (fun x => x.aborts) h.1; exact this
theorem Traced.abortId (h : Traced b c) : c.abortId = b.abortId := by
  have := congrArg (fun x => x.abortId) h.1; exact this
theorem Traced.kidCtr (h : Traced b c) : c.kidCtr = b.kidCtr := by
  have := congrArg (fun x => x.kidCtr) h.1; exact this
theorem Traced.faults (h : Traced b c) : c.faults = b.faults := by
  have := congrArg (fun x => x.faults) h.1; exact this
theorem Traced.invals (h : Traced b c) : c.invals = b.invals := by
  have := congrArg (fun x => x.invals) h.1; exact this
theorem Traced.firn (h : Traced b c) : c.firn = b.firn := by
  have := congrArg (fun x => x.firn) h.1; exact this
theorem Traced.weave (h : Traced b c) : c.weave = b.weave := by
  have := congrArg (fun x => x.weave) h.1; exact this
theorem Traced.sec (h : Traced b c) : c.sec = b.sec := by
  have := congrArg (fun x => x.sec) h.1; exact this
theorem Traced.power (h : Traced b c) : c.power = b.power := by
  have := congrArg (fun x => x.power) h.1; exact this
theorem Traced.hostAbsent (h : Traced b c) : c.hostAbsent = b.hostAbsent := by
  have := congrArg (fun x => x.hostAbsent) h.1; exact this
theorem Traced.halted (h : Traced b c) : c.halted = b.halted := by
  have := congrArg (fun x => x.halted) h.1; exact this
theorem Traced.freeCtr (h : Traced b c) : c.freeCtr = b.freeCtr := by
  have := congrArg (fun x => x.freeCtr) h.1; exact this
theorem Traced.regions (h : Traced b c) : c.dram.regions = b.dram.regions := by
  have := congrArg (fun x => x.dram.regions) h.1; exact this
theorem Traced.chans (h : Traced b c) : c.dram.chans = b.dram.chans := by
  have := congrArg (fun x => x.dram.chans) h.1; exact this
theorem Traced.trelebState (h : Traced b c) : c.treleb.state = b.treleb.state := by
  have := congrArg (fun x => x.treleb.state) h.1; exact this
theorem Traced.rimState (h : Traced b c) : c.rim.state = b.rim.state := by
  have := congrArg (fun x => x.rim.state) h.1; exact this

variable (b)

@[simp] theorem Block.core_emit (i e x n a j : Nat) : (b.emit i e x n a).core j = b.core j := (b.emit_traced ..).core j
@[simp] theorem Block.time_emit (i e x n a : Nat) : (b.emit i e x n a).time = b.time := (b.emit_traced ..).time
@[simp] theorem Block.cores_emit (i e x n a : Nat) : (b.emit i e x n a).cores = b.cores := (b.emit_traced ..).cores
@[simp] theorem Block.parts_emit (i e x n a : Nat) : (b.emit i e x n a).parts = b.parts := (b.emit_traced ..).parts
@[simp] theorem Block.ctxs_emit (i e x n a : Nat) : (b.emit i e x n a).ctxs = b.ctxs := (b.emit_traced ..).ctxs
@[simp] theorem Block.mboxes_emit (i e x n a : Nat) : (b.emit i e x n a).mboxes = b.mboxes := (b.emit_traced ..).mboxes
@[simp] theorem Block.aborts_emit (i e x n a : Nat) : (b.emit i e x n a).aborts = b.aborts := (b.emit_traced ..).aborts
@[simp] theorem Block.abortId_emit (i e x n a : Nat) : (b.emit i e x n a).abortId = b.abortId := (b.emit_traced ..).abortId
@[simp] theorem Block.kidCtr_emit (i e x n a : Nat) : (b.emit i e x n a).kidCtr = b.kidCtr := (b.emit_traced ..).kidCtr
@[simp] theorem Block.faults_emit (i e x n a : Nat) : (b.emit i e x n a).faults = b.faults := (b.emit_traced ..).faults
@[simp] theorem Block.invals_emit (i e x n a : Nat) : (b.emit i e x n a).invals = b.invals := (b.emit_traced ..).invals
@[simp] theorem Block.firn_emit (i e x n a : Nat) : (b.emit i e x n a).firn = b.firn := (b.emit_traced ..).firn
@[simp] theorem Block.weave_emit (i e x n a : Nat) : (b.emit i e x n a).weave = b.weave := (b.emit_traced ..).weave
@[simp] theorem Block.sec_emit (i e x n a : Nat) : (b.emit i e x n a).sec = b.sec := (b.emit_traced ..).sec
@[simp] theorem Block.power_emit (i e x n a : Nat) : (b.emit i e x n a).power = b.power := (b.emit_traced ..).power
@[simp] theorem Block.hostAbsent_emit (i e x n a : Nat) : (b.emit i e x n a).hostAbsent = b.hostAbsent := (b.emit_traced ..).hostAbsent
@[simp] theorem Block.halted_emit (i e x n a : Nat) : (b.emit i e x n a).halted = b.halted := (b.emit_traced ..).halted
@[simp] theorem Block.freeCtr_emit (i e x n a : Nat) : (b.emit i e x n a).freeCtr = b.freeCtr := (b.emit_traced ..).freeCtr
@[simp] theorem Block.regions_emit (i e x n a : Nat) : (b.emit i e x n a).dram.regions = b.dram.regions := (b.emit_traced ..).regions
@[simp] theorem Block.chans_emit (i e x n a : Nat) : (b.emit i e x n a).dram.chans = b.dram.chans := (b.emit_traced ..).chans
@[simp] theorem Block.trelebState_emit (i e x n a : Nat) : (b.emit i e x n a).treleb.state = b.treleb.state := (b.emit_traced ..).trelebState
@[simp] theorem Block.rimState_emit (i e x n a : Nat) : (b.emit i e x n a).rim.state = b.rim.state := (b.emit_traced ..).rimState
@[simp] theorem Block.part_emit (i e x n a j : Nat) : (b.emit i e x n a).part j = b.part j := by
  simp only [Block.part, Block.parts_emit]
@[simp] theorem Block.ctx_emit (i e x n a j : Nat) : (b.emit i e x n a).ctx j = b.ctx j := by
  simp only [Block.ctx, Block.ctxs_emit]
@[simp] theorem Block.mbox_emit (i e x n a j : Nat) : (b.emit i e x n a).mbox j = b.mbox j := by
  simp only [Block.mbox, Block.mboxes_emit]
@[simp] theorem Block.port_emit (i e x n a j : Nat) : (b.emit i e x n a).port j = b.port j := by
  simp only [Block.port, Block.weave_emit]
@[simp] theorem Block.emitCtx_eq (i e x a : Nat) : b.emitCtx i e x a = b.emit i e x ((b.ctx x).curStep) a := rfl

/-! ### Issue (R94, R102) -/

/-- A word that issues runs its instruction. -/
theorem State.Issues.issue {s : State} {core id : Nat} {r : Run} (h : s.Issues core id r) (f : Run → Block) :
    s.toBlock.issue core id f = f r := by
  obtain ⟨h1, h2, h3, h4, h5⟩ := h
  simp only [Block.issue, h1, h2, h3, h4, h5]
  simp

end Sys2Proof.Machine
end

