-- ==== Sys2Proof/Laws/Sequencer.lean ====
section
/-!
SUPPORT. What the shared operations of the sequencer do to the rest of the machine: an instruction that goes on, an
instruction that waits, and the word that issues. And sets of slots after a change.
-/
namespace Sys2Proof

theorem SSet.has_insert (m : SSet) (k j : Nat) : SSet.has (SSet.insert m k) j = (decide (j = k) || SSet.has m j) := by
  induction m with
  | nil => simp [SSet.insert, SSet.has]
  | cons x t ih =>
    simp only [SSet.insert]
    split
    · simp [SSet.has]
    · split
      · next h => subst h; simp [SSet.has]
      · simp only [SSet.has, List.contains_cons] at ih ⊢
        rw [ih]; cases (j == x) <;> cases (decide (j = k)) <;> simp

theorem SSet.has_erase (m : SSet) (k j : Nat) : SSet.has (SSet.erase m k) j = (decide (j ≠ k) && SSet.has m j) := by
  simp only [SSet.has, SSet.erase]
  rw [Bool.eq_iff_iff]
  simp
  tauto

theorem SSet.has_put (m : SSet) (k j : Nat) (b : Bool) : SSet.has (SSet.put m k b) j = if j = k then b else SSet.has m j := by
  unfold SSet.put
  cases b with
  | true => simp only [if_true, SSet.has_insert]; split <;> simp_all
  | false => simp only [Bool.false_eq_true, if_false, SSet.has_erase]; split <;> simp_all

end Sys2Proof

namespace Sys2Proof.Machine

/-- Every command answers a next state and leaves the queue alone. -/
theorem exec_next (c : Instr) (s : State) : ∃ t, exec c s = .next t ∧ t.pending = s.pending := by
  cases c <;> exact ⟨_, rfl, rfl⟩

/-- Where the islands are as they were, no stamp was taken. -/
theorem stampsOnly_of {s t : State} (h : t.islands = s.islands) : stampsOnly s t := by
  intro i
  have e : t.island i = s.island i := by unfold Block.island; rw [h]
  rw [e]
  exact ⟨rfl, rfl, Nat.le_refl _⟩

/-- A crossing only takes a stamp. -/
theorem stampsOnly_cross (s : State) (i j : Nat) : stampsOnly s { s with toBlock := s.toBlock.cross i j } :=
  fun n => s.toBlock.island_cross i j n

/-- An instruction that goes on changes one sequencer. -/
theorem issued_onlySeq (s : State) (core ctx : Nat) (q : SeqState) :
    onlySeq s { s with toBlock := s.toBlock.issued core ctx q } core ctx ∧
    (( s.toBlock.issued core ctx q).core core).seq ctx = { q with wait := .none } := by
  constructor
  · unfold onlySeq sameBytes Block.issued
    refine ⟨?_, ?_, ?_, rfl, stampsOnly_of rfl, ?_, ?_, ?_, ?_, ?_⟩
    · intro c hc; simp [Block.modCore_eq, Block.core_setCore_other _ _ _ _ hc]
    · intro x hx; simp only [Block.modCore_eq, Block.core_setCore_same]; exact Core.seq_setSeq_other _ _ _ _ hx
    · simp only [Block.modCore_eq, Block.core_setCore_same]; rfl
    · intro a; rfl
    · intro a; rfl
    · intro a; rfl
    · intro c a
      by_cases hc : c = core
      · subst hc; simp only [Block.modCore_eq, Block.core_setCore_same]; rfl
      · simp [Block.modCore_eq, Block.core_setCore_other _ _ _ _ hc]
    · intro p a; rfl
  · simp only [Block.issued, Block.modCore_eq, Block.core_setCore_same]; exact Core.seq_setSeq_same _ _ _

/-- An instruction that waits changes one sequencer. -/
theorem waitOn_onlySeq (s : State) (core ctx : Nat) (w : Wait) :
    onlySeq s { s with toBlock := s.toBlock.waitOn core ctx w } core ctx ∧
    (( s.toBlock.waitOn core ctx w).core core).seq ctx = { (s.core core).seq ctx with wait := w } := by
  constructor
  · unfold onlySeq sameBytes Block.waitOn
    refine ⟨?_, ?_, ?_, rfl, stampsOnly_of rfl, ?_, ?_, ?_, ?_, ?_⟩
    · intro c hc; simp [Block.modCore_eq, Block.core_setCore_other _ _ _ _ hc]
    · intro x hx; simp only [Block.modCore_eq, Block.core_setCore_same]; exact Core.seq_setSeq_other _ _ _ _ hx
    · simp only [Block.modCore_eq, Block.core_setCore_same]; rfl
    · intro a; rfl
    · intro a; rfl
    · intro a; rfl
    · intro c a
      by_cases hc : c = core
      · subst hc; simp only [Block.modCore_eq, Block.core_setCore_same]; rfl
      · simp [Block.modCore_eq, Block.core_setCore_other _ _ _ _ hc]
    · intro p a; rfl
  · simp only [Block.waitOn, Block.modCore_eq, Block.core_setCore_same]; exact Core.seq_setSeq_same _ _ _

/-- A core that runs holds the registers it runs from. -/
theorem running_q {b : Block} {core : Nat} {r : Run} (h : b.running core = some r) : (b.core core).seq r.ctx = r.q := by
  unfold Block.running at h
  dsimp only at h
  split at h
  · cases h
  · split at h
    · split at h
      · cases h; rfl
      · cases h
    · cases h

/-- A scalar form writes its result and changes one sequencer. -/
theorem scalar_ok (core op : Nat) (f g : W64 → W64 → W64) (hfg : ∀ x y, f x y = g x y) (s : State) (r : Run)
    (h : s.Issues core (0x200 + op) r) :
    ∃ t, s.run (·.scalarOp core op f) = .next t ∧ t.pending = s.pending ∧
      ((t.core core).seq r.ctx = (r.q.setSel (wf_ r.word 115 109) (g r.x r.y)).next ∧ onlySeq s t core r.ctx) := by
  refine ⟨_, rfl, rfl, ?_⟩
  simp only [Block.scalarOp]
  rw [h.issue]
  rw [hfg]
  have := issued_onlySeq s core r.ctx ((r.q.setSel (wf_ r.word 115 109) (g r.x r.y)).advance)
  exact ⟨this.2, this.1⟩

end Sys2Proof.Machine
end

