-- ==== Sys2Proof/WellFormed.lean ====
section
/-!
DEFINITION. Operands that the hardware can carry: which commands are well formed. A command outside these ranges names no
unit of the block, and its meaning leaves the block unchanged or reads a unit that is not there.
-/
namespace Sys2Proof

/-- An inbound packet's header fields fit their widths (R400). -/
def Pkt.wf (h : Pkt) : Bool :=
  decide (h.port < 18 ∧ h.lseq < 4096 ∧ h.lack < 4096 ∧ h.ctx < 64 ∧ h.core < 16 ∧ h.dst < 4096 ∧ h.src < 4096 ∧
    h.window < 65536 ∧ h.reqId < 65536 ∧ h.poison < 65536 ∧ h.off < 2 ^ 40 ∧ h.step < 2 ^ 32 ∧ h.stamp < 2 ^ 64)

/-- A well-formed command. -/
def Instr.wf : Instr → Bool
  | .halt core => decide (core < 16)
  | .tmma core => decide (core < 16)
  | .add core => decide (core < 16)
  | .sub core => decide (core < 16)
  | .mul core => decide (core < 16)
  | .and core => decide (core < 16)
  | .or core => decide (core < 16)
  | .xor core => decide (core < 16)
  | .shl core => decide (core < 16)
  | .shr core => decide (core < 16)
  | .sar core => decide (core < 16)
  | .minu core => decide (core < 16)
  | .maxu core => decide (core < 16)
  | .min core => decide (core < 16)
  | .max core => decide (core < 16)
  | .ldp core => decide (core < 16)
  | .lidx core => decide (core < 16)
  | .time core => decide (core < 16)
  | .vld core => decide (core < 16)
  | .vst core => decide (core < 16)
  | .accrd core => decide (core < 16)
  | .accwr core => decide (core < 16)
  | .vbcast core => decide (core < 16)
  | .vext core => decide (core < 16)
  | .vins core => decide (core < 16)
  | .vadd core => decide (core < 16)
  | .vsub core => decide (core < 16)
  | .vmul core => decide (core < 16)
  | .vfma core => decide (core < 16)
  | .vmax core => decide (core < 16)
  | .vmin core => decide (core < 16)
  | .vabs core => decide (core < 16)
  | .vneg core => decide (core < 16)
  | .vmuls core => decide (core < 16)
  | .vfmas core => decide (core < 16)
  | .vpairswap core => decide (core < 16)
  | .vmaskge core => decide (core < 16)
  | .rsum core => decide (core < 16)
  | .rsumsq core => decide (core < 16)
  | .rmax core => decide (core < 16)
  | .rmin core => decide (core < 16)
  | .ramax core => decide (core < 16)
  | .rtopk core => decide (core < 16)
  | .smxupd core => decide (core < 16)
  | .quant core => decide (core < 16)
  | .quantsr core => decide (core < 16)
  | .dequant core => decide (core < 16)
  | .exp2 core => decide (core < 16)
  | .log2 core => decide (core < 16)
  | .rcp core => decide (core < 16)
  | .rsqrt core => decide (core < 16)
  | .sigmoid core => decide (core < 16)
  | .tanh core => decide (core < 16)
  | .softplus core => decide (core < 16)
  | .mov core => decide (core < 16)
  | .setfull core => decide (core < 16)
  | .setempty core => decide (core < 16)
  | .waitfull core => decide (core < 16)
  | .waitempty core => decide (core < 16)
  | .test core => decide (core < 16)
  | .swaphalf core => decide (core < 16)
  | .push core => decide (core < 16)
  | .pop core => decide (core < 16)
  | .trypush core => decide (core < 16)
  | .trypop core => decide (core < 16)
  | .loop core => decide (core < 16)
  | .br core => decide (core < 16)
  | .waitev core => decide (core < 16)
  | .depmark core => decide (core < 16)
  | .stamp core => decide (core < 16)
  | .waitevResume core => decide (core < 16)
  | .flagReread core => decide (core < 16)
  | .tagWaitResume core _ => decide (core < 16)
  | .hqWaitResume core => decide (core < 16)
  | .tagSetTakesEffect core => decide (core < 16)
  | .engineStop core engine => decide (core < 16) && decide (engine < 6)
  | .kernelStart core => decide (core < 16)
  | .kernelDone core => decide (core < 16)
  | .pieceIssue core mover => decide (core < 16) && decide (mover < 4)
  | .pieceLanding core mover _ => decide (core < 16) && decide (mover < 4)
  | .descDone core mover => decide (core < 16) && decide (mover < 4)
  | .tlbResume stream => decide (stream < 64)
  | .finalSend core mover => decide (core < 16) && decide (mover < 4)
  | .creditTimeout core ctx => decide (core < 16) && decide (ctx < 64)
  | .codecBlockDone core mover _ => decide (core < 16) && decide (mover < 4)
  | .attnUnitDone core => decide (core < 16)
  | .quantumEnd core => decide (core < 16)
  | .mbPost page _ => decide (page < 65)
  | .doorbellWrite ctx _ => decide (ctx < 64)
  | .outPop page => decide (page < 65)
  | .registerWrite page _ _ => decide (page < 66)
  | .ringFetch ctx => decide (ctx < 64)
  | .dispatch ctx => decide (ctx < 64)
  | .launch ctx => decide (ctx < 64)
  | .copy ctx => decide (ctx < 64)
  | .attn ctx => decide (ctx < 64)
  | .eventRecord ctx => decide (ctx < 64)
  | .eventWait ctx => decide (ctx < 64)
  | .stepBegin ctx => decide (ctx < 64)
  | .stepEnd ctx => decide (ctx < 64)
  | .floeOpInit ctx => decide (ctx < 64)
  | .floeOpBind ctx => decide (ctx < 64)
  | .floeOpRelease ctx => decide (ctx < 64)
  | .floeOpTruncate ctx => decide (ctx < 64)
  | .floeOpShare ctx => decide (ctx < 64)
  | .cadenceTick ctx => decide (ctx < 64)
  | .deadline ctx => decide (ctx < 64)
  | .abortDone _ => true
  | .abortEscalate _ => true
  | .ctxCreate page => decide (page < 65)
  | .ctxDestroy page => decide (page < 65)
  | .ctxResume page => decide (page < 65)
  | .ctxAbort page => decide (page < 65)
  | .ctxFloeConfig page => decide (page < 65)
  | .ctxInfo page => decide (page < 65)
  | .eventSet page => decide (page < 65)
  | .tuneOpen page => decide (page < 65)
  | .tuneClose page => decide (page < 65)
  | .coreBind page => decide (page < 65)
  | .coreUnbind page => decide (page < 65)
  | .partitionAssign page => decide (page < 65)
  | .sliceConfig page => decide (page < 65)
  | .modelInstall page => decide (page < 65)
  | .installEnd => true
  | .modelInstallCancel page => decide (page < 65)
  | .modelRestorePlaced page => decide (page < 65)
  | .modelRestoreEnd => true
  | .modelRemove page => decide (page < 65)
  | .modelRemoveEnd => true
  | .modelGrant page => decide (page < 65)
  | .modelRevoke page => decide (page < 65)
  | .modelList page => decide (page < 65)
  | .modelDirectoryRead page => decide (page < 65)
  | .firnStatus page => decide (page < 65)
  | .variantBuild page => decide (page < 65)
  | .buildEnd => true
  | .placedRecheckDone part => decide (part < 4)
  | .marginScan => true
  | .scanDone => true
  | .windowOpen page => decide (page < 65)
  | .windowClose page => decide (page < 65)
  | .domainConfig page => decide (page < 65)
  | .jobGroupSet page => decide (page < 65)
  | .jobGroupUnreachable => true
  | .portStatus page => decide (page < 65)
  | .attest page => decide (page < 65)
  | .attestReportWritten => true
  | .identityRead page => decide (page < 65)
  | .zeroiseVolatile page => decide (page < 65)
  | .zeroiseDecommission page => decide (page < 65)
  | .debugUnlock page => decide (page < 65)
  | .challengeIssue page => decide (page < 65)
  | .timeQuery page => decide (page < 65)
  | .traceRingConfig page => decide (page < 65)
  | .countersRead page => decide (page < 65)
  | .powerRead page => decide (page < 65)
  | .faultQueueConfig page => decide (page < 65)
  | .faultReply page => decide (page < 65)
  | .tlbInvalidate page => decide (page < 65)
  | .invalidateDone => true
  | .faultBatchClose => true
  | .migrateDone part => decide (part < 4)
  | .hostNoResponse stream => decide (stream < 68)
  | .transResp tag _ _ _ => decide (tag < 65536)
  | .inval ctx _ _ => decide (ctx < 64)
  | .write h _ data => h.wf && decide (1 ≤ data.length ∧ data.length ≤ 256)
  | .final h _ _ _ => h.wf
  | .atomic h _ _ _ => h.wf
  | .enc h _ _ _ _ => h.wf
  | .encReassemblyTimeout _ => true
  | .resp h _ count _ _ => h.wf && decide (1 ≤ count ∧ count ≤ 256)
  | .retryResend core reqId => decide (core < 16) && decide (reqId < 65536)
  | .remoteTimeout core reqId => decide (core < 16) && decide (reqId < 65536)
  | .groupExpired _ => true
  | .nak port lseq => decide (port < 18) && decide (lseq < 4096)
  | .retryExhausted port => decide (port < 18)
  | .portUp port _ => decide (port < 18)
  | .portRetrain port => decide (port < 18)
  | .timeMessageSend => true
  | .timeMessage port _ _ masterTime => decide (port < 18) && decide (masterTime < 2 ^ 64)
  | .timeReply port delay => decide (port < 18) && decide (delay < 2 ^ 64)
  | .masterLost => true
  | .timeDistribution => true
  | .assign port _ => decide (port < 18)
  | .joined port _ => decide (port < 18)
  | .domainReady => true
  | .jobGroupDefinition port _ => decide (port < 18)
  | .linkTrainingEnd _ _ => true
  | .linkRetrain => true
  | .trelebNak lseq => decide (lseq < 4096)
  | .recovery => true
  | .recoveryEnd _ _ => true
  | .cmp tag _ => decide (tag < 65536)
  | .cmpd tag _ poison => decide (tag < 65536) && decide (poison < 65536)
  | .completionTimeout tag => decide (tag < 65536)
  | .intrFailed tag => decide (tag < 65536)
  | .dramApertureAccess tag off _ _ data =>
    decide (tag < 65536) && decide (off < 2 ^ 42) && data.all (fun d => decide (d.2 < 65536))
  | .snpAck _ modified => modified.all (fun d => decide (d.2 < 16))
  | .snoopTimeout _ => true
  | .trainDone channel _ => decide (channel < 24)
  | .dramPatrolScrub channel _ _ => decide (channel < 24)
  | .scratchpadPatrolSweep core _ _ _ => decide (core < 16)
  | .watchdog part engine => decide (part < 4) && decide (engine < 6)
  | .heartbeat part => decide (part < 4)
  | .heartbeatLost part => decide (part < 4)
  | .tileResetRelease part => decide (part < 4)
  | .partitionResetEnd part => decide (part < 4)
  | .resetFailed part => decide (part < 4)
  | .rimStatus => true
  | .logInfo => true
  | .logRead _ => true
  | .watchdogSet _ _ => true
  | .partitionReset part => decide (part < 4)
  | .moduleReset _ => true
  | .mgmtRingSet _ _ _ => true
  | .mgmtRingPoll => true
  | .pldmPlatformMessage _ => true
  | .getVersion => true
  | .getCapabilities => true
  | .negotiateAlgorithms => true
  | .vendorDefinedRequest nonce => decide (nonce.length = 32)
  | .requestUpdate _ => true
  | .updateStageEnd _ => true
  | .recoveryUpdate _ => true
  | .rimLockstep => true
  | .sensorSample sensor _ _ => decide (sensor < 65536)
  | .clamp cause level => decide (1 ≤ cause ∧ cause ≤ 5) && decide (level ≤ 2)
  | .clampRelease cause level => decide (1 ≤ cause ∧ cause ≤ 5) && decide (level ≤ 2)
  | .drbgReseed _ => true
  | .entropyHealthFail _ => true
  | .inputApplied _ => true
  | .powerUpStep _ => true
  | .inputLost => true
  | .undervoltageLockout => true
  | .overvoltageLockout => true
  | .inputTransient _ => true
  | .eFuseTrip _ => true
  | .railFault rail kind _ => decide (rail < 28) && decide (1 ≤ kind ∧ kind ≤ 3)
  | .senseOpen rail => decide (rail < 28)
  | .pmicFault channel _ => decide (channel < 24)
  | .thermalTrip => true
  | .engineInstructionCompletes core engine => decide (core < 16) && decide (engine < 6)
  | .idle port lack => decide (port < 18) && decide (lack < 4096)
  | .trelebIdle lack => decide (lack < 4096)
  | .controlUncorrectable part => decide (part < 4)
  | .hubFault _ => true
  | .rimStart => true
  | .logRecordProgrammed => true
  | .i3cDynamicAddress addr => decide (addr < 128)
  | .stepUpTakesEffect core => decide (core < 16)

end Sys2Proof
end

