-- ==== Sys2Proof/Tests/Slice0.lean ====
section
/-!
SUPPORT. Tests: an ill-formed command for each check of WellFormed, expected results worked by hand from the manual's rules,
and for every clause of every statement a state and operands that meet its hypotheses.
-/
namespace Sys2Proof.Tests
open Sys2Proof Sys2Proof.Machine
set_option Elab.async false
set_option linter.unusedVariables false

/-! ### Small states -/

/-- A module that has started: Rim RUNNING, island OPERATIONAL, Treleb UP, every partition serving. -/
def up : State := { power := { state := 3, ready := true }, treleb := { state := 2, mmioBase := 1#64 }, rim := { state := 2 }, sec := { state := 1 } }

/-- Context 0, active in partition 0. -/
def up0 : State := { up with ctxs := [(0, { state := 1 })] }

/-- Bytes of (width, value) fields. -/
def pay (l : List (Nat × Nat)) : List Byte := l.flatMap (fun x => natLe x.1 x.2)

/-- A mailbox message of TAG 7. -/
def msg (op ctx : Nat) (l : List (Nat × Nat)) : List Byte :=
  natLe 2 op ++ natLe 2 7 ++ natLe 1 ctx ++ natLe 3 0 ++ padTo 0#8 56 (pay l)

/-- A page with one message. -/
def box (page : Nat) (s : State) (m : List Byte) : State := { s with mboxes := [(page, { inq := [m] })] }

/-- A word: CLASS, operation bits and a rest. -/
def word (cls hi : Nat) (rest : Nat := 0) : W128 := BitVec.ofNat 128 (cls * 2 ^ 124 + hi + rest)

def ker : Kernel := ⟨1, 0, 1, 0, false, true, 0, 16, .running, {}, 0, false⟩
def bd : Binding := ⟨0, 0, 0, 16, 0, 1, [], [], []⟩

/-- Core 0 at a word. -/
def coreAt (w : W128) (q : SeqState) : Core :=
  { seqs := [(0, { q with kid := 1 })], cur := 1, kernels := [ker], binds := [bd], prog := [(0, w)] }
def onCore (k : Core) : State := { up0 with cores := [(0, k)] }
def seqAt (w : W128) (q : SeqState := {}) : State := onCore (coreAt w q)
def run (w : W128) (q : SeqState := {}) : Run := ⟨0, ker, bd, w, { q with kid := 1 }⟩

/-- The kernel a core runs. -/
def rn (s : State) (c : Nat := 0) : Run := (s.running c).getD (run 0#128)

/-- Context 0 with tables at 0x1000 of the DRAM tier that map its first GiB to the first GiB of host memory. -/
def vmDram : Dram := { mem := Mem.write (Mem.write [] 0x1000 (natLe 8 0x2001)) 0x2000 (natLe 8 0x000200000000001E) }
def vm (x : Ctx) : State := { up with dram := vmDram, ctxs := [(0, { x with state := 1, ptRoot := 0x1000 })] }

/-- A ring entry of an operation, dispatched. -/
def ent (op : Nat) (l : List (Nat × Nat)) : Entry :=
  ⟨1, padTo 0#8 64 (natLe 8 1 ++ natLe 8 op ++ pay l), false, .dispatched, 0, 0, [], 0, false, false⟩
def entries (x : Ctx) (e : Entry) : Ctx := { x with entries := [e] }

/-- A descriptor of one piece of 8 bytes between two spaces, with OP in its first byte. -/
def pc1 (st : PState) : Piece := ⟨0, 0, 0, 8, st, [1#8, 2#8], [], [], [], 0, 0, 0, true, 0⟩
def desc (raw : List (Nat × Nat)) (st : PState) : Desc :=
  ⟨0, 0, 1, 0, 0, 0, padTo 0#8 64 (pay raw), [], [pc1 st], [], [], false, false, false, false, 0, [], [], 0⟩
def moving (d : Desc) (m : Mover := {}) : Core := { coreAt 0#128 {} with movers := [(0, { m with queue := [d] })] }

/-- An engine instruction of context 0 that waits in an engine queue. -/
def eop (w : W128) (a b : List Byte := []) : EngOp := ⟨0, 0, 1, 0, w, [0, 0, 0, 0], a, b, [], true⟩
def vecQ (o : EngOp) : State := onCore { coreAt 0#128 {} with vector := [o] }
/-- Main descriptors of 8 bytes from the scratchpad's 0 to 64 of a space, plain, decoding, pushing and of a FINAL. -/
def dMain (op spaces codec push : Nat) (dst : Nat := 64) : List (Nat × Nat) :=
  [(1, op), (1, spaces), (1, 1), (1, codec), (1, push), (3, 0), (8, 0), (8, dst), (4, 8), (2, 1), (2, 1)]
def dPlain := dMain 0 0 0 0
def dTile := dMain 0 16 0 0
def dVirt := dMain 0 32 0 0 0x10040
def dCodec := dMain 0 2 4 0
def dPush := dMain 0 0 0 16
def dFlag : List (Nat × Nat) := [(1, 1), (1, 16), (1, 1), (5, 0), (8, 0), (8, 64)]
def dFlagV : List (Nat × Nat) := [(1, 1), (1, 32), (1, 1), (5, 0), (8, 0), (8, 0x10040)]
def dFlagR : List (Nat × Nat) := [(1, 1), (1, 48), (1, 1), (5, 0), (8, 0), (8, 64), (4, 0), (26, 0), (2, 1)]
/-- A mover whose micro-TLB maps context 0's first GiB to the DRAM tier, and a kernel that is a COPY. -/
def virtS (d : Desc) : State := onCore (moving d { utlb := [⟨0, 0, 2 ^ 30, 0, true, true, true⟩] })
def copyS (d : Desc) : State :=
  { up with ctxs := [(0, { state := 1, entries := [ent 2 []] })], cores := [(0, { moving d with kernels := [{ ker with isCopy := true }] })] }
/-- A scale descriptor of plain BF16. -/
def bf16Desc : List Byte := padTo 0#8 32 [1#8]
def plain16 : ScaleDesc := ⟨.bf16, .none, 0, 0, 0#32, 0, 0, 0⟩
/-- A TMMA of `n` rows and columns with descriptors at 0, whose B operand is held or read. -/
def tmmaEop (held n : Nat) : EngOp := eop (word 1 0 (held * 2 ^ 120 + n * 2 ^ 106 + n * 2 ^ 98)) bf16Desc bf16Desc
def msg0 (op : Nat) (l : List (Nat × Nat)) : List Byte := msg op 0 l
/-- A message as MB_IN takes it. -/
def m512 (m : List Byte) : W512 := BitVec.ofNat 512 (leNat m)
def mbm (op : Nat) : W512 := m512 (msg op 0 [])
/-- An abort of context 0's whole ring, with the given number. -/
def ab (id scope : Nat) (seqs : List Nat := []) : Abort := ⟨id, 0, scope, seqs, [], 0, 0, none, []⟩
/-- Context 1 sends from its own page to itself; the operator's page is 64. -/
def withMsg (page op ctx : Nat) (l : List (Nat × Nat)) (s : State) : State := box page s (msg op ctx l)
def fcfgL : List (Nat × Nat) := [(1, 1), (1, 3), (2, 1), (2, 1), (2, 32), (2, 0), (2, 0), (4, 0), (8, 0), (4, 1)]
def fcfg : FloeCfg := ⟨padTo 0#8 56 (pay fcfgL)⟩

/-- An ATTN of one head over one token of sequence 0, on core 0; memory with the record, one floe and a query. -/
def entA : Entry := ent 3 []
def aBlk : List Byte := padTo 0#8 128 (pay [(6, 0), (2, 1), (8, 0), (4, 0x3F800000), (4, 1), (8, 0), (8, 0x4000), (8, 0x5000), (2, 0), (2, 1)])
def aEnt : List Byte := padTo 0#8 16 (pay [(4, 0), (4, 1)])
def aRun : AttnRun := ⟨1, aBlk, [aEnt], [0], false, [], [], 0, 0, none, 0, []⟩
def aBegun (n : Nat) : AttnRun := { aRun with begun := true, lens := [1], units := List.replicate n (0, 0), next := 1 }
def aMem : Mem := Mem.write (Mem.write [] 0 (pay [(8, 1), (8, 256), (2, 16), (1, 1)])) 256 (pay [(8, 0x3001), (4, 0x3F800000), (4, 0x3F800000)])
def aBd : Binding := { bd with slotCount := 512 }
def gib : Mover := { utlb := [⟨0, 0, 2 ^ 30, 0, true, true, true⟩] }
def aState (a : AttnRun) (us : List AttnUnit) (m : Mem := aMem) : State :=
  { up with ctxs := [(0, { state := 1, floe := some fcfg, attn := [a], entries := [entA] })], dram := { mem := m },
            cores := [(0, { cur := 1, binds := [aBd], units := us, movers := [(0, gib)] })] }

/-- A FLOE_OP of a block at 0x8000 of a context whose first GiB is the DRAM tier's; records of sequences 0, of length `n`,
and 1, of one full floe. -/
def fcfg2 : FloeCfg := ⟨padTo 0#8 56 (pay (fcfgL.dropLast ++ [(4, 2)]))⟩
def fOp (p : List (Nat × Nat)) : List Byte := padTo 0#8 64 (pay p)
def fRec : SeqRec := ⟨600, 256, 16, true⟩
def fMem (n : Nat) (p : List (Nat × Nat)) : Mem :=
  [(0x1000, natLe 8 0x2001), (0x2000, natLe 8 0x1E), (0, pay [(8, n), (8, 256), (2, 16), (1, 1)]), (32, pay [(8, 256), (8, 1024), (2, 16), (1, 1)]),
   (1024, natLe 8 0x3002), (0x600, natLe 8 0x9000), (0x8000, fOp p)].foldl (fun m x => Mem.write m x.1 x.2) []
def floeS (n : Nat) (p : List (Nat × Nat)) : State :=
  { up with dram := { mem := fMem n p }, ctxs := [(0, entries { state := 1, ptRoot := 0x1000, floe := some fcfg2 } (ent 8 [(8, 0x8000)]))] }
def floeB (n : Nat) (p : List (Nat × Nat)) : Block := (floeS n p).toBlock.feSeen 0 0x8000 64
def opInit : List (Nat × Nat) := [(1, 0), (23, 0), (8, 0x400), (2, 16)]
def opBind : List (Nat × Nat) := [(1, 1), (11, 0), (4, 1), (4, 3), (20, 0), (8, 0x600)]
def opRelease : List (Nat × Nat) := [(1, 2), (15, 0), (4, 1)]
def opTruncate : List (Nat × Nat) := [(1, 3), (47, 0), (8, 300)]
def opShare : List (Nat × Nat) := [(1, 4), (7, 0), (4, 1), (4, 1)]

/-- A word of VEC: operation and the rest. -/
def vec (op : Nat) (rest : Nat := 0) : W128 := word 2 (op * 2 ^ 116) rest
def topk : W128 := vec 0x45 (3 * 2 ^ 111 + 1 * 2 ^ 18 + 1)
def smx : W128 := vec 0x48 (3 * 2 ^ 111 + 1 * 2 ^ 106 + 2 * 2 ^ 101 + 1)

def stoch : Kernel := { ker with stoch := true }
def tuned : State := { onCore { coreAt (vec 0x51 32) {} with kernels := [stoch] } with
                       ctxs := [(0, { state := 1, tune := some ⟨1, 0, 0#64⟩ })] }

/-- TMMA of one row, one column and 32 elements of K in BF16, both descriptors at scratchpad 0. -/
def tmmaWord : W128 := word 1 (1 * 2 ^ 118 + 1 * 2 ^ 106 + 1 * 2 ^ 98 + 1 * 2 ^ 88 + 1 * 2 ^ 68)
def tmmaRegs : SeqState := { s := [(1, 64#64)] }
def tmmaState : State := onCore { coreAt tmmaWord tmmaRegs with scratch := [(0, 1#8)] }

/-- CTX_CREATE with an 8-byte ring of 64 entries and first sequence number 1; CORE_BIND of core 15. -/
def ctxF : List (Nat × Nat) := [(1, 2), (1, 0), (1, 6), (1, 0), (1, 0xFF), (3, 0), (8, 0x100000), (8, 0), (8, 0), (8, 0), (8, 1)]
def bindF : List (Nat × Nat) := [(1, 15), (1, 7), (1, 0), (1, 60), (1, 20), (1, 20), (2, 0), (2, 0), (2, 16), (2, 0), (2, 1)]

/-- Ring 4 at the top of the DRAM tier; an operation of Firn on model 15; a build; their messages. -/
def ringB : Block := ({ up with rings := [(4, { placed := some (2 ^ 48 - 64 - 32 * 2 ^ 11), log2 := 11 })] } : State).toBlock
def fop (kind : Nat) : FirnOp := ⟨kind, 7, 15, padTo 0#8 56 [], none, 0, 0, 0⟩
def build0 : Build := ⟨7, padTo 0#8 56 (pay [(8, 0), (8, 0), (8, 0), (8, 4096)]), false⟩
def varF : List (Nat × Nat) := [(8, 0), (4, 65536), (1, 0), (1, 0), (2, 0), (8, 0), (8, 4096)]
def domF : List (Nat × Nat) := [(1, 2), (1, 0), (1, 48), (1, 1), (1, 1), (1, 3), (1, 47), (1, 0), (8, 0), (8, 1)]

/-! ### The links -/

/-- Module 0 of a chain of two, in `st` of its domain, with port 0 UP. -/
def dom (st : Nat) : Domain := { state := st, sizeX := 2, sizeY := 1, sizeZ := 1, idValid := true, master := 1, parallel := 1 }
def joined (st : Nat) : State := { up with weave := { domain := dom st, ports := [(0, { state := 2, delay := 10 })] } }
def follows (t : Time) : State := { joined 2 with time := t, weave := { domain := { dom 2 with parent := some 0 }, ports := [(0, { state := 2, delay := 10 })] } }
/-- A request of module 1 for window 5 at offset 0. -/
def pkt : Pkt := ⟨0, 0, 0, true, false, 0, 0, 0, 1, 5, 0, 0, 0, 0, 0⟩
/-- A tile window of context 0 that admits module 1, and the module it is open on. -/
def win : Window := ⟨5, 0, true, true, 0, 4096, [(1, none)], []⟩
def opened (gs : List GroupEnt) : State :=
  { joined 2 with ctxs := [(0, { state := 1 })], parts := [(0, { ranges := [(0, 0, 1)] })],
                  weave := { (joined 2).weave with windows := [win], groups := gs } }
def live1 (k : Nat) : LiveReq := ⟨0, 0, k, 0, 0, 0, 1, 5, 0, 0, 0, [], some 5⟩
def asked (k : Nat) (d : Desc) : State :=
  { joined 2 with ctxs := [(0, { state := 1 })], cores := [(0, { moving d with live := [live1 k] })] }
/-- A REMOTE atomic sent out; a descriptor that reads virtual memory; a pending fault; an operator's long operation. -/
def dOut : Desc := { desc [(1, 2), (1, 48), (1, 1)] .pending with sentOut := true }
def dRd (st : PState) : Desc := desc (dMain 0 2 0 0) st
def flt (written : Bool) : PendFault := ⟨1, 0, 0, 0, 0, 1, 1, 0, 0, written, false, false, false⟩
def longOp (op : Nat) : LongOp := ⟨op, 7, 0, [], [], [], false⟩
def gEnt : GroupEnt := ⟨1, 0, 0, 5, 0, 0, false, 1, none, 0⟩
def inv (w : InvalFor) : Invalidation := ⟨0, 0, 65536, [], w, 0⟩
def mig : Migration := ⟨1, 0, 0, 0, 0x2008, 0, 0, 0x100000, 65536, 0, 8⟩
def jobF : List (Nat × Nat) := [(2, 1), (2, 0), (4, 250), (8, 0), (4, 0), (4, 1), (8, 0)]
def winF : List (Nat × Nat) := [(2, 6), (1, 1), (1, 1), (2, 0), (2, 1), (8, 0), (8, 64), (8, 0)]
/-- An ENC block of two raw bytes. -/
def encD : List Byte := pay [(2, 2), (2, 2), (4, 1), (2, 7)]
/-- The stream 0 parked on an access. -/
def parkedAt (p : Park) (d : Desc) : State :=
  { vm {} with cores := [(0, moving d { park := p })], faults := { queueAddr := some 0, ctrlAddr := 0x100000 } }
def walkAt (va pte : Nat) (l : List (Nat × Nat) := []) : State :=
  { parkedAt (.walk va 1) (dRd .pending) with dram := { mem := l.foldl (fun m x => Mem.write m x.1 (natLe 8 x.2)) (Mem.write vmDram.mem 0x2008 (natLe 8 pte)) } }
def hostAt (k : ReqKind) (acc : Nat := 7) : State :=
  { parkedAt (.host 0 acc 9) (dRd .pending) with treleb := { state := 2, mmioBase := 1#64, reqs := [(⟨9, k, 0, 0, [], [], 0⟩ : Req)] } }
def req9 (k : ReqKind) : Req := ⟨9, k, 0, 0, [], [], 0⟩
def at9 (s : State) (k : ReqKind) : State := { s with treleb := { state := 2, mmioBase := 1#64, reqs := [req9 k] } }
def replyS (action : Nat) : State :=
  withMsg 64 0x702 0 [(8, 0), (2, 1), (6, 0), (8, 1)]
    { parkedAt (.fault 1) (dRd .pending) with hostMem := Mem.write [] 0 (pay [(4, 1), (1, action)]), faults := { queueAddr := some 0, ctrlAddr := 262144, write := 1, pending := [flt true] } }

/-! ### The board -/

def tre (t : Treleb) : State := { up with treleb := t }
def ap : State := tre { state := 2, mmioBase := 1#64, dramBase := 1#64 }
def snooped : State := tre { state := 2, snoops := [(5, 0)] }
def rimS (r : Rim) : State := { up with rim := { r with state := 2 } }
def rec1 : LogRec := ⟨0, 1, 0x410, 0, 0, 0, 0, 0, 0⟩
def ring0 : MgmtRing := ⟨0x1000, 0x10000, 0, 0, 0⟩
def upd (stage : Nat) (img : List Byte := []) : Update := ⟨stage, img.length, img, 0⟩
def updS (u : Update) : State := rimS { update := some u }
def att (page : Option Nat) (report : List Byte) (len : Nat) : Attest := ⟨page, 7, [], report, 0x1000, len, 0⟩
def attS (a : Attest) : State := { up with sec := { state := 1, queue := [a] } }
def starting (n : Nat) : State := { up with power := { state := 1, step := n }, dram := { chans := (List.range 24).map (fun i => (i, { trained := true })) } }
def training (retried : Bool) : State := { up with power := { state := 3, step := 5 }, dram := { chans := [(23, { retried := retried })] } }

/-! ### Hypotheses of the statements, met -/

theorem test_hyps_StepRunsTheFrontCommand :
  (∃ (s : State) (c : Instr) (rest : List Instr),
    (s.pending = c :: rest)) :=
  ⟨{ up with pending := [.masterLost, .domainReady] }, .masterLost, [.domainReady], by decide +kernel⟩

theorem test_hyps_TheQueueRunsInOrder :
  (∃ (cs : List Instr) (rest : List Instr) (s : State),
    (s.pending = cs ++ rest)) ∧
  (∃ (s : State),
    (s.pending = [])) :=
  ⟨⟨[.masterLost], [.domainReady], { up with pending := [.masterLost, .domainReady] }, by decide +kernel⟩,
   ⟨up, by decide +kernel⟩⟩

theorem test_hyps_ScalarFormsWriteTheirResults :
  (∃ (s : State) (r : Run),
    (s.Issues 0 (0x200 + 0x00) r)) ∧
  (∃ (s : State) (r : Run),
    (s.Issues 0 (0x200 + 0x08) r)) ∧
  (∃ (core : Nat) (s : State) (r : Run),
    (s.Issues core 0x20D r) ∧ (((r.x + r.y).toNat % 8 = 0 ∧ (r.x + r.y).toNat < 4096 ∧
      poisonedIn 16 r.bind.paramBad (r.x + r.y).toNat 8 = []))) ∧
  (∃ (core : Nat) (s : State) (r : Run),
    (s.Issues core 0x20E r) ∧ (r.y.toNat < r.q.loops.length)) ∧
  (∃ (core : Nat) (s : State) (r : Run),
    (s.Issues core 0x20F r) ∧ (True)) ∧
  (∃ (q : SeqState) (n : Nat) (v : W64),
    (n ≠ 0) ∧ (n < 80)) ∧
  (∃ (q : SeqState) (n : Nat) (m : Nat) (v : W64),
    (n < 80) ∧ (m < 80) ∧ (m ≠ n)) ∧
  (∃ (q : SeqState) (n : Nat) (m : Nat) (v : W64),
    (n ≠ 0) ∧ (n < 80)) :=
  ⟨⟨seqAt (word 2 0 (79 * 2 ^ 109 + 79 * 2 ^ 102)) { a := [(15, 5#64)] }, run (word 2 0 (79 * 2 ^ 109 + 79 * 2 ^ 102)) { a := [(15, 5#64)] },
            by decide +kernel⟩,
   ⟨seqAt (word 2 (8 * 2 ^ 116) (2 * 2 ^ 109 + 2 ^ 94 + 63)) { s := [(0, 0#64), (1, 5#64)] }, run (word 2 (8 * 2 ^ 116) (2 * 2 ^ 109 + 2 ^ 94 + 63)) { s := [(0, 0#64), (1, 5#64)] },
             by decide +kernel⟩,
   ⟨0, seqAt (word 2 (13 * 2 ^ 116) (2 ^ 109 + 2 ^ 94 + 4088)), run (word 2 (13 * 2 ^ 116) (2 ^ 109 + 2 ^ 94 + 4088)), by decide +kernel⟩,
   ⟨0, seqAt (word 2 (14 * 2 ^ 116) (2 ^ 109)) { loops := [⟨2, 7, 1, 2, none, none⟩] }, run (word 2 (14 * 2 ^ 116) (2 ^ 109)) { loops := [⟨2, 7, 1, 2, none, none⟩] },
             by decide +kernel⟩,
   ⟨0, seqAt (word 2 (15 * 2 ^ 116) (2 ^ 109)), run (word 2 (15 * 2 ^ 116) (2 ^ 109)), by decide +kernel⟩,
   ⟨{ bad := [79] }, 79, 5#64, by decide +kernel⟩,
   ⟨{}, 1, 79, 5#64, by decide +kernel⟩,
   ⟨{ bad := [2, 79] }, 79, 79, 5#64, by decide +kernel⟩⟩

theorem test_hyps_LoopsAndBranchesMoveThePc :
  (∃ (q : SeqState),
    (∀ l ∈ q.loops.head?, l.last ≠ q.pc)) ∧
  (∃ (q : SeqState) (l : LoopLevel) (rest : List LoopLevel),
    (q.loops = l :: rest) ∧ (l.last = q.pc) ∧ (1 < l.remaining)) ∧
  (∃ (q : SeqState) (l : LoopLevel) (rest : List LoopLevel),
    (q.loops = l :: rest) ∧ (l.last = q.pc) ∧ (l.remaining ≤ 1)) ∧
  (∃ (core : Nat) (s : State) (r : Run),
    (s.Issues core 0x700 r) ∧ ((1 ≤ wf_ r.word 119 104 ∧ wf_ r.word 119 104 ≤ 32767 ∧ 1 ≤ r.loopCount ∧ r.loopCount < 2 ^ 32 ∧
      r.q.pc + wf_ r.word 119 104 < r.ker.words ∧
      (∀ l ∈ r.q.loops.head?, r.q.pc + wf_ r.word 119 104 ≤ l.last) ∧ r.q.loops.length < 4))) ∧
  (∃ (core : Nat) (s : State) (r : Run),
    (s.Issues core 0x700 r) ∧ ((1 ≤ wf_ r.word 119 104 ∧ wf_ r.word 119 104 ≤ 32767 ∧ r.loopCount = 0 ∧
      r.q.pc + wf_ r.word 119 104 < r.ker.words ∧
      (∀ l ∈ r.q.loops.head?, r.q.pc + wf_ r.word 119 104 ≤ l.last)))) ∧
  (∃ (core : Nat) (s : State) (r : Run),
    (s.Issues core 0x800 r) ∧ ((wf_ r.word 123 120 ≤ 6 ∧ brTaken (wf_ r.word 123 120) (r.q.sreg (wf_ r.word 119 114)) r.brY ∧
      0 ≤ (r.q.pc : Int) + signed 20 (wf_ r.word 106 87) ∧ (r.q.pc : Int) + signed 20 (wf_ r.word 106 87) < r.ker.words))) ∧
  (∃ (core : Nat) (s : State) (r : Run),
    (s.Issues core 0x800 r) ∧ (wf_ r.word 123 120 ≤ 6 ∧ brTaken (wf_ r.word 123 120) (r.q.sreg (wf_ r.word 119 114)) r.brY = false)) :=
  ⟨⟨{ pc := 32767, loops := [⟨2, 0, 1, 2, none, none⟩] }, by decide +kernel⟩,
   ⟨{ pc := 2, loops := [⟨2, 0, 1, 2, none, none⟩] }, ⟨2, 0, 1, 2, none, none⟩, [], by decide +kernel⟩,
   ⟨{ pc := 2, loops := [⟨1, 0, 1, 2, none, none⟩] }, ⟨1, 0, 1, 2, none, none⟩, [], by decide +kernel⟩,
   ⟨0, seqAt (word 7 0 (15 * 2 ^ 104 + 1 * 2 ^ 32)), rn (seqAt (word 7 0 (15 * 2 ^ 104 + 1 * 2 ^ 32))), by decide +kernel⟩,
   ⟨0, seqAt (word 7 0 (15 * 2 ^ 104)), rn (seqAt (word 7 0 (15 * 2 ^ 104))), by decide +kernel⟩,
   ⟨0, seqAt (word 8 0 (15 * 2 ^ 87)), rn (seqAt (word 8 0 (15 * 2 ^ 87))), by decide +kernel⟩,
   ⟨0, seqAt (word 8 (2 * 2 ^ 120)), rn (seqAt (word 8 (2 * 2 ^ 120))), by decide +kernel⟩⟩

theorem test_hyps_TagsGuardSlots :
  (∃ (core : Nat) (s : State) (r : Run) (slots : List Nat),
    (s.Issues core 0x504 r) ∧ (tagSlots r = .ok slots)) ∧
  (∃ (core : Nat) (s : State) (r : Run) (slots : List Nat),
    (s.Issues core 0x502 r) ∧ (tagSlots r = .ok slots)) ∧
  (∃ (core : Nat) (s : State) (r : Run) (slots : List Nat),
    (s.Issues core 0x503 r) ∧ (tagSlots r = .ok slots)) ∧
  (∃ (core : Nat) (s : State) (r : Run) (slots : List Nat),
    (s.Issues core 0x505 r) ∧ (tagSlots r = .ok slots)) ∧
  (∃ (full : Bool) (core : Nat) (s : State) (r : Run) (slots : List Nat),
    (s.Issues core (if full then 0x500 else 0x501) r) ∧ (tagSlots r = .ok slots)) ∧
  (∃ (full : Bool) (core : Nat) (s : State) (r : Run) (slots : List Nat),
    (s.Issues core (if full then 0x500 else 0x501) r) ∧ (tagSlots r = .ok slots)) ∧
  (∃ (core : Nat) (s : State) (o : TagOp) (rest : List TagOp),
    (s.coreUp core = true) ∧ ((s.core core).tagOps = o :: rest) ∧ ((s.core core).computeDone o.id = true)) :=
  ⟨⟨0, seqAt (word 5 (4 * 2 ^ 120) (2 * 2 ^ 96)), rn (seqAt (word 5 (4 * 2 ^ 120) (2 * 2 ^ 96))), [0, 1], by decide +kernel⟩,
   ⟨0, seqAt (word 5 (2 * 2 ^ 120) (2 * 2 ^ 96)), rn (seqAt (word 5 (2 * 2 ^ 120) (2 * 2 ^ 96))), [0, 1], by decide +kernel⟩,
   ⟨0, seqAt (word 5 (3 * 2 ^ 120) (2 * 2 ^ 96)), rn (seqAt (word 5 (3 * 2 ^ 120) (2 * 2 ^ 96))), [0, 1], by decide +kernel⟩,
   ⟨0, seqAt (word 5 (5 * 2 ^ 120) (2 * 2 ^ 96)), rn (seqAt (word 5 (5 * 2 ^ 120) (2 * 2 ^ 96))), [0, 1], by decide +kernel⟩,
   ⟨true, 0, seqAt (word 5 0 (2 * 2 ^ 96)), rn (seqAt (word 5 0 (2 * 2 ^ 96))), [0, 1], by decide +kernel⟩,
   ⟨false, 0, seqAt (word 5 (1 * 2 ^ 120) (2 * 2 ^ 96)), rn (seqAt (word 5 (1 * 2 ^ 120) (2 * 2 ^ 96))), [0, 1], by decide +kernel⟩,
   ⟨0, onCore { tagOps := [⟨0, 0, true, [3]⟩] }, ⟨0, 0, true, [3]⟩, [], by decide +kernel⟩⟩

theorem test_hyps_TileQueuesAreFirstInFirstOut :
  (∃ (core : Nat) (s : State) (r : Run) (l : List W32),
    (s.Issues core 0x600 r) ∧ (s.queueOf core r.bind (wf_ r.word 121 117) = some l) ∧ (l.length < 64) ∧
              ((s.core core).computeDone (s.core core).issueCtr = true)) ∧
  (∃ (core : Nat) (s : State) (r : Run) (l : List W32),
    (s.Issues core 0x600 r) ∧ (s.queueOf core r.bind (wf_ r.word 121 117) = some l) ∧
              (64 ≤ l.length ∨ (s.core core).computeDone (s.core core).issueCtr = false)) ∧
  (∃ (core : Nat) (s : State) (r : Run) (l : List W32),
    (s.Issues core 0x602 r) ∧ (s.queueOf core r.bind (wf_ r.word 121 117) = some l) ∧ ((s.core core).computeDone (s.core core).issueCtr = true)) ∧
  (∃ (core : Nat) (s : State) (r : Run) (l : List W32),
    (s.Issues core 0x602 r) ∧ (s.queueOf core r.bind (wf_ r.word 121 117) = some l) ∧ ((s.core core).computeDone (s.core core).issueCtr = false)) ∧
  (∃ (core : Nat) (s : State) (r : Run) (h : W32) (l : List W32),
    (s.Issues core 0x601 r) ∧ (s.queueOf core r.bind (wf_ r.word 121 117) = some (h :: l))) ∧
  (∃ (core : Nat) (s : State) (r : Run),
    (s.Issues core 0x601 r) ∧ (s.queueOf core r.bind (wf_ r.word 121 117) = some [])) ∧
  (∃ (core : Nat) (s : State) (r : Run) (h : W32) (l : List W32),
    (s.Issues core 0x603 r) ∧ (s.queueOf core r.bind (wf_ r.word 121 117) = some (h :: l))) ∧
  (∃ (core : Nat) (s : State) (r : Run) (h : W32) (l : List W32),
    (s.Issues core 0x603 r) ∧ (s.queueOf core r.bind (wf_ r.word 121 117) = some (h :: l))) ∧
  (∃ (core : Nat) (s : State) (r : Run),
    (s.Issues core 0x603 r) ∧ (s.queueOf core r.bind (wf_ r.word 121 117) = some [])) :=
  ⟨⟨0, onCore { coreAt (word 6 0) {} with hq := [(0, List.replicate 63 0#32)] },
            rn (onCore { coreAt (word 6 0) {} with hq := [(0, List.replicate 63 0#32)] }), List.replicate 63 0#32, by decide +kernel⟩,
   ⟨0, onCore { coreAt (word 6 0) {} with hq := [(0, List.replicate 64 0#32)] },
             rn (onCore { coreAt (word 6 0) {} with hq := [(0, List.replicate 64 0#32)] }), List.replicate 64 0#32, by decide +kernel⟩,
   ⟨0, onCore { coreAt (word 6 (2 * 2 ^ 122)) {} with hq := [(0, [])] }, rn (onCore { coreAt (word 6 (2 * 2 ^ 122)) {} with hq := [(0, [])] }), [],
             by decide +kernel⟩,
   ⟨0, onCore { coreAt (word 6 (2 * 2 ^ 122)) {} with hq := [(0, [])], issueCtr := 1, vector := [eop (word 2 (0x24 * 2 ^ 116))] },
             rn (onCore { coreAt (word 6 (2 * 2 ^ 122)) {} with hq := [(0, [])], issueCtr := 1, vector := [eop (word 2 (0x24 * 2 ^ 116))] }), [],
             by decide +kernel⟩,
   ⟨0, onCore { coreAt (word 6 (1 * 2 ^ 122)) {} with hq := [(0, [7#32])] },
             rn (onCore { coreAt (word 6 (1 * 2 ^ 122)) {} with hq := [(0, [7#32])] }), 7#32, [], by decide +kernel⟩,
   ⟨0, onCore { coreAt (word 6 (1 * 2 ^ 122)) {} with hq := [(0, [])] }, rn (onCore { coreAt (word 6 (1 * 2 ^ 122)) {} with hq := [(0, [])] }),
             by decide +kernel⟩,
   ⟨0, onCore { coreAt (word 6 (3 * 2 ^ 122)) {} with hq := [(0, [7#32])] },
             rn (onCore { coreAt (word 6 (3 * 2 ^ 122)) {} with hq := [(0, [7#32])] }), 7#32, [], by decide +kernel⟩,
   ⟨0, onCore { coreAt (word 6 (3 * 2 ^ 122) (5 * 2 ^ 105 + 5 * 2 ^ 111)) {} with hq := [(0, [7#32])] },
             rn (onCore { coreAt (word 6 (3 * 2 ^ 122) (5 * 2 ^ 105 + 5 * 2 ^ 111)) {} with hq := [(0, [7#32])] }), 7#32, [], by decide +kernel⟩,
   ⟨0, onCore { coreAt (word 6 (3 * 2 ^ 122)) {} with hq := [(0, [])] }, rn (onCore { coreAt (word 6 (3 * 2 ^ 122)) {} with hq := [(0, [])] }),
             by decide +kernel⟩⟩

theorem test_hyps_WaitsEndWhenTheirConditionHolds :
  (∃ (core : Nat) (s : State) (r : Run),
    (s.Issues core 0x900 r) ∧ ((wf_ r.word 123 120 = 0 ∧
      (r.q.sreg (wf_ r.word 103 98)).toNat ≤ (SMap.get 0#64 (s.ctx r.ctx).events (wf_ r.word 119 108)).toNat))) ∧
  (∃ (core : Nat) (s : State) (r : Run),
    (s.Issues core 0x900 r) ∧ ((wf_ r.word 123 120 = 0 ∧
      (SMap.get 0#64 (s.ctx r.ctx).events (wf_ r.word 119 108)).toNat < (r.q.sreg (wf_ r.word 103 98)).toNat))) ∧
  (∃ (core : Nat) (s : State) (r : Run),
    (s.Issues core 0x900 r) ∧ (wf_ r.word 123 120 = 8 ∧ (r.q.sreg (wf_ r.word 103 98)).toNat ≤ s.counter (arrIsl core))) ∧
  (∃ (core : Nat) (s : State) (r : Run),
    (s.Issues core 0x900 r) ∧ (wf_ r.word 123 120 = 8 ∧ s.counter (arrIsl core) < (r.q.sreg (wf_ r.word 103 98)).toNat)) ∧
  (∃ (core : Nat) (s : State) (r : Run),
    (s.Issues core 0x900 r) ∧ ((s.waitAt core = .event ∧ wf_ r.word 123 120 = 0 ∧
      (r.q.sreg (wf_ r.word 103 98)).toNat ≤ (SMap.get 0#64 (s.ctx r.ctx).events (wf_ r.word 119 108)).toNat))) ∧
  (∃ (core : Nat) (s : State) (r : Run) (x : Nat) (isl : Nat),
    (s.Issues core 0x900 r) ∧ (wf_ r.word 123 122 = 1) ∧ (bits (r.q.areg (wf_ r.word 107 104)).toNat 63 56 ≤ 1) ∧
              ((r.q.areg (wf_ r.word 107 104)).toNat % 8 = 0) ∧ (s.readFlag core r.ctx (r.q.areg (wf_ r.word 107 104)) = .ok (x, isl)) ∧
              (if bit r.word.toNat 120 then x = (r.q.sreg (wf_ r.word 103 98)).toNat else (r.q.sreg (wf_ r.word 103 98)).toNat ≤ x)) ∧
  (∃ (core : Nat) (s : State) (r : Run) (x : Nat) (isl : Nat),
    (s.Issues core 0x900 r) ∧ (wf_ r.word 123 122 = 1) ∧ (bits (r.q.areg (wf_ r.word 107 104)).toNat 63 56 ≤ 1) ∧
              ((r.q.areg (wf_ r.word 107 104)).toNat % 8 = 0) ∧ (s.readFlag core r.ctx (r.q.areg (wf_ r.word 107 104)) = .ok (x, isl)) ∧
              (if bit r.word.toNat 120 then x ≠ (r.q.sreg (wf_ r.word 103 98)).toNat else x < (r.q.sreg (wf_ r.word 103 98)).toNat)) ∧
  (∃ (core : Nat) (s : State) (r : Run) (x : Nat),
    (s.Issues core 0x900 r) ∧ (s.waitAt core = .flagHost) ∧ (wf_ r.word 123 120 = 4) ∧ (bits (r.q.areg (wf_ r.word 107 104)).toNat 63 56 ≤ 1) ∧
              ((r.q.areg (wf_ r.word 107 104)).toNat % 8 = 0) ∧ (s.readFlag core r.ctx (r.q.areg (wf_ r.word 107 104)) = .ok (x, trelebIsl)) ∧
              ((r.q.sreg (wf_ r.word 103 98)).toNat ≤ x)) ∧
  (∃ (core : Nat) (s : State) (r : Run) (slots : List Nat),
    (s.Issues core 0x502 r) ∧ (s.coreUp core = true) ∧ (s.waitAt core = .tag) ∧ (tagSlots r = .ok slots) ∧
              (∀ x ∈ slots, (s.core core).full (physSlot (s.core core).swap x) = true)) ∧
  (∃ (core : Nat) (s : State) (r : Run) (h : W32) (l : List W32),
    (s.Issues core 0x601 r) ∧ (s.waitAt core = .hq) ∧ (s.queueOf core r.bind (wf_ r.word 121 117) = some (h :: l))) :=
  ⟨⟨0, seqAt (word 9 0), rn (seqAt (word 9 0)), by decide +kernel⟩,
   ⟨0, seqAt (word 9 0 (1 * 2 ^ 98)) { s := [(1, 5#64)] }, rn (seqAt (word 9 0 (1 * 2 ^ 98)) { s := [(1, 5#64)] }), by decide +kernel⟩,
   ⟨0, seqAt (word 9 (8 * 2 ^ 120)), rn (seqAt (word 9 (8 * 2 ^ 120))), by decide +kernel⟩,
   ⟨0, seqAt (word 9 (8 * 2 ^ 120) (1 * 2 ^ 98)) { s := [(1, 5#64)] }, rn (seqAt (word 9 (8 * 2 ^ 120) (1 * 2 ^ 98)) { s := [(1, 5#64)] }),
             by decide +kernel⟩,
   ⟨0, seqAt (word 9 0) { wait := .event }, rn (seqAt (word 9 0) { wait := .event }), by decide +kernel⟩,
   ⟨0, { seqAt (word 9 (4 * 2 ^ 120)) { a := [(0, (BitVec.ofNat 64 (2^56)))] } with parts := [(0, { ranges := [(0, 0, 1)] })] },
             rn ({ seqAt (word 9 (4 * 2 ^ 120)) { a := [(0, (BitVec.ofNat 64 (2^56)))] } with parts := [(0, { ranges := [(0, 0, 1)] })] }), 0, fabIsl 0,
             by decide +kernel⟩,
   ⟨0, { seqAt (word 9 (4 * 2 ^ 120) (1 * 2 ^ 98)) { a := [(0, (BitVec.ofNat 64 (2^56)))], s := [(1, 5#64)] } with parts := [(0, { ranges := [(0, 0, 1)] })] },
             rn ({ seqAt (word 9 (4 * 2 ^ 120) (1 * 2 ^ 98)) { a := [(0, (BitVec.ofNat 64 (2^56)))], s := [(1, 5#64)] } with parts := [(0, { ranges := [(0, 0, 1)] })] }), 0, fabIsl 0,
             by decide +kernel⟩,
   ⟨0, { vm {} with cores := [(0, coreAt (word 9 (4 * 2 ^ 120)) { wait := .flagHost })] },
             rn ({ vm {} with cores := [(0, coreAt (word 9 (4 * 2 ^ 120)) { wait := .flagHost })] }), 0, by decide +kernel⟩,
   ⟨0, onCore { coreAt (word 5 (2 * 2 ^ 120) (2 * 2 ^ 96)) { wait := .tag } with tags := [0, 1] },
             rn (onCore { coreAt (word 5 (2 * 2 ^ 120) (2 * 2 ^ 96)) { wait := .tag } with tags := [0, 1] }), [0, 1], by decide +kernel⟩,
   ⟨0, onCore { coreAt (word 6 (1 * 2 ^ 122)) { wait := .hq } with hq := [(0, [7#32])] },
             rn (onCore { coreAt (word 6 (1 * 2 ^ 122)) { wait := .hq } with hq := [(0, [7#32])] }), 7#32, [], by decide +kernel⟩⟩

theorem test_hyps_MarksAndStamps :
  (∃ (core : Nat) (s : State) (r : Run),
    (s.Issues core 0xA00 r) ∧ (wf_ r.word 119 118 ≤ 1)) ∧
  (∃ (core : Nat) (s : State) (r : Run),
    (s.Issues core 0xB00 r)) :=
  ⟨⟨0, seqAt (word 10 (3 * 2 ^ 120)), rn (seqAt (word 10 (3 * 2 ^ 120))), by decide +kernel⟩,
   ⟨0, seqAt (word 11 0), rn (seqAt (word 11 0)), by decide +kernel⟩⟩

theorem test_hyps_KernelsEndAtHaltOrRefusal :
  (∃ (core : Nat) (s : State) (r : Run),
    (s.Issues core 0x000 r)) ∧
  (∃ (core : Nat) (id : Nat) (f : Run → Block) (b : Block) (r : Run) (c : Nat),
    (b.running core = some r) ∧ ((b.core core).wordBad r = false) ∧ (wordId r.word = none)) ∧
  (∃ (core : Nat) (id : Nat) (f : Run → Block) (b : Block) (r : Run),
    (b.running core = some r) ∧ ((b.core core).wordBad r = false) ∧ (wordId r.word = none)) ∧
  (∃ (core : Nat) (id : Nat) (f : Run → Block) (b : Block) (r : Run),
    (b.running core = some r) ∧ ((b.core core).wordBad r = true)) :=
  ⟨⟨0, seqAt (word 0 0), rn (seqAt (word 0 0)), by decide +kernel⟩,
   ⟨0, 0, fun _ => ({} : Block), (seqAt (word 15 0)).toBlock, rn (seqAt (word 15 0)), 15, by decide +kernel⟩,
   ⟨0, 0, fun _ => ({} : Block), (seqAt (word 15 0)).toBlock, rn (seqAt (word 15 0)), by decide +kernel⟩,
   ⟨0, 0, fun _ => ({} : Block), (onCore { coreAt (word 0 0) {} with progBad := [0] }).toBlock,
             rn (onCore { coreAt (word 0 0) {} with progBad := [0] }), by decide +kernel⟩⟩

theorem test_hyps_EngineFormsIssue :
  (∃ (core : Nat) (s : State) (r : Run),
    (s.Issues core (0x200 + 0x22) r) ∧ (vecCheck s.toBlock r = none) ∧ (((s.core core).engineQ 1).length < engineDepth 1)) ∧
  (∃ (core : Nat) (s : State) (r : Run),
    (s.Issues core (0x200 + 0x25) r) ∧ (vecCheck s.toBlock r = none) ∧ (((s.core core).engineQ 1).length < engineDepth 1)) ∧
  (∃ (core : Nat) (s : State) (r : Run),
    (s.Issues core (0x200 + 0x30) r) ∧ (vecCheck s.toBlock r = none) ∧ (((s.core core).engineQ 1).length < engineDepth 1)) ∧
  (∃ (core : Nat) (s : State) (r : Run),
    (s.Issues core (0x200 + 0x40) r) ∧ (vecCheck s.toBlock r = none) ∧ (((s.core core).engineQ 1).length < engineDepth 1)) ∧
  (∃ (core : Nat) (s : State) (r : Run),
    (s.Issues core (0x200 + 0x45) r) ∧ (vecCheck s.toBlock r = none) ∧ (((s.core core).engineQ 1).length < engineDepth 1)) ∧
  (∃ (core : Nat) (s : State) (r : Run),
    (s.Issues core (0x200 + 0x48) r) ∧ (vecCheck s.toBlock r = none) ∧ (((s.core core).engineQ 1).length < engineDepth 1)) ∧
  (∃ (core : Nat) (s : State) (r : Run),
    (s.Issues core (0x200 + 0x20) r) ∧ (vecCheck s.toBlock r = none) ∧ (((s.core core).engineQ 1).length < engineDepth 1)) ∧
  (∃ (core : Nat) (s : State) (r : Run),
    (s.Issues core (0x200 + 0x21) r) ∧ (vecCheck s.toBlock r = none) ∧ (((s.core core).engineQ 1).length < engineDepth 1)) ∧
  (∃ (core : Nat) (s : State) (r : Run),
    (s.Issues core (0x200 + 0x50) r) ∧ (vecCheck s.toBlock r = none) ∧ (((s.core core).engineQ 1).length < engineDepth 1)) ∧
  (∃ (core : Nat) (s : State) (r : Run),
    (s.Issues core (0x200 + 0x51) r) ∧ (vecCheck s.toBlock r = none) ∧ (((s.core core).engineQ 1).length < engineDepth 1)) ∧
  (∃ (core : Nat) (s : State) (r : Run),
    (s.Issues core (0x200 + 0x52) r) ∧ (vecCheck s.toBlock r = none) ∧ (((s.core core).engineQ 1).length < engineDepth 1)) ∧
  (∃ (core : Nat) (s : State) (r : Run),
    (s.Issues core 0x100 r) ∧ ((tmmaCheck (s.core core) r
      [(r.q.areg (wf_ r.word 97 94)).toNat, (r.q.sreg (wf_ r.word 93 88)).toNat, (r.q.sreg (wf_ r.word 87 82)).toNat,
       (r.q.areg (wf_ r.word 77 74)).toNat, (r.q.sreg (wf_ r.word 73 68)).toNat, (r.q.sreg (wf_ r.word 67 62)).toNat]
      ((s.core core).scratchBytes (s.core core).swap (r.q.areg (wf_ r.word 81 78)).toNat 32)
      ((s.core core).scratchBytes (s.core core).swap (r.q.areg (wf_ r.word 61 58)).toNat 32) = none)) ∧
                (((s.core core).engineQ 0).length < engineDepth 0)) ∧
  (∃ (core : Nat) (s : State) (r : Run),
    (s.Issues core (0x300 + 0) r) ∧ (1 ≤ wf_ r.word 109 100 ∧ wf_ r.word 109 100 ≤ 512) ∧ (((s.core core).engineQ 2).length < engineDepth 2)) ∧
  (∃ (core : Nat) (s : State) (r : Run),
    (s.Issues core (0x300 + 6) r) ∧ (1 ≤ wf_ r.word 109 100 ∧ wf_ r.word 109 100 ≤ 512) ∧ (((s.core core).engineQ 2).length < engineDepth 2)) :=
  ⟨⟨0, seqAt (vec 0x22), rn (seqAt (vec 0x22)), by decide +kernel⟩,
   ⟨0, seqAt (vec 0x25), rn (seqAt (vec 0x25)), by decide +kernel⟩,
   ⟨0, seqAt (vec 0x30 1), rn (seqAt (vec 0x30 1)), by decide +kernel⟩,
   ⟨0, seqAt (vec 0x40 1), rn (seqAt (vec 0x40 1)), by decide +kernel⟩,
   ⟨0, seqAt topk, rn (seqAt topk), by decide +kernel⟩,
   ⟨0, seqAt smx, rn (seqAt smx), by decide +kernel⟩,
   ⟨0, seqAt (vec 0x20 1), rn (seqAt (vec 0x20 1)), by decide +kernel⟩,
   ⟨0, seqAt (vec 0x21 1), rn (seqAt (vec 0x21 1)), by decide +kernel⟩,
   ⟨0, seqAt (vec 0x50 32), rn (seqAt (vec 0x50 32)), by decide +kernel⟩,
   ⟨0, tuned, rn (tuned), by decide +kernel⟩,
   ⟨0, seqAt (vec 0x52 32), rn (seqAt (vec 0x52 32)), by decide +kernel⟩,
   ⟨0, tmmaState, rn (tmmaState), by decide +kernel⟩,
   ⟨0, seqAt (word 3 (0 * 2 ^ 120 + 512 * 2 ^ 100)), rn (seqAt (word 3 (0 * 2 ^ 120 + 512 * 2 ^ 100))), by decide +kernel⟩,
   ⟨0, seqAt (word 3 (6 * 2 ^ 120 + 512 * 2 ^ 100)), rn (seqAt (word 3 (6 * 2 ^ 120 + 512 * 2 ^ 100))), by decide +kernel⟩⟩

theorem test_hyps_VectorFormsComplete :
  (∃ (q : SeqState) (w : W128) (sv : Nat) (v : Nat) (i : Nat),
    (wf_ w 123 116 = 0x30 ∧ nelem w ≤ 512 ∧ v < 32 ∧ i < 512)) ∧
  (∃ (q : SeqState) (w : W128) (sv : Nat) (v : Nat) (i : Nat),
    (wf_ w 123 116 = 0x39 ∧ nelem w ≤ 512 ∧ v < 32 ∧ i < 512)) ∧
  (∃ (q : SeqState) (w : W128) (sv : Nat) (v : Nat) (i : Nat),
    (wf_ w 123 116 = 0x3B ∧ nelem w ≤ 512 ∧ v < 32 ∧ i < 512)) ∧
  (∃ (q : SeqState) (w : W128) (sv : Nat) (v : Nat) (i : Nat),
    (wf_ w 123 116 = 0x24 ∧ nelem w ≤ 512 ∧ v < 32 ∧ i < 512)) ∧
  (∃ (core : Nat) (s : State) (o : EngOp) (rest : List EngOp),
    (s.HeadRuns core 1 o rest) ∧ (0x222 ≤ o.op) ∧ (o.op ≤ 0x248)) ∧
  (∃ (core : Nat) (s : State) (o : EngOp) (rest : List EngOp),
    (s.HeadRuns core 2 o rest) ∧ (0x300 ≤ o.op)) ∧
  (∃ (q : SeqState) (w : W128) (f : SfuFn) (v : Nat) (i : Nat),
    (SfuFn.ofCode (wf_ w 123 120) = some f) ∧ (wf_ w 109 100 ≤ 512) ∧ (v < 32) ∧ (i < 512)) ∧
  (∃ (core : Nat) (s : State) (o : EngOp) (rest : List EngOp),
    (s.HeadRuns core 1 o rest) ∧ (o.op = 0x221) ∧ (o.swap = [])) ∧
  (∃ (core : Nat) (s : State) (o : EngOp) (rest : List EngOp),
    (s.HeadRuns core 1 o rest) ∧ (o.op = 0x220)) :=
  ⟨⟨{}, vec 0x30 512, 0, 0, 511, by decide +kernel⟩,
   ⟨{}, vec 0x39 512, 0x3F800000, 0, 511, by decide +kernel⟩,
   ⟨{}, vec 0x3B 512, 256, 0, 256, by decide +kernel⟩,
   ⟨{}, vec 0x24 512, 0, 31, 511, by decide +kernel⟩,
   ⟨0, vecQ (eop (word 2 (0x24 * 2 ^ 116))), eop (word 2 (0x24 * 2 ^ 116)), [], by decide +kernel⟩,
   ⟨0, onCore { coreAt 0#128 {} with sfu := [eop (word 3 0)] }, eop (word 3 0), [], by decide +kernel⟩,
   ⟨{}, word 3 0, .exp2, 0, 511, by decide +kernel⟩,
   ⟨0, vecQ (eop (word 2 (0x21 * 2 ^ 116))), eop (word 2 (0x21 * 2 ^ 116)), [], by decide +kernel⟩,
   ⟨0, vecQ (eop (word 2 (0x20 * 2 ^ 116))), eop (word 2 (0x20 * 2 ^ 116)), [], by decide +kernel⟩⟩

theorem test_hyps_TmmaAccumulates :
  (∃ (core : Nat) (s : State) (o : EngOp) (rest : List EngOp) (d1 : ScaleDesc) (h : Hold),
    ((s.HeadRuns core 0 o rest) ∧ (o.op = 0x100) ∧ (ScaleDesc.parse o.descA = some d1) ∧ (∀ x ∈ (s.core core).old, x.1 ≠ o.kid) ∧
              (wf_ o.word 113 106 ≤ 128) ∧ (wf_ o.word 105 98 ≤ 128)) ∧
              (if bit o.word.toNat 120 then ((s.core core).seq o.ctx).hold = some h else ∃ d2, ScaleDesc.parse o.descB = some d2 ∧
              h = ⟨wf_ o.word 105 98, d2.elem, d2.bscale, (s.core core).operandCodes o.swap (tmmaB o.word o.vals d2), (s.core core).operandScales o.swap (tmmaB o.word o.vals d2)⟩)) ∧
  (∃ (core : Nat) (s : State) (o : EngOp) (rest : List EngOp) (d1 : ScaleDesc) (h : Hold),
    ((s.HeadRuns core 0 o rest) ∧ (o.op = 0x100) ∧ (ScaleDesc.parse o.descA = some d1) ∧ (∀ x ∈ (s.core core).old, x.1 ≠ o.kid) ∧
              (wf_ o.word 113 106 ≤ 128) ∧ (wf_ o.word 105 98 ≤ 128)) ∧
              (if bit o.word.toNat 120 then ((s.core core).seq o.ctx).hold = some h else ∃ d2, ScaleDesc.parse o.descB = some d2 ∧
              h = ⟨wf_ o.word 105 98, d2.elem, d2.bscale, (s.core core).operandCodes o.swap (tmmaB o.word o.vals d2), (s.core core).operandScales o.swap (tmmaB o.word o.vals d2)⟩)) :=
  ⟨⟨0, onCore { coreAt 0#128 {} with array := [tmmaEop 0 1] }, tmmaEop 0 1, [], plain16, ⟨1, .bf16, .none, (coreAt 0#128 {}).operandCodes [] (tmmaB (tmmaEop 0 1).word [0, 0, 0, 0] plain16), (coreAt 0#128 {}).operandScales [] (tmmaB (tmmaEop 0 1).word [0, 0, 0, 0] plain16)⟩, by decide +kernel, (by rw [if_neg (by decide +kernel)]; exact ⟨plain16, by decide +kernel⟩)⟩,
   ⟨0, onCore { coreAt 0#128 { hold := some ⟨128, .bf16, .none, [], []⟩ } with array := [tmmaEop 1 128] }, tmmaEop 1 128, [], plain16, ⟨128, .bf16, .none, [], []⟩, by decide +kernel, (by rw [if_pos (by decide +kernel)]; decide +kernel)⟩⟩

theorem test_hyps_EngineStopReportsTheInstruction :
  (∃ (core : Nat) (engine : Nat) (s : State) (o : EngOp) (rest : List EngOp) (e : Nat × Nat) (ker : Kernel),
    (s.coreUp core = true) ∧ (engine ≤ 2) ∧ ((s.core core).engineQ engine = o :: rest) ∧ ((s.core core).headReady o = true) ∧
              (s.engineFault core o = some e) ∧ ((s.core core).kernels.find? (fun x => x.kid == o.kid) = some ker) ∧
              (ker.state = .running ∨ ker.state = .halted)) :=
  ⟨0, 1, onCore { coreAt 0#128 {} with vector := [eop (word 2 (0x20 * 2 ^ 116) 1)], poison := [0] }, eop (word 2 (0x20 * 2 ^ 116) 1), [], (stData, 9), ker,
            by decide +kernel⟩

theorem test_hyps_KernelsStartEndAndSwitch :
  (∃ (core : Nat) (s : State) (bd : Binding) (w : Waiting),
    (s.coreUp core = true) ∧ ((s.core core).busy = false) ∧ (s.nextReady core = some bd) ∧ (s.mayTake core bd.ctx = true) ∧
              ((s.core core).runs bd.ctx = false) ∧ ((s.core core).units.any (fun u => u.ctx == bd.ctx) = false) ∧
              ((s.core core).waiting.find? (fun x => x.ctx == bd.ctx) = some w) ∧ ((s.ctx bd.ctx).holdsCore core w.seq = false)) ∧
  (∃ (core : Nat) (s : State) (ker : Kernel),
    (s.coreUp core = true) ∧
              ((s.core core).kernels.find? (fun x => (x.state == .halted || x.state == .stopped) && !x.done && (s.core core).drained x.kid) = some ker)) ∧
  (∃ (core : Nat) (s : State) (bd : Binding),
    (s.coreUp core = true) ∧ ((s.core core).cur ≠ 0) ∧ (s.aborting ((s.core core).cur - 1) = false) ∧ (s.nextReady core = some bd) ∧
              (bd.ctx + 1 ≠ (s.core core).cur) ∧ (s.mayTake core bd.ctx = true) ∧ ((s.core core).runs bd.ctx = true)) :=
  ⟨⟨0, onCore { binds := [bd], waiting := [(⟨0, 1, 5, 0, 0, 1, List.replicate 64 0#8, [0#128], [], false⟩ : Waiting)] }, bd, ⟨0, 1, 5, 0, 0, 1, List.replicate 64 0#8, [0#128], [], false⟩,
            by decide +kernel⟩,
   ⟨0, onCore { coreAt 0#128 {} with kernels := [{ ker with state := .halted }] }, { ker with state := .halted }, by decide +kernel⟩,
   ⟨0, onCore { seqs := [(0, { kid := 1 }), (1, { kid := 2 })], cur := 1, lastPos := some 0, kernels := [ker, { ker with kid := 2, ctx := 1 }], binds := [bd, { bd with ctx := 1, pos := 1 }] }, { bd with ctx := 1, pos := 1 },
             by decide +kernel⟩⟩

theorem test_hyps_MovQueuesItsDescriptor :
  (∃ (core : Nat) (s : State) (r : Run),
    (s.Issues core 0x400 r) ∧ (let k := s.core core; (let w := r.word; (let m := wf_ w 123 122;
              (let a := ((r.q.areg (wf_ w 121 118)).toNat + 64 * wf_ w 117 102) % 2 ^ 64; (let len := descLen (k.scratchBytes k.swap a 64);
              (let raw := k.scratchBytes k.swap a len;
              (let raw := if bit w.toNat 101 then patch raw 8 (natLe 8 (r.q.areg (wf_ w 100 97)).toNat) else raw;
              (let raw := if bit w.toNat 96 then patch raw 16 (natLe 8 (r.q.areg (wf_ w 95 92)).toNat) else raw;
              (let d := newDesc r.ctx r.ker.kid r.ker.step r.q.pc (wf_ w 91 76) raw k.swap; ((k.mover m).queue.length < 64) ∧ (a % 64 = 0) ∧
              (r.bind.holds a 64 = true) ∧ (r.bind.holds a len = true) ∧ (k.scratchBad k.swap a len = []) ∧
              (s.descRefusal core r.bind d = none))))))))))) ∧
  (∃ (core : Nat) (s : State) (r : Run),
    (s.Issues core 0x400 r) ∧ (64 ≤ ((s.core core).mover (wf_ r.word 123 122)).queue.length)) :=
  ⟨⟨0, onCore { coreAt (word 4 0) {} with scratch := Mem.write [] 0 (natLe 1 0 ++ natLe 1 0 ++ natLe 1 1 ++ natLe 5 0 ++ natLe 8 0 ++ natLe 8 64 ++ natLe 4 8 ++ natLe 2 1 ++ natLe 2 1 ++ natLe 32 0) },
            rn (onCore { coreAt (word 4 0) {} with scratch := Mem.write [] 0 (natLe 1 0 ++ natLe 1 0 ++ natLe 1 1 ++ natLe 5 0 ++ natLe 8 0 ++ natLe 8 64 ++ natLe 4 8 ++ natLe 2 1 ++ natLe 2 1 ++ natLe 32 0) }),
            by decide +kernel⟩,
   ⟨0, onCore { coreAt (word 4 0) {} with movers := [(0, { queue := List.replicate 64 (desc [] .pending) })] },
             rn (onCore { coreAt (word 4 0) {} with movers := [(0, { queue := List.replicate 64 (desc [] .pending) })] }), by decide +kernel⟩⟩

theorem test_hyps_MoversMoveTheirPieces :
  (∃ (core : Nat) (m : Nat) (s : State) (d : Desc) (i : Nat) (p : Piece) (seen : Sys2Proof.SSet),
    (s.coreUp core = true) ∧ (m < 4) ∧ (((s.core core).mover m).park = .none) ∧ (((s.core core).mover m).nextPending = some (d, i, p)) ∧
              (∀ x ∈ ((s.core core).mover m).marks, d.id ≤ x.id ∨ (s.core core).markMet x = true) ∧
              (((s.core core).mover m).credits + p.credits ≤ 256) ∧ ((s.core core).credits + p.credits ≤ 512) ∧
              ((s.core core).srcTags d (d.srcRanges p) = some seen) ∧ (d.dstSp = 3 → s.targetOk d = true) ∧ (d.decodes = false) ∧
              (d.convert = false) ∧ (s.readWaits core m d [(d.srcSp, p.src, p.len)] = false) ∧ (((s.core core).mover m).serves d p = none) ∧
              (d.srcSp ≤ 1)) ∧
  (∃ (core : Nat) (m : Nat) (i : Nat) (s : State) (d : Desc) (p : Piece),
    (State.PlainLanding s core m i d p 0) ∧ (p.state = .fetched) ∧ (d.decodes = false)) ∧
  (∃ (core : Nat) (m : Nat) (i : Nat) (s : State) (d : Desc) (p : Piece),
    (State.PlainLanding s core m i d p 1) ∧ (p.state = .fetched) ∧ (d.decodes = false)) ∧
  (∃ (core : Nat) (m : Nat) (i : Nat) (s : State) (d : Desc) (p : Piece) (pa : Nat),
    (State.PlainLanding s core m i d p 2) ∧ (p.state = .fetched) ∧ (d.decodes = false) ∧
              (s.needs core m d.ctx [((d.dstRow p.row + p.off) % 2 ^ 64, p.data.length)] true = .go [((d.dstRow p.row + p.off) % 2 ^ 64, p.data.length, pa)]) ∧
              (bits pa 51 48 = 0) ∧ (s.shareFree core 1 (if acrossLink core pa then p.data.length else 0) = true)) ∧
  (∃ (core : Nat) (m : Nat) (i : Nat) (s : State) (d : Desc) (p : Piece),
    (State.PlainLanding s core m i d p 0) ∧ (p.state = .reading) ∧ (p.open_ = 0) ∧ (d.decodes = true) ∧ (p.err = 0)) :=
  ⟨⟨0, 0, onCore (moving (desc dPlain .pending)), desc dPlain .pending, 0, pc1 .pending, [], by decide +kernel⟩,
   ⟨0, 0, 0, onCore (moving (desc dPlain .fetched)), desc dPlain .fetched, pc1 .fetched, by decide +kernel⟩,
   ⟨0, 0, 0, onCore (moving (desc dTile .fetched)), desc dTile .fetched, pc1 .fetched, by decide +kernel⟩,
   ⟨0, 0, 0, virtS (desc dVirt .fetched), desc dVirt .fetched, pc1 .fetched, 0x10040, by decide +kernel⟩,
   ⟨0, 0, 0, onCore (moving (desc dCodec .reading)), desc dCodec .reading, pc1 .reading, by decide +kernel⟩⟩

theorem test_hyps_DescriptorsEnd :
  (∃ (core : Nat) (m : Nat) (s : State) (d : Desc),
    (s.coreUp core = true) ∧ (m < 4) ∧ (((s.core core).mover m).landHead = some d) ∧ (d.op = 1) ∧ (d.dstSp = 1) ∧
              ((s.core core).earlierLanded d = true)) ∧
  (∃ (core : Nat) (m : Nat) (s : State) (d : Desc) (pa : Nat),
    (s.coreUp core = true) ∧ (m < 4) ∧ (((s.core core).mover m).landHead = some d) ∧ (d.op = 1) ∧ (d.dstSp = 2) ∧
              ((s.core core).earlierLanded d = true) ∧ (s.needs core m d.ctx [(d.dst, 8)] true = .go [(d.dst, 8, pa)]) ∧ (bits pa 51 48 = 0) ∧
              (s.shareFree core 1 (if acrossLink core pa then 8 else 0) = true)) ∧
  (∃ (core : Nat) (m : Nat) (s : State) (d : Desc),
    (s.coreUp core = true) ∧ (m < 4) ∧ (((s.core core).mover m).landHead = some d) ∧ (d.op = 1 ∨ d.op = 2) ∧ (d.dstSp = 3) ∧ (s.targetOk d = true) ∧
              (d.op = 1 → (s.core core).groupSent d = true ∧ ((s.core core).live.filter (fun r => r.kind == 1)).length < 64) ∧
              ((s.core core).live.length < 512) ∧ (s.shareFree core 2 8 = true) ∧ (d.target ≠ s.self)) ∧
  (∃ (core : Nat) (m : Nat) (s : State) (d : Desc) (rest : List Desc),
    (s.coreUp core = true) ∧ (m < 4) ∧ (((s.core core).mover m).queue = d :: rest) ∧ (d.landed = true) ∧ (d.push = false) ∧
              (∀ k ∈ (s.core core).kernels, k.kid = d.kid → k.isCopy = false)) ∧
  (∃ (core : Nat) (m : Nat) (s : State) (d : Desc) (rest : List Desc) (bd : Binding) (l : List W32),
    (s.coreUp core = true) ∧ (m < 4) ∧ (((s.core core).mover m).queue = d :: rest) ∧ (d.landed = true) ∧ (d.push = true) ∧
              ((s.core core).bind? d.ctx = some bd) ∧ (s.queueOf core bd d.qsel = some l) ∧ (l.length < 64) ∧
              (∀ k ∈ (s.core core).kernels, k.kid = d.kid → k.isCopy = false)) ∧
  (∃ (core : Nat) (m : Nat) (s : State) (d : Desc) (rest : List Desc) (ker : Kernel) (e : Entry),
    (s.coreUp core = true) ∧ (m < 4) ∧ (((s.core core).mover m).queue = d :: rest) ∧ (d.landed = true) ∧ (d.push = false) ∧
              ((s.core core).kernels.find? (fun x => x.kid == d.kid && x.isCopy) = some ker) ∧ ((s.ctx ker.ctx).entry? ker.seq = some e) ∧
              (e.state ≠ .finished) ∧ (e.state ≠ .completed) ∧ (e.held = false) ∧ ((s.ctx ker.ctx).inStep e = false)) ∧
  (∃ (core : Nat) (ctx : Nat) (s : State) (t0 : Nat),
    ((((s.core core).dyingOf ctx).map (·.endedAt)).min? = some t0)) :=
  ⟨⟨0, 0, onCore (moving (desc dFlag .pending)), desc dFlag .pending, by decide +kernel⟩,
   ⟨0, 0, virtS (desc dFlagV .pending), desc dFlagV .pending, 0x10040, by decide +kernel⟩,
   ⟨0, 0, { onCore (moving (desc dFlagR .pending)) with weave := { domain := { idValid := true, sizeX := 2, sizeY := 1, sizeZ := 1 } } }, desc dFlagR .pending,
             by decide +kernel⟩,
   ⟨0, 0, onCore (moving (desc dPlain .landed)), desc dPlain .landed, [], by decide +kernel⟩,
   ⟨0, 0, onCore { moving (desc dPush .landed) with hq := [(0, [])] }, desc dPush .landed, [], bd, [], by decide +kernel⟩,
   ⟨0, 0, copyS (desc dPlain .landed), desc dPlain .landed, [], { ker with isCopy := true }, ent 2 [], by decide +kernel⟩,
   ⟨0, 0, onCore { coreAt 0#128 {} with movers := [(0, { dying := [desc dPlain .pending] })] }, 0, by decide +kernel⟩⟩

theorem test_hyps_RingEntriesAreTaken :
  (∃ (ctx : Nat) (v : W64) (s : State),
    (ctx < 64) ∧ (s.mmioOn = true) ∧ ((s.ctx ctx).state ≠ 0) ∧ ((s.ctx ctx).latch < v.toNat)) ∧
  (∃ (ctx : Nat) (s : State) (raw : List Byte),
    (ctx < 64) ∧ (s.serves ctx = true) ∧ ((s.ctx ctx).gap = false) ∧ ((s.ctx ctx).latch = (s.ctx ctx).last + 1) ∧
              (((s.ctx ctx).entries.filter (fun e => e.state == .accepted)).length < 1024) ∧ ((s.ctx ctx).step = .none) ∧
              (∀ e ∈ (s.ctx ctx).entries.head?, e.state ≠ .completed) ∧
              (s.hostGet ((s.ctx ctx).ringBase + 64 * (s.ctx ctx).fetchSlot) 64 = some raw) ∧ (fld raw 0 8 = (s.ctx ctx).last + 1)) ∧
  (∃ (ctx : Nat) (s : State) (raw : List Byte),
    (ctx < 64) ∧ (s.serves ctx = true) ∧ ((s.ctx ctx).gap = false) ∧ ((s.ctx ctx).latch = (s.ctx ctx).last + 1) ∧
              (((s.ctx ctx).entries.filter (fun e => e.state == .accepted)).length < 1024) ∧ ((s.ctx ctx).step = .none) ∧
              (∀ e ∈ (s.ctx ctx).entries.head?, e.state ≠ .completed) ∧
              (s.hostGet ((s.ctx ctx).ringBase + 64 * (s.ctx ctx).fetchSlot) 64 = some raw) ∧ ((s.ctx ctx).last + 1 < fld raw 0 8)) ∧
  (∃ (ctx : Nat) (s : State) (e : Entry),
    (s.serves ctx = true) ∧ ((s.ctx ctx).state = 1) ∧ ((s.ctx ctx).entries.find? (fun e => e.state == .accepted) = some e) ∧
              ((s.ctx ctx).mayDispatch e = true) ∧
              (let x := (s.ctx ctx).modEntry e.seq (fun y => { y with state := .dispatched, step := (s.ctx ctx).curStep }); (e.refused = false) ∧
              (e.op ≠ 3))) ∧
  (∃ (ctx : Nat) (s : State) (e : Entry) (p : List Byte),
    (s.serves ctx = true) ∧ ((s.ctx ctx).state = 1) ∧ ((s.ctx ctx).entries.find? (fun e => e.state == .accepted) = some e) ∧
              ((s.ctx ctx).mayDispatch e = true) ∧
              (let x := (s.ctx ctx).modEntry e.seq (fun y => { y with state := .dispatched, step := (s.ctx ctx).curStep }); (e.refused = false) ∧
              (e.op = 3) ∧ (s.feStall ctx [(fld e.raw 16 8, 128)] 1 = none) ∧ (s.feRead ctx (fld e.raw 16 8) 128 = .ok p))) ∧
  (∃ (ctx : Nat) (s : State) (e : Entry),
    (s.serves ctx = true) ∧ ((s.ctx ctx).state = 1) ∧ ((s.ctx ctx).entries.find? (fun e => e.state == .accepted) = some e) ∧
              ((s.ctx ctx).mayDispatch e = true) ∧
              (let x := (s.ctx ctx).modEntry e.seq (fun y => { y with state := .dispatched, step := (s.ctx ctx).curStep }); (e.refused = true))) ∧
  (∃ (ctx : Nat) (s : State) (e : Entry),
    (s.RingTurn ctx 4 e) ∧ (∀ y ∈ (s.ctx ctx).entries, y.seq < e.seq → y.past = true) ∧ (fld e.raw 16 2 ≤ 4095)) ∧
  (∃ (ctx : Nat) (s : State) (e : Entry),
    (s.RingTurn ctx 5 e) ∧ (fld e.raw 16 2 ≤ 4095) ∧ (fld e.raw 24 8 ≤ ((s.ctx ctx).event (fld e.raw 16 2)).toNat)) ∧
  (∃ (ctx : Nat) (s : State) (e : Entry),
    (s.RingTurn ctx 5 e) ∧ (fld e.raw 16 2 ≤ 4095) ∧ (((s.ctx ctx).event (fld e.raw 16 2)).toNat < fld e.raw 24 8)) ∧
  (∃ (b : Block) (ctx : Nat) (e : Entry) (st : Nat) (det : List Byte),
    ((b.ctx ctx).entry? e.seq = some e) ∧ (e.state ≠ .finished) ∧ (e.state ≠ .completed) ∧ (e.held = false) ∧ ((b.ctx ctx).inStep e = false) ∧
              (let x := b.ctx ctx; (let y := (b.finishEntry ctx e.seq st det).ctx ctx;
              (let es := x.entries.map (fun y => if y.seq = e.seq then { y with state := .completed, status := st, detail := det, stamp := (b.stamp (fabIsl x.part) 0).1, held := false } else y);
              (let cov := es.takeWhile (fun y => y.state == .completed); True))))) ∧
  (∃ (b : Block) (ctx : Nat) (e : Entry) (det : List Byte),
    ((b.ctx ctx).entry? e.seq = some e) ∧ (e.state ≠ .finished) ∧ (e.state ≠ .completed) ∧ ((b.ctx ctx).inStep e = true) ∧
              ((b.ctx ctx).step = .opened)) :=
  ⟨⟨0, 5, up0, by decide +kernel⟩,
   ⟨0, { vm { ringLog2 := 6, latch := 1 } with hostMem := [(0, 1#8)] }, natLe 8 1 ++ natLe 56 0, by decide +kernel⟩,
   ⟨0, { vm { ringLog2 := 6, latch := 1 } with hostMem := [(0, 2#8)] }, natLe 8 2 ++ natLe 56 0, by decide +kernel⟩,
   ⟨0, vm (entries {} { ent 4 [] with state := .accepted }), { ent 4 [] with state := .accepted }, by decide +kernel⟩,
   ⟨0, vm (entries {} { ent 3 [] with state := .accepted }), { ent 3 [] with state := .accepted }, natLe 128 0, by decide +kernel⟩,
   ⟨0, vm (entries {} { ent 99 [] with state := .accepted, refused := true }), { ent 99 [] with state := .accepted, refused := true },
             by decide +kernel⟩,
   ⟨0, vm (entries {} (ent 4 [(2, 4095)])), ent 4 [(2, 4095)], by decide +kernel⟩,
   ⟨0, vm (entries {} (ent 5 [(2, 4095)])), ent 5 [(2, 4095)], by decide +kernel⟩,
   ⟨0, vm (entries {} (ent 5 [(2, 4095), (6, 0), (8, 1)])), ent 5 [(2, 4095), (6, 0), (8, 1)], by decide +kernel⟩,
   ⟨(vm (entries {} (ent 4 []))).toBlock, 0, ent 4 [], 0x40, [1#8], by decide +kernel⟩,
   ⟨(vm (entries { step := .opened } { ent 4 [] with step := 1 })).toBlock, 0, { ent 4 [] with step := 1 }, [], by decide +kernel⟩⟩

theorem test_hyps_LaunchAndCopyStartTheirWork :
  (∃ (ctx : Nat) (s : State) (e : Entry) (h : List Byte) (w : List W128) (p : List Byte),
    ((s.RingTurn ctx 1 e) ∧ (let cores := maskCores (fld e.raw 32 2); (let img := fld e.raw 16 8; (cores ≠ []) ∧
              (∀ c ∈ cores, ((s.core c).bind? ctx).isSome = true) ∧ (img % 64 = 0) ∧ (s.feStall ctx [(img, 64)] 1 = none) ∧
              (s.feRead ctx img 64 = .ok h) ∧ (headerOk h = true) ∧ (s.imageFits ctx (fld h 0 4) cores = true) ∧
              (fld h 10 2 ≠ 0 → fld e.raw 24 8 % 8 = 0) ∧ (bit (fld h 9 1) 0 = true → (s.ctx ctx).tune.isSome = true) ∧
              (if fld h 10 2 = 0 then p = [] else s.feStall ctx [(fld e.raw 24 8, fld h 10 2)] 1 = none ∧
              s.feRead ctx (fld e.raw 24 8) (fld h 10 2) = .ok p)))) ∧ (let cores := maskCores (fld e.raw 32 2); let img := fld e.raw 16 8;
              (if (∀ c ∈ cores, s.residentOn ctx c ((h.drop 16).take 32) = true) then w = s.residentWords ctx (cores.headD 0) ((h.drop 16).take 32) else s.feStall ctx [(img + 64, 16 * fld h 0 4)] 1 = none ∧
              ∃ d, s.feRead ctx (img + 64) (16 * fld h 0 4) = .ok d ∧ sha256 d = (h.drop 16).take 32 ∧ w = imageWords (fld h 0 4) d))) ∧
  (∃ (ctx : Nat) (s : State) (e : Entry) (bd : Binding) (main : List Byte) (raw : List Byte),
    (s.serves ctx = true) ∧ (((s.ctx ctx).turns 2).find? (s.copyTurn ctx) = some e) ∧ (let addr := fld e.raw 16 8; (let core := fld e.raw 24 1;
              (let m := fld e.raw 25 1; (let k := ((s.core core).clearSwap bd).dropPrefetch (fun _ => true);
              (let d := newDesc ctx s.kidCtr (s.ctx ctx).curStep 0 (fld e.raw 26 2) raw k.swap; (core < 16) ∧ ((s.core core).bind? ctx = some bd) ∧
              (m ≤ 3) ∧ (addr % 64 = 0) ∧ (s.feStall ctx [(addr, 64)] 1 = none) ∧ (s.feRead ctx addr 64 = .ok main) ∧
              (s.feStall ctx [(addr, descLen main)] 1 = none) ∧ (s.feRead ctx addr (descLen main) = .ok raw) ∧
              (s.descRefusal core bd d = none))))))) :=
  ⟨⟨0, { vm (entries {} (ent 1 [(8, 0), (8, 0), (2, 1)])) with hostMem := Mem.write [] 0 (pay [(4, 1), (4, 0), (1, 2)]), cores := [(0, { binds := [{ bd with resident := [⟨List.replicate 32 0#8, 0, 1, 0, 0⟩] }] })] }, ent 1 [(8, 0), (8, 0), (2, 1)], padTo 0#8 64 (pay [(4, 1), (4, 0), (1, 2)]), ({ vm (entries {} (ent 1 [(8, 0), (8, 0), (2, 1)])) with hostMem := Mem.write [] 0 (pay [(4, 1), (4, 0), (1, 2)]), cores := [(0, { binds := [{ bd with resident := [⟨List.replicate 32 0#8, 0, 1, 0, 0⟩] }] })] }).residentWords 0 0 (List.replicate 32 0#8), [], by decide +kernel, (by dsimp only; rw [if_pos (by decide +kernel)]; decide +kernel)⟩,
   ⟨0, { vm (entries {} (ent 2 [(8, 64), (1, 0), (1, 3), (2, 0)])) with hostMem := Mem.write [] 64 (padTo 0#8 64 (pay dPlain)), cores := [(0, { binds := [bd] })] }, ent 2 [(8, 64), (1, 0), (1, 3), (2, 0)], bd, padTo 0#8 64 (pay dPlain), padTo 0#8 64 (pay dPlain),
             by decide +kernel⟩⟩

theorem test_hyps_FloeOperationsRun :
  (∃ (ctx : Nat) (s : State) (e : Entry) (f : FloeCfg) (p : List Byte) (b : Block) (r : SeqRec),
    (s.RingTurn ctx 8 e) ∧ (s.FloeBlock ctx e f p 0) ∧ (b = s.toBlock.feSeen ctx (fld e.raw 16 8) 64) ∧ (((b.floeInit ctx f p)).2 = none)) ∧
  (∃ (ctx : Nat) (s : State) (e : Entry) (f : FloeCfg) (p : List Byte) (b : Block) (r : SeqRec),
    (s.RingTurn ctx 8 e) ∧ (s.FloeBlock ctx e f p 1) ∧ (FloeFound s ctx e f p b r) ∧ ((Block.floeBind b ctx f r p).2 = none)) ∧
  (∃ (ctx : Nat) (s : State) (e : Entry) (f : FloeCfg) (p : List Byte) (b : Block) (r : SeqRec),
    (s.RingTurn ctx 8 e) ∧ (s.FloeBlock ctx e f p 2) ∧ (FloeFound s ctx e f p b r) ∧ ((Block.floeRelease b ctx f r p).2 = none)) ∧
  (∃ (ctx : Nat) (s : State) (e : Entry) (f : FloeCfg) (p : List Byte) (b : Block) (r : SeqRec),
    (s.RingTurn ctx 8 e) ∧ (s.FloeBlock ctx e f p 3) ∧ (FloeFound s ctx e f p b r) ∧ ((Block.floeTruncate b ctx f r p).2 = none)) ∧
  (∃ (ctx : Nat) (s : State) (e : Entry) (f : FloeCfg) (p : List Byte) (b : Block) (r : SeqRec) (er : OpErr),
    (s.RingTurn ctx 8 e) ∧ (s.FloeBlock ctx e f p 3) ∧ (FloeFound s ctx e f p b r) ∧ ((Block.floeTruncate b ctx f r p).2 = some er ∧
              er.st < stWait)) ∧
  (∃ (ctx : Nat) (s : State) (e : Entry) (f : FloeCfg) (p : List Byte) (b : Block) (r : SeqRec),
    (s.RingTurn ctx 8 e) ∧ (s.FloeBlock ctx e f p 4) ∧ (FloeFound s ctx e f p b r) ∧ ((Block.floeShare b ctx f r p).2 = none)) ∧
  (∃ (b : Block) (c : Block) (ctx : Nat) (f : FloeCfg) (p : List Byte),
    (fld p 24 8 % 64 = 0) ∧ (fld p 24 8 < 2 ^ 56) ∧ (1 ≤ fld p 32 2) ∧ (fld p 32 2 ≤ 4096) ∧
              (b.opWrite ctx none (fld p 24 8) (List.replicate (16 * fld p 32 2 * f.layers) 0#8) = (c, none))) ∧
  (∃ (b : Block) (ctx : Nat) (f : FloeCfg) (r : SeqRec) (p : List Byte) (d : List Byte),
    ((fld p 2 2 < f.layers) ∧ (fld p 2 2 ≠ 0xFFFF) ∧ (fld p 12 4 = 1) ∧ (fld p 16 4 < r.cap) ∧ (b.opRead ctx none (fld p 40 8) 8 [0, 1, 2] = .ok d) ∧
              (fld d 0 8 ≠ 0) ∧ (fld d 0 8 % 4096 = 0) ∧ (fld d 0 8 < 2 ^ 56)) ∧ (∃ x, b.floeEnt ctx none f r (fld p 16 4) (fld p 2 2) = .ok x ∧
              x.state = 0)) ∧
  (∃ (b : Block) (ctx : Nat) (f : FloeCfg) (r : SeqRec) (p : List Byte),
    ((b.floeRelease ctx f r p).2 = none) ∧ (256 * fld p 16 4 < r.len)) ∧
  (∃ (b : Block) (ctx : Nat) (f : FloeCfg) (r : SeqRec) (p : List Byte),
    ((b.floeTruncate ctx f r p).2 = none) ∧ (fld p 48 8 < r.len)) ∧
  (∃ (b : Block) (ctx : Nat) (f : FloeCfg) (r : SeqRec) (p : List Byte),
    ((b.floeShare ctx f r p).2 = none) ∧ (fld p 12 4 ≠ 0)) ∧
  (∃ (b : Block) (ctx : Nat) (f : FloeCfg) (p : List Byte),
    (fld p 24 8 % 64 ≠ 0 ∨ fld p 32 2 = 0 ∨ 4096 < fld p 32 2)) ∧
  (∃ (b : Block) (ctx : Nat) (f : FloeCfg) (r : SeqRec) (p : List Byte),
    (r.cap < fld p 16 4 + fld p 12 4 ∨ (f.layers ≤ fld p 2 2 ∧ fld p 2 2 ≠ 0xFFFF))) ∧
  (∃ (b : Block) (ctx : Nat) (f : FloeCfg) (r : SeqRec) (p : List Byte),
    (r.cap ≤ fld p 16 4)) ∧
  (∃ (b : Block) (ctx : Nat) (f : FloeCfg) (r : SeqRec) (p : List Byte),
    (r.len < fld p 48 8)) ∧
  (∃ (b : Block) (ctx : Nat) (f : FloeCfg) (r : SeqRec) (p : List Byte),
    (f.seqs ≤ fld p 8 4)) :=
  ⟨⟨0, floeS 600 opInit, ent 8 [(8, 0x8000)], fcfg2, fOp opInit, floeB 600 opInit, fRec, by decide +kernel⟩,
   ⟨0, floeS 600 opBind, ent 8 [(8, 0x8000)], fcfg2, fOp opBind, floeB 600 opBind, fRec, by decide +kernel⟩,
   ⟨0, floeS 600 opRelease, ent 8 [(8, 0x8000)], fcfg2, fOp opRelease, floeB 600 opRelease, fRec, by decide +kernel⟩,
   ⟨0, floeS 600 opTruncate, ent 8 [(8, 0x8000)], fcfg2, fOp opTruncate, floeB 600 opTruncate, fRec, by decide +kernel⟩,
   ⟨0, floeS 200 opTruncate, ent 8 [(8, 0x8000)], fcfg2, fOp opTruncate, floeB 200 opTruncate, { fRec with len := 200 }, .of stInvalid,
             by decide +kernel⟩,
   ⟨0, floeS 0 opShare, ent 8 [(8, 0x8000)], fcfg2, fOp opShare, floeB 0 opShare, { fRec with len := 0 }, by decide +kernel⟩,
   ⟨floeB 600 opInit, (floeB 600 opInit).opWrite 0 none 0x400 (List.replicate 256 0#8) |>.1, 0, fcfg2, fOp opInit, by decide +kernel⟩,
   ⟨floeB 600 opBind, 0, fcfg2, fRec, fOp opBind, natLe 8 0x9000, by decide +kernel, ⟨⟨0, 0, 0, 0⟩, by decide +kernel⟩⟩,
   ⟨floeB 600 opRelease, 0, fcfg2, fRec, fOp opRelease, by decide +kernel⟩,
   ⟨floeB 600 opTruncate, 0, fcfg2, fRec, fOp opTruncate, by decide +kernel⟩,
   ⟨floeB 0 opShare, 0, fcfg2, { fRec with len := 0 }, fOp opShare, by decide +kernel⟩,
   ⟨up.toBlock, 0, fcfg, fOp [(24, 0), (8, 1)], by decide +kernel⟩,
   ⟨up.toBlock, 0, fcfg, ⟨0, 0, 4, true⟩, fOp [(12, 0), (4, 1), (4, 4)], by decide +kernel⟩,
   ⟨up.toBlock, 0, fcfg, ⟨0, 0, 4, true⟩, fOp [(12, 0), (4, 1), (4, 4)], by decide +kernel⟩,
   ⟨up.toBlock, 0, fcfg, ⟨0, 0, 4, true⟩, fOp [(48, 0), (8, 1)], by decide +kernel⟩,
   ⟨up.toBlock, 0, fcfg, ⟨0, 0, 4, true⟩, fOp [(8, 0), (4, 1)], by decide +kernel⟩⟩

theorem test_hyps_AttnRunsItsUnits :
  (∃ (ctx : Nat) (s : State) (e : Entry) (f : FloeCfg) (a : AttnRun),
    ((s.RingTurn ctx 3 e) ∧ ((s.ctx ctx).floe = some f) ∧ ((s.ctx ctx).attn.find? (fun x => x.seq == e.seq) = some a) ∧ (a.batch ≠ []) ∧
              (a.next = 0) ∧ (a.cores = aCores a.block) ∧ (s.attnBlock ctx e a = none) ∧ (s.attnMayBegin ctx a = true) ∧ (aAppend a.block = false) ∧
              (attnUnits a.block a.batch ≠ [])) ∧ (∀ t ∈ a.batch, ∃ r, s.seqRec ctx (some (a.cores.headD 0)) f (fld t 0 4) = .ok r ∧ r.live = true ∧
              fld t 4 4 ≤ r.len + ((s.ctx ctx).append (fld t 0 4) (aLayer a.block)).count)) ∧
  (∃ (core : Nat) (s : State) (u : AttnUnit) (f : FloeCfg) (a : AttnRun) (ent : Nat × Nat) (ctx : Nat) (p : Block × List Byte × List Byte),
    (s.coreUp core = true) ∧ ((s.core core).cur = ctx + 1) ∧ ((s.core core).units.find? (fun x => x.ctx == ctx) = some u) ∧
              ((s.ctx ctx).floe = some f) ∧ ((s.ctx ctx).attn.find? (fun x => x.seq == u.seq) = some a) ∧ (a.units[u.unit]? = some ent) ∧
              (s.keepProj ctx core f a = .ok p) ∧ (let r := p.1.attnUnit ctx (some core) f a ent p.2; (r.2 = none) ∧ (a.done + 1 < a.units.length))) ∧
  (∃ (core : Nat) (s : State) (u : AttnUnit) (f : FloeCfg) (a : AttnRun) (ent : Nat × Nat) (ctx : Nat) (p : Block × List Byte × List Byte) (er : OpErr),
    (s.coreUp core = true) ∧ ((s.core core).cur = ctx + 1) ∧ ((s.core core).units.find? (fun x => x.ctx == ctx) = some u) ∧
              ((s.ctx ctx).floe = some f) ∧ ((s.ctx ctx).attn.find? (fun x => x.seq == u.seq) = some a) ∧ (a.units[u.unit]? = some ent) ∧
              (s.keepProj ctx core f a = .ok p) ∧ (let r := p.1.attnUnit ctx (some core) f a ent p.2; (r.2 = some er) ∧ (er.st < stWait) ∧
              (a.done + 1 < a.units.length))) ∧
  (∃ (core : Nat) (s : State) (u : AttnUnit) (f : FloeCfg) (a : AttnRun) (ent : Nat × Nat) (ctx : Nat) (p : Block × List Byte × List Byte) (e : Entry),
    (s.coreUp core = true) ∧ ((s.core core).cur = ctx + 1) ∧ ((s.core core).units.find? (fun x => x.ctx == ctx) = some u) ∧
              ((s.ctx ctx).floe = some f) ∧ ((s.ctx ctx).attn.find? (fun x => x.seq == u.seq) = some a) ∧ (a.units[u.unit]? = some ent) ∧
              (s.keepProj ctx core f a = .ok p) ∧ (let r := p.1.attnUnit ctx (some core) f a ent p.2; (r.2 = none) ∧ (a.done + 1 = a.units.length) ∧
              (a.failed = none) ∧ ((s.ctx ctx).entry? u.seq = some e) ∧ (e.state ≠ .finished) ∧ (e.state ≠ .completed))) :=
  ⟨⟨0, aState aRun [], ent 3 [], fcfg, aRun, by decide +kernel, (by intro t ht; obtain rfl := List.mem_singleton.mp ht; exact ⟨⟨1, 256, 16, true⟩,
            by decide +kernel⟩)⟩,
   ⟨0, aState (aBegun 2) [⟨0, 1, 0⟩], ⟨0, 1, 0⟩, fcfg, aBegun 2, (0, 0), 0, ((aState (aBegun 2) [⟨0, 1, 0⟩]).toBlock, [], []), by decide +kernel⟩,
   ⟨0, aState (aBegun 2) [⟨0, 1, 0⟩] [], ⟨0, 1, 0⟩, fcfg, aBegun 2, (0, 0), 0, ((aState (aBegun 2) [⟨0, 1, 0⟩] []).toBlock, [], []), .of stInvalid,
             by decide +kernel⟩,
   ⟨0, aState (aBegun 1) [⟨0, 1, 0⟩], ⟨0, 1, 0⟩, fcfg, aBegun 1, (0, 0), 0, ((aState (aBegun 1) [⟨0, 1, 0⟩]).toBlock, [], []), entA,
             by decide +kernel⟩⟩

theorem test_hyps_StepsOpenCommitAndDrop :
  (∃ (ctx : Nat) (s : State) (e : Entry),
    (s.RingTurn ctx 6 e) ∧ ((s.ctx ctx).step = .none) ∧ (fld e.raw 16 1 = 0) ∧ (s.time.keeper < fld e.raw 24 8) ∧
              (∀ y ∈ (s.ctx ctx).entries, e.seq < y.seq → y.op = 6 → y.refused = true)) ∧
  (∃ (ctx : Nat) (s : State) (e : Entry),
    (s.RingTurn ctx 6 e) ∧ ((s.ctx ctx).step = .none) ∧ (fld e.raw 16 1 = 0) ∧ (fld e.raw 24 8 ≤ s.time.keeper)) ∧
  (∃ (ctx : Nat) (s : State) (e : Entry) (g : JobGroup) (y : JgMember),
    (s.RingTurn ctx 6 e) ∧ ((s.ctx ctx).step = .none) ∧ (fld e.raw 16 1 = 1) ∧ (s.jobMember? ctx (s.part (s.ctx ctx).part).jobGroup = some (g, y)) ∧
              ((s.ctx ctx).stepNo < fld e.raw 24 8) ∧ (s.time.keeper < g.origin + fld e.raw 24 8 * (g.period * 1000)) ∧
              (∀ y ∈ (s.ctx ctx).entries, e.seq < y.seq → y.op = 6 → y.refused = true)) ∧
  (∃ (ctx : Nat) (s : State),
    (s.serves ctx = true) ∧ ((s.ctx ctx).step = .waiting) ∧ (∀ y ∈ (s.ctx ctx).entries, (s.ctx ctx).stepSeq < y.seq → y.op = 6 → y.refused = true)) ∧
  (∃ (ctx : Nat) (s : State) (e : Entry),
    (s.RingTurn ctx 7 e) ∧ ((s.ctx ctx).step = .opened) ∧ ((s.ctx ctx).inStep e = true) ∧
              (∀ y ∈ (s.ctx ctx).entries, y.seq < e.seq → y.past = true) ∧ (s.time.keeper < (s.ctx ctx).deadline) ∧ (s.appendsAgree ctx = true) ∧
              (s.commitStall ctx = none)) ∧
  (∃ (b : Block) (ctx : Nat) (f : FloeCfg) (s : Nat) (r : SeqRec),
    (b.seqRec ctx none f s = .ok r) ∧ ((b.commitSeq ctx f s).2 = none)) ∧
  (∃ (ctx : Nat) (s : State),
    (s.serves ctx = true) ∧ ((s.ctx ctx).step = .opened)) :=
  ⟨⟨0, vm (entries {} (ent 6 [(8, 0), (8, 5)])), ent 6 [(8, 0), (8, 5)], by decide +kernel⟩,
   ⟨0, vm (entries {} (ent 6 [(8, 0), (8, 0)])), ent 6 [(8, 0), (8, 0)], by decide +kernel⟩,
   ⟨0, { vm (entries {} (ent 6 [(8, 1), (8, 1)])) with parts := [(0, { jobGroup := 3 })], weave := { jobs := [(3, ⟨1, 1000, 0, 1, [⟨0, 0, 0, 0⟩]⟩)] } }, ent 6 [(8, 1), (8, 1)], ⟨1, 1000, 0, 1, [⟨0, 0, 0, 0⟩]⟩, ⟨0, 0, 0, 0⟩,
             by decide +kernel⟩,
   ⟨0, vm { step := .waiting, stepSeq := 1, tick := 5 }, by decide +kernel⟩,
   ⟨0, vm (entries { step := .opened, deadline := 5 } (ent 7 [])), ent 7 [], by decide +kernel⟩,
   ⟨floeB 600 [], 0, fcfg2, 0, fRec, by decide +kernel⟩,
   ⟨0, vm { step := .opened }, by decide +kernel⟩⟩

theorem test_hyps_AbortsAreAcceptedAndEnd :
  (∃ (page : Nat) (s : State) (m : List Byte),
    (s.Turn page 0x0102 m) ∧ (mCtx m < 64) ∧ ((s.ctx (mCtx m)).state ≠ 0) ∧ ((s.ctx (mCtx m)).state ≠ 4)) ∧
  (∃ (page : Nat) (s : State) (m : List Byte),
    ((s.Turn page 0x0104 m) ∧ (msgCtx page m < 64) ∧ ((s.ctx (msgCtx page m)).state ≠ 0)) ∧ (fld (mPl m) 0 1 = 2 ∨ (fld (mPl m) 0 1 = 1 ∧
              fld (mPl m) 8 8 = 0 ∧ ((s.ctx (msgCtx page m)).step = .waiting ∨ (s.ctx (msgCtx page m)).step = .opened)) ∨ (fld (mPl m) 0 1 = 0 ∧
              ∃ e, (s.ctx (msgCtx page m)).entry? (fld (mPl m) 8 8) = some e ∧ (e.op = 1 ∨ e.op = 2 ∨ e.op = 3) ∧ e.refused = false ∧
              e.state ≠ .finished ∧ e.state ≠ .completed))) ∧
  (∃ (page : Nat) (s : State) (m : List Byte),
    ((s.Turn page 0x0104 m) ∧ (msgCtx page m < 64) ∧ ((s.ctx (msgCtx page m)).state ≠ 0)) ∧ (fld (mPl m) 0 1 = 2 ∨ (fld (mPl m) 0 1 = 1 ∧
              fld (mPl m) 8 8 = 0 ∧ ((s.ctx (msgCtx page m)).step = .waiting ∨ (s.ctx (msgCtx page m)).step = .opened)) ∨ (fld (mPl m) 0 1 = 0 ∧
              ∃ e, (s.ctx (msgCtx page m)).entry? (fld (mPl m) 8 8) = some e ∧ (e.op = 1 ∨ e.op = 2 ∨ e.op = 3) ∧ e.refused = false ∧
              e.state ≠ .finished ∧ e.state ≠ .completed))) ∧
  (∃ (page : Nat) (s : State) (m : List Byte),
    ((s.Turn page 0x0104 m) ∧ (msgCtx page m < 64) ∧ ((s.ctx (msgCtx page m)).state ≠ 0)) ∧ (fld (mPl m) 0 1 = 2 ∨ (fld (mPl m) 0 1 = 1 ∧
              fld (mPl m) 8 8 = 0 ∧ ((s.ctx (msgCtx page m)).step = .waiting ∨ (s.ctx (msgCtx page m)).step = .opened)) ∨ (fld (mPl m) 0 1 = 0 ∧
              ∃ e, (s.ctx (msgCtx page m)).entry? (fld (mPl m) 8 8) = some e ∧ (e.op = 1 ∨ e.op = 2 ∨ e.op = 3) ∧ e.refused = false ∧
              e.state ≠ .finished ∧ e.state ≠ .completed))) ∧
  (∃ (page : Nat) (s : State) (m : List Byte),
    (s.Turn page 0x0202 m) ∧ (mCtx m < 64) ∧ (fld (mPl m) 0 1 < 16) ∧ (((s.core (fld (mPl m) 0 1)).bind? (mCtx m)).isSome = true)) ∧
  (∃ (id : Nat) (s : State) (a : Abort),
    (s.aborts.find? (fun x => x.id == id) = some a) ∧ (id < s.abortId) ∧ (∀ c ∈ s.aborts, (c.id = id ∨ a.joins c = true) → s.abortQuiet c = true)) ∧
  (∃ (id : Nat) (s : State) (a : Abort) (e : Entry),
    ((s.aborts.find? (fun x => x.id == id) = some a) ∧ (id < s.abortId) ∧ (a.scope ≠ 0) ∧ (s.abortQuiet a = true) ∧
              (s.aborts.filter (fun c => c.id == id || a.joins c) = [a]) ∧ ((s.ctx a.ctx).entry? e.seq = some e) ∧ (a.seqs.contains e.seq = true) ∧
              (e.state ≠ .completed)) ∧ (∀ page o, (s.mbox page).busy = some o → o.aborts.contains id = false)) ∧
  (∃ (id : Nat) (s : State) (a : Abort),
    (s.aborts.find? (fun x => x.id == id) = some a) ∧ ((s.ctx a.ctx).part ≤ 3) ∧ ((s.part (s.ctx a.ctx).part).state = 0)) :=
  ⟨⟨64, withMsg 64 0x102 0 [] (up0), msg 0x102 0 [], by decide +kernel⟩,
   ⟨64, withMsg 64 0x104 0 [(1, 2)] (up0), msg 0x104 0 [(1, 2)], by decide +kernel, (Or.inl (by decide +kernel))⟩,
   ⟨64, withMsg 64 0x104 0 [(1, 1)] { up with ctxs := [(0, { state := 1, step := .opened })] }, msg 0x104 0 [(1, 1)],
             by decide +kernel, (Or.inr (Or.inl (by decide +kernel)))⟩,
   ⟨64, withMsg 64 0x104 0 [(8, 0), (8, 1)] { up with ctxs := [(0, entries { state := 1 } (ent 1 []))] }, msg 0x104 0 [(8, 0), (8, 1)],
             by decide +kernel, (Or.inr (Or.inr ⟨by decide +kernel, ent 1 [], by decide +kernel⟩))⟩,
   ⟨64, withMsg 64 0x202 0 [(1, 0)] (onCore { binds := [bd] }), msg 0x202 0 [(1, 0)], by decide +kernel⟩,
   ⟨1, { up0 with aborts := [ab 1 2], abortId := 2 }, ab 1 2, by decide +kernel⟩,
   ⟨1, { up with ctxs := [(0, entries { state := 1 } (ent 1 []))], aborts := [ab 1 2 [1]], abortId := 2 }, ab 1 2 [1], ent 1 [],
             by decide +kernel, (by intro p o h; cases h)⟩,
   ⟨1, { up0 with aborts := [ab 1 2], abortId := 2 }, ab 1 2, by decide +kernel⟩⟩

theorem test_hyps_TriggersBeginTheReset :
  (∃ (part : Nat) (s : State),
    (part ≤ 3) ∧ ((s.part part).state = 0) ∧ (s.halted = false)) ∧
  (∃ (part : Nat) (s : State),
    (part ≤ 3) ∧ ((s.part part).state = 0) ∧ (s.getisUp = true)) ∧
  (∃ (part : Nat) (engine : Nat) (s : State),
    (part ≤ 3) ∧ ((s.part part).state = 0) ∧ (s.getisUp = true) ∧ (s.timers part engine ≠ [])) :=
  ⟨⟨3, up, by decide +kernel⟩,
   ⟨3, up, by decide +kernel⟩,
   ⟨0, 0, seqAt 0#128, by decide +kernel⟩⟩

theorem test_hyps_ResetsClearAndEnd :
  (∃ (part : Nat) (s : State),
    ((s.part part).state = 1) ∧ ((s.part part).resetStep = 1) ∧ (s.snoopOpen part = false)) ∧
  (∃ (part : Nat) (s : State),
    ((part ≤ 3) ∧ ((s.part part).state = 1) ∧ ((s.part part).resetStep = 2) ∧ (s.allTrained part = true) ∧ (s.recentResets part < 3) ∧
              (s.sec.zero = none)) ∧ (∀ page, (s.mbox page).after = [])) ∧
  (∃ (part : Nat) (s : State),
    (part ≤ 3) ∧ ((s.part part).state = 1) ∧ ((s.part part).resetStep = 2) ∧ (s.allTrained part = true) ∧ (3 ≤ s.recentResets part)) ∧
  (∃ (part : Nat) (s : State),
    (part ≤ 3) ∧ ((s.part part).state = 1)) :=
  ⟨⟨3, { up with parts := [(3, { state := 1, resetStep := 1 })] }, by decide +kernel⟩,
   ⟨3, { up with parts := [(3, { state := 1, resetStep := 2 })], dram := { chans := (List.range 24).map (fun i => (i, { trained := true })) } },
             by decide +kernel, (fun _ => rfl)⟩,
   ⟨3, { up with parts := [(3, { state := 1, resetStep := 2, counted := [0, 0, 0] })], dram := { chans := (List.range 24).map (fun i => (i, { trained := true })) } },
             by decide +kernel⟩,
   ⟨3, { up with parts := [(3, { state := 1 })] }, by decide +kernel⟩⟩

theorem test_hyps_HaltsStopTheModule :
  (∃ (cause : Nat) (s : State),
    (s.power.state = 3) ∧ (s.halted = false)) ∧
  (∃ (s : State),
    (s.sec.state = 1)) ∧
  (∃ (s : State),
    (s.sec.state = 1) ∧ (s.halted = false)) ∧
  (∃ (test : Nat) (s : State),
    (s.sec.state = 1) ∧ (s.halted = false)) :=
  ⟨⟨7, up, by decide +kernel⟩,
   ⟨up, by decide +kernel⟩,
   ⟨up, by decide +kernel⟩,
   ⟨3, up, by decide +kernel⟩⟩

theorem test_hyps_PatrolsCountAndPoison :
  (∃ (ch : Nat) (line : Nat) (s : State),
    (ch < 24) ∧ (line < chanLines) ∧ (s.getisUp = true) ∧ ((s.part (ch / 6)).state = 0) ∧ (let h := SMap.get ({} : Chan) s.dram.chans ch;
              (let next := if line + 1 = chanLines then 0 else line + 1; True))) ∧
  (∃ (core : Nat) (tile : Bool) (g : Nat) (s : State),
    (s.coreUp core = true)) :=
  ⟨⟨23, chanLines - 1, up, by decide +kernel⟩,
   ⟨15, true, 0, up, by decide +kernel⟩⟩

theorem test_hyps_MailboxesQueueAndAnswer :
  (∃ (page : Nat) (msg : W512) (s : State),
    (page ≤ 64) ∧ (s.mmioOn = true) ∧ (16 ≤ (s.mbox page).inq.length)) ∧
  (∃ (page : Nat) (msg : W512) (s : State) (h : List Byte),
    (page ≤ 64) ∧ (s.mmioOn = true) ∧ ((s.mbox page).inq.length < 16) ∧ (((s.mbox page).inq ++ [natLe 64 msg.toNat]).head? = some h) ∧
              (∀ x ∈ (s.mbox page).tags, x.tag ≠ mTag h) ∧ (s.mbOpen page = false ∨ s.mbRefusal page h = none) ∧ ((s.mbox page).notices = [])) ∧
  (∃ (page : Nat) (s : State) (r : List Byte) (l : List (List Byte)),
    (page ≤ 64) ∧ (s.mmioOn = true) ∧ ((s.mbox page).outq = r :: l) ∧ ((s.mbox page).inq = []) ∧ ((s.mbox page).notices = [])) ∧
  (∃ (page : Nat) (v : W64) (s : State),
    (page ≤ 64) ∧ (s.mmioOn = true) ∧ ((s.mbox page).inq = []) ∧ ((s.mbox page).notices = [])) ∧
  (∃ (page : Nat) (off : Nat) (v : W64) (s : State),
    (page ≤ 64) ∧ (s.mmioOn = true) ∧ (off < 0x038) ∧ (off % 8 = 0)) ∧
  (∃ (v : W64) (s : State),
    (s.treleb.state = 2)) ∧
  (∃ (v : W64) (s : State) (off : Nat),
    (s.treleb.state = 2) ∧ (off ≠ 0x010) ∧ (off ≠ 0x018) ∧ (off ≠ 0x020)) ∧
  (∃ (page : Nat) (msg : W512) (s : State) (c : TagRec) (r : List Byte),
    (page ≤ 64) ∧ (s.mmioOn = true) ∧ ((s.mbox page).inq = []) ∧ ((s.mbox page).notices = []) ∧
              ((s.mbox page).tags.find? (fun x => x.tag == mTag (natLe 64 msg.toNat)) = some c) ∧ (c.reply = some r) ∧ (s.mbOpen page = true)) ∧
  (∃ (page : Nat) (msg : W512) (s : State) (c : TagRec),
    (page ≤ 64) ∧ (s.mmioOn = true) ∧ ((s.mbox page).inq = []) ∧ ((s.mbox page).notices = []) ∧
              ((s.mbox page).tags.find? (fun x => x.tag == mTag (natLe 64 msg.toNat)) = some c) ∧ (c.reply = none) ∧ (s.mbRuns page = true)) ∧
  (∃ (page : Nat) (msg : W512) (s : State) (st : Nat),
    (page ≤ 64) ∧ (s.mmioOn = true) ∧ ((s.mbox page).inq = []) ∧ ((s.mbox page).notices = []) ∧ (s.mbOpen page = true) ∧
              (∀ x ∈ (s.mbox page).tags, x.tag ≠ mTag (natLe 64 msg.toNat)) ∧ (s.mbRefusal page (natLe 64 msg.toNat) = some st) ∧
              (let m := natLe 64 msg.toNat; True)) :=
  ⟨⟨64, 0#512, { up with mboxes := [(64, { inq := List.replicate 16 [] })] }, by decide +kernel⟩,
   ⟨64, mbm 0x301, { up with mboxes := [(64, { outq := List.replicate 16 [] })] }, natLe 64 (mbm 0x301).toNat, by decide +kernel⟩,
   ⟨64, { up with mboxes := [(64, { outq := [[]] })] }, [], [], by decide +kernel⟩,
   ⟨64, 2#64, { up with mboxes := [(64, { outq := [[]] })] }, by decide +kernel⟩,
   ⟨64, 0x030, 2#64, up, by decide +kernel⟩,
   ⟨0x123456789ABCDEF#64, up, by decide +kernel⟩,
   ⟨0x123456789ABCDEF#64, up, 0x038, by decide +kernel⟩,
   ⟨64, mbm 0x301, { up with mboxes := [(64, { tags := [⟨7, some []⟩] })] }, ⟨7, some []⟩, [], by decide +kernel⟩,
   ⟨64, mbm 0x301, { up with mboxes := [(64, { tags := [⟨7, none⟩] })] }, ⟨7, none⟩, by decide +kernel⟩,
   ⟨64, mbm 0xFFFF, up, stInvalid, by decide +kernel⟩⟩

theorem test_hyps_ContextsAreMadeAndResumed :
  (∃ (page : Nat) (s : State) (m : List Byte),
    (s.Turn page 0x0101 m) ∧ ((mCtx m < 64 ∧ fld (mPl m) 0 1 = 2 ∧ (s.ctx (mCtx m)).state = 0 ∧
      createOk (mCtx m) (mPl m) = true ∧ (s.part (fld (mPl m) 1 1)).state < 2 ∧ s.hostUp = true ∧
      s.hostAnswers (fld (mPl m) 24 8) 8 = true))) ∧
  (∃ (page : Nat) (s : State) (m : List Byte),
    (s.Turn page 0x0101 m) ∧ (mCtx m < 64) ∧ (fld (mPl m) 0 1 = 2) ∧ ((s.ctx (mCtx m)).state = 0) ∧ (createOk (mCtx m) (mPl m) = true) ∧
              ((s.part (fld (mPl m) 1 1)).state < 2) ∧ (s.hostUp = true) ∧ (s.hostAnswers (fld (mPl m) 24 8) 8 = true) ∧ (Mem.wf s.hostMem = true)) ∧
  (∃ (page : Nat) (s : State) (m : List Byte),
    (let done (s : State) (m : List Byte) : Nat := if fld (mPl m) 0 8 = 0 then (s.ctx (mCtx m)).doneAddr else fld (mPl m) 0 8;
              (let rec_ (s : State) (m : List Byte) : Nat := if fld (mPl m) 8 8 = 0 then (s.ctx (mCtx m)).recBase else fld (mPl m) 8 8;
              (let taken (s : State) (page : Nat) (m : List Byte) : Block × Bool := (s.mbTake page m).resumeWrites (mCtx m) (done s m) (rec_ s m);
              (s.Turn page 0x0103 m) ∧ ((mCtx m < 64 ∧ (s.ctx (mCtx m)).state = 2 ∧ done s m % 8 = 0 ∧ rec_ s m % 4096 = 0 ∧
      (taken s page m).2 = true)))))) :=
  ⟨⟨64, withMsg 64 0x101 63 ctxF up, msg 0x101 63 ctxF, by decide +kernel⟩,
   ⟨64, withMsg 64 0x101 63 ctxF up, msg 0x101 63 ctxF, by decide +kernel⟩,
   ⟨64, withMsg 64 0x103 0 [] { up with ctxs := [(0, { state := 2 })] }, msg 0x103 0 [], by decide +kernel⟩⟩

theorem test_hyps_ContextMessagesAct :
  (∃ (page : Nat) (s : State) (m : List Byte),
    (s.Turn page 0x0105 m) ∧ ((msgCtx page m < 64 ∧ (s.ctx (msgCtx page m)).state ≠ 0 ∧
      (s.ctx (msgCtx page m)).floe = none ∧ FloeCfg.ok ⟨mPl m⟩ = true))) ∧
  (∃ (page : Nat) (s : State) (m : List Byte),
    (s.Turn page 0x0106 m) ∧ (msgCtx page m < 64 ∧ (s.ctx (msgCtx page m)).state ≠ 0)) ∧
  (∃ (page : Nat) (s : State) (m : List Byte),
    (s.Turn page 0x0107 m) ∧ (page < 64 ∧ fld (mPl m) 0 2 ≤ 4095)) ∧
  (∃ (page : Nat) (s : State) (m : List Byte),
    (s.Turn page 0x0108 m) ∧ ((SSet.has (s.ctx page).grants (fld (mPl m) 2 1) = true ∧ 1 ≤ fld (mPl m) 0 2 ∧
      fld (mPl m) 0 2 ≤ 512 ∧ (s.ctx page).tune = none))) ∧
  (∃ (page : Nat) (s : State) (m : List Byte),
    (s.Turn page 0x0109 m) ∧ ((s.ctx page).tune.isSome = true ∧ (s.mbTake page m).stochRuns page = false)) :=
  ⟨⟨0, withMsg 0 0x105 0 fcfgL up0, msg 0x105 0 fcfgL, by decide +kernel⟩,
   ⟨0, withMsg 0 0x106 0 [] up0, msg 0x106 0 [], by decide +kernel⟩,
   ⟨0, withMsg 0 0x107 0 [(2, 4095)] up0, msg 0x107 0 [(2, 4095)], by decide +kernel⟩,
   ⟨0, withMsg 0 0x108 0 [(2, 512), (1, 3)] { up with ctxs := [(0, { state := 1, grants := [3] })] }, msg 0x108 0 [(2, 512), (1, 3)],
             by decide +kernel⟩,
   ⟨0, withMsg 0 0x109 0 [] { up with ctxs := [(0, { state := 1, tune := some ⟨1, 0, 0#64⟩ })] }, msg 0x109 0 [], by decide +kernel⟩⟩

theorem test_hyps_TenancyIsSet :
  (∃ (page : Nat) (s : State) (m : List Byte),
    (s.Turn page 0x0201 m) ∧ (s.bindRefusal (mCtx m) (mPl m) = none)) ∧
  (∃ (page : Nat) (s : State) (m : List Byte),
    (s.Turn page 0x0204 m) ∧ (fld (mPl m) 0 1 < 16 ∧ 20 ≤ fld (mPl m) 4 4 ∧ fld (mPl m) 4 4 ≤ 10000)) ∧
  (∃ (page : Nat) (s : State) (m : List Byte),
    (s.Turn page 0x0203 m) ∧ ((fun s _ m =>
      let p := mPl m
      fld p 0 1 ≤ 3 ∧ fld p 1 1 ≤ 1 ∧ rsv p 7 49 = true ∧ fld p 4 2 % 5 = 0 ∧ 100 ≤ fld p 4 2 ∧ fld p 4 2 ≤ 400 ∧ fld p 6 1 ≤ 16 ∧
      fld p 4 2 + (((List.range 4).filter (· != fld p 0 1)).map (fun q => (s.part q).sliceW)).sum ≤ 1080 ∧
      fld p 6 1 + (((List.range 4).filter (· != fld p 0 1)).map (fun q => (s.part q).lanes)).sum ≤ 16 ∧
      (fld p 2 2 = (s.part (fld p 0 1)).jobGroup ∨ ∀ i < 4, (s.core (4 * fld p 0 1 + i)).binds = [])) s page m)) ∧
  (∃ (page : Nat) (s : State) (m : List Byte),
    (s.Turn page 0x0604 m) ∧ (True)) ∧
  (∃ (b : Block) (p : Nat) (i : Nat),
    (i < 4) ∧ (let want := min (slicePoint (b.part p).sliceW) (clampCap b.power.level); (let k := b.core (4 * p + i); True))) ∧
  (∃ (core : Nat) (s : State),
    (core < 16)) ∧
  (∃ (page : Nat) (s : State) (m : List Byte),
    (let record (s : State) (page : Nat) (m : List Byte) : List Byte := if page < 64 then s.ctxCounters page (s.time.keeper / 1000 * 1000) else natLe 8 s.time.keeper ++ natLe 1 (fld (mPl m) 0 1) ++ natLe 55 0 ++ (match fld (mPl m) 0 1 with | 0 => (List.range 4).flatMap s.partCounters | 1 => (List.range 24).flatMap s.chanCounters | _ => s.ctxCounters (mCtx m) s.time.keeper); (s.Turn page 0x0603 m) ∧ ((fld (mPl m) 8 8 % 64 = 0 ∧
       (page < 64 → s.feStall page [(fld (mPl m) 8 8, 128)] 2 = none) ∧
       (64 ≤ page → fld (mPl m) 0 1 ≤ 2 ∧ (fld (mPl m) 0 1 = 2 → mCtx m < 64 ∧ (s.ctx (mCtx m)).state ≠ 0)) ∧
       ((s.mbTake page m).bufWrite page (fld (mPl m) 8 8) (record s page m)).2 = true)))) :=
  ⟨⟨64, withMsg 64 0x201 0 bindF { up with ctxs := [(0, { state := 1, part := 3 })] }, msg 0x201 0 bindF, by decide +kernel⟩,
   ⟨64, withMsg 64 0x204 0 [(4, 15), (4, 10000)] up, msg 0x204 0 [(4, 15), (4, 10000)], by decide +kernel⟩,
   ⟨64, withMsg 64 0x203 0 [(1, 3), (1, 1), (2, 0), (2, 270), (1, 4)] up, msg 0x203 0 [(1, 3), (1, 1), (2, 0), (2, 270), (1, 4)], by decide +kernel⟩,
   ⟨0, withMsg 0 0x604 0 [] up0, msg 0x604 0 [], by decide +kernel⟩,
   ⟨up.toBlock, 3, 3, by decide +kernel⟩,
   ⟨15, up, by decide +kernel⟩,
   ⟨0, withMsg 0 0x603 0 [(8, 0), (8, 64)] (vm {}), msg 0x603 0 [(8, 0), (8, 64)], by decide +kernel⟩⟩

theorem test_hyps_TraceRingsTakeRecords :
  (∃ (page : Nat) (s : State) (m : List Byte),
    (s.Turn page 0x0602 m) ∧ ((fld (mPl m) 0 1 ≤ 4 ∧ fld (mPl m) 1 1 = 0 ∧ fld (mPl m) 2 1 ≤ 1 ∧ rsv (mPl m) 3 5 = true ∧
      rsv (mPl m) 16 40 = true))) ∧
  (∃ (page : Nat) (s : State) (m : List Byte),
    (s.Turn page 0x0602 m) ∧ (fld (mPl m) 0 1 ≤ 4) ∧ (11 ≤ fld (mPl m) 1 1) ∧ (fld (mPl m) 1 1 ≤ 25) ∧ (fld (mPl m) 2 1 ≤ 1) ∧
              (rsv (mPl m) 3 5 = true) ∧ (rsv (mPl m) 16 40 = true) ∧ (bits (fld (mPl m) 8 8) 63 52 = s.self) ∧ (bits (fld (mPl m) 8 8) 51 48 = 0) ∧
              (fld (mPl m) 8 8 % 64 = 0) ∧ (dramUsable (bits (fld (mPl m) 8 8) 47 0) (64 + 32 * 2 ^ fld (mPl m) 1 1) = true) ∧
              ((s.part (bits (fld (mPl m) 8 8) 47 0 / 2 ^ 40)).state < 2)) ∧
  (∃ (b : Block) (r : Nat) (pa : Nat) (rec : List Byte),
    ((b.ring r).placed = some pa) ∧ (bits pa 51 48 = 0) ∧ (rec.length = 32) ∧ (bits pa 47 0 + 64 + 32 * 2 ^ (b.ring r).log2 ≤ 2 ^ 48) ∧
              (Mem.wf b.dram.mem = true) ∧ (let a := bits pa 47 0; (let slot := a + 64 + 32 * ((b.ring r).write % 2 ^ (b.ring r).log2); True))) ∧
  (∃ (b : Block) (r : Nat) (pa : Nat) (rec : List Byte) (x : Nat),
    ((b.ring r).placed = some pa) ∧ (bits pa 51 48 = 0) ∧ (rec.length = 32) ∧ (bits pa 47 0 + 64 + 32 * 2 ^ (b.ring r).log2 ≤ 2 ^ 48) ∧
              (Mem.wf b.dram.mem = true) ∧ (let a := bits pa 47 0; (let slot := a + 64 + 32 * ((b.ring r).write % 2 ^ (b.ring r).log2);
              (x < slot ∨ slot + 32 ≤ x) ∧ (x < a ∨ a + 8 ≤ x)))) ∧
  (∃ (b : Block) (r : Nat) (pa : Nat) (rec : List Byte),
    ((b.ring r).placed = some pa) ∧ (bits pa 51 48 = 0) ∧ (rec.length = 32) ∧ (bits pa 47 0 + 64 + 32 * 2 ^ (b.ring r).log2 ≤ 2 ^ 48) ∧
              (Mem.wf b.dram.mem = true) ∧ (let a := bits pa 47 0; (let slot := a + 64 + 32 * ((b.ring r).write % 2 ^ (b.ring r).log2); True))) ∧
  (∃ (b : Block) (r : Nat) (pa : Nat) (rec : List Byte) (x : Nat),
    ((b.ring r).placed = some pa) ∧ (bits pa 51 48 = 0) ∧ (rec.length = 32) ∧ (bits pa 47 0 + 64 + 32 * 2 ^ (b.ring r).log2 ≤ 2 ^ 48) ∧
              (Mem.wf b.dram.mem = true) ∧ (let a := bits pa 47 0; (let slot := a + 64 + 32 * ((b.ring r).write % 2 ^ (b.ring r).log2);
              (x < a + 16 ∨ a + 24 ≤ x)))) :=
  ⟨⟨64, withMsg 64 0x602 0 [(1, 4)] up, msg 0x602 0 [(1, 4)], by decide +kernel⟩,
   ⟨64, withMsg 64 0x602 0 [(1, 4), (1, 25)] { up with rings := [(4, { ever := true })] }, msg 0x602 0 [(1, 4), (1, 25)], by decide +kernel⟩,
   ⟨ringB, 4, 2 ^ 48 - 64 - 32 * 2 ^ 11, List.replicate 32 1#8, by decide +kernel⟩,
   ⟨ringB, 4, 2 ^ 48 - 64 - 32 * 2 ^ 11, List.replicate 32 1#8, 2 ^ 48 - 1, by decide +kernel⟩,
   ⟨ringB, 4, 2 ^ 48 - 64 - 32 * 2 ^ 11, List.replicate 32 1#8, by decide +kernel⟩,
   ⟨ringB, 4, 2 ^ 48 - 64 - 32 * 2 ^ 11, List.replicate 32 1#8, 2 ^ 48 - 1, by decide +kernel⟩⟩

theorem test_hyps_FirnOperationsRun :
  (∃ (page : Nat) (s : State) (m : List Byte),
    (s.Turn page 0x0301 m) ∧ ((s.firn.op = none ∧ 1 ≤ fld (mPl m) 16 1 ∧ fld (mPl m) 16 1 ≤ 15 ∧
      (s.model (fld (mPl m) 16 1)).state = 0 ∧ rsv (mPl m) 18 6 = true ∧ fld (mPl m) 0 8 % 4096 = 0 ∧
      s.regionsOk (mPl m) (fld (mPl m) 16 1) = true))) ∧
  (∃ (page : Nat) (s : State) (m : List Byte),
    (s.Turn page 0x0303 m) ∧ ((s.firn.op = none ∧ 1 ≤ fld (mPl m) 16 1 ∧ fld (mPl m) 16 1 ≤ 15 ∧
      (s.model (fld (mPl m) 16 1)).state = 4 ∧ rsv (mPl m) 18 6 = true ∧ fld (mPl m) 0 8 % 4096 = 0 ∧
      s.regionsOk (mPl m) (fld (mPl m) 16 1) = true))) ∧
  (∃ (page : Nat) (s : State) (m : List Byte),
    (s.Turn page 0x0304 m) ∧ ((s.firn.op = none ∧ 1 ≤ fld (mPl m) 0 1 ∧ fld (mPl m) 0 1 ≤ 15 ∧ rsv (mPl m) 1 55 = true ∧
      3 ≤ (s.model (fld (mPl m) 0 1)).state ∧ (s.model (fld (mPl m) 0 1)).state ≤ 5 ∧
      s.ctxs.any (fun c => SSet.has c.2.grants (fld (mPl m) 0 1)) = false ∧ s.regionRead (fld (mPl m) 0 1) = false ∧
      s.firn.build.any (fun u => fld u.payload 12 1 == fld (mPl m) 0 1) = false))) ∧
  (∃ (b : Block) (m : Nat) (st : Nat) (n : Nat),
    (n ≠ m)) ∧
  (∃ (b : Block) (m : Nat) (st : Nat),
    (st = 2)) ∧
  (∃ (b : Block) (m : Nat) (st : Nat),
    (st ≠ 2)) ∧
  (∃ (s : State) (o : FirnOp),
    (s.firn.op = some o) ∧ (o.kind = 0) ∧ (o.doomed = none) ∧ (s.placeWaits (s.model o.model).dramPart = false) ∧ (let x := s.model o.model;
              (let w := s.chunks o x s.contentKey (fun _ => true) o.chunks; (w.2 = true) ∧
              (((w.1.modelState o.model 2).badTensors x x.tensors).2 = [])))) ∧
  (∃ (s : State) (o : FirnOp) (r : Nat),
    (s.firn.op = some o) ∧ (o.kind = 0) ∧ (o.doomed = some r) ∧ (r ≠ 0)) ∧
  (∃ (page : Nat) (s : State) (m : List Byte) (o : FirnOp),
    (s.Turn page 0x0302 m) ∧ (s.firn.op = some o) ∧ (o.model = fld (mPl m) 0 1) ∧ (o.kind ≤ 1)) ∧
  (∃ (page : Nat) (s : State) (m : List Byte) (o : FirnOp),
    (s.Turn page 0x0302 m) ∧ (s.firn.op = some o) ∧ (o.model = fld (mPl m) 0 1) ∧ (o.kind ≤ 1)) ∧
  (∃ (s : State) (o : FirnOp),
    (s.firn.op = some o) ∧ (o.kind = 1) ∧ (s.placeWaits (fld o.payload 17 1) = false)) ∧
  (∃ (s : State) (o : FirnOp),
    (s.firn.op = some o) ∧ (o.kind = 2)) :=
  ⟨⟨64, withMsg 64 0x301 0 [(16, 0), (1, 15), (1, 0xFF)] up, msg 0x301 0 [(16, 0), (1, 15), (1, 0xFF)], by decide +kernel⟩,
   ⟨64, withMsg 64 0x303 0 [(16, 0), (1, 15), (1, 0xFF)] { up with firn := { models := [(15, { state := 4 })] } }, msg 0x303 0 [(16, 0), (1, 15), (1, 0xFF)],
             by decide +kernel⟩,
   ⟨64, withMsg 64 0x304 0 [(1, 15)] { up with firn := { models := [(15, { state := 5 })] } }, msg 0x304 0 [(1, 15)], by decide +kernel⟩,
   ⟨up.toBlock, 15, 3, 1, by decide +kernel⟩,
   ⟨up.toBlock, 15, 2, by decide +kernel⟩,
   ⟨up.toBlock, 15, 3, by decide +kernel⟩,
   ⟨{ up with firn := { op := some (fop 0), models := [(15, { state := 1 })] } }, fop 0, by decide +kernel⟩,
   ⟨{ up with firn := { op := some { fop 0 with doomed := some 9 }, models := [(15, { state := 1 })] } }, { fop 0 with doomed := some 9 }, 9,
             by decide +kernel⟩,
   ⟨64, withMsg 64 0x302 0 [(1, 15)] { up with firn := { op := some (fop 0), models := [(15, { state := 1 })] } }, msg 0x302 0 [(1, 15)], fop 0,
             by decide +kernel⟩,
   ⟨64, withMsg 64 0x302 0 [(1, 15)] { up with firn := { op := some (fop 1), models := [(15, { state := 4 })] } }, msg 0x302 0 [(1, 15)], fop 1,
             by decide +kernel⟩,
   ⟨{ up with firn := { op := some (fop 1), models := [(15, { state := 4 })] } }, fop 1, by decide +kernel⟩,
   ⟨{ up with firn := { op := some (fop 2), models := [(15, { state := 6 })] } }, fop 2, by decide +kernel⟩⟩

theorem test_hyps_GrantsAndFirnRecords :
  (∃ (page : Nat) (s : State) (m : List Byte),
    (s.Turn page 0x0305 m) ∧ ((1 ≤ fld (mPl m) 0 1 ∧ fld (mPl m) 0 1 ≤ 15 ∧ fld (mPl m) 1 1 = 0 ∧ mCtx m < 64 ∧
      (s.ctx (mCtx m)).state ≠ 0 ∧ (SSet.has (s.ctx (mCtx m)).grants (fld (mPl m) 0 1) = true ∨
        (s.model (fld (mPl m) 0 1)).state = 3 ∨ (s.model (fld (mPl m) 0 1)).state = 4)))) ∧
  (∃ (page : Nat) (s : State) (m : List Byte),
    (s.Turn page 0x0306 m) ∧ ((1 ≤ fld (mPl m) 0 1 ∧ fld (mPl m) 0 1 ≤ 15 ∧ fld (mPl m) 1 1 = 0 ∧ mCtx m < 64 ∧
      (s.ctx (mCtx m)).state ≠ 0))) ∧
  (∃ (page : Nat) (s : State) (m : List Byte),
    (s.Turn page 0x0306 m) ∧ (1 ≤ fld (mPl m) 0 1) ∧ (fld (mPl m) 0 1 ≤ 15) ∧ (fld (mPl m) 1 1 = 1) ∧ (mCtx m < 64) ∧ ((s.ctx (mCtx m)).state ≠ 0) ∧
              (SSet.has (s.ctx (mCtx m)).grants (fld (mPl m) 0 1) = true)) ∧
  (∃ (page : Nat) (s : State) (m : List Byte),
    (let listed (s : State) (page : Nat) (m : List Byte) : List Byte := ((List.range 15).flatMap (fun i => if (s.model (i + 1)).state = 0 ∨ (page < 64 ∧
              !SSet.has (s.ctx page).grants (i + 1)) then natLe 1 0 ++ natLe 1 (i + 1) ++ natLe 94 0 else ((s.model (i + 1)).header (i + 1) []).take 96)).take (fld (mPl m) 16 8);
              (let directory (s : State) (m : List Byte) : List Byte := (((s.model (fld (mPl m) 0 1)).directory (fld (mPl m) 0 1)).drop (fld (mPl m) 24 8)).take (fld (mPl m) 16 8);
              (let status (s : State) (m : List Byte) : List Byte := s.firnRecord.take (fld (mPl m) 16 8); (s.Turn page 0x0307 m) ∧
              (listed s page m ≠ [] ∧ s.BufferOpen page m (listed s page m)))))) ∧
  (∃ (page : Nat) (s : State) (m : List Byte),
    (let listed (s : State) (page : Nat) (m : List Byte) : List Byte := ((List.range 15).flatMap (fun i => if (s.model (i + 1)).state = 0 ∨ (page < 64 ∧
              !SSet.has (s.ctx page).grants (i + 1)) then natLe 1 0 ++ natLe 1 (i + 1) ++ natLe 94 0 else ((s.model (i + 1)).header (i + 1) []).take 96)).take (fld (mPl m) 16 8);
              (let directory (s : State) (m : List Byte) : List Byte := (((s.model (fld (mPl m) 0 1)).directory (fld (mPl m) 0 1)).drop (fld (mPl m) 24 8)).take (fld (mPl m) 16 8);
              (let status (s : State) (m : List Byte) : List Byte := s.firnRecord.take (fld (mPl m) 16 8); (s.Turn page 0x0308 m) ∧
              ((1 ≤ fld (mPl m) 0 1 ∧ fld (mPl m) 0 1 ≤ 15 ∧
      (s.model (fld (mPl m) 0 1)).state ≠ 0 ∧ (64 ≤ page ∨ SSet.has (s.ctx page).grants (fld (mPl m) 0 1) = true) ∧
      directory s m ≠ [] ∧ s.BufferOpen page m (directory s m))))))) ∧
  (∃ (page : Nat) (s : State) (m : List Byte),
    (let listed (s : State) (page : Nat) (m : List Byte) : List Byte := ((List.range 15).flatMap (fun i => if (s.model (i + 1)).state = 0 ∨ (page < 64 ∧
              !SSet.has (s.ctx page).grants (i + 1)) then natLe 1 0 ++ natLe 1 (i + 1) ++ natLe 94 0 else ((s.model (i + 1)).header (i + 1) []).take 96)).take (fld (mPl m) 16 8);
              (let directory (s : State) (m : List Byte) : List Byte := (((s.model (fld (mPl m) 0 1)).directory (fld (mPl m) 0 1)).drop (fld (mPl m) 24 8)).take (fld (mPl m) 16 8);
              (let status (s : State) (m : List Byte) : List Byte := s.firnRecord.take (fld (mPl m) 16 8); (s.Turn page 0x0309 m) ∧
              (status s m ≠ [] ∧ s.BufferOpen page m (status s m)))))) :=
  ⟨⟨64, withMsg 64 0x305 0 [(1, 15)] { up0 with firn := { models := [(15, { state := 4 })] } }, msg 0x305 0 [(1, 15)], by decide +kernel⟩,
   ⟨64, withMsg 64 0x306 0 [(1, 15)] { up with ctxs := [(0, { state := 1, grants := [15] })] }, msg 0x306 0 [(1, 15)], by decide +kernel⟩,
   ⟨64, withMsg 64 0x306 0 [(1, 15), (1, 1)] { up with ctxs := [(0, { state := 1, grants := [15] })] }, msg 0x306 0 [(1, 15), (1, 1)],
             by decide +kernel⟩,
   ⟨64, withMsg 64 0x307 0 [(8, 0), (8, 0), (8, 96)] up, msg 0x307 0 [(8, 0), (8, 0), (8, 96)], by decide +kernel⟩,
   ⟨64, withMsg 64 0x308 0 [(8, 15), (8, 0), (8, 64)] { up with firn := { models := [(15, { state := 4 })] } }, msg 0x308 0 [(8, 15), (8, 0), (8, 64)],
             by decide +kernel⟩,
   ⟨64, withMsg 64 0x309 0 [(8, 0), (8, 0), (8, 64)] up, msg 0x309 0 [(8, 0), (8, 0), (8, 64)], by decide +kernel⟩⟩

theorem test_hyps_VariantsRechecksAndScans :
  (∃ (page : Nat) (s : State) (m : List Byte),
    (s.Turn page 0x030A m) ∧ ((s.firn.build = none ∧ fld (mPl m) 12 1 ≤ 15 ∧
      (fld (mPl m) 12 1 = 0 ∨ (s.model (fld (mPl m) 12 1)).state = 3) ∧ fld (mPl m) 24 8 ≠ 0 ∧
      s.dramRangeOk (fld (mPl m) 13 1) (fld (mPl m) 16 8) (fld (mPl m) 24 8) 0x100 = true ∧
      fld (mPl m) 0 8 % 64 = 0 ∧ 1 ≤ fld (mPl m) 8 4 ∧ fld (mPl m) 8 4 ≤ 65536 ∧ rsv (mPl m) 14 2 = true ∧ rsv (mPl m) 32 24 = true))) ∧
  (∃ (s : State) (u : Build),
    (s.firn.build = some u) ∧ (s.placeWaits (fld u.payload 13 1) = false) ∧
              (let r := (if u.doomed then s.buildDoomed u else s.buildWork u).2.1; True)) ∧
  (∃ (part : Nat) (s : State),
    ((s.part part).state = 0)) ∧
  (∃ (s : State),
    (s.getisUp = true) ∧ (s.firn.scanning = none)) ∧
  (∃ (s : State) (l : List Nat),
    (s.firn.scanning = some l)) :=
  ⟨⟨64, withMsg 64 0x30A 0 varF up, msg 0x30A 0 varF, by decide +kernel⟩,
   ⟨{ up with firn := { build := some build0 } }, build0, by decide +kernel⟩,
   ⟨3, up, by decide +kernel⟩,
   ⟨up, by decide +kernel⟩,
   ⟨{ up with firn := { scanning := some [1] } }, [1], by decide +kernel⟩⟩

theorem test_hyps_DomainsFormAndEnd :
  (∃ (page : Nat) (s : State) (m : List Byte),
    (s.Turn page 0x0403 m) ∧ (fld (mPl m) 0 1 = 2) ∧ (masterFields (mPl m) = true) ∧ (rsv (mPl m) 9 7 = true) ∧ (rsv (mPl m) 24 32 = true) ∧
              (fld (mPl m) 16 8 ≠ 0) ∧ (s.weave.domain.state = 0) ∧
              (let id := fld (mPl m) 6 1 + fld (mPl m) 2 1 * (fld (mPl m) 7 1 + fld (mPl m) 3 1 * fld (mPl m) 8 1); True)) ∧
  (∃ (page : Nat) (s : State) (m : List Byte),
    (s.Turn page 0x0403 m) ∧ (fld (mPl m) 0 1 = 1) ∧ (rsv (mPl m) 1 8 = true) ∧ (rsv (mPl m) 9 7 = true) ∧ (rsv (mPl m) 24 32 = true) ∧
              (fld (mPl m) 16 8 ≠ 0) ∧ (BitVec.ofNat 64 (fld (mPl m) 16 8) ≠ s.weave.domain.tag) ∧ (s.domainBusy = false)) ∧
  (∃ (page : Nat) (s : State) (m : List Byte),
    (s.Turn page 0x0403 m) ∧ (fld (mPl m) 0 1 = 0) ∧ (rsv (mPl m) 1 8 = true) ∧ (rsv (mPl m) 9 7 = true) ∧ (rsv (mPl m) 24 32 = true) ∧
              (s.weave.domain.state ≠ 0) ∧ (s.domainBusy = false)) ∧
  (∃ (port : Nat) (a : AssignMsg) (s : State),
    (s.Hears port) ∧ (a.tag = s.weave.domain.tag) ∧ (s.weave.domain.state = 1)) ∧
  (∃ (port : Nat) (a : AssignMsg) (s : State),
    (s.Hears port) ∧ (a.tag = s.weave.domain.tag) ∧ (s.weave.domain.state = 3) ∧ (a.master ≠ s.self)) ∧
  (∃ (port : Nat) (n : Nat) (s : State),
    (s.Hears port) ∧ (s.weave.domain.state = 3) ∧ (s.weave.domain.joined < s.weave.domain.modules)) ∧
  (∃ (s : State),
    (s.weave.domain.state = 3) ∧ (s.weave.domain.ready = false)) :=
  ⟨⟨64, withMsg 64 0x403 0 domF up, msg 0x403 0 domF, by decide +kernel⟩,
   ⟨64, withMsg 64 0x403 0 [(1, 1), (15, 0), (8, 5)] up, msg 0x403 0 [(1, 1), (15, 0), (8, 5)], by decide +kernel⟩,
   ⟨64, withMsg 64 0x403 0 [(1, 0)] (joined 1), msg 0x403 0 [(1, 0)], by decide +kernel⟩,
   ⟨0, ⟨1, 0#64, 0, 2, 1, 1, 1, 0, 0, 0⟩, joined 1, by decide +kernel⟩,
   ⟨0, ⟨1, 0#64, 0, 2, 1, 1, 1, 0, 0, 0⟩, joined 3, by decide +kernel⟩,
   ⟨0, 1, joined 3, by decide +kernel⟩,
   ⟨joined 3, by decide +kernel⟩⟩

theorem test_hyps_DomainTimeIsKept :
  (∃ (s : State),
    (s.weave.domain.state = 3) ∧ (s.halted = false)) ∧
  (∃ (port : Nat) (master : Nat) (tag : W64) (mt : Nat) (s : State),
    (s.HearsTime port master tag) ∧ ((s.port port).delay ≠ 0) ∧ (let now := min (mt + (s.port port).delay) timeEnd;
              (let off : Int := (now : Int) - (s.time.keeper : Int); True))) ∧
  (∃ (port : Nat) (master : Nat) (tag : W64) (mt : Nat) (s : State),
    (s.HearsTime port master tag) ∧ ((s.port port).delay ≠ 0) ∧ (let now := min (mt + (s.port port).delay) timeEnd;
              (let off : Int := (now : Int) - (s.time.keeper : Int); True))) ∧
  (∃ (port : Nat) (master : Nat) (tag : W64) (mt : Nat) (s : State),
    (s.HearsTime port master tag) ∧ ((s.port port).delay = 0)) ∧
  (∃ (port : Nat) (delay : Nat) (s : State),
    (s.Hears port)) ∧
  (∃ (s : State),
    (s.weave.domain.state = 2) ∧ (s.time.state = 2)) ∧
  (∃ (s : State),
    (s.hubRuns = true)) ∧
  (∃ (page : Nat) (s : State) (m : List Byte),
    (s.Turn page 0x0601 m) ∧ (True)) :=
  ⟨⟨joined 3, by decide +kernel⟩,
   ⟨0, 1, 0#64, 5, follows {}, by decide +kernel⟩,
   ⟨0, 1, 0#64, 1000000, follows { keeper := 5 }, by decide +kernel⟩,
   ⟨0, 1, 0#64, 5, { follows {} with weave := { (follows {}).weave with ports := [(0, { state := 2, delay := 0 })] } }, by decide +kernel⟩,
   ⟨0, 5, joined 2, by decide +kernel⟩,
   ⟨{ joined 2 with time := { state := 2 } }, by decide +kernel⟩,
   ⟨{ joined 2 with time := { owed := -1 } }, by decide +kernel⟩,
   ⟨0, withMsg 0 0x601 0 [] up0, msg 0x601 0 [], by decide +kernel⟩⟩

theorem test_hyps_WeaveLinksTrainAndResend :
  (∃ (port : Nat) (r : TrainResult) (s : State),
    (port ≤ 17) ∧ ((s.port port).state = 1)) ∧
  (∃ (port : Nat) (s : State),
    ((s.port port).state = 3 ∨ (s.port port).state = 4) ∧ (s.halted = false) ∧
              (let now := s.time.pass ((s.port port).downAt + 1000000000 - s.time.keeper); True)) ∧
  (∃ (port : Nat) (lseq : Nat) (s : State),
    ((s.port port).state = 2)) ∧
  (∃ (port : Nat) (lack : Nat) (s : State),
    ((s.port port).state = 2)) ∧
  (∃ (port : Nat) (s : State),
    ((s.port port).state = 2) ∧ (let now := s.time.pass ((s.port port).exhaustedAt s.time.keeper - s.time.keeper); True)) ∧
  (∃ (page : Nat) (s : State) (m : List Byte),
    (s.Turn page 0x0405 m) ∧ (fld (mPl m) 0 1 ≤ 17)) :=
  ⟨⟨17, ⟨0, none, none, 0#64, 0, false⟩, { up with weave := { ports := [(17, { state := 1 })] } }, by decide +kernel⟩,
   ⟨17, { up with weave := { ports := [(17, { state := 4 })] } }, by decide +kernel⟩,
   ⟨0, 0, joined 2, by decide +kernel⟩,
   ⟨0, 0, joined 2, by decide +kernel⟩,
   ⟨0, joined 2, by decide +kernel⟩,
   ⟨64, withMsg 64 0x405 0 [(1, 17)] (joined 2), msg 0x405 0 [(1, 17)], by decide +kernel⟩⟩

theorem test_hyps_JobGroupsAreInstalled :
  (∃ (s : State) (m : List Byte) (l : List Byte),
    (s.Turn 64 0x0404 m) ∧ (s.weave.domain.state = 3) ∧ (1 < s.weave.domain.modules) ∧ ((let p := mPl m
     fld p 0 2 ≠ 0xFFFF ∧ fld p 2 1 ≤ 2 ∧ rsv p 3 1 = true ∧ rsv p 22 2 = true ∧ rsv p 32 24 = true ∧ 250 ≤ fld p 4 4 ∧
       fld p 4 4 ≤ 10000000 ∧ (if fld p 2 1 = 1 then fld p 16 4 < fld p 4 4 else fld p 16 4 = 0) ∧ 1 ≤ fld p 20 2 ∧
       fld p 20 2 ≤ 4096 ∧ fld p 24 8 % 64 = 0 ∧ (s.mbTake 64 m).bufRead 64 (fld p 24 8) (8 * fld p 20 2) = some l ∧
       membersOk (fld p 2 1) ((List.range (fld p 20 2)).map (fun i => parseMember ((l.drop (8 * i)).take 8))) = true)) ∧
                 (s.weave.jobs.length < 1024 ∨ s.weave.jobs.any (fun x => x.1 == fld (mPl m) 0 2) = true)) ∧
  (∃ (s : State) (m : List Byte),
    (s.Turn 64 0x0404 m) ∧ (s.weave.domain.state = 3) ∧ (1 < s.weave.domain.modules) ∧ (fld (mPl m) 2 1 = 3) ∧ (fld (mPl m) 0 2 ≠ 0xFFFF) ∧
              (s.weave.jobs.any (fun x => x.1 == fld (mPl m) 0 2) = true) ∧ (∀ q < 4, (s.part q).jobGroup ≠ fld (mPl m) 0 2)) ∧
  (∃ (port : Nat) (d : JobGroupDef) (s : State),
    (s.Hears port) ∧ (s.weave.domain.state = 2 ∨ s.weave.domain.state = 4) ∧ (d.kind ≤ 2) ∧
              (s.weave.jobs.length < 1024 ∨ s.weave.jobs.any (fun x => x.1 == d.group) = true)) ∧
  (∃ (port : Nat) (d : JobGroupDef) (s : State),
    (s.Hears port) ∧ (s.weave.domain.state = 2 ∨ s.weave.domain.state = 4) ∧ (d.kind = 3) ∧ (∀ q < 4, (s.part q).jobGroup ≠ d.group)) ∧
  (∃ (s : State) (o : LongOp),
    (s.weave.domain.defining.isSome = true) ∧ ((s.mbox 64).busy = some o)) :=
  ⟨⟨withMsg 64 0x404 0 jobF (joined 3), msg 0x404 0 jobF, natLe 8 0, by decide +kernel⟩,
   ⟨withMsg 64 0x404 0 [(2, 1), (2, 3)] { joined 3 with weave := { (joined 3).weave with jobs := [(1, ⟨0, 250, 0, 0, []⟩)] } }, msg 0x404 0 [(2, 1), (2, 3)],
             by decide +kernel⟩,
   ⟨0, ⟨1, 2, 250, 0, 0, []⟩, joined 4, by decide +kernel⟩,
   ⟨0, ⟨1, 3, 250, 0, 0, []⟩, joined 2, by decide +kernel⟩,
   ⟨{ joined 3 with weave := { domain := { dom 3 with defining := some (1, 1) } }, mboxes := [(64, { busy := some (longOp 0x404) })] }, longOp 0x404,
             by decide +kernel⟩⟩

theorem test_hyps_InboundRequestsTakeEffect :
  (∃ (h : Pkt) (group : Nat) (data : List Byte) (s : State) (w : Window),
    (s.Inbound h w h.off data.length false) ∧ (s.groupRoom h group = true) ∧ (∀ g ∈ s.weave.groups, g.is h group = true → g.final = none)) ∧
  (∃ (h : Pkt) (group : Nat) (value : W64) (count : Nat) (s : State) (w : Window),
    ((s.Inbound h w h.off 8 false)) ∧ (∃ g ∈ s.weave.groups, g.is h group = true ∧ g.count = count)) ∧
  (∃ (h : Pkt) (group : Nat) (value : W64) (count : Nat) (s : State) (w : Window),
    (s.Inbound h w h.off 8 false) ∧ (s.groupRoom h group = true) ∧ (count ≠ 0) ∧ (∀ g ∈ s.weave.groups, g.is h group = true → g.count ≠ count)) ∧
  (∃ (h : Pkt) (op : Nat) (value : W64) (compare : W64) (s : State) (w : Window),
    (s.Inbound h w h.off 8 true) ∧ ((s.winWord w h.off).2 = false)) ∧
  (∃ (h : Pkt) (group : Nat) (frag : Nat) (data : List Byte) (s : State) (w : Window),
    (s.Inbound h w h.off 0 false) ∧ (s.groupRoom h group = true) ∧ (∀ e ∈ s.weave.encs, e.is h = false) ∧ (s.weave.encs.length < 64)) ∧
  (∃ (h : Pkt) (group : Nat) (data : List Byte) (s : State) (w : Window) (out : List Byte),
    (s.Inbound h w h.off 0 false) ∧ (s.groupRoom h group = true) ∧ (∀ e ∈ s.weave.encs, e.is h = false) ∧ (s.weave.encs.length < 64) ∧
              (h.poison = 0) ∧ (bhOk (data.take 8) (bhDec (data.take 8)) = true) ∧ (h.off + bhDec (data.take 8) ≤ w.len) ∧
              (s.winCheck w h.off (bhDec (data.take 8)) = stOK) ∧ (s.winSnooped w h.off (bhDec (data.take 8)) = []) ∧
              (∀ g ∈ s.weave.groups, g.is h group = true → g.final = none) ∧
              (decodeBlock (data.take 8) (data.drop 8) [] (bhDec (data.take 8)) = .ok out)) :=
  ⟨⟨pkt, 0, [1#8], opened [], win, by decide +kernel⟩,
   ⟨pkt, 0, 1#64, 1, opened [gEnt], win, by decide +kernel, ⟨gEnt, by decide +kernel⟩⟩,
   ⟨pkt, 0, 1#64, 2, opened [gEnt], win, by decide +kernel⟩,
   ⟨pkt, 0, 1#64, 0#64, opened [], win, by decide +kernel⟩,
   ⟨pkt, 0, 0, [1#8], opened [], win, by decide +kernel⟩,
   ⟨pkt, 0, encD, opened [], win, natLe 2 7, by decide +kernel⟩⟩

theorem test_hyps_WindowsOpenCloseAndCheck :
  (∃ (page : Nat) (s : State) (m : List Byte) (peers : List (Nat × Option Nat)) (pages : List (Nat × Nat × Nat)),
    ((s.Turn page 0x0401 m) ∧ (fld (mPl m) 3 1 ≤ 3) ∧ (rsv (mPl m) 32 24 = true) ∧ (s.window? (fld (mPl m) 0 2) = none) ∧
              (fld (mPl m) 8 8 % 64 = 0) ∧ (fld (mPl m) 16 8 % 64 = 0) ∧ (fld (mPl m) 16 8 ≠ 0) ∧ ((fld (mPl m) 2 1 = 1 ∧
              fld (mPl m) 8 8 + fld (mPl m) 16 8 ≤ ((s.part (s.ctx page).part).rangeOf page).2 ∧ pages = []) ∨ (fld (mPl m) 2 1 = 2 ∧
              s.winWaits page (mPl m) = false ∧
              (s.mbTake page m).winVirt page (fld (mPl m) 8 8) (fld (mPl m) 16 8) (bit (fld (mPl m) 3 1) 0) = some pages)) ∧
              (s.weave.windows.length < 4096) ∧ ((s.weave.windows.filter (fun w => w.ctx == page)).length < 256) ∧ (2 ≤ s.weave.domain.state)) ∧
              ((peerList (mPl m) = true ∧ s.feStall page [(fld (mPl m) 24 8, 4 * fld (mPl m) 6 2)] 1 = none ∧
              ∃ d, (s.mbTake page m).feRead page (fld (mPl m) 24 8) (4 * fld (mPl m) 6 2) = .ok d ∧
              listPeers d (fld (mPl m) 6 2) = some peers) ∨ (bit (fld (mPl m) 3 1) 1 = true ∧ fld (mPl m) 6 2 = 0 ∧
              s.groupPeers page (fld (mPl m) 4 2) = some peers))) ∧
  (∃ (page : Nat) (s : State) (m : List Byte) (w : Window),
    (s.Turn page 0x0402 m) ∧ (s.window? (fld (mPl m) 0 2) = some w) ∧ (w.ctx = page) ∧ (s.weave.waiting = [])) ∧
  (∃ (b : Block) (w : Window) (off : Nat) (data : List Byte) (bad : List Nat),
    (w.tile = true) ∧ (Mem.wf (b.part (b.ctx w.ctx).part).tile = true) ∧ (let p := (b.ctx w.ctx).part;
              (let at_ := ((b.part p).rangeOf w.ctx).1 + w.base + off; True))) ∧
  (∃ (b : Block) (w : Window) (off : Nat) (data : List Byte) (bad : List Nat) (q : Nat),
    (w.tile = true) ∧ (Mem.wf (b.part (b.ctx w.ctx).part).tile = true) ∧ (let p := (b.ctx w.ctx).part;
              (let at_ := ((b.part p).rangeOf w.ctx).1 + w.base + off; (q ≠ p)))) ∧
  (∃ (b : Block) (w : Window) (off : Nat) (data : List Byte) (bad : List Nat) (va : Nat) (n : Nat) (po : Nat),
    (w.tile = false) ∧ (w.pages = [(va, n, po)]) ∧ (va ≤ w.base + off) ∧ (w.base + off + data.length ≤ va + n) ∧ (Mem.wf b.dram.mem = true) ∧
              (let at_ := po + (w.base + off - va); True)) ∧
  (∃ (b : Block) (w : Window) (off : Nat) (data : List Byte) (bad : List Nat) (va : Nat) (n : Nat) (po : Nat) (a : Nat),
    (w.tile = false) ∧ (w.pages = [(va, n, po)]) ∧ (va ≤ w.base + off) ∧ (w.base + off + data.length ≤ va + n) ∧ (Mem.wf b.dram.mem = true) ∧
              (let at_ := po + (w.base + off - va); True)) ∧
  (∃ (h : Pkt) (group : Nat) (data : List Byte) (s : State) (st : Nat),
    ((s.Arrives h) ∧ (h.src ≠ s.self)) ∧ ((s.window? h.window = none ∧ st = stClosed) ∨ (∃ w, s.window? h.window = some w ∧
              (h.inStep = false ∨ h.step = 0 ∨ stepAbove h.step (s.ctx w.ctx).retired = true) ∧ (s.part (s.ctx w.ctx).part).state ≠ 1 ∧
              st = stRights ∧ (w.len < h.off + data.length ∨ ∀ p ∈ w.peers, ¬ (p.1 = h.src ∧ (p.2 = none ∨ p.2 = some h.ctx)))))) ∧
  (∃ (h : Pkt) (group : Nat) (data : List Byte) (s : State) (st : Nat),
    ((s.Arrives h) ∧ (h.src ≠ s.self)) ∧ ((s.window? h.window = none ∧ st = stClosed) ∨ (∃ w, s.window? h.window = some w ∧
              (h.inStep = false ∨ h.step = 0 ∨ stepAbove h.step (s.ctx w.ctx).retired = true) ∧ (s.part (s.ctx w.ctx).part).state ≠ 1 ∧
              st = stRights ∧ (w.len < h.off + data.length ∨ ∀ p ∈ w.peers, ¬ (p.1 = h.src ∧ (p.2 = none ∨ p.2 = some h.ctx)))))) :=
  ⟨⟨0, withMsg 0 0x401 0 winF { vm {} with parts := [(0, { ranges := [(0, 0, 1)] })], weave := (joined 2).weave }, msg 0x401 0 winF, [(0, some 0)], [],
            by decide +kernel, (Or.inl ⟨by decide +kernel, by decide +kernel, natLe 4 0, by decide +kernel⟩)⟩,
   ⟨0, withMsg 0 0x402 0 [(2, 5)] (opened []), msg 0x402 0 [(2, 5)], win, by decide +kernel⟩,
   ⟨up.toBlock, win, 4095, [1#8], [], by decide +kernel⟩,
   ⟨up.toBlock, win, 4095, [1#8], [], 3, by decide +kernel⟩,
   ⟨up.toBlock, { win with tile := false, pages := [(0, 65536, 0)] }, 4095, [1#8], [], 0, 65536, 0, by decide +kernel⟩,
   ⟨up.toBlock, { win with tile := false, pages := [(0, 65536, 0)] }, 4095, [1#8], [], 0, 65536, 0, 4095, by decide +kernel⟩,
   ⟨{ pkt with window := 6 }, 0, [], opened [], stClosed, by decide +kernel, (Or.inl (by decide +kernel))⟩,
   ⟨{ pkt with off := 4096 }, 0, [1#8], opened [], stRights, by decide +kernel, (Or.inr ⟨win, by decide +kernel, by decide +kernel,
             by decide +kernel, by decide +kernel, Or.inl (by decide +kernel)⟩)⟩⟩

theorem test_hyps_RequestersTakeResponses :
  (∃ (h : Pkt) (st : Nat) (s : State),
    (s.Arrives h) ∧ (h.reqId < 65536) ∧ (s.toBlock.respStale h = false) ∧ (((s.core h.core).req? h.reqId).isSome = true)) ∧
  (∃ (h : Pkt) (st : Nat) (s : State) (r : LiveReq),
    (s.Arrives h) ∧ (h.reqId < 65536) ∧ (s.toBlock.respStale h = false) ∧ ((s.core h.core).req? h.reqId = some r)) ∧
  (∃ (h : Pkt) (s : State) (r : LiveReq) (d : Desc) (v : W64),
    (s.Arrives h) ∧ (h.reqId < 65536) ∧ (s.toBlock.respStale h = false) ∧ ((s.core h.core).req? h.reqId = some r) ∧ (r.kind = 2) ∧
              (((s.core h.core).mover r.mover).queue.find? (fun d => d.id == r.desc) = some d) ∧ (fld d.raw 24 4 ≠ 0xFFFFFFFF) ∧
              (fld d.raw 24 4 % 8 = 0) ∧ (Mem.wf (s.core h.core).scratch = true)) ∧
  (∃ (core : Nat) (id : Nat) (s : State) (r : LiveReq) (due : Nat),
    ((s.core core).req? id = some r) ∧ (r.retryAt = some due) ∧ (∀ o ∈ r.packets, o.dst ≠ s.self)) ∧
  (∃ (core : Nat) (id : Nat) (s : State) (r : LiveReq),
    ((s.core core).req? id = some r)) ∧
  (∃ (i : Nat) (s : State) (g : GroupEnt),
    (s.weave.groups[i]? = some g)) ∧
  (∃ (i : Nat) (s : State) (e : EncBuf),
    (s.weave.encs[i]? = some e)) :=
  ⟨⟨pkt, 0, asked 0 dOut, by decide +kernel⟩,
   ⟨pkt, 0, asked 0 dOut, live1 0, by decide +kernel⟩,
   ⟨pkt, asked 2 dOut, live1 2, dOut, 5#64, by decide +kernel⟩,
   ⟨0, 0, asked 0 dOut, live1 0, 5, by decide +kernel⟩,
   ⟨0, 0, asked 0 dOut, live1 0, by decide +kernel⟩,
   ⟨0, opened [gEnt], gEnt, by decide +kernel⟩,
   ⟨0, { joined 2 with weave := { encs := [⟨pkt, 0, [], none, 0, false⟩] } }, ⟨pkt, 0, [], none, 0, false⟩, by decide +kernel⟩⟩

theorem test_hyps_ParkedStreamsResolve :
  (∃ (stream : Nat) (s : State) (va : Nat) (acc : Nat) (e : TlbEnt) (l : List WalkEnt) (d : Desc),
    (s.coreUp (stream / 4) = true) ∧ (((s.core (stream / 4)).mover (stream % 4)).park = .walk va acc) ∧
              (s.streamWalk (stream / 4) ((s.core (stream / 4)).mover (stream % 4)).parkCtx va = (.page e, l)) ∧
              (((s.core (stream / 4)).mover (stream % 4)).parked? = some d) ∧ (e.allows acc = true)) ∧
  (∃ (stream : Nat) (s : State) (va : Nat) (acc : Nat) (e : TlbEnt) (l : List WalkEnt) (d : Desc),
    (s.coreUp (stream / 4) = true) ∧ (((s.core (stream / 4)).mover (stream % 4)).park = .walk va acc) ∧
              (s.streamWalk (stream / 4) ((s.core (stream / 4)).mover (stream % 4)).parkCtx va = (.page e, l)) ∧
              (((s.core (stream / 4)).mover (stream % 4)).parked? = some d) ∧ (e.allows acc = false)) ∧
  (∃ (stream : Nat) (s : State) (va : Nat) (acc : Nat) (a : Nat) (l : List WalkEnt) (d : Desc),
    (s.coreUp (stream / 4) = true) ∧ (((s.core (stream / 4)).mover (stream % 4)).park = .walk va acc) ∧
              (s.streamWalk (stream / 4) ((s.core (stream / 4)).mover (stream % 4)).parkCtx va = (.dead a, l)) ∧
              (((s.core (stream / 4)).mover (stream % 4)).parked? = some d)) ∧
  (∃ (stream : Nat) (s : State) (va : Nat) (acc : Nat) (l : List WalkEnt),
    (s.coreUp (stream / 4) = true) ∧ (((s.core (stream / 4)).mover (stream % 4)).park = .walk va acc) ∧
              (s.streamWalk (stream / 4) ((s.core (stream / 4)).mover (stream % 4)).parkCtx va = (.host, l))) ∧
  (∃ (stream : Nat) (s : State) (va : Nat) (acc : Nat) (kind : Nat) (level : Nat) (at_ : Nat) (e : Nat) (l : List WalkEnt),
    (s.coreUp (stream / 4) = true) ∧ (((s.core (stream / 4)).mover (stream % 4)).park = .walk va acc) ∧
              (s.streamWalk (stream / 4) ((s.core (stream / 4)).mover (stream % 4)).parkCtx va = (.fault kind level at_ e, l)) ∧
              (kind = 2 → s.migrating at_ = false) ∧ (s.faults.queueAddr.isSome = true)) ∧
  (∃ (stream : Nat) (s : State) (va : Nat) (acc : Nat) (kind : Nat) (level : Nat) (at_ : Nat) (e : Nat) (l : List WalkEnt) (d : Desc),
    (s.coreUp (stream / 4) = true) ∧ (((s.core (stream / 4)).mover (stream % 4)).park = .walk va acc) ∧
              (s.streamWalk (stream / 4) ((s.core (stream / 4)).mover (stream % 4)).parkCtx va = (.fault kind level at_ e, l)) ∧
              (kind = 2 → s.migrating at_ = false) ∧ (s.faults.queueAddr = none) ∧ (((s.core (stream / 4)).mover (stream % 4)).parked? = some d)) ∧
  (∃ (stream : Nat) (s : State) (va : Nat) (acc : Nat) (tag : Nat) (r : Req),
    (stream < 64) ∧ (((s.core (stream / 4)).mover (stream % 4)).park = .host va acc tag) ∧ (s.req? tag = some r) ∧
              (s.faults.queueAddr.isSome = true)) ∧
  (∃ (stream : Nat) (s : State) (r : Req) (part : Nat) (ctx : Nat) (va : Nat) (acc : Nat),
    (64 ≤ stream) ∧ (s.transOf stream = some r) ∧ (r.kind = .transFront part ctx va acc)) ∧
  (∃ (tag : Nat) (base : Nat) (size : Nat) (rights : Nat) (s : State) (stream : Nat) (ctx : Nat) (va : Nat) (acc : Nat) (a : Nat) (acc' : Nat) (r : Req) (e : TlbEnt) (d : Desc),
    (s.treleb.state = 2) ∧ (s.halted = false) ∧ (s.req? tag = some r) ∧ (r.kind = .transReq stream ctx va acc) ∧
              (((s.core (stream / 4)).mover (stream % 4)).park = .host a acc' tag) ∧ (s.transPage ctx va base size rights = some e) ∧
              (e.allows acc = true) ∧ (((s.core (stream / 4)).mover (stream % 4)).parked? = some d)) ∧
  (∃ (tag : Nat) (base : Nat) (size : Nat) (rights : Nat) (s : State) (stream : Nat) (ctx : Nat) (va : Nat) (acc : Nat) (a : Nat) (acc' : Nat) (r : Req),
    (s.treleb.state = 2) ∧ (s.halted = false) ∧ (s.req? tag = some r) ∧ (r.kind = .transReq stream ctx va acc) ∧
              (((s.core (stream / 4)).mover (stream % 4)).park = .host a acc' tag) ∧ (s.transPage ctx va base size rights = none) ∧
              (s.faults.queueAddr.isSome = true)) ∧
  (∃ (tag : Nat) (base : Nat) (size : Nat) (rights : Nat) (s : State) (part : Nat) (ctx : Nat) (va : Nat) (acc : Nat) (r : Req) (e : TlbEnt),
    (s.treleb.state = 2) ∧ (s.halted = false) ∧ (s.req? tag = some r) ∧ (r.kind = .transFront part ctx va acc) ∧
              (s.transPage ctx va base size rights = some e)) ∧
  (∃ (tag : Nat) (base : Nat) (size : Nat) (rights : Nat) (s : State) (part : Nat) (ctx : Nat) (va : Nat) (acc : Nat) (r : Req),
    (s.treleb.state = 2) ∧ (s.halted = false) ∧ (s.req? tag = some r) ∧ (r.kind = .transFront part ctx va acc) ∧
              (s.transPage ctx va base size rights = none)) ∧
  (∃ (b : Block) (ctx : Nat) (va : Nat) (base : Nat) (size : Nat) (rights : Nat) (sz : Nat),
    (transSize size = some sz) ∧ (base % sz = 0) ∧ (base < 2 ^ 48)) :=
  ⟨⟨0, parkedAt (.walk 0 1) (dRd .pending), 0, 1, ⟨0, 0, 2 ^ 30, 2 ^ 49, true, true, true⟩, [⟨0, 1, 0, 0x2000⟩], dRd .pending, by decide +kernel⟩,
   ⟨0, parkedAt (.walk 0 2) (dRd .pending) |> fun s => { s with dram := { mem := Mem.write vmDram.mem 0x2000 (natLe 8 0x0002000000000006) } }, 0, 2, ⟨0, 0, 2 ^ 30, 2 ^ 49, true, false, false⟩, [⟨0, 1, 0, 0x2000⟩], dRd .pending,
             by decide +kernel⟩,
   ⟨0, { walkAt (2 ^ 30) 0x3001 with dram := { (walkAt (2 ^ 30) 0x3001).dram with poison := [0x2008 / 64] } }, 2 ^ 30, 1, 0x2008, [⟨0, 1, 2 ^ 14, 0x2000⟩], dRd .pending,
             by decide +kernel⟩,
   ⟨0, walkAt (2 ^ 30) 3, 2 ^ 30, 1, [⟨0, 1, 2 ^ 14, 0x2000⟩], by decide +kernel⟩,
   ⟨0, parkedAt (.walk (2 ^ 30) 1) (dRd .pending), 2 ^ 30, 1, 1, 1, 0x2008, 0, [⟨0, 1, 2 ^ 14, 0x2000⟩], by decide +kernel⟩,
   ⟨0, { parkedAt (.walk (2 ^ 30) 1) (dRd .pending) with faults := {} }, 2 ^ 30, 1, 1, 1, 0x2008, 0, [⟨0, 1, 2 ^ 14, 0x2000⟩], dRd .pending,
             by decide +kernel⟩,
   ⟨0, hostAt (.transReq 0 0 0 1) 1, 0, 1, 9, req9 (.transReq 0 0 0 1), by decide +kernel⟩,
   ⟨64, at9 up0 (.transFront 0 0 65536 1), req9 (.transFront 0 0 65536 1), 0, 0, 65536, 1, by decide +kernel⟩,
   ⟨9, 0, 3, 7, hostAt (.transReq 0 0 0 7), 0, 0, 0, 7, 0, 7, req9 (.transReq 0 0 0 7), ⟨0, 0, 2 ^ 30, 2 ^ 49, true, true, true⟩, dRd .pending,
             by decide +kernel⟩,
   ⟨9, 0, 9, 7, hostAt (.transReq 0 0 0 7), 0, 0, 0, 7, 0, 7, req9 (.transReq 0 0 0 7), by decide +kernel⟩,
   ⟨9, 0, 3, 7, at9 up0 (.transFront 0 0 65536 1), 0, 0, 65536, 1, req9 (.transFront 0 0 65536 1), ⟨0, 0, 2 ^ 30, 2 ^ 49, true, true, true⟩,
             by decide +kernel⟩,
   ⟨9, 0, 9, 7, at9 up0 (.transFront 0 0 65536 1), 0, 0, 65536, 1, req9 (.transFront 0 0 65536 1), by decide +kernel⟩,
   ⟨up.toBlock, 0, 65536, 0, 3, 7, 2 ^ 30, by decide +kernel⟩⟩

theorem test_hyps_FaultsAndInvalidations :
  (∃ (page : Nat) (s : State) (m : List Byte),
    (s.Turn page 0x0701 m) ∧ ((s.faults.queueAddr.isNone || (s.faults.pending.isEmpty && s.faults.write == s.faults.read)) = true) ∧
              (fld (mPl m) 0 8 % 4096 = 0) ∧ (fld (mPl m) 8 8 % 64 = 0) ∧ (fld (mPl m) 16 1 ≤ 127) ∧ (fld (mPl m) 0 8 < 2 ^ 48) ∧
              (fld (mPl m) 8 8 < 2 ^ 48)) ∧
  (∃ (s : State) (f : PendFault) (a : Nat),
    ((s.faults.pending = [f]) ∧ (f.written = false) ∧ (f.noRoom = false) ∧ (f.cancelled = false) ∧ (s.faults.queueAddr = some a) ∧
              (s.halted = false) ∧ (s.faults.write < s.faults.read + 8192) ∧ (s.treleb.state = 2) ∧ (s.hostAbsent = []) ∧ (Mem.wf s.hostMem = true) ∧
              (a + 262144 ≤ s.faults.ctrlAddr ∨ s.faults.ctrlAddr + 64 ≤ a)) ∧ (∀ r, (s.ring r).placed = none)) ∧
  (∃ (s : State) (m : List Byte) (f : PendFault) (arr : List Byte),
    (s.Turn 64 0x0702 m) ∧ (s.faults.queueAddr.isSome = true) ∧ (fld (mPl m) 0 8 % 64 = 0) ∧ (fld (mPl m) 8 2 = 1) ∧
              (s.faults.read ≤ fld (mPl m) 16 8) ∧ (fld (mPl m) 16 8 ≤ s.faults.write) ∧
              ((s.mbTake 64 m).bufRead 64 (fld (mPl m) 0 8) 16 = some arr) ∧ (s.faults.pending = [f]) ∧ (f.cancelled = false) ∧ (f.noRoom = false) ∧
              (s.faults.migrations = []) ∧ (fld arr 0 4 = f.id) ∧ (fld arr 8 8 = 0) ∧
              (((s.core (f.stream / 4)).mover (f.stream % 4)).park = .fault f.id) ∧ (fld arr 4 1 = 0)) ∧
  (∃ (s : State) (m : List Byte) (f : PendFault) (arr : List Byte) (d : Desc),
    (s.Turn 64 0x0702 m) ∧ (s.faults.queueAddr.isSome = true) ∧ (fld (mPl m) 0 8 % 64 = 0) ∧ (fld (mPl m) 8 2 = 1) ∧
              (s.faults.read ≤ fld (mPl m) 16 8) ∧ (fld (mPl m) 16 8 ≤ s.faults.write) ∧
              ((s.mbTake 64 m).bufRead 64 (fld (mPl m) 0 8) 16 = some arr) ∧ (s.faults.pending = [f]) ∧ (f.cancelled = false) ∧ (f.noRoom = false) ∧
              (s.faults.migrations = []) ∧ (fld arr 0 4 = f.id) ∧ (fld arr 8 8 = 0) ∧
              (((s.core (f.stream / 4)).mover (f.stream % 4)).park = .fault f.id) ∧ (fld arr 4 1 = 1) ∧
              (((s.core (f.stream / 4)).mover (f.stream % 4)).parked? = some d)) ∧
  (∃ (part : Nat) (s : State) (g : Migration),
    ((s.faults.migrations = [g]) ∧ (g.part = part) ∧ (s.halted = false) ∧ ((s.part part).state = 0) ∧ ((s.part (g.entryAt / 2 ^ 40)).state = 0) ∧
              (leNat (Mem.bytes s.dram.mem g.entryAt 8) % 4 ≠ 2) ∧ (s.hostUp = true) ∧ (s.hostAnswers g.host g.size = true) ∧
              (s.pageFree g.dst g.size = true) ∧ (Mem.wf s.dram.mem = true) ∧ (g.entryAt + 8 ≤ g.dst ∨ g.dst + g.size ≤ g.entryAt)) ∧
              (∀ r, (s.ring r).placed = none)) ∧
  (∃ (page : Nat) (s : State) (m : List Byte),
    (s.Turn page 0x0703 m) ∧ (mCtx m < 64) ∧ ((s.ctx (mCtx m)).state ≠ 0) ∧ (fld (mPl m) 0 8 < 2 ^ 56) ∧
              (fld (mPl m) 0 8 + fld (mPl m) 8 8 ≤ 2 ^ 56)) ∧
  (∃ (ctx : Nat) (va : Nat) (len : Nat) (s : State),
    (s.treleb.state = 2) ∧ (s.halted = false) ∧ (ctx < 64) ∧ (s.treleb.invals = [])) ∧
  (∃ (ctx : Nat) (va : Nat) (len : Nat) (s : State),
    (s.treleb.state = 2) ∧ (s.halted = false) ∧ (ctx < 64) ∧ (s.treleb.invals ≠ [])) ∧
  (∃ (s : State) (i : Invalidation) (x : CompInval),
    (s.invals.find? (fun i => !i.wait.any s.toBlock.pieceOpen) = some i) ∧ (i.whom = .companion) ∧ (s.treleb.invals = [x])) ∧
  (∃ (s : State) (i : Invalidation) (o : LongOp),
    (s.invals.find? (fun i => !i.wait.any s.toBlock.pieceOpen) = some i) ∧ (i.whom = .operator) ∧ ((s.mbox 64).busy = some o)) ∧
  (∃ (s : State) (i : Invalidation),
    (s.invals.find? (fun i => !i.wait.any s.toBlock.pieceOpen) = some i) ∧ (i.whom = .context)) :=
  ⟨⟨64, withMsg 64 0x701 0 [(8, 0), (8, 0), (1, 127)] up, msg 0x701 0 [(8, 0), (8, 0), (1, 127)], by decide +kernel⟩,
   ⟨{ up0 with faults := { queueAddr := some 0, ctrlAddr := 262144, pending := [flt false] } }, flt false, 0, by decide +kernel, (fun _ => rfl)⟩,
   ⟨replyS 0, msg 0x702 0 [(8, 0), (2, 1), (6, 0), (8, 1)], flt true, natLe 16 1, by decide +kernel⟩,
   ⟨replyS 1, msg 0x702 0 [(8, 0), (2, 1), (6, 0), (8, 1)], flt true, pay [(4, 1), (1, 1), (11, 0)], dRd .pending, by decide +kernel⟩,
   ⟨0, { vm {} with faults := { queueAddr := some 0, ctrlAddr := 262144, migrations := [mig] } }, mig, by decide +kernel, (fun _ => rfl)⟩,
   ⟨64, withMsg 64 0x703 0 [(8, 2 ^ 56 - 4096), (8, 4096)] up0, msg 0x703 0 [(8, 2 ^ 56 - 4096), (8, 4096)], by decide +kernel⟩,
   ⟨63, 0, 65536, up, by decide +kernel⟩,
   ⟨63, 0, 65536, { up with treleb := { state := 2, invals := [⟨0, 0, 65536, 0⟩] } }, by decide +kernel⟩,
   ⟨{ up0 with invals := [inv .companion], treleb := { state := 2, invals := [⟨0, 0, 65536, 0⟩] } }, inv .companion, ⟨0, 0, 65536, 0⟩,
             by decide +kernel⟩,
   ⟨{ up0 with invals := [inv .operator], mboxes := [(64, { busy := some (longOp 0x703) })] }, inv .operator, longOp 0x703, by decide +kernel⟩,
   ⟨{ up0 with invals := [inv .context] }, inv .context, by decide +kernel⟩⟩

theorem test_hyps_AnswersEndRequests :
  (∃ (tag : Nat) (s : State) (r : Req) (core : Nat) (m : Nat) (id : Nat) (i : Nat),
    (s.treleb.state = 2) ∧ (s.halted = false) ∧ (s.req? tag = some r) ∧ (r.kind = .pieceWrite core m id i)) ∧
  (∃ (tag : Nat) (st : Nat) (s : State),
    (s.treleb.state = 2) ∧ (s.halted = false) ∧ (s.req? tag = none)) ∧
  (∃ (tag : Nat) (poison : Nat) (s : State) (r : Req) (core : Nat) (m : Nat) (id : Nat) (i : Nat) (at_ : Nat) (d : Desc) (p : Piece),
    (s.treleb.state = 2) ∧ (s.halted = false) ∧ (s.req? tag = some r) ∧ (r.kind = .pieceRead core m id i at_) ∧
              (((s.core core).mover m).queue.find? (fun d => d.id == id) = some d) ∧ (d.decodes = false) ∧ (d.pieces[i]? = some p) ∧
              (p.state = .reading) ∧ (p.open_ ≠ 0)) ∧
  (∃ (tag : Nat) (s : State) (r : Req) (ctx : Nat) (w : DoneWrite) (l : List DoneWrite),
    (s.req? tag = some r) ∧ (r.kind = .done ctx) ∧ ((s.ctx ctx).state = 1) ∧ ((s.ctx ctx).doneQ = w :: l)) ∧
  (∃ (tag : Nat) (s : State) (r : Req) (v : Nat),
    (s.req? tag = some r) ∧ (r.kind = .intr v)) :=
  ⟨⟨9, at9 (parkedAt .none (desc dVirt .sent)) (.pieceWrite 0 0 0 0), req9 (.pieceWrite 0 0 0 0), 0, 0, 0, 0, by decide +kernel⟩,
   ⟨9, 0, up, by decide +kernel⟩,
   ⟨9, 0, at9 (parkedAt .none { dRd .reading with pieces := [{ pc1 .reading with open_ := 1 }] }) (.pieceRead 0 0 0 0 0), req9 (.pieceRead 0 0 0 0 0), 0, 0, 0, 0, 0, { dRd .reading with pieces := [{ pc1 .reading with open_ := 1 }] }, { pc1 .reading with open_ := 1 },
             by decide +kernel⟩,
   ⟨9, at9 (vm { doneQ := [⟨1, 0, [], 1, some 9⟩] }) (.done 0), req9 (.done 0), 0, ⟨1, 0, [], 1, some 9⟩, [], by decide +kernel⟩,
   ⟨9, at9 (vm {}) (.intr 3), req9 (.intr 3), 3, by decide +kernel⟩⟩

theorem test_hyps_TrelebTrainsAndServes :
  (∃ (failed : W32) (rev : Bool) (s : State),
    (s.treleb.state = 1)) ∧
  (∃ (s : State),
    (s.treleb.state = 0) ∧ (s.power.state = 3)) ∧
  (∃ (s : State),
    (s.treleb.state = 2)) ∧
  (∃ (failed : W32) (rev : Bool) (s : State),
    (s.treleb.state = 3)) ∧
  (∃ (lseq : Nat) (s : State),
    (s.treleb.state = 2)) ∧
  (∃ (lack : Nat) (s : State),
    (s.treleb.state = 2)) ∧
  (∃ (tag : Nat) (off : Nat) (cache : Nat) (len : Nat) (d : List Byte) (poison : Nat) (s : State),
    (s.ApertureOpen off d.length) ∧ (s.apertureStatus off d.length = 0) ∧ (Mem.wf s.dram.mem = true)) ∧
  (∃ (tag : Nat) (off : Nat) (cache : Nat) (len : Nat) (s : State),
    ((s.ApertureOpen off len) ∧ (s.apertureStatus off len = 0)) ∧ (∀ r, (s.ring r).placed = none)) ∧
  (∃ (tag : Nat) (off : Nat) (cache : Nat) (len : Nat) (s : State),
    (s.ApertureOpen off len) ∧ (s.apertureStatus off len ≠ 0)) ∧
  (∃ (line : Nat) (poison : Nat) (s : State) (d : List Byte),
    (s.treleb.state = 2) ∧ (s.treleb.snoops.any (fun x => x.1 == line) = true) ∧ (s.weave.waiting = []) ∧ (d.length = 64)) ∧
  (∃ (line : Nat) (s : State),
    (s.treleb.state = 2) ∧ (s.treleb.snoops.any (fun x => x.1 == line) = true) ∧ (s.weave.waiting = [])) ∧
  (∃ (line : Nat) (s : State) (x : Nat × Nat),
    (s.treleb.snoops.find? (fun x => x.1 == line) = some x) ∧ (s.weave.waiting = [])) :=
  ⟨⟨0#32, false, tre { state := 1 }, by decide +kernel⟩,
   ⟨tre { state := 0 }, by decide +kernel⟩,
   ⟨tre { state := 2 }, by decide +kernel⟩,
   ⟨0#32, false, tre { state := 3 }, by decide +kernel⟩,
   ⟨0, up, by decide +kernel⟩,
   ⟨0, up, by decide +kernel⟩,
   ⟨1, 4096 - 256, 0, 256, List.replicate 256 1#8, 0, ap, by decide +kernel⟩,
   ⟨1, 4095, 0, 1, ap, by decide +kernel, (fun _ => rfl)⟩,
   ⟨1, 2 ^ 40 - 64, 0, 64, ap, by decide +kernel⟩,
   ⟨5, 0, snooped, List.replicate 64 1#8, by decide +kernel⟩,
   ⟨5, snooped, by decide +kernel⟩,
   ⟨5, snooped, (5, 0), by decide +kernel⟩⟩

theorem test_hyps_RimReportsAndActs :
  (∃ (s : State),
    (s.rimServes = true)) ∧
  (∃ (seq : Nat) (s : State),
    (s.rimServes = true)) ∧
  (∃ (s : State) (r : LogRec) (q : List LogRec),
    (s.rimAwake = true) ∧ (s.rim.logQ = r :: q) ∧ (let log := (if 262144 ≤ s.rim.log.length then s.rim.log.drop 2048 else s.rim.log) ++ [r];
              (s.rim.overflow = 0))) ∧
  (∃ (s : State) (r : LogRec) (q : List LogRec),
    (s.rimAwake = true) ∧ (s.rim.logQ = r :: q) ∧ (let log := (if 262144 ≤ s.rim.log.length then s.rim.log.drop 2048 else s.rim.log) ++ [r];
              (s.rim.overflow ≠ 0) ∧ (q.length < 512))) ∧
  (∃ (mask : Nat) (ms : Nat) (s : State),
    (s.rimServes = true) ∧ (mask ≤ 15) ∧ (1 ≤ ms) ∧ (ms ≤ 1000)) ∧
  (∃ (part : Nat) (s : State),
    (s.rimServes = true) ∧ (part ≤ 3) ∧ (s.getisUp = true) ∧ ((s.part part).state = 0)) ∧
  (∃ (force : Bool) (s : State),
    (s.rimServes = true) ∧ (∀ u ∈ s.rim.update, u.stage < 3) ∧ (s.rim.imageValid = true ∨ force = true)) :=
  ⟨⟨up, by decide +kernel⟩,
   ⟨0, up, by decide +kernel⟩,
   ⟨rimS { logQ := [rec1] }, rec1, [], by decide +kernel⟩,
   ⟨rimS { logQ := [rec1], overflow := 2 }, rec1, [], by decide +kernel⟩,
   ⟨15, 1000, up, by decide +kernel⟩,
   ⟨3, up, by decide +kernel⟩,
   ⟨false, up, by decide +kernel⟩⟩

theorem test_hyps_ManagementIsAnswered :
  (∃ (inb : Nat) (outb : Nat) (vec : Nat) (s : State),
    (s.rimServes = true) ∧ (inb ≠ 0 ∨ outb ≠ 0) ∧ (inb % 4096 = 0) ∧ (outb % 4096 = 0) ∧ (inb < 2 ^ 48) ∧ (outb < 2 ^ 48) ∧ (vec ≤ 127)) ∧
  (∃ (vec : Nat) (s : State),
    (s.rimServes = true) ∧ (vec ≤ 127)) ∧
  (∃ (s : State) (g : MgmtRing) (d : List Byte) (m : List Byte),
    (s.rimServes = true) ∧ (s.treleb.state = 2) ∧ (s.rim.rings = some g) ∧ (Mem.wf s.hostMem = true) ∧
              (s.hostGet (g.inbound + 256 * (g.inSeq % 64)) 256 = some d) ∧ (fld d 0 4 ≠ (g.inSeq + 1) % 2 ^ 32) ∧
              (s.rim.out.drop s.rim.carried = [m]) ∧ (m.length ≤ 248) ∧ (s.hostAnswers (g.outbound + 256 * (g.outSeq % 64)) 256 = true)) ∧
  (∃ (s : State) (g : MgmtRing) (d : List Byte) (d' : List Byte),
    (s.rimServes = true) ∧ (s.treleb.state = 2) ∧ (s.rim.rings = some g) ∧ (s.rim.out.drop s.rim.carried = []) ∧
              (s.hostGet (g.inbound + 256 * (g.inSeq % 64)) 256 = some d) ∧ (fld d 0 4 = (g.inSeq + 1) % 2 ^ 32) ∧ (fld d 4 2 ≤ 248) ∧
              (s.hostGet (g.inbound + 256 * ((g.inSeq + 1) % 2 ^ 32 % 64)) 256 = some d') ∧ (fld d' 0 4 ≠ ((g.inSeq + 1) % 2 ^ 32 + 1) % 2 ^ 32)) ∧
  (∃ (s : State),
    (s.rimServes = true ∨ s.rim.state = 1)) ∧
  (∃ (id : Nat) (s : State),
    (s.rimServes = true) ∧ (sensorExists id = true)) ∧
  (∃ (id : Nat) (w : Nat) (c : Nat) (s : State),
    (s.rimServes = true) ∧ (sensorExists id = true)) ∧
  (∃ (a : Nat) (s : State),
    (s.rimServes = true)) ∧
  (∃ (s : State),
    (s.spdmServes = true)) ∧
  (∃ (nonce : List Byte) (s : State),
    (s.spdmServes = true) ∧ (s.getisUp = true) ∧ (s.sec.decommissioned = false) ∧ (s.sec.queue.length < 16)) :=
  ⟨⟨0x1000, 2 ^ 48 - 4096, 127, up, by decide +kernel⟩,
   ⟨0, up, by decide +kernel⟩,
   ⟨rimS { rings := some ring0, out := [List.replicate 248 1#8] }, ring0, List.replicate 256 0#8, List.replicate 248 1#8, by decide +kernel⟩,
   ⟨{ rimS { rings := some ring0 } with hostMem := [(0x1000, 1#8), (0x1004, 248#8)] }, ring0, padTo 0#8 256 (pay [(4, 1), (2, 248)]), List.replicate 256 0#8,
             by decide +kernel⟩,
   ⟨up, by decide +kernel⟩,
   ⟨0x200, up, by decide +kernel⟩,
   ⟨0x200, 1, 2, up, by decide +kernel⟩,
   ⟨0, up, by decide +kernel⟩,
   ⟨up, by decide +kernel⟩,
   ⟨List.replicate 32 0#8, up, by decide +kernel⟩⟩

theorem test_hyps_UpdatesAndRestartsOfTheRim :
  (∃ (len : Nat) (s : State) (p : Nat),
    (s.rim.state = 2) ∧ (s.halted = false) ∧ (s.power.state = 3) ∧ (p < 4) ∧ ((s.part p).state = 0) ∧ (∀ q < p, (s.part q).state ≠ 0) ∧
              (len ≤ 25165824) ∧ (s.rim.update = none)) ∧
  (∃ (img : List Byte) (s : State) (u : Update),
    (s.rim.state = 2) ∧ (s.rim.update = some u) ∧ (u.stage = 1) ∧ (img.length = u.len)) ∧
  (∃ (img : List Byte) (s : State) (u : Update),
    (s.rim.state = 2) ∧ (s.rim.update = some u) ∧ (u.stage = 2) ∧ (True)) ∧
  (∃ (img : List Byte) (s : State) (u : Update),
    (s.rim.state = 2) ∧ (s.rim.update = some u) ∧ (u.stage = 3) ∧ (True)) ∧
  (∃ (img : List Byte) (s : State) (u : Update),
    (s.rim.state = 2) ∧ (s.rim.update = some u) ∧ (u.stage = 4) ∧ (True)) ∧
  (∃ (img : List Byte) (s : State) (u : Update),
    (s.rim.state = 2) ∧ (s.rim.update = some u) ∧ (u.stage = 5) ∧ (sha256 img = sha256 u.image)) ∧
  (∃ (img : List Byte) (s : State) (u : Update),
    (s.rim.state = 2) ∧ (s.rim.update = some u) ∧ (u.stage = 5) ∧ (sha256 img ≠ sha256 u.image)) ∧
  (∃ (img : List Byte) (s : State),
    (s.rim.state = 1)) ∧
  (∃ (s : State),
    (s.rim.state = 2 ∨ s.rim.state = 3)) ∧
  (∃ (s : State),
    (s.rim.state = 4)) ∧
  (∃ (a : Nat) (s : State),
    (s.power.state ≠ 0) ∧ (a ≤ 127)) :=
  ⟨⟨25165824, up, 0, by decide +kernel⟩,
   ⟨[1#8], updS ⟨1, 1, [], 0⟩, ⟨1, 1, [], 0⟩, by decide +kernel⟩,
   ⟨[], updS (upd 2), upd 2, by decide +kernel⟩,
   ⟨[], updS (upd 3), upd 3, by decide +kernel⟩,
   ⟨[], updS (upd 4), upd 4, by decide +kernel⟩,
   ⟨[], updS (upd 5), upd 5, by decide +kernel⟩,
   ⟨[1#8], updS (upd 5), upd 5, by decide +kernel⟩,
   ⟨[1#8], { up with rim := { state := 1 } }, by decide +kernel⟩,
   ⟨{ up with rim := { state := 3 } }, by decide +kernel⟩,
   ⟨{ up with rim := { state := 4 } }, by decide +kernel⟩,
   ⟨127, up, by decide +kernel⟩⟩

theorem test_hyps_SensorsAndClamp :
  (∃ (id : Nat) (r : Nat) (op : Bool) (s : State),
    (s.rimServes = true) ∧ (sensorExists id = true) ∧ (let old := SMap.get ({} : Sensor) s.rim.sensors id;
              (let thermistor := op && (id / 256 == 1 || id / 256 == 2); (let v : Int := if thermistor then 0x7FFF else r; True)))) ∧
  (∃ (cause : Nat) (lvl : Nat) (s : State),
    (s.power.state = 3) ∧ (1 ≤ cause) ∧ (cause ≤ 5) ∧ (lvl ≤ 2) ∧ (s.asked cause < lvl) ∧ (cause = 2 → lvl = 1)) ∧
  (∃ (cause : Nat) (lvl : Nat) (s : State),
    (s.power.state = 3) ∧ (lvl < s.asked cause) ∧ (∀ x ∈ s.rim.sensors, readingHolds cause (lvl + 1) x.1 x.2.reading = false)) :=
  ⟨⟨0x200, 90, false, up, by decide +kernel⟩,
   ⟨2, 1, up, by decide +kernel⟩,
   ⟨1, 0, { up with power := { state := 3, ready := true, asks := [(1, 1)], level := 1 } }, by decide +kernel⟩⟩

theorem test_hyps_AttestationAndZeroisation :
  (∃ (page : Nat) (s : State) (m : List Byte),
    (s.Turn page 0x0501 m) ∧ (s.sec.state = 1 ∧ s.sec.decommissioned = false ∧ fld (mPl m) 32 8 % 64 = 0 ∧ s.sec.queue.length < 16)) ∧
  (∃ (page : Nat) (s : State) (m : List Byte),
    ((s.Turn page 0x0502 m)) ∧ (s.sec.decommissioned = false ∧
      s.BufferOpen page m (moduleIdentity ++ padTo 0#8 17360 Config.identityTail))) ∧
  (∃ (s : State) (a : Attest) (l : List Attest),
    (s.sec.state = 1) ∧ (s.sec.zero = none) ∧ (s.getisUp = true) ∧ (s.sec.queue = a :: l) ∧
              (let body := if a.report.isEmpty then s.report a.page a.nonce else a.report; (let rep := body ++ padTo 0#8 7856 (Config.slhSign body);
              (let taken : Block := { s.toBlock with sec := { s.sec with queue := l } }; (a.page = none))))) ∧
  (∃ (s : State) (a : Attest) (l : List Attest) (p : Nat),
    ((s.sec.state = 1) ∧ (s.sec.zero = none) ∧ (s.getisUp = true) ∧ (s.sec.queue = a :: l) ∧
              (let body := if a.report.isEmpty then s.report a.page a.nonce else a.report; (let rep := body ++ padTo 0#8 7856 (Config.slhSign body);
              (let taken : Block := { s.toBlock with sec := { s.sec with queue := l } }; (a.page = some p) ∧ (p < 64 → (s.ctx p).state ≠ 0))))) ∧
              (let body := if a.report.isEmpty then s.report a.page a.nonce else a.report;
              let rep := body ++ padTo 0#8 7856 (Config.slhSign body); a.len < rep.length)) ∧
  (∃ (s : State) (a : Attest) (l : List Attest) (p : Nat),
    ((s.sec.state = 1) ∧ (s.sec.zero = none) ∧ (s.getisUp = true) ∧ (s.sec.queue = a :: l) ∧
              (let body := if a.report.isEmpty then s.report a.page a.nonce else a.report; (let rep := body ++ padTo 0#8 7856 (Config.slhSign body);
              (let taken : Block := { s.toBlock with sec := { s.sec with queue := l } }; (a.page = some p))))) ∧
              (let body := if a.report.isEmpty then s.report a.page a.nonce else a.report; let rep := body ++ padTo 0#8 7856 (Config.slhSign body);
              (p < 64 → (s.ctx p).state ≠ 0 ∧ s.feStall p [(a.addr, rep.length)] 2 = none)) ∧
              (let body := if a.report.isEmpty then s.report a.page a.nonce else a.report;
              let rep := body ++ padTo 0#8 7856 (Config.slhSign body); rep.length ≤ a.len) ∧
              (let body := if a.report.isEmpty then s.report a.page a.nonce else a.report; let rep := body ++ padTo 0#8 7856 (Config.slhSign body);
              let taken : Block := { s.toBlock with sec := { s.sec with queue := l } }; (taken.bufWrite p a.addr rep).2 = true)) ∧
  (∃ (page : Nat) (s : State) (m : List Byte),
    (s.Turn page 0x0503 m) ∧ (fld (mPl m) 1 1 = 1 ∧ s.sec.state = 1 ∧ fld (mPl m) 0 1 ≤ 1)) ∧
  (∃ (page : Nat) (s : State) (m : List Byte),
    (s.Turn page 0x0504 m) ∧ (fld (mPl m) 1 1 = 1 ∧ s.sec.state = 1)) ∧
  (∃ (page : Nat) (s : State) (m : List Byte),
    (s.Turn page 0x0503 m) ∧ (fld (mPl m) 1 1 = 1 ∧ 1 < fld (mPl m) 0 1)) ∧
  (∃ (page : Nat) (s : State) (m : List Byte),
    (s.Turn page 0x0503 m) ∧ (fld (mPl m) 1 1 ≠ 1 ∧ 1 < fld (mPl m) 0 1)) ∧
  (∃ (page : Nat) (s : State) (m : List Byte),
    (s.Turn page 0x0503 m) ∧ (fld (mPl m) 0 2 = 0) ∧ (s.sec.state = 1) ∧ (∀ p < 4, (s.part p).state = 0)) ∧
  (∃ (page : Nat) (s : State) (m : List Byte) (token : List Byte) (sig : List Byte),
    ((s.Turn page 0x0503 m) ∧ (fld (mPl m) 0 1 = 1) ∧ (fld (mPl m) 1 1 = 0) ∧ (s.sec.state = 1) ∧ (∀ p < 4, (s.part p).state = 0)) ∧
              s.TokenRead page m token sig) ∧
  (∃ (page : Nat) (s : State) (m : List Byte) (token : List Byte) (sig : List Byte),
    ((s.Turn page 0x0504 m) ∧ (fld (mPl m) 1 1 = 0) ∧ (s.sec.state = 1) ∧ (∀ p < 4, (s.part p).state = 0)) ∧ s.TokenRead page m token sig) :=
  ⟨⟨0, withMsg 0 0x501 0 [(8, 0)] up0, msg 0x501 0 [(8, 0)], by decide +kernel⟩,
   ⟨64, withMsg 64 0x502 0 [(8, 0), (8, 64)] up, msg 0x502 0 [(8, 0), (8, 64)], by decide +kernel, ⟨by decide +kernel, by decide +kernel, fun h => absurd h (by decide), by rw [Block.bufWrite_operator] <;> first | decide +kernel | (have h := sha256_length_le (Config.identityTail.take 32); simp only [List.length_append, padTo_length, moduleIdentity]; change fld _ _ _ + _ < _; rw [show fld (mPl (msg 0x502 0 [(8, 0), (8, 64)])) 8 8 = 64 by decide +kernel]; omega)⟩⟩,
   ⟨attS (att none [] 0), att none [] 0, [], by decide +kernel⟩,
   ⟨attS (att (some 64) [1#8] 7856), att (some 64) [1#8] 7856, [], 64, by decide +kernel, (by dsimp only [att]; simp)⟩,
   ⟨attS (att (some 64) [1#8] 7857), att (some 64) [1#8] 7857, [], 64, by decide +kernel, (fun h => absurd h (by decide)), (by dsimp only [att]; simp), (by dsimp only; rw [Block.bufWrite_operator] <;> first | decide +kernel | (dsimp only [att]; simp))⟩,
   ⟨64, withMsg 64 0x503 0 [(1, 1), (1, 1)] up, msg 0x503 0 [(1, 1), (1, 1)], by decide +kernel⟩,
   ⟨64, withMsg 64 0x504 0 [(1, 0), (1, 1)] up, msg 0x504 0 [(1, 0), (1, 1)], by decide +kernel⟩,
   ⟨64, withMsg 64 0x503 0 [(1, 2), (1, 1)] up, msg 0x503 0 [(1, 2), (1, 1)], by decide +kernel⟩,
   ⟨64, withMsg 64 0x503 0 [(1, 2)] up, msg 0x503 0 [(1, 2)], by decide +kernel⟩,
   ⟨64, withMsg 64 0x503 0 [] up, msg 0x503 0 [], by decide +kernel⟩,
   ⟨64, withMsg 64 0x503 0 [(1, 1), (7, 0), (8, 0), (8, 65536)] up, msg 0x503 0 [(1, 1), (7, 0), (8, 0), (8, 65536)], _, _,
             by decide +kernel, ⟨by decide +kernel, Block.bufRead_operator _ _ _ _ (by decide) rfl rfl (by decide +kernel) rfl, Block.bufRead_operator _ _ _ _ (by decide) rfl rfl (by decide +kernel) rfl⟩⟩,
   ⟨64, withMsg 64 0x504 0 [(8, 0), (8, 0), (8, 65536)] up, msg 0x504 0 [(8, 0), (8, 0), (8, 65536)], _, _,
             by decide +kernel, ⟨by decide +kernel, Block.bufRead_operator _ _ _ _ (by decide) rfl rfl (by decide +kernel) rfl, Block.bufRead_operator _ _ _ _ (by decide) rfl rfl (by decide +kernel) rfl⟩⟩⟩

theorem test_hyps_PowerEventsMoveTheInputState :
  (∃ (mv : Nat) (s : State),
    (s.power.state = 0) ∧ (40000 ≤ mv)) ∧
  (∃ (s : State),
    (s.power.state ≠ 0)) ∧
  (∃ (s : State),
    (s.power.state ≠ 0) ∧ (s.power.state ≠ 4)) ∧
  (∃ (s : State),
    (s.power.state = 2 ∨ s.power.state = 3)) ∧
  (∃ (rail : Nat) (kind : Nat) (r : Nat) (s : State),
    (SSet.has s.power.rails rail = true ∨ (s.power.state = 2 ∧ SSet.has s.railsUp rail = true)) ∧ (1 ≤ kind) ∧ (kind ≤ 3) ∧ (s.power.state ≠ 4)) ∧
  (∃ (mv : Nat) (s : State),
    (s.power.state ≠ 0) ∧ (60000 < mv) ∧ (mv ≤ 80000) ∧ (s.rim.logQ.length < 512)) ∧
  (∃ (rail : Nat) (s : State),
    (SSet.has s.power.rails rail = true) ∧ (SSet.has s.power.sense rail = false)) ∧
  (∃ (ch : Nat) (st : Nat) (s : State),
    (ch < 24) ∧ (s.power.state = 3) ∧ (SSet.has s.power.pmic ch = false) ∧ (s.getisUp = true) ∧ ((s.part (ch / 6)).state = 0)) ∧
  (∃ (ch : Nat) (st : Nat) (s : State),
    (ch < 24) ∧ (s.power.state = 3) ∧ (SSet.has s.power.pmic ch = false) ∧ (s.halted = false) ∧
              ((SMap.get ({} : Chan) s.dram.chans ch).trained = true) ∧ ((s.part (ch / 6)).state = 1 ∨ ((s.part (ch / 6)).state = 0 ∧
              s.power.ready = false))) ∧
  (∃ (ch : Nat) (st : Nat) (s : State),
    (ch < 24) ∧ (s.power.state = 3) ∧ (SSet.has s.power.pmic ch = false) ∧
              (s.halted = true ∨ ((SMap.get ({} : Chan) s.dram.chans ch).trained = false ∧ (s.part (ch / 6)).state = 1))) :=
  ⟨⟨40000, State.reset, by decide +kernel⟩,
   ⟨up, by decide +kernel⟩,
   ⟨up, by decide +kernel⟩,
   ⟨up, by decide +kernel⟩,
   ⟨26, 3, 0, { up with power := { state := 3, ready := true, rails := [26] } }, by decide +kernel⟩,
   ⟨80000, up, by decide +kernel⟩,
   ⟨26, { up with power := { state := 3, ready := true, rails := [26] } }, by decide +kernel⟩,
   ⟨23, 0, up, by decide +kernel⟩,
   ⟨23, 0, { starting 6 with power := { state := 3, step := 6 } }, by decide +kernel⟩,
   ⟨23, 0, { up with halted := true }, by decide +kernel⟩⟩

theorem test_hyps_StartUpRunsItsSteps :
  (∃ (s : State),
    (s.power.step = 1)) ∧
  (∃ (s : State),
    (s.power.step = 2) ∧ (s.rim.imageValid = true)) ∧
  (∃ (s : State),
    (s.power.step = 2)) ∧
  (∃ (s : State),
    (s.power.step = 3)) ∧
  (∃ (s : State),
    (s.power.step = 4)) ∧
  (∃ (ok : Bool) (s : State),
    (s.power.step = 5)) ∧
  (∃ (s : State),
    (s.power.step = 6) ∧ (let d := s.firn.inForce; True)) ∧
  (∃ (s : State),
    (s.power.step = 7)) ∧
  (∃ (s : State),
    (s.power.step = 8)) ∧
  (∃ (ch : Nat) (s : State),
    (ch < 24) ∧ (s.power.state = 3) ∧ (s.halted = false) ∧ ((SMap.get ({} : Chan) s.dram.chans ch).trained = false) ∧
              (SSet.has s.power.pmic ch = false) ∧ ((s.power.step = 5 ∧ (s.part (ch / 6)).state = 0) ∨ ((s.part (ch / 6)).state = 1 ∧
              (s.part (ch / 6)).resetStep = 2))) ∧
  (∃ (ch : Nat) (ok : Bool) (s : State),
    (ch < 24) ∧ (s.power.state = 3) ∧ (s.halted = false) ∧ ((SMap.get ({} : Chan) s.dram.chans ch).trained = false) ∧
              (ok = false ∨ SSet.has s.power.pmic ch = true) ∧ (s.power.step = 5) ∧ ((s.part (ch / 6)).state = 0) ∧
              ((SMap.get ({} : Chan) s.dram.chans ch).retried = false)) ∧
  (∃ (ch : Nat) (ok : Bool) (s : State),
    (ch < 24) ∧ (s.power.state = 3) ∧ (s.halted = false) ∧ ((SMap.get ({} : Chan) s.dram.chans ch).trained = false) ∧
              (ok = false ∨ SSet.has s.power.pmic ch = true) ∧ (s.power.step = 5) ∧ ((s.part (ch / 6)).state = 0) ∧
              ((SMap.get ({} : Chan) s.dram.chans ch).retried = true)) ∧
  (∃ (ch : Nat) (ok : Bool) (s : State),
    (ch < 24) ∧ (s.power.state = 3) ∧ (s.halted = false) ∧ ((SMap.get ({} : Chan) s.dram.chans ch).trained = false) ∧
              (ok = false ∨ SSet.has s.power.pmic ch = true) ∧ ((s.part (ch / 6)).state = 1) ∧ ((s.part (ch / 6)).resetStep = 2)) :=
  ⟨⟨starting 1, by decide +kernel⟩,
   ⟨{ starting 2 with rim := { imageValid := true } }, by decide +kernel⟩,
   ⟨starting 2, by decide +kernel⟩,
   ⟨starting 3, by decide +kernel⟩,
   ⟨starting 4, by decide +kernel⟩,
   ⟨true, starting 5, by decide +kernel⟩,
   ⟨starting 6, by decide +kernel⟩,
   ⟨starting 7, by decide +kernel⟩,
   ⟨starting 8, by decide +kernel⟩,
   ⟨23, training false, by decide +kernel⟩,
   ⟨23, false, training false, by decide +kernel⟩,
   ⟨23, false, training true, by decide +kernel⟩,
   ⟨23, false, { up with parts := [(3, { state := 1, resetStep := 2 })] }, by decide +kernel⟩⟩

theorem test_hyps_OtherLevelsAreRefused :
  (∃ (page : Nat) (s : State) (m : List Byte),
    (s.Turn page 0x0101 m) ∧ (fld (mPl m) 0 1 ≠ 2)) :=
  ⟨64, withMsg 64 0x101 0 [(1, 3)] up, msg 0x101 0 [(1, 3)], by decide +kernel⟩

theorem test_hyps_UnroutablePacketsAreCounted :
  (∃ (b : Block) (o : Out) (dir : Nat),
    (b.weave.domain.route b.self o.dst = some dir) ∧ (∀ p ∈ b.weave.domain.dirPorts dir, (b.port p).state ≠ 2)) ∧
  (∃ (h : Pkt) (group : Nat) (data : List Byte) (s : State) (dir : Nat),
    ((s.port h.port).state = 2) ∧ (s.halted = false) ∧ (h.crcOk = true) ∧ (h.lseq = (s.port h.port).rxSeq) ∧ (s.weave.domain.idValid = true) ∧
              (h.dst ≠ s.self) ∧ (s.weave.domain.route s.self h.dst = some dir) ∧ (∀ p ∈ s.weave.domain.dirPorts dir, (s.port p).state ≠ 2)) :=
  ⟨⟨({ up with weave := { domain := dom 2 } } : State).toBlock, ⟨0x20, false, false, 0, 0, 1, 0, 0, 0, 0, 0, 0, []⟩, 0, by decide +kernel⟩,
   ⟨{ pkt with port := 17, dst := 1 }, 0, [], { up with weave := { domain := dom 2, ports := [(17, { state := 2 })] } }, 0, by decide +kernel⟩⟩

theorem test_hyps_WatchdogResetsAreNotCounted :
  (∃ (part : Nat) (engine : Nat) (s : State),
    (part ≤ 3) ∧ ((s.part part).state = 0) ∧ (s.getisUp = true) ∧ (s.timers part engine ≠ [])) :=
  ⟨0, 0, seqAt 0#128, by decide +kernel⟩

theorem test_hyps_ModReadyFalls :
  (∃ (s : State),
    (s.power.state ≠ 0) ∧ (s.power.state ≠ 4)) ∧
  (∃ (s : State),
    (s.power.state = 2 ∨ s.power.state = 3)) ∧
  (∃ (rail : Nat) (kind : Nat) (r : Nat) (s : State),
    (SSet.has s.power.rails rail = true ∨ (s.power.state = 2 ∧ SSet.has s.railsUp rail = true)) ∧ (1 ≤ kind) ∧ (kind ≤ 3) ∧ (s.power.state ≠ 4)) ∧
  (∃ (cause : Nat) (s : State),
    (s.power.state = 3) ∧ (s.halted = false)) ∧
  (∃ (test : Nat) (s : State),
    (s.sec.state = 1) ∧ (s.halted = false)) ∧
  (∃ (force : Bool) (s : State),
    (s.rimServes = true) ∧ (∀ u ∈ s.rim.update, u.stage < 3) ∧ (s.rim.imageValid = true ∨ force = true)) ∧
  (∃ (i : Instr) (s : State),
    (True) ∧ (∃ p, i = .partitionReset p ∨ i = .controlUncorrectable p ∨ i = .heartbeatLost p ∨ i = .tileResetRelease p ∨ i = .partitionResetEnd p ∨ i = .resetFailed p ∨ (∃ e, i = .watchdog p e) ∨ (∃ l, i = .clamp p l ∨ i = .clampRelease p l))) :=
  ⟨⟨up, by decide +kernel⟩,
   ⟨up, by decide +kernel⟩,
   ⟨26, 3, 0, { up with power := { state := 3, ready := true, rails := [26] } }, by decide +kernel⟩,
   ⟨7, up, by decide +kernel⟩,
   ⟨3, up, by decide +kernel⟩,
   ⟨false, up, by decide +kernel⟩,
   ⟨.partitionReset 3, up, by decide +kernel, ⟨3, Or.inl rfl⟩⟩⟩

theorem test_hyps_StepsKeepMemoriesCanonical :
  (∃ s t : State, s.toBlock.Canon ∧ step s = .next t) :=
  ⟨{ up with hostMem := [(0, 1#8)], pending := [.masterLost] }, _, ⟨by decide +kernel, by decide +kernel, by decide +kernel⟩, rfl⟩

theorem test_hyps_StepsKeepStatesLegal :
  (∃ s t : State, s.toBlock.Legal ∧ step s = .next t) :=
  ⟨{ up with pending := [.masterLost] }, _, ⟨by decide +kernel, by decide +kernel, by decide +kernel, by decide +kernel, by decide +kernel,
            by decide +kernel, by decide +kernel⟩, rfl⟩

/-! ### States that meet the forms of Safety.lean -/

/-- A word's instruction issues on core 0 from registers `q`. -/
abbrev issues (w : W128) (q : SeqState) (id : Nat) : Prop := (seqAt w q).Issues 0 id (run w q)

theorem test_scalar_forms_issue : ∀ op < 16, issues (vec op) {} (0x200 + op) := by decide +kernel

theorem test_hyps_ldp : issues (vec 13) { s := [(1, 4088#64)] } 0x20D ∧
    ((run (vec 13 (1 * 2 ^ 102)) { s := [(1, 4088#64)] }).x + (run (vec 13 (1 * 2 ^ 102)) { s := [(1, 4088#64)] }).y).toNat = 4088 := by
  decide +kernel

theorem test_hyps_lidx : issues (vec 14) { loops := [⟨2, 0, 1, 2, none, none⟩] } 0x20E ∧
    (run (vec 14) { loops := [⟨2, 0, 1, 2, none, none⟩] }).y.toNat < 1 := by decide +kernel

/-- LOOP of one instruction, twice and no times. -/
def loopWord (count : Nat) : W128 := word 7 (1 * 2 ^ 104 + count * 2 ^ 32)
def loopState (count : Nat) : State := onCore { coreAt (loopWord count) {} with kernels := [{ ker with words := 4 }] }

theorem test_hyps_loop : (loopState 2).Issues 0 0x700 { run (loopWord 2) with ker := { ker with words := 4 } } ∧
    wf_ (loopWord 2) 119 104 = 1 ∧ (run (loopWord 2)).loopCount = 2 := by decide +kernel

theorem test_hyps_loop_none : (loopState 0).Issues 0 0x700 { run (loopWord 0) with ker := { ker with words := 4 } } ∧
    (run (loopWord 0)).loopCount = 0 := by decide +kernel

/-- BR: always, and on equality of s1 with s0. -/
theorem test_hyps_br_taken : issues (word 8 0) {} 0x800 ∧ brTaken 0 (run (word 8 0)).brY (run (word 8 0)).brY = true ∧
    signed 20 (wf_ (word 8 0) 106 87) = 0 := by decide +kernel

theorem test_hyps_br_not_taken : issues (word 8 (1 * 2 ^ 120 + 1 * 2 ^ 114)) { s := [(1, 5#64)] } 0x800 ∧
    brTaken 1 5#64 (run (word 8 (1 * 2 ^ 120 + 1 * 2 ^ 114)) { s := [(1, 5#64)] }).brY = false := by decide +kernel

/-- WAITEV in its four forms, met and not. -/
theorem test_hyps_waitev : issues (word 9 0) {} 0x900 ∧ issues (word 9 0 (1 * 2 ^ 98)) { s := [(1, 5#64)] } 0x900 ∧
    issues (word 9 (8 * 2 ^ 120)) {} 0x900 ∧ up0.counter (arrIsl 0) < (5#64).toNat := by decide +kernel

theorem test_hyps_waitev_resumes : issues (word 9 0) { wait := .event } 0x900 ∧
    (seqAt (word 9 0) { wait := .event }).waitAt 0 = .event := by decide +kernel

/-- Every elementwise, register and reduction form with one active lane. -/
theorem test_hyps_vector_forms : ∀ op ∈ [0x20, 0x21, 0x24, 0x30, 0x31, 0x32, 0x33, 0x34, 0x35, 0x36, 0x37, 0x38, 0x39, 0x3A, 0x3B,
      0x40, 0x41, 0x42, 0x43, 0x44],
    issues (vec op 1) {} (0x200 + op) ∧ vecCheck (seqAt (vec op 1)).toBlock (run (vec op 1)) = none := by decide +kernel

theorem test_hyps_vector_moves : ∀ op ∈ [0x22, 0x23, 0x25, 0x26],
    issues (vec op) {} (0x200 + op) ∧ vecCheck (seqAt (vec op)).toBlock (run (vec op)) = none := by decide +kernel


theorem test_hyps_rtopk : issues topk {} 0x245 ∧ vecCheck (seqAt topk).toBlock (run topk) = none := by decide +kernel
theorem test_hyps_smxupd : issues smx {} 0x248 ∧ vecCheck (seqAt smx).toBlock (run smx) = none := by decide +kernel

theorem test_hyps_quant : ∀ op ∈ [0x50, 0x52],
    issues (vec op 32) {} (0x200 + op) ∧ vecCheck (seqAt (vec op 32)).toBlock (run (vec op 32)) = none := by decide +kernel


theorem test_hyps_quantsr : tuned.Issues 0 0x251 { run (vec 0x51 32) with ker := stoch } ∧
    vecCheck tuned.toBlock { run (vec 0x51 32) with ker := stoch } = none := by decide +kernel

theorem test_hyps_sfu : ∀ fn < 7, issues (word 3 (fn * 2 ^ 120 + 512 * 2 ^ 100)) {} (0x300 + fn) := by decide +kernel

def tmmaRun : Run := run tmmaWord tmmaRegs

theorem test_hyps_tmma : tmmaState.Issues 0 0x100 tmmaRun ∧
    tmmaCheck (tmmaState.core 0) tmmaRun [0, 64, 0, 0, 64, 0] bf16Desc bf16Desc = none ∧
    (tmmaState.core 0).scratchBytes [] 0 32 = bf16Desc := by decide +kernel

/-! ### The manual's rules on small states -/

/-- The state an instruction leaves. -/
def after (i : Instr) (s : State) : State := match exec i s with | .next t => t | _ => {}

/-- R107: an ADD whose destination is its source wraps. -/
theorem test_add_wraps :
    ((after (.add 0) (seqAt (vec 0 (1 * 2 ^ 109 + 1 * 2 ^ 102 + 1 * 2 ^ 94 + 2)) { s := [(1, BitVec.allOnes 64)] })).core 0).seqs =
      [(0, { s := [(1, 1#64)], pc := 1, kid := 1 })] := by decide +kernel

/-- R106: a write to s0 is discarded. -/
theorem test_write_to_s0_is_discarded :
    ((after (.add 0) (seqAt (vec 0 (1 * 2 ^ 94 + 2)))).core 0).seqs = [(0, { pc := 1, kid := 1 })] := by decide +kernel

/-- R107: SAR keeps the sign. -/
theorem test_sar_keeps_the_sign :
    ((after (.sar 0) (seqAt (vec 8 (1 * 2 ^ 109 + 1 * 2 ^ 102 + 1 * 2 ^ 94 + 4)) { s := [(1, BitVec.ofNat 64 (2 ^ 63))] })).core 0).seqs =
      [(0, { s := [(1, BitVec.ofNat 64 0xF800000000000000)], pc := 1, kid := 1 })] := by decide +kernel

/-- R114: a backward branch goes to PC − 1. -/
theorem test_br_goes_back :
    (((after (.br 0) (onCore { coreAt 0#128 {} with
        prog := [(1, word 8 (0xFFFFF * 2 ^ 87))], seqs := [(0, { pc := 1, kid := 1 })] })).core 0).seq 0).pc = 0 := by decide +kernel

/-- R115: a word of another instruction is left to its own command. -/
theorem test_other_word_changes_nothing : after (.sub 0) (seqAt (vec 0)) = seqAt (vec 0) := by decide +kernel

/-- R124: FP32 sums round to nearest, ties to even: 1 + 2^-24 is 1, 1 + 3 × 2^-24 is 1 + 2^-22. -/
theorem test_sum_ties_to_even : lane2 false Val.add 0x3F800000#32 0x33800000#32 = 0x3F800000#32 ∧
    lane2 false Val.add 0x3F800000#32 0x34400000#32 = 0x3F800002#32 := by decide +kernel

/-- FIPS 180-4: the digest of "abc". -/
theorem test_sha_abc : (sha256 [0x61#8, 0x62#8, 0x63#8]).take 4 = [0xBA#8, 0x78#8, 0x16#8, 0xBF#8] := by decide +kernel

/-- CRC-32C's check value over the digits 1 to 9. -/
theorem test_crc_check : crc32c ((List.range 9).map (fun i => BitVec.ofNat 8 (0x31 + i))) = 0xE3069283#32 := by decide +kernel

/-- R408: on a ring of four, half way round goes in the plus direction. -/
theorem test_route_half_way : ({ sizeX := 4, sizeY := 1, sizeZ := 1 } : Domain).route 0 2 = some 0 ∧
    ({ sizeX := 4, sizeY := 1, sizeZ := 1 } : Domain).route 0 3 = some 1 := by decide +kernel

/-- R314: a doorbell below the latch changes nothing; one above raises it. -/
theorem test_doorbell_only_raises :
    ((after (.doorbellWrite 0 5#64) { up with ctxs := [(0, { state := 1, latch := 9 })] }).ctx 0).latch = 9 ∧
    ((after (.doorbellWrite 0 10#64) { up with ctxs := [(0, { state := 1, latch := 9 })] }).ctx 0).latch = 10 := by decide +kernel

/-- R412, R437: nothing happens on a link that is not UP. -/
theorem test_link_not_up : after (.trelebIdle 3) { up with treleb := { state := 1 } } = { up with treleb := { state := 1 } } := by
  decide +kernel

/-- R523: an empty queue at reset stays idle. -/
theorem test_reset_is_idle : step State.reset = .next State.reset := by rfl

/-- The command in front is taken first. -/
theorem test_first_in_first_out : ∃ t, step { up with pending := [.outPop 64, .outPop 0] } = .next t ∧ t.pending = [.outPop 0] :=
  ⟨_, rfl, rfl⟩

/-- The table gives no row bits, so no word spells a command. -/
theorem test_no_word_spells_a_command : decodeTableWord 128 5 = none ∧ State.reset.withFetchWord 128 5 = State.reset := by
  decide +kernel

/-- R123's worked words: a TMMA of 4 rows and 128 columns, and a LOOP of 255 more passes over one word. -/
theorem test_worked_words :
    wordId 0x1244120048248CA2D000000000000000#128 = some 0x100 ∧
    wf_ 0x1244120048248CA2D000000000000000#128 113 106 = 4 ∧
    wf_ 0x1244120048248CA2D000000000000000#128 105 98 = 128 ∧
    wordId 0x70000113305CC000000000FF00000000#128 = some 0x700 := by decide +kernel

/-! ### WellFormed refuses -/

def badPkt : Pkt := { pkt with port := 18 }

/-- One ill-formed command for each check, at the first value past its range. -/
theorem test_ill_formed_is_refused : ∀ i ∈ ([.halt 16, .tagWaitResume 16 0, .engineStop 0 6, .engineStop 16 0, .pieceIssue 0 4,
    .pieceLanding 16 0 0, .descDone 0 4, .tlbResume 64, .finalSend 0 4, .creditTimeout 0 64, .codecBlockDone 0 4 0, .mbPost 65 0#512,
    .doorbellWrite 64 0#64, .outPop 65, .registerWrite 66 0 0#64, .ringFetch 64, .dispatch 64, .launch 64, .copy 64, .attn 64,
    .eventRecord 64, .eventWait 64, .stepBegin 64, .stepEnd 64, .floeOpInit 64, .cadenceTick 64, .deadline 64, .ctxCreate 65,
    .coreBind 65, .modelInstall 65, .placedRecheckDone 4, .windowOpen 65, .domainConfig 65, .attest 65, .timeQuery 65,
    .faultReply 65] : List Instr), i.wf = false := by decide +kernel

theorem test_ill_formed_on_links_is_refused : ∀ i ∈ ([.migrateDone 4, .hostNoResponse 68, .timeMessage 0 0 0#64 (2 ^ 64),
    .timeReply 0 (2 ^ 64), .snpAck 0 (some ([0#8], 16)), .dramApertureAccess 0 0 false 1 (some ([0#8], 65536)), .transResp 65536 0 0 0, .inval 64 0 0,
    .write pkt 0 [], .write badPkt 0 [0#8], .write pkt 0 (List.replicate 257 0#8), .final badPkt 0 0#64 0, .atomic badPkt 0 0#64 0#64,
    .enc badPkt 0 0 false [], .resp pkt 0 0 false none, .resp pkt 0 257 false none, .retryResend 16 0, .remoteTimeout 0 65536,
    .nak 18 0, .nak 0 4096, .retryExhausted 18, .portRetrain 18, .timeReply 18 0, .joined 18 0, .trelebNak 4096, .cmp 65536 0,
    .cmpd 65536 0 0, .cmpd 0 0 65536, .completionTimeout 65536, .intrFailed 65536, .dramApertureAccess 0 (2 ^ 42) false 1 none,
    .dramApertureAccess 65536 0 false 1 none, .idle 18 0, .idle 0 4096, .trelebIdle 4096] : List Instr), i.wf = false := by decide +kernel

theorem test_ill_formed_on_the_board_is_refused : ∀ i ∈ ([.trainDone 24 true, .dramPatrolScrub 24 0 .clean,
    .scratchpadPatrolSweep 16 false 0 .clean, .watchdog 4 0, .watchdog 0 6, .heartbeat 4, .heartbeatLost 4, .tileResetRelease 4,
    .partitionResetEnd 4, .resetFailed 4, .partitionReset 4, .vendorDefinedRequest [], .sensorSample 65536 0 false, .clamp 0 0,
    .clamp 6 0, .clamp 1 3, .clampRelease 1 3, .railFault 28 1 0, .railFault 0 4 0, .senseOpen 28, .pmicFault 24 0,
    .controlUncorrectable 4, .i3cDynamicAddress 128] : List Instr), i.wf = false := by decide +kernel

end Sys2Proof.Tests
end

section
/-!
The mailbox: what the taking of a message, its reply and what follows change, said once (R318, R319, R322), and the rule by which
an operation that ends in a reply satisfies `Message`.
-/
namespace Sys2Proof.Machine

/-- The block without its mailboxes, which is what `Message` compares. -/
abbrev Block.sansMail (b : Block) : Block := { b with mboxes := [] }

theorem Leaves.setMbox {b c : Block} (h : Leaves Block.sansMail b c) (page : Nat) (x : Mbox) :
    Leaves Block.sansMail b (c.setMbox page x) := h

/-! ### Taking a message -/

section
variable (b : Block) (page : Nat) (m : List Byte)

theorem Block.leaves_mbTake : Leaves sansMail b (b.mbTake page m) :=
  ((b.emitCtx_traced ..).leaves sansMail).setMbox page _

theorem Block.inq_mbTake : ((b.mbTake page m).mbox page).inq = (b.mbox page).inq.drop 1 := by
  simp [mbTake]

theorem Block.mbox_mbTake_other {p : Nat} (hp : p ≠ page) : (b.mbTake page m).mbox p = b.mbox p := by
  simp [mbTake, mbox_setMbox_other _ _ _ _ hp]

/-! ### The reply and what follows -/

variable (st : Nat) (pl : List Byte)

theorem Block.inq_mbReply : ((b.mbReply page m st pl).mbox page).inq = (b.mbox page).inq := by
  simp [mbReply]

theorem Block.mem_outq_mbReply : mbBytes (mOp m) (mTag m) (mCtx m) 1 st pl ∈ ((b.mbReply page m st pl).mbox page).outq := by
  simp [mbReply]

theorem Block.mbox_mbReply_other {p : Nat} (hp : p ≠ page) : (b.mbReply page m st pl).mbox p = b.mbox p :=
  mbox_setMbox_other _ _ _ _ hp

theorem Block.inq_mbPump : ((b.mbPump page).mbox page).inq = (b.mbox page).inq := by
  simp [mbPump]

theorem Block.mem_outq_mbPump {r : List Byte} (h : r ∈ (b.mbox page).outq) : r ∈ ((b.mbPump page).mbox page).outq := by
  simp [mbPump, h]

theorem Block.mbox_mbPump_other {p : Nat} (hp : p ≠ page) : (b.mbPump page).mbox p = b.mbox p :=
  mbox_setMbox_other _ _ _ _ hp

/-- Where no message waits, only unsolicited messages follow (R322). -/
theorem Block.mbDrain_of_inq_nil (h : (b.mbox page).inq = []) : b.mbDrain page = b.mbPump page := by
  simp only [mbDrain, mbDrainN, h]

end

theorem Block.mbOp_of_turn {b : Block} {page op : Nat} {m : List Byte} (h : b.mbTurn page op = some m)
    (f : Block → List Byte → Block) : b.mbOp page op f = (f (b.mbTake page m) m).mbDrain page := by
  simp only [mbOp, mbOpIf, h, if_true]

/-! ### Operations that end in a reply -/

/-- An operation satisfies `Message` where its work on the block that has taken the message ends in the reply to it, after
an effect that leaves the mailboxes alone. -/
theorem message_of_reply {mk : Nat → Instr} {op : Nat} {f : Nat → Block → List Byte → Block}
    (hexec : ∀ page s, exec (mk page) s = s.run (·.mbOp page op (f page)))
    {ok : State → Nat → List Byte → Prop} {st : Nat} {pl : State → Nat → List Byte → List Byte}
    {eff : State → Nat → List Byte → Block}
    (hreply : ∀ page s m, s.Turn page op m → ok s page m → ∃ c : Block,
      f page (s.mbTake page m) m = c.mbReply page m st (pl s page m) ∧
        c.mboxes = (s.mbTake page m).mboxes ∧ Leaves Block.sansMail (eff s page m) c) :
    Message mk op ok st pl eff := by
  intro page s m ⟨hturn, hinq⟩ hok
  obtain ⟨c, hf, hboxes, heff⟩ := hreply page s m ⟨hturn, hinq⟩ hok
  have hmbox (p : Nat) : c.mbox p = (s.mbTake page m).mbox p := by simp only [Block.mbox, hboxes]
  have hempty : ((c.mbReply page m st (pl s page m)).mbox page).inq = [] := by
    rw [Block.inq_mbReply, hmbox, Block.inq_mbTake, hinq, List.drop_one, List.tail_cons]
  have hop : s.mbOp page op (f page) = (c.mbReply page m st (pl s page m)).mbPump page := by
    rw [Block.mbOp_of_turn hturn, hf, Block.mbDrain_of_inq_nil _ _ hempty]
  refine ⟨{ s with toBlock := s.mbOp page op (f page) }, hexec page s, rfl, ?_⟩
  rw [hop]
  refine ⟨Block.mem_outq_mbPump _ _ (Block.mem_outq_mbReply ..), (Block.inq_mbPump ..).trans hempty, fun p hp => ?_,
    (heff.setMbox page _).setMbox page _⟩
  calc ((c.mbReply page m st (pl s page m)).mbPump page).mbox p
      = (c.mbReply page m st (pl s page m)).mbox p := Block.mbox_mbPump_other _ _ hp
    _ = c.mbox p := Block.mbox_mbReply_other _ _ _ _ _ hp
    _ = (s.mbTake page m).mbox p := hmbox p
    _ = s.mbox p := Block.mbox_mbTake_other _ _ _ hp

end Sys2Proof.Machine
end

section
/-!
The scope's refusals (R5).
-/
namespace Sys2Proof.Machine

/-- Settles O54: the level is tested before every other field (log entry 37), so the block that has taken the message only
replies, with R326's reason LEVEL. -/
theorem otherLevelsAreRefused : Obligations.OtherLevelsAreRefused := by
  unfold Obligations.OtherLevelsAreRefused
  refine message_of_reply (fun _ _ => rfl) fun page s m _ hlevel => ?_
  exact ⟨s.mbTake page m, if_pos hlevel, rfl, s.leaves_mbTake page m⟩

end Sys2Proof.Machine
end

section
/-!
The module-wide states that O60 speaks of, taken together, and the rules that most operations keep them. An operation that
keeps them has a lemma `modes_<operation>`: its states are those of the block it works on; one that goes on with an operation
it is given keeps them where that one does.
-/
namespace Sys2Proof.Machine

/-- The time keeper and the states of time, link, power, Rim controller, security island and domain. -/
structure Modes where
  keeper : Nat
  time : Nat
  treleb : Nat
  power : Nat
  rim : Nat
  sec : Nat
  domain : Nat

/-- The module-wide states of a block. -/
def Block.modes (b : Block) : Modes :=
  ⟨b.time.keeper, b.time.state, b.treleb.state, b.power.state, b.rim.state, b.sec.state, b.weave.domain.state⟩

/-! ### Choices, folds and record updates -/

section
variable (b : Block)

theorem Block.modes_ite (p : Prop) [Decidable p] (x y : Block) : (if p then x else y).modes = if p then x.modes else y.modes :=
  apply_ite Block.modes p x y

theorem Block.modes_foldl {α : Type} (f : Block → α → Block) (h : ∀ b x, (f b x).modes = b.modes) (l : List α) (b : Block) :
    (l.foldl f b).modes = b.modes := by
  induction l generalizing b with
  | nil => rfl
  | cons x l ih => exact (ih _).trans (h b x)

/-- An update of no field that holds one of the states. The proofs of these updates are not `rfl` lemmas for `simp`: it
would unfold the whole block to check them. -/
theorem Block.modes_with (is rs cs ps xs ms ab ai kc fs iv d f hm ha hp h fc) :
    Block.modes { b with
      islands := is, rings := rs, cores := cs, parts := ps, ctxs := xs, mboxes := ms, aborts := ab, abortId := ai, kidCtr := kc, faults := fs,
      invals := iv, dram := d, firn := f, hostMem := hm, hostAbsent := ha, hostPoison := hp, halted := h, freeCtr := fc } = b.modes := (rfl)

theorem Block.modes_withWeave (p w g e a j x) :
    Block.modes { b with weave := { b.weave with ports := p, windows := w, groups := g, encs := e, waiting := a, jobs := j, expired := x } } =
      b.modes := (rfl)

theorem Block.modes_withTreleb (w fl rv mm db er co re rc tx bu rq nt an sn iv da st) :
    Block.modes { b with treleb := { b.treleb with
      width := w, failed := fl, reversed := rv, mmioBase := mm, dramBase := db, err := er, corrected := co, retries := re, recoveries := rc,
      txSeq := tx, buf := bu, reqs := rq, nextTag := nt, answers := an, snoops := sn, invals := iv, downAt := da, stale := st } } =
      b.modes := (rfl)

theorem Block.modes_withRim (bo im iv ru up wy lq lg ls dr ov se rc ri ma ou ca sp ad i3 ti rt di) :
    Block.modes { b with rim := { b.rim with
      boot := bo, image := im, imageValid := iv, running := ru, update := up, why := wy, logQ := lq, log := lg, logSeq := ls, dropped := dr,
      overflow := ov, sensors := se, receiver := rc, rings := ri, mail := ma, out := ou, carried := ca, strap := sp, address := ad, i3c := i3,
      tid := ti, retired := rt, disabled := di } } = b.modes := (rfl)

theorem Block.modes_withSec (u us fl dc q ch rq co z) :
    Block.modes { b with sec := { b.sec with
      unlocked := u, unlocks := us, floor := fl, decommissioned := dc, queue := q, challenge := ch, requests := rq, content := co, zero := z } } =
      b.modes := (rfl)

theorem Block.modes_withPower (ca st mv rd rl sn pm as lv) :
    Block.modes { b with power := { b.power with
      cause := ca, step := st, inputMv := mv, ready := rd, rails := rl, sense := sn, pmic := pm, asks := as, level := lv } } = b.modes := (rfl)

end

theorem Block.modes_foldl_fst {α β : Type} (f : Block × β → α → Block × β) (h : ∀ r x, (f r x).1.modes = r.1.modes) (l : List α)
    (r : Block × β) : (l.foldl f r).1.modes = r.1.modes := by
  induction l generalizing r with
  | nil => rfl
  | cons x l ih => exact (ih _).trans (h r x)

/-- The states of a block that an operation with two results gives. -/
theorem Block.modes_of_eq {β : Type} {p : Block × β} {c : Block} {y : β} (h : p = (c, y)) : c.modes = p.1.modes := by rw [h]

end Sys2Proof.Machine
end

section
/-!
The module-wide states through the state operations and the traces.
-/
namespace Sys2Proof.Machine

@[simp] theorem Block.modes_setCore (b : Block) (c : Nat) (x : Core) : (b.setCore c x).modes = b.modes := by
  simp only [setCore, modes_with]

@[simp] theorem Block.modes_modCore (b : Block) (c : Nat) (f : Core → Core) : (b.modCore c f).modes = b.modes := by
  simp only [modCore, modes_setCore]

@[simp] theorem Block.modes_setPart (b : Block) (p : Nat) (x : Part) : (b.setPart p x).modes = b.modes := by
  simp only [setPart, modes_with]

@[simp] theorem Block.modes_modPart (b : Block) (p : Nat) (f : Part → Part) : (b.modPart p f).modes = b.modes := by
  simp only [modPart, modes_setPart]

@[simp] theorem Block.modes_setCtx (b : Block) (n : Nat) (x : Ctx) : (b.setCtx n x).modes = b.modes := by
  simp only [setCtx, modes_with]

@[simp] theorem Block.modes_modCtx (b : Block) (n : Nat) (f : Ctx → Ctx) : (b.modCtx n f).modes = b.modes := by
  simp only [modCtx, modes_setCtx]

@[simp] theorem Block.modes_setMbox (b : Block) (p : Nat) (x : Mbox) : (b.setMbox p x).modes = b.modes := by
  simp only [setMbox, modes_with]

@[simp] theorem Block.modes_modMbox (b : Block) (p : Nat) (f : Mbox → Mbox) : (b.modMbox p f).modes = b.modes := by
  simp only [modMbox, modes_setMbox]

@[simp] theorem Block.modes_setPort (b : Block) (p : Nat) (x : Port) : (b.setPort p x).modes = b.modes := by
  simp only [setPort, modes_withWeave]

@[simp] theorem Block.modes_modPort (b : Block) (p : Nat) (f : Port → Port) : (b.modPort p f).modes = b.modes := by
  simp only [modPort, modes_setPort]

@[simp] theorem Block.modes_setIsland (b : Block) (i : Nat) (x : Island) : (b.setIsland i x).modes = b.modes := by
  simp only [setIsland, modes_with]

@[simp] theorem Block.modes_setRing (b : Block) (r : Nat) (x : TraceRing) : (b.setRing r x).modes = b.modes := by
  simp only [setRing, modes_with]

@[simp] theorem Block.modes_draw (b : Block) : (b.draw).2.modes = b.modes := by
  simp only [draw, modes_with]

@[simp] theorem Block.modes_stamp (b : Block) (isl carried : Nat) : (b.stamp isl carried).2.modes = b.modes := by
  simp only [stamp, modes_setIsland]

@[simp] theorem Block.modes_cross (b : Block) (src dst : Nat) : (b.cross src dst).modes = b.modes := by
  simp only [cross, modes_ite, modes_stamp, ite_self]

@[simp] theorem Block.modes_crossTo (b : Block) (src : Nat) (dsts : List Nat) : (b.crossTo src dsts).modes = b.modes := by
  simp only [crossTo, modes_cross, implies_true, modes_foldl]

@[simp] theorem Block.modes_crossFrom (b : Block) (srcs : List Nat) (dst : Nat) : (b.crossFrom srcs dst).modes = b.modes := by
  simp only [crossFrom, modes_cross, implies_true, modes_foldl]

@[simp] theorem Block.modes_dramWrite (b : Block) (off : Nat) (data : List Byte) (bad : List Nat) :
    (b.dramWrite off data bad).modes = b.modes := by
  simp only [dramWrite, modes_with]

@[simp] theorem Block.modes_hostWrite (b : Block) (a : Nat) (data : List Byte) (bad : List Nat) :
    (b.hostWrite a data bad).modes = b.modes := by
  simp only [hostWrite, modes_with]

@[simp] theorem Block.modes_ownWrite (b : Block) (pa : Nat) (data : List Byte) : (b.ownWrite pa data).modes = b.modes := by
  simp only [ownWrite, modes_ite, modes_dramWrite, modes_hostWrite, ite_self]

@[simp] theorem Block.modes_request (b : Block) (k a n d x) : (b.request k a n d x).modes = b.modes := rfl

@[simp] theorem Block.modes_traceDrop (b : Block) (r : Nat) : (b.traceDrop r).modes = b.modes := by
  simp only [traceDrop, modes_setRing]
  split <;> simp only [modes_ownWrite]

@[simp] theorem Block.modes_traceLand (b : Block) (r : Nat) (rec : List Byte) : (b.traceLand r rec).modes = b.modes := by
  simp only [traceLand]
  split <;> simp only [modes_setRing, modes_ownWrite]

@[simp] theorem Block.modes_traceSend (b : Block) (r : Nat) : (b.traceSend r).modes = b.modes := by
  simp only [traceSend]
  split <;> simp only [modes_ite, modes_request, ite_self]

@[simp] theorem Block.modes_traceMoved (b : Block) (r : Nat) : (b.traceMoved r).modes = b.modes := by
  simp only [traceMoved]
  split <;> simp only [modes_ite, modes_traceLand, implies_true, modes_foldl, modes_setRing, modes_traceSend, ite_self]

@[simp] theorem Block.modes_traceAnswer (b : Block) (r addr : Nat) (data : List Byte) (ok : Bool) :
    (b.traceAnswer r addr data ok).modes = b.modes := by
  simp only [traceAnswer, modes_traceSend, modes_ite, modes_traceLand, modes_setRing, modes_traceDrop, ite_self, modes_hostWrite]

@[simp] theorem Block.modes_log (b : Block) (stamp code part isl arg : Nat) : (b.log stamp code part isl arg).modes = b.modes := by
  simp only [log, modes_ite, modes_withRim]
  (repeat' split) <;> simp only [modes_withRim]

@[simp] theorem Block.modes_emitAt (b : Block) (stamp isl event ctx step arg : Nat) :
    (b.emitAt stamp isl event ctx step arg).modes = b.modes := by
  simp only [emitAt, modes_ite, modes_log, ite_self]
  (repeat' split) <;> simp only [modes_setIsland, modes_log, modes_traceDrop, modes_traceLand, modes_traceSend, modes_setRing]

@[simp] theorem Block.modes_emit (b : Block) (isl event ctx step arg : Nat) : (b.emit isl event ctx step arg).modes = b.modes := by
  simp only [emit, modes_emitAt, modes_stamp]

@[simp] theorem Block.modes_emitEach (b : Block) (isls : List Nat) (event ctx step arg : Nat) :
    (b.emitEach isls event ctx step arg).modes = b.modes := by
  simp only [emitEach, modes_emit, implies_true, modes_foldl]

@[simp] theorem Block.modes_emitCtx (b : Block) (isl event ctx arg : Nat) : (b.emitCtx isl event ctx arg).modes = b.modes := by
  simp only [emitCtx, modes_emit]

@[simp] theorem Block.modes_anyStatus (b : Block) : (b.anyStatus).2.modes = b.modes := by
  simp only [anyStatus, modes_draw]

end Sys2Proof.Machine
end

section
/-!
The module-wide states through the front end, the aborts and the completions of entries.
-/
namespace Sys2Proof.Machine

@[simp] theorem Block.modes_tracePoison (b : Block) (pa n : Nat) : (b.tracePoison pa n).modes = b.modes := by
  simp only [tracePoison, modes_ite, modes_emit, ite_self, implies_true, modes_foldl]

@[simp] theorem Block.modes_firnPoison (b : Block) (pa n : Nat) : (b.firnPoison pa n).modes = b.modes := by
  simp only [firnPoison, modes_ite, modes_emit, modes_with, ite_self, implies_true, modes_foldl]

@[simp] theorem Block.modes_delivered (b : Block) (pa n : Nat) : (b.delivered pa n).modes = b.modes := by
  simp only [delivered, modes_firnPoison, modes_tracePoison]

@[simp] theorem Block.modes_grantDenied (b : Block) (ctx pa n : Nat) : (b.grantDenied ctx pa n).modes = b.modes := by
  simp only [grantDenied, modes_emit]

@[simp] theorem Block.modes_hostError (b : Block) (st? : Option Nat) (addr : Nat) : (b.hostError st? addr).modes = b.modes := by
  simp only [hostError, modes_emit]
  split <;> simp only [modes_anyStatus]

@[simp] theorem Block.modes_hostPut (b : Block) (a : Nat) (data : List Byte) : (b.hostPut a data).1.modes = b.modes := by
  simp only [hostPut]
  split <;> simp only [modes_hostWrite, modes_hostError]

@[simp] theorem Block.modes_hostMissed (b : Block) (a n : Nat) : (b.hostMissed a n).modes = b.modes := by
  simp only [hostMissed, modes_ite, modes_hostError, ite_self]

theorem Block.modes_hostRead (b : Block) (a n no f) (hno : ∀ c, (no c).modes = c.modes) (hf : ∀ d, (f d).modes = b.modes) :
    (b.hostRead a n no f).modes = b.modes := by
  unfold hostRead; split
  · exact hf _
  · rw [hno, modes_hostMissed]

@[simp] theorem Block.modes_feWrite (b : Block) (ctx va : Nat) (data : List Byte) : (b.feWrite ctx va data).1.modes = b.modes := by
  unfold feWrite
  refine modes_foldl_fst _ (fun r p => ?_) _ _
  dsimp only
  split
  · rfl
  · split
    · rfl
    · split
      · simp only [modes_dramWrite]
      · split <;> next h => rw [modes_of_eq h, modes_hostPut]

@[simp] theorem Block.modes_askTrans (b : Block) (kind : ReqKind) (va acc : Nat) : (b.askTrans kind va acc).modes = b.modes := by
  simp only [askTrans, modes_ite, modes_request, ite_self]

theorem Block.modes_feGate (b : Block) (ctx ranges acc f) (hf : f.modes = b.modes) : (b.feGate ctx ranges acc f).modes = b.modes := by
  unfold feGate; split
  · exact hf
  · rfl
  · exact modes_askTrans ..

@[simp] theorem Block.modes_feFailed (b : Block) (ctx va n acc : Nat) : (b.feFailed ctx va n acc).modes = b.modes := by
  unfold feFailed
  refine (modes_foldl_fst _ (fun r p => ?_) _ _).trans (modes_modCtx ..)
  dsimp only
  (repeat' split) <;> simp only [modes_grantDenied, modes_tracePoison, modes_hostError, modes_delivered]

@[simp] theorem Block.modes_feSeen (b : Block) (ctx va n : Nat) : (b.feSeen ctx va n).modes = b.modes := by
  simp only [feSeen, modes_crossFrom]

theorem Block.modes_feThrough (b : Block) (ctx va n no f) (hno : ∀ c st, (no c st).modes = c.modes) (hf : ∀ c d, (f c d).modes = c.modes) :
    (b.feThrough ctx va n no f).modes = b.modes := by
  refine modes_feGate _ _ _ _ _ ?_
  split
  · rw [hf, modes_feSeen]
  · rw [hno, modes_feFailed]

@[simp] theorem Block.modes_unpark (b : Block) (core m : Nat) : (b.unpark core m).modes = b.modes := by
  unfold unpark; dsimp only; split
  · rw [modes_modCtx, modes_with, modes_modCore]
  · exact modes_modCore ..

@[simp] theorem Block.modes_unparkAttn (b : Block) (core ctx : Nat) : (b.unparkAttn core ctx).modes = b.modes := by
  simp only [unparkAttn, modes_ite, modes_unpark, ite_self]

@[simp] theorem Block.modes_cancelMovers (b : Block) (core : Nat) (p : Desc → Bool) : (b.cancelMovers core p).modes = b.modes := by
  simp only [cancelMovers, modes_ite, modes_emitCtx, implies_true, modes_foldl, modes_modCore, modes_unpark, ite_self]

@[simp] theorem Block.modes_bank (b : Block) (core : Nat) : (b.bank core).modes = b.modes := by
  simp only [bank, modes_ite, modes_modCore, modes_modCtx, ite_self]

@[simp] theorem Block.modes_abortKernel (b : Block) (core kid : Nat) (other : Bool) : (b.abortKernel core kid other).modes = b.modes := by
  simp only [abortKernel]
  (repeat' split) <;> simp only [modes_modCore, modes_cancelMovers, modes_emitCtx, modes_bank]

@[simp] theorem Block.modes_retireGroups (b : Block) (ctx : Nat) : (b.retireGroups ctx).modes = b.modes := by
  simp only [retireGroups, modes_modCtx, modes_withWeave]

@[simp] theorem Block.modes_emitStep (b : Block) (event ctx lo hi : Nat) : (b.emitStep event ctx lo hi).modes = b.modes := by
  simp only [emitStep, modes_emit]

@[simp] theorem Block.modes_acceptAbort (b : Block) (ctx scope seqs kids drop page other) :
    (b.acceptAbort ctx scope seqs kids drop page other).modes = b.modes := by
  simp only [acceptAbort, modes_with, modes_foldl, modes_unparkAttn, modes_modCore, modes_abortKernel, modes_crossTo, modes_modCtx,
    modes_emitStep, implies_true]

@[simp] theorem Block.modes_retireStep (b : Block) (ctx why : Nat) : (b.retireStep ctx why).modes = b.modes := by
  simp only [retireStep, modes_retireGroups, modes_modCtx, modes_emitStep]

@[simp] theorem Block.modes_dropStep (b : Block) (ctx why : Nat) (page : Option Nat) : (b.dropStep ctx why page).modes = b.modes := by
  simp only [dropStep, modes_ite, modes_acceptAbort, modes_retireStep, ite_self]

@[simp] theorem Block.modes_abortCtx (b : Block) (ctx : Nat) (page : Option Nat) : (b.abortCtx ctx page).modes = b.modes := by
  simp only [abortCtx, modes_acceptAbort, modes_ite, modes_retireStep, ite_self]

@[simp] theorem Block.modes_raiseVector (b : Block) (v : Nat) : (b.raiseVector v).modes = b.modes := by
  simp only [raiseVector, modes_ite, modes_request, ite_self]

@[simp] theorem Block.modes_sendDone (b : Block) (ctx : Nat) : (b.sendDone ctx).modes = b.modes := by
  simp only [sendDone, modes_ite]
  (repeat' split) <;> simp only [modes_modCtx, modes_raiseVector, modes_request]

@[simp] theorem Block.modes_riseDone (b : Block) (ctx : Nat) : (b.riseDone ctx).modes = b.modes := by
  simp only [riseDone]
  split <;> simp only [modes_sendDone, modes_setCtx]

@[simp] theorem Block.modes_completeEntry (b : Block) (ctx seq status : Nat) : (b.completeEntry ctx seq status).modes = b.modes := by
  simp only [completeEntry]
  split <;> simp only [modes_ite, modes_modCtx, modes_emitCtx, ite_self]

@[simp] theorem Block.modes_finishEntry (b : Block) (ctx seq status : Nat) (detail : List Byte) :
    (b.finishEntry ctx seq status detail).modes = b.modes := by
  simp only [finishEntry]
  split <;> simp only [modes_ite, modes_modCtx, modes_dropStep, ite_self, modes_riseDone, modes_completeEntry]

@[simp] theorem Block.modes_crossFront (b : Block) (core : Nat) : (b.crossFront core).modes = b.modes := by
  simp only [crossFront, modes_cross]

@[simp] theorem Block.modes_stopKernel (b : Block) (core kid : Nat) (at_ : Option Nat) (rep : StopReport) :
    (b.stopKernel core kid at_ rep).modes = b.modes := by
  simp only [stopKernel]
  split <;> simp only [modes_ite, modes_crossFront, modes_cancelMovers, modes_modCore, modes_emit, modes_bank, ite_self,
    modes_acceptAbort]

@[simp] theorem Block.modes_poisonSeen (b : Block) (isl part ctx step : Nat) : (b.poisonSeen isl part ctx step).modes = b.modes := by
  simp only [poisonSeen, modes_emit, modes_modPart, modes_modCtx]

@[simp] theorem Block.modes_preciseStop (b : Block) (core ctx status detail : Nat) :
    (b.preciseStop core ctx status detail).modes = b.modes := by
  simp only [preciseStop]
  split <;> simp only [modes_stopKernel, modes_ite, modes_poisonSeen, ite_self]

@[simp] theorem Block.modes_engineStopAt (b : Block) (core : Nat) (o : EngOp) (status detail : Nat) :
    (b.engineStopAt core o status detail).modes = b.modes := by
  simp only [engineStopAt, modes_ite, modes_stopKernel, modes_poisonSeen, modes_modCore, ite_self, modes_emitCtx]

@[simp] theorem Block.modes_failDesc (b : Block) (core m : Nat) (d : Desc) (status block : Nat) :
    (b.failDesc core m d status block).modes = b.modes := by
  simp only [failDesc, modes_stopKernel, modes_cross, modes_modCore, modes_ite, modes_unpark, modes_poisonSeen, modes_emitAt,
    modes_stamp, ite_self]

end Sys2Proof.Machine
end

section
/-!
The module-wide states through the sequencers and the engines.
-/
namespace Sys2Proof.Machine

theorem Block.modes_issue (b : Block) (core id : Nat) (f : Run → Block) (hf : ∀ r, (f r).modes = b.modes) :
    (b.issue core id f).modes = b.modes := by
  unfold issue
  (repeat' split) <;> simp only [modes_preciseStop, hf]

@[simp] theorem Block.modes_issued (b : Block) (core ctx : Nat) (q : SeqState) : (b.issued core ctx q).modes = b.modes := by
  simp only [issued, modes_modCore]

@[simp] theorem Block.modes_waitOn (b : Block) (core ctx : Nat) (w : Wait) : (b.waitOn core ctx w).modes = b.modes := by
  simp only [waitOn, modes_modCore]

@[simp] theorem Block.modes_switchTo (b : Block) (core : Nat) (bd : Binding) : (b.switchTo core bd).modes = b.modes := by
  simp only [switchTo, modes_ite, modes_modCore, modes_bank, ite_self, modes_emitCtx]

@[simp] theorem Block.modes_startKernel (b : Block) (core : Nat) (bd : Binding) (w : Waiting) :
    (b.startKernel core bd w).modes = b.modes := by
  simp only [startKernel, modes_emit, modes_cross, modes_modCore, modes_setCore, modes_switchTo]

@[simp] theorem Block.modes_takeNext (b : Block) (core : Nat) : (b.takeNext core).modes = b.modes := by
  simp only [takeNext]
  (repeat' split) <;> simp only [modes_switchTo, modes_startKernel]

@[simp] theorem Block.modes_launchDone (b : Block) (ctx seq : Nat) : (b.launchDone ctx seq).modes = b.modes := by
  simp only [launchDone, modes_ite]
  (repeat' split) <;> simp only [modes_finishEntry, modes_modCore, implies_true, modes_foldl]

@[simp] theorem Block.modes_kernelDone (b : Block) (core : Nat) (ker : Kernel) : (b.kernelDone core ker).modes = b.modes := by
  simp only [kernelDone, modes_launchDone, modes_crossFront, modes_modCore, modes_emit]

@[simp] theorem Block.modes_halt (b : Block) (core : Nat) : (b.halt core).modes = b.modes := by
  refine modes_issue _ _ _ _ fun r => ?_
  dsimp only
  (repeat' split) <;> simp only [modes_switchTo, modes_emit, modes_modCore, modes_bank, modes_issued]

@[simp] theorem Block.modes_loop (b : Block) (core : Nat) : (b.loop core).modes = b.modes := by
  simp only [loop, modes_ite, modes_preciseStop, modes_issued, ite_self, implies_true, modes_issue]

@[simp] theorem Block.modes_br (b : Block) (core : Nat) : (b.br core).modes = b.modes := by
  simp only [br, modes_ite, modes_preciseStop, modes_issued, ite_self, implies_true, modes_issue]

@[simp] theorem Block.modes_flagFails (b : Block) (core ctx : Nat) (a : W64) (st : Nat) : (b.flagFails core ctx a st).modes = b.modes := by
  simp only [flagFails, modes_ite, modes_waitOn, modes_feGate, modes_preciseStop, modes_feFailed, ite_self]

@[simp] theorem Block.modes_waitev (b : Block) (core : Nat) : (b.waitev core).modes = b.modes := by
  refine modes_issue _ _ _ _ fun r => ?_
  dsimp only
  (repeat' split) <;> simp only [modes_preciseStop, modes_issued, modes_modCore, modes_cross, modes_waitOn, modes_flagFails]

@[simp] theorem Block.modes_depmark (b : Block) (core : Nat) : (b.depmark core).modes = b.modes := by
  simp only [depmark, modes_ite, modes_preciseStop, modes_issued, modes_modCore, modes_cross, ite_self, implies_true, modes_issue]

@[simp] theorem Block.modes_stampOp (b : Block) (core : Nat) : (b.stampOp core).modes = b.modes := by
  simp only [stampOp, modes_issued, modes_emit, implies_true, modes_issue]

theorem Block.modes_tagIssue (b : Block) (core op : Nat) (f) (hf : ∀ r l, (f r l).modes = b.modes) :
    (b.tagIssue core op f).modes = b.modes := by
  refine modes_issue _ _ _ _ fun r => ?_
  split
  · exact modes_preciseStop ..
  · exact hf _ _

@[simp] theorem Block.modes_tagSet (b : Block) (core op : Nat) (full : Bool) : (b.tagSet core op full).modes = b.modes := by
  simp only [tagSet, modes_issued, modes_modCore, implies_true, modes_tagIssue]

@[simp] theorem Block.modes_tagWait (b : Block) (core op : Nat) (full : Bool) : (b.tagWait core op full).modes = b.modes := by
  simp only [tagWait, modes_ite, modes_issued, modes_waitOn, ite_self, implies_true, modes_tagIssue]

@[simp] theorem Block.modes_tagTest (b : Block) (core : Nat) : (b.tagTest core).modes = b.modes := by
  simp only [tagTest, modes_issued, implies_true, modes_tagIssue]

@[simp] theorem Block.modes_swapHalf (b : Block) (core : Nat) : (b.swapHalf core).modes = b.modes := by
  simp only [swapHalf, modes_issued, modes_modCore, implies_true, modes_tagIssue]

@[simp] theorem Block.modes_setQueue (b : Block) (core : Nat) (bd : Binding) (qsel : Nat) (l : List W32) :
    (b.setQueue core bd qsel l).modes = b.modes := by
  simp only [setQueue, modes_ite, modes_modCore, modes_modPart, ite_self]

@[simp] theorem Block.modes_crossQueue (b : Block) (core qsel : Nat) : (b.crossQueue core qsel).modes = b.modes := by
  simp only [crossQueue, modes_ite, modes_cross, ite_self]

@[simp] theorem Block.modes_queueCross (b : Block) (core qsel : Nat) : (b.queueCross core qsel).modes = b.modes := by
  simp only [queueCross, modes_ite, modes_cross, ite_self]

@[simp] theorem Block.modes_hqPush (b : Block) (core op : Nat) (try_ : Bool) : (b.hqPush core op try_).modes = b.modes := by
  refine modes_issue _ _ _ _ fun r => ?_
  dsimp only; split
  · exact modes_preciseStop ..
  · simp only [modes_ite, modes_waitOn, modes_issued, modes_setQueue, modes_crossQueue, ite_self]

@[simp] theorem Block.modes_hqPop (b : Block) (core op : Nat) (try_ : Bool) : (b.hqPop core op try_).modes = b.modes := by
  refine modes_issue _ _ _ _ fun r => ?_
  dsimp only; split
  · exact modes_preciseStop ..
  · simp only [modes_ite, modes_waitOn, modes_issued, ite_self]
  · simp only [modes_ite, modes_issued, modes_modCore, modes_setQueue, modes_queueCross, ite_self]

@[simp] theorem Block.modes_enqueue (b : Block) (core e : Nat) (r : Run) (vals : List Nat) (da db : List Byte) (q : SeqState) :
    (b.enqueue core e r vals da db q).modes = b.modes := by
  simp only [enqueue, modes_issued, modes_modCore]

theorem Block.modes_engineIssue (b : Block) (core id e : Nat) (f : Run → Block) (hf : ∀ r, (f r).modes = b.modes) :
    (b.engineIssue core id e f).modes = b.modes := by
  refine modes_issue _ _ _ _ fun r => ?_
  rw [modes_ite, hf, ite_self]

@[simp] theorem Block.modes_tmma (b : Block) (core : Nat) : (b.tmma core).modes = b.modes := by
  refine modes_engineIssue _ _ _ _ _ fun r => ?_
  dsimp only
  (repeat' split) <;> simp only [modes_preciseStop, modes_enqueue]

@[simp] theorem Block.modes_vecIssue (b : Block) (core op : Nat) : (b.vecIssue core op).modes = b.modes := by
  refine modes_engineIssue _ _ _ _ _ fun r => ?_
  dsimp only
  (repeat' split) <;> simp only [modes_preciseStop, modes_enqueue]

@[simp] theorem Block.modes_sfuIssue (b : Block) (core fn : Nat) : (b.sfuIssue core fn).modes = b.modes := by
  simp only [sfuIssue, modes_ite, modes_preciseStop, modes_enqueue, ite_self, implies_true, modes_engineIssue]

end Sys2Proof.Machine
end

section
/-!
The module-wide states through the ports, the inbound packets and the movers.
-/
namespace Sys2Proof.Machine

@[simp] theorem Block.modes_portSend (b : Block) (p vc : Nat) (o : Out) : (b.portSend p vc o).modes = b.modes := by
  simp only [portSend, modes_modPort]

@[simp] theorem Block.modes_sendOut (b : Block) (o : Out) : (b.sendOut o).modes = b.modes := by
  simp only [sendOut]
  (repeat' split) <;> simp only [modes_portSend, modes_emit, modes_modPort]

@[simp] theorem Block.modes_linkAccept (b : Block) (h : Pkt) : (b.linkAccept h).1.modes = b.modes := by
  simp only [linkAccept]
  split <;> simp only [modes_ite, modes_cross, modes_stamp, modes_setPort, ite_self]

@[simp] theorem Block.modes_snoopSend (b : Block) (lines : List Nat) : (b.snoopSend lines).modes = b.modes :=
  modes_foldl _ (fun b l => by dsimp only; split <;> rfl) _ _

@[simp] theorem Block.modes_applyResp (b : Block) (core reqId st : Nat) (retry : Bool) (old : Option W64) :
    (b.applyResp core reqId st retry old).modes = b.modes := by
  unfold applyResp
  split
  · rfl
  · extract_lets b1 d b2 b3 b4 b5
    split
    · exact modes_modCore ..
    · have h2 : b2.modes = b.modes := by
        have h1 : b1.modes = b.modes := modes_modCore ..
        unfold b2
        clear_value d b1
        split
        · exact h1
        · cases d <;> cases old
          case some.some => simp only [modes_ite, modes_modCore, modes_crossTo, h1, ite_self]
          all_goals exact h1
      have h4 : b4.modes = b.modes := (modes_modCore ..).trans ((modes_modCore ..).trans h2)
      have h5 : b5.modes = b.modes := (modes_emit ..).trans h4
      split
      · rw [modes_modCore, modes_cross, h4]
      · clear_value d
        cases d with
        | none => exact h5
        | some d =>
          dsimp only
          split
          · exact h5
          · rw [modes_failDesc, modes_cross, h5]

@[simp] theorem Block.modes_winWrite (b : Block) (w off data bad) : (b.winWrite w off data bad).modes = b.modes :=
  modes_foldl _ (fun b r => by
    dsimp only; split
    · rw [modes_modPart, modes_cross]
    · rw [modes_dramWrite, modes_cross]) _ _

@[simp] theorem Block.modes_winRead (b : Block) (w : Window) (off : Nat) : (b.winRead w off).modes = b.modes := by
  simp only [winRead]
  split <;> simp only [modes_cross, modes_tracePoison]

@[simp] theorem Block.modes_countStale (b : Block) (ctx : Nat) : (b.countStale ctx).modes = b.modes := by
  simp only [countStale, modes_modCtx]

@[simp] theorem Block.modes_inCheck (b : Block) (h : Pkt) (off n : Nat) (atomic : Bool) : (b.inCheck h off n atomic).1.modes = b.modes := by
  simp only [inCheck]
  (repeat' split) <;> simp only [modes_countStale, modes_emit, modes_modPort]

@[simp] theorem Block.modes_answer (b : Block) (h : Pkt) (st : Nat) (retry : Bool) (old : Option W64) :
    (b.answer h st retry old).modes = b.modes := by
  simp only [answer, modes_ite, modes_applyResp, modes_emit, ite_self, modes_sendOut]

@[simp] theorem Block.modes_modGroup (b : Block) (h : Pkt) (group : Nat) (f : GroupEnt → GroupEnt) :
    (b.modGroup h group f).modes = b.modes := by
  simp only [modGroup, modes_withWeave]

@[simp] theorem Block.modes_releaseFinal (b : Block) (w : Window) (h : Pkt) (value : W64) (group : Nat) :
    (b.releaseFinal w h value group).modes = b.modes := by
  simp only [releaseFinal, modes_answer, modes_emit, modes_withWeave, modes_winWrite, modes_modCore, implies_true, modes_foldl]

@[simp] theorem Block.modes_tryRelease (b : Block) (w : Window) (h : Pkt) (group : Nat) : (b.tryRelease w h group).modes = b.modes := by
  simp only [tryRelease]
  (repeat' split) <;> simp only [modes_releaseFinal]

@[simp] theorem Block.modes_inWrite (b : Block) (h : Pkt) (group : Nat) (data : List Byte) : (b.inWrite h group data).1.modes = b.modes := by
  unfold inWrite
  split <;> rename_i hc <;> rw [← b.modes_inCheck h h.off data.length false, hc]
  · dsimp only
    split
    · rfl
    · split
      · rfl
      · split
        · exact modes_snoopSend ..
        · split
          · rfl
          · simp only [modes_tryRelease, modes_modGroup, modes_modCtx, modes_winWrite]

@[simp] theorem Block.modes_inFinal (b : Block) (h : Pkt) (group : Nat) (value : W64) (count : Nat) :
    (b.inFinal h group value count).1.modes = b.modes := by
  unfold inFinal
  split <;> rename_i hc <;> rw [← b.modes_inCheck h h.off 8 false, hc]
  · dsimp only
    (repeat' split) <;> simp only [modes_snoopSend, modes_releaseFinal, modes_emit, modes_modCtx, modes_modGroup]

@[simp] theorem Block.modes_inAtomic (b : Block) (h : Pkt) (op : Nat) (value compare : W64) :
    (b.inAtomic h op value compare).1.modes = b.modes := by
  unfold inAtomic
  split <;> rename_i hc <;> rw [← b.modes_inCheck h h.off 8 true, hc]
  · dsimp only
    (repeat' split) <;> simp only [modes_snoopSend, modes_winRead, modes_winWrite, modes_modCtx]

@[simp] theorem Block.modes_inFail (b : Block) (w : Window) (h : Pkt) (st reason : Nat) : (b.inFail w h st reason).1.modes = b.modes := by
  simp only [inFail, modes_emit]

@[simp] theorem Block.modes_inBlock (b : Block) (w : Window) (h : Pkt) (group : Nat) (bad : Bool) (blk : List Byte) :
    (b.inBlock w h group bad blk).1.modes = b.modes := by
  simp only [inBlock]
  (repeat' split) <;> simp only [modes_inFail, modes_withWeave, modes_snoopSend, modes_winWrite, modes_tryRelease, modes_modGroup,
    modes_modCtx]

@[simp] theorem Block.modes_inEnc (b : Block) (h : Pkt) (group frag : Nat) (last : Bool) (data : List Byte) :
    (b.inEnc h group frag last data).1.modes = b.modes := by
  unfold inEnc
  split <;> rename_i hc <;> rw [← b.modes_inCheck h h.off 0 false, hc]
  · dsimp only
    (repeat' split) <;> simp only [modes_inBlock, modes_modGroup, modes_withWeave]

@[simp] theorem Block.modes_hubRun (b : Block) (i : Instr) : (b.hubRun i).modes = b.modes := by
  simp only [hubRun]
  (repeat' split) <;> simp only [modes_answer, modes_inWrite, modes_withWeave, modes_inFinal, modes_inAtomic, modes_inEnc]

@[simp] theorem Block.modes_transmit (b : Block) (o : Out) : (b.transmit o).modes = b.modes := by
  simp only [transmit, modes_ite, modes_sendOut]
  (repeat' split) <;> simp only [modes_hubRun]

@[simp] theorem Block.modes_sendLive (b : Block) (core : Nat) (r : LiveReq) : (b.sendLive core r).modes = b.modes := by
  simp only [sendLive, modes_transmit, implies_true, modes_foldl, modes_modCore]

@[simp] theorem Block.modes_mov (b : Block) (core : Nat) : (b.mov core).modes = b.modes := by
  refine modes_issue _ _ _ _ fun r => ?_
  dsimp only
  simp only [modes_ite, modes_preciseStop]
  (repeat' split) <;> simp only [modes_preciseStop, modes_issued, modes_emit, modes_modCore, modes_cross]

@[simp] theorem Block.modes_touch (b : Block) (core m ctx va : Nat) : (b.touch core m ctx va).modes = b.modes := by
  simp only [touch]
  (repeat' split) <;> simp only [modes_modCore]

@[simp] theorem Block.modes_touchRuns (b : Block) (core m ctx : Nat) (runs : List (Nat × Nat × Nat)) :
    (b.touchRuns core m ctx runs).modes = b.modes := by
  simp only [touchRuns, modes_touch, implies_true, modes_foldl]

@[simp] theorem Block.modes_fillTlb (b : Block) (core m : Nat) (e : TlbEnt) : (b.fillTlb core m e).modes = b.modes := by
  simp only [fillTlb, modes_modCore, modes_modPart]

@[simp] theorem Block.modes_fillWalks (b : Block) (p : Nat) (l : List WalkEnt) : (b.fillWalks p l).modes = b.modes := by
  simp only [fillWalks, modes_modPart]

@[simp] theorem Block.modes_shareSpend (b : Block) (core cls n : Nat) : (b.shareSpend core cls n).modes = b.modes := by
  simp only [shareSpend, modes_ite, modes_modCore, ite_self]

@[simp] theorem Block.modes_parkOn (b : Block) (core m : Nat) (d : Desc) (va acc : Nat) : (b.parkOn core m d va acc).modes = b.modes := by
  simp only [parkOn, modes_ite, modes_modCore, modes_emit, ite_self]

theorem Block.modes_access (b : Block) (core m d ranges wr block f) (hf : ∀ l, (f l).modes = b.modes) :
    (b.access core m d ranges wr block f).modes = b.modes := by
  unfold access; split
  · exact modes_parkOn ..
  · dsimp only; rw [modes_failDesc]; split
    · rw [modes_ite, modes_grantDenied, ite_self]
    · rfl
  · rfl
  · exact modes_snoopSend ..
  · exact hf _

@[simp] theorem Block.modes_askHost (b : Block) (core m id i : Nat) (host : List (Nat × Nat × Nat)) :
    (b.askHost core m id i host).modes = b.modes :=
  modes_foldl _ (fun _ _ => modes_request ..) _ _

@[simp] theorem Block.modes_modDesc (b : Block) (core m id : Nat) (f : Desc → Desc) : (b.modDesc core m id f).modes = b.modes := by
  simp only [modDesc, modes_modCore]

@[simp] theorem Block.modes_modPiece (b : Block) (core m id i : Nat) (f : Piece → Piece) : (b.modPiece core m id i f).modes = b.modes := by
  simp only [modPiece, modes_modDesc]

@[simp] theorem Block.modes_movStep (b : Block) (core m : Nat) : (b.movStep core m).modes = b.modes := by
  simp only [movStep, modes_modCore]

@[simp] theorem Block.modes_decodeFail (b : Block) (core m : Nat) (d : Desc) (st n reason : Nat) :
    (b.decodeFail core m d st n reason).modes = b.modes := by
  simp only [decodeFail, modes_failDesc, modes_emit]

theorem Block.modes_codecOpen (b : Block) (core m d f) (hf : ∀ d c, (f d c).modes = c.modes) : (b.codecOpen core m d f).modes = b.modes := by
  unfold codecOpen; split
  · exact hf _ _
  · refine modes_access _ _ _ _ _ _ _ _ fun runs => ?_
    dsimp only
    split
    · simp only [modes_decodeFail, modes_touchRuns, modes_foldl, modes_delivered, implies_true]
    · split
      · simp only [modes_decodeFail, modes_touchRuns, modes_foldl, modes_delivered, implies_true]
      · split
        · simp only [modes_ite, hf, modes_modDesc, modes_decodeFail, modes_touchRuns, modes_foldl, modes_delivered, implies_true, ite_self]
        · rw [modes_access]
          · simp only [modes_touchRuns, modes_foldl, modes_delivered, implies_true]
          · intro rr; split
            · simp only [modes_ite, hf, modes_failDesc, modes_modDesc, modes_decodeFail, modes_touchRuns, modes_foldl, modes_delivered,
                implies_true, ite_self]
            · rfl

@[simp] theorem Block.modes_codecIssue (b : Block) (core m : Nat) (d : Desc) (i : Nat) (p : Piece) :
    (b.codecIssue core m d i p).modes = b.modes := by
  unfold codecIssue; split
  · rfl
  · refine modes_codecOpen _ _ _ _ _ fun d c => modes_access _ _ _ _ _ _ _ _ fun runs => ?_
    simp only [modes_ite, modes_failDesc, modes_askHost, modes_modPiece, modes_crossFrom, modes_foldl, modes_delivered, modes_touchRuns,
      modes_shareSpend, implies_true, ite_self]

@[simp] theorem Block.modes_keepEntry (b : Block) (core m : Nat) (d : Desc) (p : Piece) : (b.keepEntry core m d p).modes = b.modes := by
  simp only [keepEntry, modes_ite, modes_modCore, ite_self]

@[simp] theorem Block.modes_markStop (b : Block) (core m : Nat) (d : Desc) (x : Mark) : (b.markStop core m d x).modes = b.modes := by
  simp only [markStop, modes_ite, modes_modCore, modes_emit, ite_self]

@[simp] theorem Block.modes_ahead (b : Block) (core m ctx va acc : Nat) : (b.ahead core m ctx va acc).modes = b.modes := by
  simp only [ahead]
  (repeat' split) <;> simp only [modes_fillTlb, modes_fillWalks, modes_askTrans]

@[simp] theorem Block.modes_lookAhead (b : Block) (core m : Nat) (d : Desc) (i : Nat) (p : Piece) :
    (b.lookAhead core m d i p).modes = b.modes := by
  simp only [lookAhead, modes_ite]
  (repeat' split) <;> simp only [modes_ahead]

@[simp] theorem Block.modes_srcMarkers (b : Block) (core m id i : Nat) : (b.srcMarkers core m id i).modes = b.modes := by
  simp only [srcMarkers]
  (repeat' split) <;> simp only [modes_modCore]

@[simp] theorem Block.modes_readPiece (b : Block) (core m : Nat) (d : Desc) (i : Nat) (p : Piece) (seen : SSet) (served : Option PfEntry) :
    (b.readPiece core m d i p seen served).modes = b.modes := by
  simp only [readPiece, modes_ite]
  (repeat' split) <;> simp only [modes_ite, modes_modCore, modes_srcMarkers, modes_lookAhead, modes_askHost, modes_modPiece, modes_emit,
    modes_crossFrom, modes_delivered, implies_true, modes_foldl, modes_touchRuns, modes_modDesc, modes_shareSpend, ite_self, modes_access]

@[simp] theorem Block.modes_issuePiece (b : Block) (core m : Nat) (d : Desc) (i : Nat) (p : Piece) :
    (b.issuePiece core m d i p).modes = b.modes := by
  simp only [issuePiece]
  split <;> simp only [modes_ite, modes_failDesc, modes_modCore, modes_lookAhead, modes_codecIssue, ite_self, modes_readPiece]

@[simp] theorem Block.modes_pieceIssue (b : Block) (core m : Nat) : (b.pieceIssue core m).modes = b.modes := by
  simp only [pieceIssue, modes_ite]
  (repeat' split) <;> simp only [modes_markStop, modes_issuePiece]

@[simp] theorem Block.modes_landWrites (b : Block) (core m : Nat) (d : Desc) (i : Nat) (l : List (Nat × List Byte × List Nat)) :
    (b.landWrites core m d i l).1.modes = b.modes := by
  unfold landWrites
  refine modes_foldl_fst _ (fun r w => ?_) _ _
  dsimp only
  split
  · exact modes_modCore ..
  · exact modes_modPart ..
  · refine modes_foldl_fst _ (fun r x => ?_) _ _
    split
    · split
      · exact modes_dramWrite ..
      · exact modes_foldl _ (fun _ _ => modes_request ..) _ _
    · rfl

@[simp] theorem Block.modes_destWait (b : Block) (core m : Nat) (d : Desc) (slot : Nat) : (b.destWait core m d slot).modes = b.modes := by
  simp only [destWait, modes_ite, modes_modDesc, modes_emit, ite_self]

@[simp] theorem Block.modes_landPiece (b : Block) (core m : Nat) (d : Desc) (i : Nat) (p : Piece) (slots : List Nat)
    (l : List (Nat × List Byte × List Nat)) (bad : Bool) (runs : List (Nat × Nat × Nat)) :
    (b.landPiece core m d i p slots l bad runs).modes = b.modes := by
  simp only [landPiece, modes_ite, modes_modCore, modes_movStep, modes_modDesc, modes_keepEntry, modes_landWrites, modes_crossTo,
    modes_touchRuns, modes_shareSpend, modes_decodeFail, modes_failDesc, ite_self]

@[simp] theorem Block.modes_landLocal (b : Block) (core m : Nat) (d : Desc) (i : Nat) (p : Piece) :
    (b.landLocal core m d i p).modes = b.modes := by
  simp only [landLocal]
  (repeat' split) <;> simp only [modes_destWait, modes_failDesc, modes_landPiece, implies_true, modes_access]

@[simp] theorem Block.modes_landRemote (b : Block) (core m : Nat) (d : Desc) (i : Nat) (p : Piece) :
    (b.landRemote core m d i p).modes = b.modes := by
  simp only [landRemote, modes_ite, modes_failDesc, modes_sendLive, implies_true, modes_foldl, modes_cross, modes_movStep, modes_modCore,
    modes_modDesc, modes_keepEntry, modes_shareSpend]
  (repeat' split) <;> simp only [modes_failDesc, modes_sendLive, implies_true, modes_foldl, modes_cross, modes_movStep, modes_modCore,
    modes_modDesc, modes_keepEntry, modes_shareSpend]

theorem Block.modes_landNext (b : Block) (core m i f) (hf : ∀ d p, (f d p).modes = b.modes) : (b.landNext core m i f).modes = b.modes := by
  unfold landNext
  (repeat' split) <;> simp only [hf]

@[simp] theorem Block.modes_pieceLanding (b : Block) (core m i : Nat) : (b.pieceLanding core m i).modes = b.modes := by
  simp only [pieceLanding, modes_ite, modes_landRemote, modes_landLocal, ite_self, implies_true, modes_landNext]

@[simp] theorem Block.modes_codecBlockDone (b : Block) (core m i : Nat) : (b.codecBlockDone core m i).modes = b.modes := by
  simp only [codecBlockDone, modes_ite, modes_landLocal, modes_cross, modes_decodeFail, ite_self, implies_true, modes_landNext]

@[simp] theorem Block.modes_readBack (b : Block) (core m id i at_ addr len : Nat) (ok : Bool) (poison : List Nat) :
    (b.readBack core m id i at_ addr len ok poison).modes = b.modes := by
  unfold readBack; dsimp only; split
  · simp only [modes_ite, modes_modDesc, modes_withTreleb, ite_self]
  · rw [modes_modPiece, modes_cross]

@[simp] theorem Block.modes_flagRemote (b : Block) (core m : Nat) (d : Desc) : (b.flagRemote core m d).modes = b.modes := by
  simp only [flagRemote, modes_ite, modes_failDesc, modes_sendLive, modes_modCore, modes_cross, modes_shareSpend, ite_self]

@[simp] theorem Block.modes_flagLocal (b : Block) (core m : Nat) (d : Desc) : (b.flagLocal core m d).modes = b.modes := by
  unfold flagLocal; dsimp only; split
  · rfl
  · split
    · simp only [modes_movStep, modes_modDesc, modes_modPart, modes_cross]
    · refine modes_access _ _ _ _ _ _ _ _ fun runs => ?_
      split
      · rfl
      · simp only [modes_ite, modes_failDesc, modes_movStep, modes_modDesc, modes_dramWrite, modes_cross, modes_touchRuns,
          modes_shareSpend, ite_self]

@[simp] theorem Block.modes_finalSend (b : Block) (core m : Nat) : (b.finalSend core m).modes = b.modes := by
  simp only [finalSend, modes_ite]
  (repeat' split) <;> simp only [modes_flagRemote, modes_flagLocal]

theorem Block.modes_descPush (b : Block) (core : Nat) (d : Desc) (c : Block) (h : b.descPush core d = some c) : c.modes = b.modes := by
  unfold descPush at h
  (repeat' split at h) <;> cases h <;> simp only [modes_setQueue, modes_cross]

@[simp] theorem Block.modes_descDone (b : Block) (core m : Nat) : (b.descDone core m).modes = b.modes := by
  unfold descDone
  split
  · rfl
  · split
    · rfl
    · split
      · rfl
      · split
        · rfl
        · next c h =>
          dsimp only
          rw [← modes_descPush b core _ c h]
          split <;> simp only [modes_finishEntry, modes_cross, modes_modCore, modes_movStep, modes_emit]

end Sys2Proof.Machine
end

section
/-!
The module-wide states through the mailboxes, the companion link and the translations.
-/
namespace Sys2Proof.Machine

@[simp] theorem Block.modes_mbPump (b : Block) (page : Nat) : (b.mbPump page).modes = b.modes := by
  simp only [mbPump, modes_setMbox]

@[simp] theorem Block.modes_mbNotice (b : Block) (page op tag ctx st : Nat) (pl : List Byte) :
    (b.mbNotice page op tag ctx st pl).modes = b.modes := by
  simp only [mbNotice, modes_mbPump, modes_setMbox]

@[simp] theorem Block.modes_mbReply (b : Block) (page : Nat) (m : List Byte) (st : Nat) (pl : List Byte) :
    (b.mbReply page m st pl).modes = b.modes := by
  simp only [mbReply, modes_modMbox]

@[simp] theorem Block.modes_mbTake (b : Block) (page : Nat) (m : List Byte) : (b.mbTake page m).modes = b.modes := by
  simp only [mbTake, modes_modMbox, modes_emitCtx]

@[simp] theorem Block.modes_mbRepeat (b : Block) (page : Nat) (m : List Byte) (t : TagRec) : (b.mbRepeat page m t).modes = b.modes := by
  simp only [mbRepeat, modes_modMbox, modes_ite, modes_modCtx, modes_emitCtx, ite_self]

@[simp] theorem Block.modes_mbDrainN (b : Block) (page n : Nat) : (b.mbDrainN page n).modes = b.modes := by
  induction n generalizing b with
  | zero => rfl
  | succ n ih =>
    unfold mbDrainN
    (repeat' split) <;> simp only [ih, modes_mbRepeat, modes_mbReply, modes_mbTake]
@[simp] theorem Block.modes_mbDrain (b : Block) (page : Nat) : (b.mbDrain page).modes = b.modes := by
  rw [mbDrain, modes_mbPump, modes_mbDrainN]

theorem Block.modes_mbOpIf (b : Block) (page op p f) (hf : ∀ c m, (f c m).modes = c.modes) : (b.mbOpIf page op p f).modes = b.modes := by
  unfold mbOpIf; split
  · rfl
  · simp only [modes_ite, modes_mbDrain, hf, modes_mbTake, ite_self]

theorem Block.modes_mbOp (b : Block) (page op f) (hf : ∀ c m, (f c m).modes = c.modes) : (b.mbOp page op f).modes = b.modes :=
  b.modes_mbOpIf _ _ _ _ hf

theorem Block.modes_mbOpAt (b : Block) (page op rs acc f) (hf : ∀ c m, (f c m).modes = c.modes) :
    (b.mbOpAt page op rs acc f).modes = b.modes := by
  unfold mbOpAt; split
  · rfl
  · refine modes_feGate _ _ _ _ _ ?_
    rw [modes_mbDrain, hf, modes_mbTake]

@[simp] theorem Block.modes_mbBusy (b : Block) (page : Nat) (m : List Byte) (aborts parts : List Nat) :
    (b.mbBusy page m aborts parts).modes = b.modes := by
  simp only [mbBusy, modes_modMbox]

@[simp] theorem Block.modes_mbFinish (b : Block) (page st : Nat) (pl : List Byte) : (b.mbFinish page st pl).modes = b.modes := by
  simp only [mbFinish]
  split <;> simp only [modes_mbDrain, modes_modMbox, modes_mbReply]

@[simp] theorem Block.modes_bufWrite (b : Block) (page addr : Nat) (data : List Byte) : (b.bufWrite page addr data).1.modes = b.modes := by
  simp only [bufWrite]
  (repeat' split) <;> simp only [modes_feWrite, modes_feFailed, modes_hostPut]

@[simp] theorem Block.modes_bufMissed (b : Block) (page addr n : Nat) : (b.bufMissed page addr n).modes = b.modes := by
  simp only [bufMissed, modes_ite, modes_feFailed, modes_hostMissed, ite_self]

@[simp] theorem Block.modes_mbPosted (b : Block) (page : Nat) : (b.mbPosted page).modes = b.modes := by
  simp only [mbPosted, modes_ite, modes_setMbox, modes_mbDrain, ite_self]

@[simp] theorem Block.modes_mbPost (b : Block) (page : Nat) (msg : W512) : (b.mbPost page msg).modes = b.modes := by
  simp only [mbPost, modes_ite, modes_mbPosted, modes_modMbox, ite_self]

@[simp] theorem Block.modes_outPop (b : Block) (page : Nat) : (b.outPop page).modes = b.modes := by
  simp only [outPop, modes_ite, modes_mbDrain, modes_modMbox, ite_self]

@[simp] theorem Block.modes_mbInWrite (b : Block) (page off : Nat) (v : W64) : (b.mbInWrite page off v).modes = b.modes := by
  simp only [mbInWrite, modes_ite, modes_mbPosted, modes_modMbox, ite_self]

@[simp] theorem Block.modes_statusWrite (b : Block) (page : Nat) (v : W64) : (b.statusWrite page v).modes = b.modes := by
  simp only [statusWrite, modes_ite, modes_outPop, modes_modMbox, ite_self]

@[simp] theorem Block.modes_registerWrite (b : Block) (page off : Nat) (v : W64) : (b.registerWrite page off v).modes = b.modes := by
  simp only [registerWrite, modes_ite, modes_mbInWrite, modes_statusWrite, ite_self, modes_withTreleb]

theorem Block.modes_modTreleb (b : Block) (f : Treleb → Treleb) (hf : ∀ t, (f t).state = t.state) : (b.modTreleb f).modes = b.modes := by
  simp only [modes, modTreleb, hf]

@[simp] theorem Block.modes_dropSnoop (b : Block) (line : Nat) : (b.dropSnoop line).modes = b.modes := by
  simp only [dropSnoop, modes_modPart, implies_true, modes_modTreleb]

@[simp] theorem Block.modes_rerunWaiting (b : Block) : b.rerunWaiting.modes = b.modes := by
  simp only [rerunWaiting, modes_hubRun, implies_true, modes_foldl, modes_withWeave]

@[simp] theorem Block.modes_snoopLand (b : Block) (line : Nat) (d : List Byte) (poison : Nat) :
    (b.snoopLand line d poison).modes = b.modes := by
  simp only [snoopLand, modes_ite, modes_dramWrite, modes_cross, ite_self]

@[simp] theorem Block.modes_snpAck (b : Block) (line : Nat) (modified : Option (List Byte × Nat)) :
    (b.snpAck line modified).modes = b.modes := by
  simp only [snpAck, modes_ite, modes_rerunWaiting, modes_dropSnoop]
  (repeat' split) <;> simp only [modes_snoopLand]

@[simp] theorem Block.modes_faultNotice (b : Block) (kind ctx addr seq : Nat) : (b.faultNotice kind ctx addr seq).modes = b.modes := by
  simp only [faultNotice, modes_mbNotice]

@[simp] theorem Block.modes_doneFailed (b : Block) (ctx : Nat) : (b.doneFailed ctx).modes = b.modes := by
  simp only [doneFailed]
  split <;> simp only [modes_ite, modes_sendDone, modes_modCtx, modes_faultNotice, modes_emitCtx, ite_self]

@[simp] theorem Block.modes_intrDropped (b : Block) (v : Nat) : (b.intrDropped v).modes = b.modes := by
  simp only [intrDropped, modes_ite, modes_faultNotice, ite_self, implies_true, modes_foldl, modes_emit, modes_anyStatus]

@[simp] theorem Block.modes_writeAnswered (b : Block) (core m id i : Nat) : (b.writeAnswered core m id i).modes = b.modes := by
  simp only [writeAnswered, modes_movStep, modes_modDesc, modes_cross]

@[simp] theorem Block.modes_reqFailed (b : Block) (r : Req) : (b.reqFailed r).modes = b.modes := by
  simp only [reqFailed]
  (repeat' split) <;> simp only [modes_readBack, modes_hostError, modes_failDesc, modes_writeAnswered, modes_doneFailed,
    modes_intrDropped, modes_traceAnswer]

@[simp] theorem Block.modes_reqDone (b : Block) (r : Req) : (b.reqDone r).modes = b.modes := by
  simp only [reqDone]
  (repeat' split) <;> simp only [modes_modCore, modes_writeAnswered, modes_hostWrite, modes_sendDone, modes_emitCtx, modes_modCtx,
    modes_cross, modes_traceAnswer]

@[simp] theorem Block.modes_retireReq (b : Block) (tag : Nat) : (b.retireReq tag).modes = b.modes := by
  simp only [retireReq, implies_true, modes_modTreleb]

@[simp] theorem Block.modes_staleAnswer (b : Block) : b.staleAnswer.modes = b.modes := by
  simp only [staleAnswer, implies_true, modes_modTreleb]

@[simp] theorem Block.modes_cmp (b : Block) (tag status : Nat) : (b.cmp tag status).modes = b.modes := by
  simp only [cmp, modes_ite]
  (repeat' split) <;> simp only [modes_staleAnswer, modes_reqFailed, modes_retireReq, modes_reqDone]

@[simp] theorem Block.modes_cmpd (b : Block) (tag status poison : Nat) : (b.cmpd tag status poison).modes = b.modes := by
  simp only [cmpd, modes_ite]
  (repeat' split) <;> simp only [modes_staleAnswer, modes_readBack, modes_retireReq, modes_reqFailed]

@[simp] theorem Block.modes_trelebNak (b : Block) (lseq : Nat) : (b.trelebNak lseq).modes = b.modes := by
  simp only [trelebNak, modes_ite, implies_true, modes_modTreleb, ite_self]

@[simp] theorem Block.modes_trelebIdle (b : Block) (lack : Nat) : (b.trelebIdle lack).modes = b.modes := by
  simp only [trelebIdle, modes_ite, implies_true, modes_modTreleb, ite_self]

@[simp] theorem Block.modes_answerCompanion (b : Block) (tag st : Nat) (data : List Byte) (bad : List Nat) :
    (b.answerCompanion tag st data bad).modes = b.modes := modes_modTreleb _ _ fun _ => rfl

@[simp] theorem Block.modes_filterLine (b : Block) (line : Nat) : (b.filterLine line).modes = b.modes := by
  simp only [filterLine, modes_ite, modes_modPart]
  (repeat' split) <;> simp only [modes_snoopSend]

@[simp] theorem Block.modes_dramAperture (b : Block) (tag off : Nat) (cache : Bool) (len : Nat) (data : Option (List Byte × Nat)) :
    (b.dramAperture tag off cache len data).modes = b.modes := by
  simp only [dramAperture, modes_ite, modes_answerCompanion]
  split <;> simp only [modes_answerCompanion, modes_dramWrite, modes_cross, ite_self, modes_ite, modes_filterLine, implies_true,
    modes_foldl, modes_tracePoison]

@[simp] theorem Block.modes_modFaults (b : Block) (f : FaultQueue → FaultQueue) : (b.modFaults f).modes = b.modes := by
  simp only [modFaults, modes_with]

@[simp] theorem Block.modes_endParked (b : Block) (core m va st : Nat) : (b.endParked core m va st).modes = b.modes := by
  simp only [endParked]
  split <;> simp only [modes_failDesc, modes_ite, modes_modCore, modes_unpark, ite_self]

@[simp] theorem Block.modes_fault (b : Block) (core m va acc kind level : Nat) : (b.fault core m va acc kind level).modes = b.modes := by
  simp only [fault]
  split <;> simp only [modes_endParked, modes_modCtx, modes_modFaults, modes_emitAt, modes_stamp, modes_cross, modes_modCore]

@[simp] theorem Block.modes_resume (b : Block) (core m : Nat) (e : TlbEnt) (acc : Nat) : (b.resume core m e acc).modes = b.modes := by
  simp only [resume]
  split <;> simp only [modes_unpark, modes_cross, modes_fillTlb, modes_ite, modes_modCore, modes_emit, modes_failDesc, ite_self]

@[simp] theorem Block.modes_tlbResume (b : Block) (stream : Nat) : (b.tlbResume stream).modes = b.modes := by
  simp only [tlbResume, modes_ite]
  (repeat' split) <;> simp only [modes_resume, modes_fillWalks, modes_modCore, modes_request, modes_fault, modes_endParked,
    modes_tracePoison]

@[simp] theorem Block.modes_frontAnswer (b : Block) (part ctx va : Nat) (e? : Option TlbEnt) :
    (b.frontAnswer part ctx va e?).modes = b.modes := by
  simp only [frontAnswer]
  split <;> simp only [modes_modPart, modes_modCtx]

@[simp] theorem Block.modes_transResp (b : Block) (tag base size rights : Nat) : (b.transResp tag base size rights).modes = b.modes := by
  simp only [transResp, modes_ite]
  (repeat' split) <;> simp only [modes_staleAnswer, modes_cross, modes_retireReq, modes_resume, modes_fault, modes_fillTlb,
    modes_frontAnswer]

@[simp] theorem Block.modes_writeFaultBlock (b : Block) : (b.writeFaultBlock).1.modes = b.modes := by
  simp only [writeFaultBlock, modes_hostPut]

@[simp] theorem Block.modes_showOverflow (b : Block) : b.showOverflow.modes = b.modes := by
  unfold showOverflow
  refine modes_foldl _ (fun c x => ?_) _ _
  simp only [modes_ite, modes_modCtx, ite_self]

@[simp] theorem Block.modes_pauseTimers (b : Block) (ids : List Nat) : (b.pauseTimers ids).modes = b.modes := by
  simp only [pauseTimers, modes_modCore, implies_true, modes_foldl]

@[simp] theorem Block.modes_settleOverflow (b : Block) : b.settleOverflow.modes = b.modes := by
  rw [settleOverflow, modes_showOverflow, modes_modFaults]

@[simp] theorem Block.modes_writeBatch (b : Block) (fs : List PendFault) : (b.writeBatch fs).1.modes = b.modes := by
  unfold writeBatch
  extract_lets q a0 w ids keep b1 c
  have hw : w.1.modes = b.modes := by
    unfold w
    exact modes_foldl_fst _ (fun r f => by dsimp only; exact modes_hostPut ..) _ _
  have hc : c.1.modes = b.modes := by rw [modes_writeFaultBlock, modes_modFaults, hw]
  split
  · exact hw
  · split
    · rw [modes_with, hc]
    · simp only [modes_raiseVector, modes_emit, modes_pauseTimers, hc]

@[simp] theorem Block.modes_faultOrBatch (b : Block) (id : Nat) : (b.faultOrBatch id).2.modes = b.modes := by
  simp only [faultOrBatch, modes_draw]

@[simp] theorem Block.modes_noRoom (b : Block) (fs : List PendFault) : (b.noRoom fs).modes = b.modes := by
  simp only [noRoom, modes_ite, modes_showOverflow, modes_emit, modes_faultOrBatch, modes_pauseTimers, modes_writeFaultBlock,
    modes_modFaults, ite_self]

@[simp] theorem Block.modes_closeBatch (b : Block) (fs : List PendFault) : (b.closeBatch fs).modes = b.modes := by
  simp only [closeBatch, modes_showOverflow, modes_ite, modes_noRoom, modes_writeBatch, ite_self]

@[simp] theorem Block.modes_faultQueueConfig (b : Block) (page : Nat) : (b.faultQueueConfig page).modes = b.modes := by
  simp only [faultQueueConfig, modes_ite, modes_mbReply, modes_modFaults, modes_writeFaultBlock, ite_self, implies_true, modes_mbOp]

@[simp] theorem Block.modes_rewalk (b : Block) (f : PendFault) : (b.rewalk f).modes = b.modes := by
  simp only [rewalk, modes_ite, modes_modCtx, modes_modCore, modes_modFaults, ite_self]

@[simp] theorem Block.modes_failFault (b : Block) (f : PendFault) : (b.failFault f).modes = b.modes := by
  simp only [failFault, modes_ite, modes_modFaults, modes_endParked, modes_cross, ite_self]

@[simp] theorem Block.modes_replyEntry (b : Block) (e : List Byte) (statusAt : Nat) : (b.replyEntry e statusAt).1.modes = b.modes := by
  simp only [replyEntry]
  (repeat' split) <;> simp only [modes_modFaults, modes_rewalk, modes_failFault]

@[simp] theorem Block.modes_faultReply (b : Block) (page : Nat) : (b.faultReply page).modes = b.modes := by
  refine modes_mbOp _ _ _ _ fun b m => ?_
  dsimp only
  split
  · exact modes_mbReply ..
  · split
    · rw [modes_mbReply, modes_hostMissed]
    · simp only [modes_ite, modes_mbReply, modes_closeBatch, modes_writeFaultBlock, modes_settleOverflow, modes_modFaults, ite_self]
      refine modes_foldl _ (fun c i => ?_) _ _
      split
      · rw [modes_hostPut, modes_replyEntry]
      · exact modes_replyEntry ..

@[simp] theorem Block.modes_migrateLand (b : Block) (g : Migration) : (b.migrateLand g).modes = b.modes := by
  simp only [migrateLand, modes_emit, modes_hostPut, modes_dramWrite, modes_cross]

@[simp] theorem Block.modes_migrateDone (b : Block) (part : Nat) : (b.migrateDone part).modes = b.modes := by
  simp only [migrateDone]
  (repeat' split) <;> simp only [modes_rewalk, modes_hostPut, modes_modFaults, modes_hostMissed, modes_migrateLand]

@[simp] theorem Block.modes_dropTranslations (b : Block) (ctx va len : Nat) : (b.dropTranslations ctx va len).modes = b.modes := by
  unfold dropTranslations
  dsimp only
  refine (modes_foldl _ (fun c s => ?_) _ _).trans ?_
  · split
    · split
      · rw [modes_modCore, modes_retireReq, modes_ite, modes_modCore, ite_self]
      · rw [modes_ite, modes_modCore, ite_self]
    · rw [modes_ite, modes_modCore, ite_self]
  · rw [modes_modCtx, modes_modTreleb, modes_foldl]
    · exact fun _ _ => modes_modPart ..
    · exact fun _ => rfl

@[simp] theorem Block.modes_startInval (b : Block) (ctx va len : Nat) (whom : InvalFor) :
    (b.startInval ctx va len whom).modes = b.modes := by
  simp only [startInval, modes_with, modes_dropTranslations]

@[simp] theorem Block.modes_invalTrace (b : Block) (ctx : Nat) : (b.invalTrace ctx).modes = b.modes := by
  simp only [invalTrace, modes_emit, modes_draw]

@[simp] theorem Block.modes_dropContext (b : Block) (ctx : Nat) : (b.dropContext ctx).modes = b.modes := by
  simp only [dropContext, modes_ite, modes_invalTrace, modes_dropTranslations, modes_startInval, ite_self]

@[simp] theorem Block.modes_tlbInvalidate (b : Block) (page : Nat) : (b.tlbInvalidate page).modes = b.modes := by
  simp only [tlbInvalidate, modes_ite, modes_mbReply, modes_mbBusy, modes_startInval, ite_self, implies_true, modes_mbOp]

@[simp] theorem Block.modes_inval (b : Block) (ctx va len : Nat) : (b.inval ctx va len).modes = b.modes := by
  simp only [inval, modes_ite, modes_startInval, implies_true, modes_modTreleb, ite_self]

end Sys2Proof.Machine
end

section
/-!
The module-wide states through the windows, the domain and tenancy.
-/
namespace Sys2Proof.Machine

theorem Block.modes_arrive (b : Block) (h o f) (hf : ∀ c, (f c).modes = c.modes) : (b.arrive h o f).modes = b.modes := by
  simp only [arrive, modes_ite, hf, modes_sendOut, modes_linkAccept, ite_self]

@[simp] theorem Block.modes_takeResp (b : Block) (h : Pkt) (status count : Nat) (retry : Bool) (old : Option W64) :
    (b.takeResp h status count retry old).modes = b.modes := by
  simp only [takeResp, modes_ite, modes_countStale, modes_emit, modes_applyResp, ite_self, implies_true, modes_foldl]

@[simp] theorem Block.modes_nak (b : Block) (port lseq : Nat) : (b.nak port lseq).modes = b.modes := by
  simp only [nak, modes_ite, modes_modPort, ite_self]

@[simp] theorem Block.modes_idleFlit (b : Block) (port lack : Nat) : (b.idleFlit port lack).modes = b.modes := by
  simp only [idleFlit, modes_ite, modes_modPort, ite_self]

@[simp] theorem Block.modes_portDown (b : Block) (port st reason : Nat) : (b.portDown port st reason).modes = b.modes := by
  simp only [portDown, modes_emit, modes_modPort]

@[simp] theorem Block.modes_portStatus (b : Block) (page : Nat) : (b.portStatus page).modes = b.modes := by
  simp only [portStatus, modes_ite, modes_mbReply, ite_self, implies_true, modes_mbOp]

@[simp] theorem Block.modes_winFailed (b : Block) (ctx : Nat) (p : List Byte) : (b.winFailed ctx p).modes = b.modes := by
  simp only [winFailed, modes_ite]
  (repeat' split) <;> simp only [modes_tracePoison]

@[simp] theorem Block.modes_windowOpenDo (b : Block) (page : Nat) (m : List Byte) : (b.windowOpenDo page m).modes = b.modes := by
  unfold windowOpenDo
  extract_lets p id sp fl atomics base len n x no range peers
  have hno (c : Block) (r : Nat) : (no c r).modes = c.modes := modes_mbReply ..
  simp only [modes_ite, hno]
  split
  · rfl
  · split
    · rfl
    · split
      · rfl
      · clear_value range
        cases range
        · rw [hno, modes_winFailed]
        · have hp : peers.1.modes = b.modes := by
            unfold peers
            split
            · rfl
            · split
              · rfl
              · split
                · rfl
                · exact modes_feFailed ..
          clear_value peers
          obtain ⟨c, _ | q⟩ := peers
          · rw [hno, hp]
          · simp only [modes_ite, hno, modes_mbReply, modes_emit, modes_withWeave, ite_self, hp]

@[simp] theorem Block.modes_windowOpen (b : Block) (page : Nat) : (b.windowOpen page).modes = b.modes := by
  simp only [windowOpen]
  split <;> simp only [modes_ite, modes_windowOpenDo, implies_true, modes_mbOpAt, ite_self]

@[simp] theorem Block.modes_closeWindow (b : Block) (w : Window) : (b.closeWindow w).modes = b.modes := by
  simp only [closeWindow, modes_answer, implies_true, modes_foldl, modes_emit, modes_withWeave]

@[simp] theorem Block.modes_closeWindows (b : Block) (p : Window → Bool) : (b.closeWindows p).modes = b.modes := by
  simp only [closeWindows, modes_closeWindow, implies_true, modes_foldl]

@[simp] theorem Block.modes_windowClose (b : Block) (page : Nat) : (b.windowClose page).modes = b.modes := by
  refine modes_mbOp _ _ _ _ fun b m => ?_
  split
  · exact modes_mbReply ..
  · rw [modes_ite, modes_mbReply, modes_mbReply, modes_rerunWaiting, modes_closeWindow, ite_self]

theorem Block.modes_modDomain (b : Block) (f : Domain → Domain) (hf : ∀ t, (f t).state = t.state) : (b.modDomain f).modes = b.modes := by
  simp only [modes, modDomain, hf]

@[simp] theorem Block.modes_ctlSend (b : Block) (p type : Nat) (fields : List Nat) : (b.ctlSend p type fields).modes = b.modes := by
  simp only [ctlSend, modes_modPort]

@[simp] theorem Block.modes_ctlArrive (b : Block) (port : Nat) : (b.ctlArrive port).modes = b.modes := by
  simp only [ctlArrive, modes_cross, modes_modPort]

theorem Block.modes_control (b : Block) (port f) (hf : ∀ c, (f c).modes = c.modes) : (b.control port f).modes = b.modes := by
  simp only [control, modes_ite, hf, modes_ctlArrive, ite_self]

theorem Block.modes_modTime (b : Block) (f : Time → Time) (hf : ∀ t, (f t).keeper = t.keeper ∧ (f t).state = t.state) :
    (b.modTime f).modes = b.modes := by
  simp only [modes, modTime, hf]

@[simp] theorem Block.modes_sendTime (b : Block) (ports : List Nat) : (b.sendTime ports).modes = b.modes := by
  simp only [sendTime, modes_ctlSend, implies_true, modes_foldl]

@[simp] theorem Block.modes_timeQuery (b : Block) (page : Nat) : (b.timeQuery page).modes = b.modes := by
  simp only [timeQuery, modes_mbReply, implies_true, modes_mbOp]

@[simp] theorem Block.modes_sendAssign (b : Block) (p : Nat) : (b.sendAssign p).modes = b.modes := by
  simp only [sendAssign, modes_ctlSend]

@[simp] theorem Block.modes_sendGroup (b : Block) (p group : Nat) (g : JobGroup) : (b.sendGroup p group g).modes = b.modes := by
  simp only [sendGroup, modes_ctlSend]

@[simp] theorem Block.modes_portUp (b : Block) (port : Nat) (t : TrainResult) : (b.portUp port t).modes = b.modes := by
  simp only [portUp, modes_ite, modes_emit, modes_modPort, modes_sendTime, modes_sendGroup, implies_true, modes_foldl, modes_sendAssign,
    ite_self]

@[simp] theorem Block.modes_applyTopology (b : Block) : b.applyTopology.modes = b.modes := by
  simp only [applyTopology, modes_ite, modes_portDown, modes_modPort, ite_self, implies_true, modes_foldl]

@[simp] theorem Block.modes_sendJoined (b : Block) (count : Nat) : (b.sendJoined count).modes = b.modes := by
  simp only [sendJoined]
  split <;> simp only [modes_ctlSend]

@[simp] theorem Block.modes_defineDone (b : Block) : b.defineDone.modes = b.modes := by
  simp only [defineDone]
  split <;> simp only [modes_ite, modes_mbFinish, implies_true, modes_modDomain, ite_self]

@[simp] theorem Block.modes_joinedMsg (b : Block) (port count : Nat) : (b.joinedMsg port count).modes = b.modes := by
  simp only [joinedMsg, modes_ite, modes_sendJoined, implies_true, modes_modDomain, modes_defineDone, ite_self, modes_control]

@[simp] theorem Block.modes_installGroup (b : Block) (d : JobGroupDef) : (b.installGroup d).modes = b.modes := by
  simp only [installGroup, modes_ite, modes_withWeave, ite_self]

@[simp] theorem Block.modes_forwardGroup (b : Block) (d : JobGroupDef) : (b.forwardGroup d).modes = b.modes := by
  simp only [forwardGroup, modes_sendGroup, implies_true, modes_foldl]

@[simp] theorem Block.modes_groupDefinition (b : Block) (port : Nat) (d : JobGroupDef) : (b.groupDefinition port d).modes = b.modes := by
  simp only [groupDefinition, modes_ite, modes_sendJoined, modes_forwardGroup, modes_installGroup, ite_self, implies_true, modes_control]

@[simp] theorem Block.modes_jobGroupSet (b : Block) (page : Nat) : (b.jobGroupSet page).modes = b.modes := by
  refine modes_mbOp _ _ _ _ fun b m => ?_
  dsimp only
  (repeat' split) <;> simp only [modes_mbReply, modes_defineDone, modes_mbBusy, implies_true, modes_modDomain, modes_forwardGroup,
    modes_installGroup, modes_bufMissed]

@[simp] theorem Block.modes_setPoints (b : Block) (p : Nat) : (b.setPoints p).modes = b.modes := by
  simp only [setPoints, modes_modCore, implies_true, modes_foldl]

@[simp] theorem Block.modes_releaseTile (b : Block) (p ctx : Nat) : (b.releaseTile p ctx).modes = b.modes := by
  simp only [releaseTile, modes_modPart, modes_closeWindows]

@[simp] theorem Block.modes_releaseRanges (b : Block) (core ctx : Nat) : (b.releaseRanges core ctx).modes = b.modes := by
  unfold releaseRanges
  split
  · rfl
  · simp only [modes_ite, modes_releaseTile, modes_modCore, modes_bank, ite_self]

@[simp] theorem Block.modes_releaseCore (b : Block) (core ctx : Nat) : (b.releaseCore core ctx).modes = b.modes := by
  rw [releaseCore, modes_ite, modes_dropContext, modes_releaseRanges, ite_self]

@[simp] theorem Block.modes_bind (b : Block) (ctx : Nat) (p : List Byte) : (b.bind ctx p).modes = b.modes := by
  simp only [bind, modes_ite, modes_modCore, modes_modPart, ite_self]

@[simp] theorem Block.modes_coreBind (b : Block) (page : Nat) : (b.coreBind page).modes = b.modes := by
  refine modes_mbOp _ _ _ _ fun b m => ?_
  split
  · exact modes_mbReply ..
  · rw [modes_mbReply, modes_bind]

@[simp] theorem Block.modes_coreUnbind (b : Block) (page : Nat) : (b.coreUnbind page).modes = b.modes := by
  simp only [coreUnbind, modes_ite, modes_mbReply, modes_mbBusy, modes_abortCtx, ite_self, implies_true, modes_mbOp]

@[simp] theorem Block.modes_sliceConfig (b : Block) (page : Nat) : (b.sliceConfig page).modes = b.modes := by
  simp only [sliceConfig, modes_ite, modes_mbReply, modes_modCore, ite_self, implies_true, modes_mbOp]

@[simp] theorem Block.modes_assignPart (b : Block) (p : List Byte) : (b.assignPart p).modes = b.modes := by
  simp only [assignPart, modes_setPoints, modes_modPart]

@[simp] theorem Block.modes_reassign (b : Block) (p : List Byte) : (b.reassign p).modes = b.modes := by
  simp only [reassign, modes_assignPart, modes_releaseCore, implies_true, modes_foldl]

@[simp] theorem Block.modes_partitionAssign (b : Block) (page : Nat) : (b.partitionAssign page).modes = b.modes := by
  simp only [partitionAssign, modes_ite, modes_mbReply, modes_assignPart, modes_mbBusy, modes_abortCtx, implies_true, modes_foldl,
    ite_self, modes_mbOp]

@[simp] theorem Block.modes_countersRead (b : Block) (page : Nat) : (b.countersRead page).modes = b.modes := by
  refine modes_mbOpAt _ _ _ _ _ _ fun b m => ?_
  dsimp only
  (repeat' split) <;> simp only [modes_mbReply, modes_bufWrite]

@[simp] theorem Block.modes_powerRead (b : Block) (page : Nat) : (b.powerRead page).modes = b.modes := by
  simp only [powerRead, modes_ite, modes_mbReply, modes_draw, ite_self, implies_true, modes_mbOp]

end Sys2Proof.Machine
end

section
/-!
The module-wide states through the models and the floe.
-/
namespace Sys2Proof.Machine

@[simp] theorem Block.modes_modFirn (b : Block) (f : Firn → Firn) : (b.modFirn f).modes = b.modes := by
  simp only [modFirn, modes_with]

@[simp] theorem Block.modes_modModel (b : Block) (m : Nat) (f : Model → Model) : (b.modModel m f).modes = b.modes := by
  simp only [modModel, modes_modFirn]

@[simp] theorem Block.modes_dirCommit (b : Block) : b.dirCommit.modes = b.modes := by
  simp only [dirCommit, modes_modFirn]

@[simp] theorem Block.modes_modelState (b : Block) (m st : Nat) : (b.modelState m st).modes = b.modes := by
  simp only [modelState, modes_emit, modes_ite, modes_modModel, modes_dirCommit, ite_self]

@[simp] theorem Block.modes_firnRead (b : Block) (x : Model) (a n : Nat) : (b.firnRead x a n).1.modes = b.modes := by
  rw [firnRead]
  refine modes_foldl_fst _ (fun r p => ?_) _ _
  simp only [modes_firnPoison]

@[simp] theorem Block.modes_firnProgram (b : Block) (x : Model) (a : Nat) (data : List Byte) :
    (b.firnProgram x a data).modes = b.modes := by
  simp only [firnProgram, modes_modFirn, implies_true, modes_foldl]

@[simp] theorem Block.modes_eraseExtents (b : Block) (m : Nat) : (b.eraseExtents m).modes = b.modes := by
  simp only [eraseExtents, modes_modFirn]

@[simp] theorem Block.modes_pkgMissed (b : Block) (addr : Nat) : (b.pkgMissed addr).modes = b.modes := by
  simp only [pkgMissed]
  split <;> simp only [modes_hostMissed]

@[simp] theorem Block.modes_tagRegions (b : Block) (m : Nat) (dramLen hostLen : Nat) (absent : Bool) :
    (b.tagRegions m dramLen hostLen absent).modes = b.modes := by
  simp only [tagRegions, modes_with]

@[simp] theorem Block.modes_dramClear (b : Block) (base len : Nat) : (b.dramClear base len).modes = b.modes := by
  simp only [dramClear, modes_with]

@[simp] theorem Block.modes_releasePlaced (b : Block) (m : Nat) : (b.releasePlaced m).modes = b.modes := by
  simp only [releasePlaced, modes_with, modes_dramClear, implies_true, modes_foldl]

@[simp] theorem Block.modes_releaseRegions (b : Block) (m : Nat) : (b.releaseRegions m).modes = b.modes := by
  simp only [releaseRegions, modes_with, modes_dramClear, implies_true, modes_foldl]

@[simp] theorem Block.modes_firnNotice (b : Block) (op tag reason value : Nat) : (b.firnNotice op tag reason value).modes = b.modes := by
  simp only [firnNotice, modes_mbNotice]

@[simp] theorem Block.modes_beginInstall (b : Block) (o : FirnOp) : (b.beginInstall o).modes = b.modes := by
  unfold beginInstall
  dsimp only
  (repeat' split) <;> simp only [modes_pkgMissed, modes_modFirn, modes_modelState, modes_tagRegions, modes_withSec]

@[simp] theorem Block.modes_firnOver (b : Block) : b.firnOver.modes = b.modes :=
  ((b.modFirn _).modes_withSec ..).trans (modes_modFirn ..)

@[simp] theorem Block.modes_installFailed (b : Block) (o : FirnOp) (reason : Nat) : (b.installFailed o reason).modes = b.modes := by
  simp only [installFailed, modes_firnNotice, modes_emit, modes_ite, modes_modFirn, modes_firnOver, modes_releaseRegions,
    modes_eraseExtents, modes_dirCommit, ite_self]

@[simp] theorem Block.modes_modelInstall (b : Block) (page : Nat) : (b.modelInstall page).modes = b.modes := by
  simp only [modelInstall, modes_ite, modes_mbReply, modes_beginInstall, ite_self, implies_true, modes_mbOp]

@[simp] theorem Block.modes_writePlaced (b : Block) (x : Model) (t : Tensor) (off : Nat) (data : List Byte) :
    (b.writePlaced x t off data).1.modes = b.modes := by
  simp only [writePlaced]
  (repeat' split) <;> simp only [modes_dramWrite, modes_hostPut]

@[simp] theorem Block.modes_tensorRead (b : Block) (x : Model) (t : Tensor) : (b.tensorRead x t).1.modes = b.modes := by
  simp only [tensorRead]
  (repeat' split) <;> simp only [modes_firnRead, modes_tracePoison, modes_hostMissed]

@[simp] theorem Block.modes_badTensors (b : Block) (x : Model) (ts : List Tensor) : (b.badTensors x ts).1.modes = b.modes := by
  rw [badTensors]
  refine modes_foldl_fst _ (fun r p => ?_) _ _
  simp only [modes_tensorRead]

@[simp] theorem Block.modes_programChunk (b : Block) (x : Model) (p : Tensor → Bool) (seen : SSet) (lo : Nat) (data : List Byte) :
    (b.programChunk x p seen lo data).1.modes = b.modes := by
  rw [programChunk]
  refine modes_foldl_fst _ (fun r p => ?_) _ _
  dsimp only
  (repeat' split) <;> simp only [modes_modFirn, modes_firnProgram, modes_writePlaced]

@[simp] theorem Block.modes_chunks (b : Block) (o : FirnOp) (x : Model) (key : List Byte) (p : Tensor → Bool) (n : Nat) :
    (b.chunks o x key p n).1.modes = b.modes := by
  unfold chunks
  split
  · rfl
  · refine modes_foldl_fst _ (fun r i => ?_) _ _
    (repeat' split) <;> simp only [modes_hostMissed, modes_programChunk]

@[simp] theorem Block.modes_installPart (b : Block) (o : FirnOp) : (b.installPart o).modes = b.modes := by
  simp only [installPart, modes_ite, modes_chunks, modes_draw, ite_self]

@[simp] theorem Block.modes_installEnd (b : Block) : b.installEnd.modes = b.modes := by
  simp only [installEnd]
  (repeat' split) <;> simp only [modes_installFailed, modes_installPart, modes_chunks, modes_badTensors, modes_modelState,
    modes_firnNotice, modes_emit, modes_firnOver, modes_tagRegions, modes_modModel]

@[simp] theorem Block.modes_modelInstallCancel (b : Block) (page : Nat) : (b.modelInstallCancel page).modes = b.modes := by
  refine modes_mbOp _ _ _ _ fun b m => ?_
  dsimp only
  (repeat' split) <;> simp only [modes_mbReply, modes_installFailed, modes_installPart, modes_firnNotice, modes_firnOver]

@[simp] theorem Block.modes_modelRestorePlaced (b : Block) (page : Nat) : (b.modelRestorePlaced page).modes = b.modes := by
  simp only [modelRestorePlaced, modes_ite, modes_mbReply, modes_modFirn, ite_self, implies_true, modes_mbOp]

@[simp] theorem Block.modes_restoreWork (b : Block) (o : FirnOp) : (b.restoreWork o).1.modes = b.modes := by
  simp only [restoreWork]
  (repeat' split) <;> simp only [modes_pkgMissed, modes_chunks, modes_tagRegions, modes_modModel, modes_releasePlaced, modes_badTensors]

@[simp] theorem Block.modes_modelRestoreEnd (b : Block) : b.modelRestoreEnd.modes = b.modes := by
  simp only [modelRestoreEnd]
  split <;> simp only [modes_ite, modes_firnNotice, modes_firnOver, modes_modelState, modes_restoreWork, ite_self]

@[simp] theorem Block.modes_modelRemove (b : Block) (page : Nat) : (b.modelRemove page).modes = b.modes := by
  simp only [modelRemove, modes_ite, modes_mbReply, modes_modelState, modes_modFirn, ite_self, implies_true, modes_mbOp]

@[simp] theorem Block.modes_finishRemoval (b : Block) (m : Nat) : (b.finishRemoval m).modes = b.modes := by
  simp only [finishRemoval, modes_emit, modes_dirCommit, modes_modFirn, modes_releaseRegions, modes_eraseExtents]

@[simp] theorem Block.modes_modelRemoveEnd (b : Block) : b.modelRemoveEnd.modes = b.modes := by
  simp only [modelRemoveEnd]
  split <;> simp only [modes_ite, modes_firnNotice, modes_firnOver, modes_finishRemoval, ite_self]

@[simp] theorem Block.modes_modelGrant (b : Block) (page : Nat) : (b.modelGrant page).modes = b.modes := by
  simp only [modelGrant, modes_ite, modes_mbReply, modes_modCtx, ite_self, implies_true, modes_mbOp]

@[simp] theorem Block.modes_revoke (b : Block) (ctx id : Nat) : (b.revoke ctx id).modes = b.modes := by
  simp only [revoke, modes_modCtx]

@[simp] theorem Block.modes_modelRevoke (b : Block) (page : Nat) : (b.modelRevoke page).modes = b.modes := by
  simp only [modelRevoke, modes_ite, modes_mbReply, modes_revoke, modes_mbBusy, modes_abortCtx, ite_self, implies_true, modes_mbOp]

@[simp] theorem Block.modes_toBuffer (b : Block) (page : Nat) (m : List Byte) (data : List Byte) :
    (b.toBuffer page m data).modes = b.modes := by
  simp only [toBuffer, modes_ite, modes_mbReply, ite_self]
  (repeat' split) <;> simp only [modes_bufWrite]

@[simp] theorem Block.modes_bufferOp (b : Block) (page op : Nat) (data : List Byte → Except Nat (List Byte)) :
    (b.bufferOp page op data).modes = b.modes := by
  refine modes_mbOpAt _ _ _ _ _ _ fun b m => ?_
  split
  · exact modes_mbReply ..
  · exact modes_toBuffer ..

@[simp] theorem Block.modes_modelList (b : Block) (page : Nat) : (b.modelList page).modes = b.modes := by
  simp only [modelList, modes_bufferOp]

@[simp] theorem Block.modes_modelDirectoryRead (b : Block) (page : Nat) : (b.modelDirectoryRead page).modes = b.modes := by
  simp only [modelDirectoryRead, modes_bufferOp]

@[simp] theorem Block.modes_firnStatus (b : Block) (page : Nat) : (b.firnStatus page).modes = b.modes := by
  simp only [firnStatus, modes_bufferOp]

@[simp] theorem Block.modes_variantBuild (b : Block) (page : Nat) : (b.variantBuild page).modes = b.modes := by
  simp only [variantBuild, modes_ite, modes_mbReply, modes_modFirn, modes_with, ite_self, implies_true, modes_mbOp]

@[simp] theorem Block.modes_buildRead (b : Block) (id : Nat) (e : List Byte) : (b.buildRead id e).1.modes = b.modes := by
  rw [buildRead]
  have h := b.modes_firnRead
  obtain ⟨read, hr⟩ : ∃ r, b.firnRead = r := ⟨_, rfl⟩
  obtain ⟨get, hg⟩ : ∃ g, Block.hostGet = g := ⟨_, rfl⟩
  rw [hr] at h ⊢
  rw [hg]
  generalize href : (if id = 0 then (b, Except.ok (List.replicate (fld e 24 8) 0#8)) else _) = ref
  have hb : ref.1.modes = b.modes := by
    split at href
    · exact href ▸ rfl
    · split at href
      · exact href ▸ rfl
      · split at href <;> subst href <;> next hm => exact (modes_of_eq hm).trans (h ..)
  obtain ⟨c, _ | d⟩ := ref
  · exact hb
  · change (match get c _ _ with | none => _ | some own => _ : Block × Except Nat BuildIn).1.modes = _
    cases get c _ _
    · exact (modes_hostMissed ..).trans hb
    · exact hb

@[simp] theorem Block.modes_buildInputs (b : Block) (id : Nat) (es : List (List Byte)) : (b.buildInputs id es).1.modes = b.modes := by
  rw [buildInputs]
  refine modes_foldl_fst _ (fun r e => ?_) _ _
  split
  · rfl
  · split <;> next h => exact (modes_of_eq h).trans (modes_buildRead ..)

@[simp] theorem Block.modes_buildSpoils (b : Block) (u : Build) : (b.buildSpoils u).modes = b.modes := by
  simp only [buildSpoils, modes_dramWrite, modes_with]

@[simp] theorem Block.modes_buildWrite (b : Block) (base id : Nat) (ins : List BuildIn) : (b.buildWrite base id ins).1.modes = b.modes := by
  rw [buildWrite]
  exact (modes_foldl_fst _ (fun r s => by exact modes_dramWrite ..) _ _).trans (modes_dramWrite ..)

@[simp] theorem Block.modes_buildVerify (b : Block) (base spec : Nat) (ins : List BuildIn) (at_ : List (Nat × Nat)) :
    (b.buildVerify base spec ins at_).1.modes = b.modes := by
  rw [buildVerify]
  split
  · unfold Option.elim
    split
    · exact modes_tracePoison ..
    · rfl
  · exact modes_foldl_fst _ (fun r o => by exact modes_hostPut ..) _ _

@[simp] theorem Block.modes_buildWork (b : Block) (u : Build) : (b.buildWork u).1.modes = b.modes := by
  rw [buildWork]
  dsimp only
  split
  · exact modes_hostMissed ..
  · split
    · rfl
    · split
      · rfl
      · split
        · next h => rw [modes_of_eq h, modes_buildInputs]
        · next h =>
          split <;> next h' => simp only [modes_buildSpoils, modes_of_eq h', modes_buildVerify, modes_buildWrite, modes_of_eq h,
    modes_buildInputs]

@[simp] theorem Block.modes_buildDoomed (b : Block) (u : Build) : (b.buildDoomed u).1.modes = b.modes := by
  simp only [buildDoomed, modes_buildSpoils]

@[simp] theorem Block.modes_buildEnd (b : Block) : b.buildEnd.modes = b.modes := by
  simp only [buildEnd]
  (repeat' split) <;> simp only [modes_firnNotice, modes_emit, modes_modFirn, modes_with, modes_buildDoomed, modes_buildWork]

@[simp] theorem Block.modes_recheck (b : Block) (m : Nat) : (b.recheck m).modes = b.modes := by
  simp only [recheck, modes_ite, modes_with, modes_badTensors, modes_modelState, ite_self]

@[simp] theorem Block.modes_placedRecheckDone (b : Block) (part : Nat) : (b.placedRecheckDone part).modes = b.modes := by
  simp only [placedRecheckDone, modes_ite, modes_recheck, implies_true, modes_foldl, ite_self]

@[simp] theorem Block.modes_scanDone (b : Block) : b.scanDone.modes = b.modes := by
  simp only [scanDone]
  split <;> simp only [modes_emit, modes_dirCommit, modes_modFirn, modes_ite, modes_modModel, ite_self, implies_true, modes_foldl]

theorem Block.modes_ringFree (b : Block) (ctx op free f) (hf : ∀ c e, (f c e).modes = c.modes) :
    (b.ringFree ctx op free f).modes = b.modes := by
  unfold ringFree
  (repeat' split) <;> simp only [hf]

theorem Block.modes_ringTurn (b : Block) (ctx op f) (hf : ∀ c e, (f c e).modes = c.modes) : (b.ringTurn ctx op f).modes = b.modes :=
  b.modes_ringFree _ _ _ _ hf

@[simp] theorem Block.modes_ctxFloeConfig (b : Block) (page : Nat) : (b.ctxFloeConfig page).modes = b.modes := by
  simp only [ctxFloeConfig, modes_ite, modes_mbReply, modes_modCtx, ite_self, implies_true, modes_mbOp]

@[simp] theorem Block.modes_opWrite (b : Block) (ctx : Nat) (via : Via) (va : Nat) (data : List Byte) :
    (b.opWrite ctx via va data).1.modes = b.modes := by
  unfold opWrite
  refine modes_foldl_fst _ (fun r p => ?_) _ _
  dsimp only
  split
  · rfl
  · split
    · rfl
    · split
      · rw [modes_dramWrite, modes_cross]
      · split <;> next h => rw [modes_of_eq h, modes_hostPut, modes_cross]

@[simp] theorem Block.modes_streamUse (b : Block) (core ctx va : Nat) : (b.streamUse core ctx va).modes = b.modes := by
  simp only [streamUse]
  split <;> simp only [modes_fillTlb, modes_fillWalks, modes_touch]

@[simp] theorem Block.modes_opSeen (b : Block) (ctx : Nat) (via : Via) (l : List (Nat × Nat)) : (b.opSeen ctx via l).modes = b.modes := by
  simp only [opSeen]
  split <;> simp only [modes_crossFrom, modes_streamUse, implies_true, modes_foldl]

@[simp] theorem Block.modes_parkAttn (b : Block) (core ctx va acc : Nat) : (b.parkAttn core ctx va acc).modes = b.modes := by
  simp only [parkAttn, modes_ite, modes_modCore, modes_emitCtx, ite_self]

@[simp] theorem Block.modes_opFailed (b : Block) (ctx : Nat) (via : Via) (e : OpErr) : (b.opFailed ctx via e).modes = b.modes := by
  simp only [opFailed, modes_ite, modes_modCtx, ite_self]
  (repeat' split) <;> simp only [modes_tracePoison, modes_modCtx, modes_grantDenied, modes_hostError, modes_delivered]

@[simp] theorem Block.modes_putEnt (b : Block) (ctx : Nat) (f : FloeCfg) (r : SeqRec) (i l : Nat) (e : FloeEnt) :
    (b.putEnt ctx f r i l e).1.modes = b.modes := by
  simp only [putEnt, modes_opWrite]

theorem Block.modes_floeEach (f : Block → Nat → Nat → FloeRes) (hf : ∀ b i l q, f b i l = q → q.1.modes = b.modes) (b : Block)
    (idx : List (Nat × Nat)) : (floeEach f b idx).1.modes = b.modes := by
  refine modes_foldl_fst _ (fun st il => ?_) _ _
  split
  · rfl
  · exact hf _ _ _ _ rfl

@[simp] theorem Block.modes_putLen (b : Block) (ctx : Nat) (f : FloeCfg) (s len stamp : Nat) :
    (b.putLen ctx f s len stamp).1.modes = b.modes := by
  rw [putLen]
  split
  · rfl
  · exact modes_opWrite ..

@[simp] theorem Block.modes_setLen (b : Block) (ctx : Nat) (f : FloeCfg) (s len : Nat) : (b.setLen ctx f s len).1.modes = b.modes := by
  simp only [setLen, modes_putLen, modes_stamp]

@[simp] theorem Block.modes_floeTrace (b : Block) (event ctx s i l hi : Nat) : (b.floeTrace event ctx s i l hi).modes = b.modes := by
  simp only [floeTrace, modes_emitCtx]

@[simp] theorem Block.modes_commitEnt (b : Block) (ctx : Nat) (f : FloeCfg) (r : SeqRec) (s w i l : Nat) :
    (b.commitEnt ctx f r s w i l).1.modes = b.modes := by
  generalize hq : b.commitEnt ctx f r s w i l = q
  rw [commitEnt] at hq
  split at hq
  · exact hq ▸ rfl
  · split at hq
    · exact hq ▸ rfl
    · extract_lets p at hq
      have hp : p.1.modes = b.modes := modes_putEnt ..
      split at hq <;> subst hq
      · exact (modes_floeTrace ..).trans hp
      · exact hp

@[simp] theorem Block.modes_commitSeq (b : Block) (ctx : Nat) (f : FloeCfg) (s : Nat) : (b.commitSeq ctx f s).1.modes = b.modes := by
  generalize hq : b.commitSeq ctx f s = q
  rw [commitSeq] at hq
  split at hq
  · exact hq ▸ rfl
  · have h := fun r w => modes_floeEach (fun b i l => b.commitEnt ctx f r s w i l) (fun b i l q h => h ▸ modes_commitEnt ..)
    extract_lets w st fab sb p at hq
    have hst : st.1.modes = b.modes := h _ _ _ _
    have hp : p.1.modes = b.modes := (modes_putLen ..).trans ((modes_stamp ..).trans hst)
    split at hq
    · exact hq ▸ hst
    · split at hq <;> subst hq
      · exact hp
      · exact (modes_emitAt ..).trans hp

@[simp] theorem Block.modes_floeCommit (b : Block) (ctx : Nat) : (b.floeCommit ctx).1.modes = b.modes := by
  rw [floeCommit]
  split
  · rfl
  · refine (modes_modCtx ..).trans (modes_foldl_fst _ (fun st s => ?_) _ _)
    generalize hc : commitSeq st.1 ctx _ s = c
    have hc' : c.1.modes = st.1.modes := hc ▸ modes_commitSeq ..
    obtain ⟨c, _ | e⟩ := c
    · exact hc'
    · exact (modes_opFailed ..).trans hc'

@[simp] theorem Block.modes_floeDiscard (b : Block) (ctx : Nat) : (b.floeDiscard ctx).modes = b.modes := by
  simp only [floeDiscard, modes_modCtx, modes_floeTrace, implies_true, modes_foldl]

@[simp] theorem Block.modes_floeRefused (b : Block) : (b.floeRefused).1.modes = b.modes := by
  simp only [floeRefused]

@[simp] theorem Block.modes_floeInit (b : Block) (ctx : Nat) (f : FloeCfg) (p : List Byte) : (b.floeInit ctx f p).1.modes = b.modes := by
  simp only [floeInit]
  (repeat' split) <;> simp only [modes_floeRefused, modes_opWrite, modes_stamp]

@[simp] theorem Block.modes_floeBind (b : Block) (ctx : Nat) (f : FloeCfg) (r : SeqRec) (p : List Byte) :
    (b.floeBind ctx f r p).1.modes = b.modes := by
  generalize hq : b.floeBind ctx f r p = q
  rw [floeBind] at hq
  split at hq
  · exact hq ▸ modes_floeRefused ..
  · extract_lets idx at hq
    split at hq
    · exact hq ▸ rfl
    · extract_lets addr at hq
      split at hq
      · exact hq ▸ modes_floeRefused ..
      · split at hq <;> subst hq
        · rfl
        · refine modes_foldl_fst _ (fun st i => ?_) _ _
          split
          · rfl
          · exact modes_opWrite ..

@[simp] theorem Block.modes_floeRelease (b : Block) (ctx : Nat) (f : FloeCfg) (r : SeqRec) (p : List Byte) :
    (b.floeRelease ctx f r p).1.modes = b.modes := by
  generalize hq : b.floeRelease ctx f r p = q
  rw [floeRelease] at hq
  split at hq
  · exact hq ▸ modes_floeRefused ..
  · split at hq
    · exact hq ▸ rfl
    · extract_lets w at hq
      have hw : w.1.modes = b.modes := by
        refine modes_floeEach _ (fun c i l q hq => ?_) _ _
        beta_reduce at hq
        split at hq
        · exact hq ▸ rfl
        · extract_lets w at hq
          split at hq <;> subst hq
          · exact (modes_floeTrace ..).trans (modes_putEnt ..)
          · exact modes_putEnt ..
      split at hq <;> subst hq
      · exact hw
      · exact (modes_setLen ..).trans hw

@[simp] theorem Block.modes_floeTruncate (b : Block) (ctx : Nat) (f : FloeCfg) (r : SeqRec) (p : List Byte) :
    (b.floeTruncate ctx f r p).1.modes = b.modes := by
  generalize hq : b.floeTruncate ctx f r p = q
  rw [floeTruncate] at hq
  split at hq
  · exact hq ▸ modes_floeRefused ..
  · split at hq
    · exact hq ▸ rfl
    · extract_lets w at hq
      have hw : w.1.modes = b.modes := by
        refine modes_floeEach _ (fun c i l q hq => ?_) _ _
        beta_reduce at hq
        split at hq
        · exact hq ▸ rfl
        · extract_lets st w at hq
          clear_value st
          split at hq
          · exact hq ▸ rfl
          · split at hq <;> subst hq
            · exact (modes_floeTrace ..).trans (modes_putEnt ..)
            · exact modes_putEnt ..
      split at hq <;> subst hq
      · exact hw
      · exact (modes_setLen ..).trans hw

@[simp] theorem Block.modes_floeShare (b : Block) (ctx : Nat) (f : FloeCfg) (r : SeqRec) (p : List Byte) :
    (b.floeShare ctx f r p).1.modes = b.modes := by
  generalize hq : b.floeShare ctx f r p = q
  rw [floeShare] at hq
  split at hq
  · exact hq ▸ modes_floeRefused ..
  · split at hq
    · exact hq ▸ rfl
    · extract_lets idx at hq
      split at hq
      · exact hq ▸ modes_floeRefused ..
      · split at hq
        · exact hq ▸ rfl
        · exact hq ▸ rfl
        · next sr _ _ _ _ _ _ _ =>
          have hw (c : Block) (idx) : (floeEach (fun b i l => match b.floeEnt ctx none f sr i l with
              | .error e => (b, some e)
              | .ok e => b.putEnt ctx f r i l e) c idx).1.modes = c.modes := by
            refine modes_floeEach _ (fun c i l q hq => ?_) _ _
            beta_reduce at hq
            split at hq <;> subst hq
            · rfl
            · exact modes_putEnt ..
          split at hq <;> subst hq
          · exact hw ..
          · exact (modes_setLen ..).trans (hw ..)

theorem Block.modes_opWaits (b c : Block) (ctx : Nat) (via : Via) (e : OpErr) (h : b.opWaits ctx via e = some c) : c.modes = b.modes := by
  unfold opWaits at h
  split at h
  · cases h
    rw [modes_ite, modes_snoopSend, ite_self]
  · split at h
    · cases h
      split
      · exact modes_askTrans ..
      · exact modes_parkAttn ..
    · cases h

@[simp] theorem Block.modes_floeEnd (b : Block) (ctx seq : Nat) (r : FloeRes) (h : r.1.modes = b.modes) :
    (b.floeEnd ctx seq r).modes = b.modes := by
  unfold floeEnd
  split
  · rw [modes_finishEntry, h]
  · split
    · next h' => exact b.modes_opWaits _ _ _ _ h'
    · rw [modes_finishEntry, modes_opFailed, h]

theorem Block.modes_floeOp (b : Block) (ctx k work) (hw : ∀ c f r p, (work c f r p).1.modes = c.modes) :
    (b.floeOp ctx k work).modes = b.modes := by
  refine modes_ringTurn _ _ _ _ fun c e => ?_
  have hend := fun b r h => modes_floeEnd b ctx e.seq r h
  dsimp only
  split
  · exact modes_finishEntry ..
  · split
    · rfl
    · refine modes_feThrough _ _ _ _ _ _ (fun _ _ => modes_finishEntry ..) fun c p => ?_
      repeat' split
      all_goals try rfl
      all_goals try exact modes_finishEntry ..
      · exact hend _ _ (hw ..)
      · exact hend _ _ rfl
      · exact hend _ _ ((hw ..).trans (modes_opSeen ..))

end Sys2Proof.Machine
end

section
/-!
The module-wide states through the vector units and attention.
-/
namespace Sys2Proof.Machine

@[simp] theorem Block.modes_noteAppend (b : Block) (ctx : Nat) (f : FloeCfg) (p : List Byte) (s w n : Nat) :
    (b.noteAppend ctx f p s w n).modes = b.modes := by
  simp only [noteAppend, modes_floeTrace, implies_true, modes_foldl, modes_modCtx]

@[simp] theorem Block.modes_writeRows (b : Block) (ctx : Nat) (via : Via) (f : FloeCfg) (r : SeqRec) (p : List Byte) (s w n row : Nat) :
    (b.writeRows ctx via f r p s w n row).1.modes = b.modes := by
  rw [writeRows]
  refine modes_foldl_fst _ (fun st t => ?_) _ _
  split
  · rfl
  · extract_lets c src
    split
    · rfl
    · rfl
    · refine (modes_foldl_fst _ (fun st o => ?_) _ _).trans (modes_opSeen ..)
      split
      · rfl
      · exact modes_opWrite ..

@[simp] theorem Block.modes_attnEntry (b : Block) (ctx : Nat) (via : Via) (f : FloeCfg) (p t : List Byte) :
    (b.attnEntry ctx via f p t).1.modes = b.modes := by
  generalize hq : b.attnEntry ctx via f p t = q
  rw [attnEntry] at hq
  split at hq
  · exact hq ▸ rfl
  · extract_lets x w at hq
    split at hq
    · exact hq ▸ rfl
    · split at hq
      · exact hq ▸ rfl
      · split at hq
        · exact hq ▸ rfl
        · split at hq <;> subst hq
          · rfl
          · exact (modes_writeRows ..).trans (modes_noteAppend ..)

@[simp] theorem Block.modes_attnUnit (b : Block) (ctx : Nat) (via : Via) (f : FloeCfg) (a : AttnRun) (u : Nat × Nat) (kept : List Byte × List Byte) :
    (b.attnUnit ctx via f a u kept).1.modes = b.modes := by
  rw [attnUnit]
  split
  · rfl
  · refine (modes_foldl_fst _ (fun st i => ?_) _ _).trans (modes_opSeen ..)
    generalize hq : (if st.2.isSome = true then st else _) = q
    split at hq
    · exact hq ▸ rfl
    · extract_lets t h at hq
      split at hq <;> subst hq
      · rfl
      · exact modes_opWrite ..

@[simp] theorem Block.modes_attnRelease (b : Block) (ctx core : Nat) : (b.attnRelease ctx core).modes = b.modes := by
  simp only [attnRelease]
  split <;> simp only [modes_unparkAttn, modes_modCore, modes_with]

@[simp] theorem Block.modes_attnFail (b : Block) (ctx seq st layer s : Nat) : (b.attnFail ctx seq st layer s).modes = b.modes := by
  rw [attnFail, modes_finishEntry, modes_ite, modes_poisonSeen, modes_modCtx, modes_emitCtx, ite_self]

@[simp] theorem Block.modes_attnFinish (b : Block) (ctx : Nat) (a : AttnRun) : (b.attnFinish ctx a).modes = b.modes := by
  unfold attnFinish
  split
  · rfl
  · have h (b : Block) (l : List Nat) := modes_foldl (fun b c => (b.modCore c (fun k => { k with
      units := k.units.filter (fun u => !(u.ctx == ctx && u.seq == a.seq)) })).attnRelease ctx c)
      (fun b c => (modes_attnRelease ..).trans (modes_modCore ..)) l b
    dsimp only
    split
    · rw [modes_finishEntry, modes_modCtx, h]
    · rw [modes_attnFail, modes_modCtx, h]

@[simp] theorem Block.modes_attnDeal (b : Block) (ctx core seq : Nat) : (b.attnDeal ctx core seq).modes = b.modes := by
  unfold attnDeal
  split
  · rfl
  · rw [modes_modCtx, modes_modCore]

@[simp] theorem Block.modes_attnBegin (b : Block) (ctx : Nat) (f : FloeCfg) (a : AttnRun) : (b.attnBegin ctx f a).modes = b.modes := by
  have he := modes_attnEntry
  obtain ⟨entry, hentry⟩ : ∃ g, Block.attnEntry = g := ⟨_, rfl⟩
  rw [attnBegin]
  rw [hentry] at he ⊢
  generalize hq : List.foldl (_ : Block × List (Except OpErr Nat) → List Byte → _) _ a.batch = r
  have hr : r.1.modes = b.modes := by
    rw [← hq]
    refine (modes_foldl_fst _ (fun st t => ?_) _ _).trans (modes_crossTo ..)
    exact he ..
  clear hq
  have hd : (r.2.foldl (fun b e => match e with | .error e => b.opFailed ctx (some (a.cores.headD 0)) e | .ok _ => b) r.1).modes = b.modes := by
    refine (modes_foldl _ (fun c e => ?_) _ _).trans hr
    split
    · exact modes_opFailed ..
    · rfl
  split
  · next h =>
    obtain ⟨e, -, he⟩ := List.exists_of_findSome?_eq_some h
    split at he
    · exact (modes_opWaits _ _ _ _ _ he).trans (modes_crossTo ..)
    · cases he
  · rw [modes_ite]
    split
    · exact (modes_attnFinish ..).trans ((modes_modCtx ..).trans hd)
    · refine (modes_foldl _ (fun c i => ?_) _ _).trans ((modes_modCtx ..).trans hd)
      simp only [modes_ite, modes_takeNext, modes_attnDeal, ite_self]

theorem Block.modes_attnBatch (b : Block) (ctx f a go) (hgo : ∀ c a, (go c a).modes = c.modes) :
    (b.attnBatch ctx f a go).modes = b.modes := by
  refine modes_feThrough _ _ _ _ _ _ (fun c st => modes_attnFail ..) fun c d => ?_
  dsimp only; split
  · exact modes_attnFail ..
  · rw [hgo, modes_modCtx]

@[simp] theorem Block.modes_attn (b : Block) (ctx : Nat) : (b.attn ctx).modes = b.modes := by
  refine modes_ringFree _ _ _ _ _ fun b e => ?_
  dsimp only
  (repeat' split) <;> simp only [modes_attnFail, modes_ite, modes_attnBegin, ite_self, implies_true, modes_attnBatch]

@[simp] theorem Block.modes_unitEnds (b : Block) (ctx core : Nat) (a : AttnRun) (u : AttnUnit) (s : Nat) (er : Option OpErr) :
    (b.unitEnds ctx core a u s er).modes = b.modes := by
  simp only [unitEnds]
  split <;> simp only [modes_attnFinish, modes_attnDeal, modes_crossFront, modes_modCore, modes_unparkAttn, modes_modCtx]

theorem Block.modes_keepProj (b : Block) (ctx core f a p) (h : b.keepProj ctx core f a = .ok p) : p.1.modes = b.modes := by
  unfold keepProj at h
  split at h
  · cases h; rfl
  · split at h
    · cases h; rfl
    · split at h
      · cases h
      · cases h
        rw [modes_modCtx, modes_opSeen]

@[simp] theorem Block.modes_attnUnitDone (b : Block) (core : Nat) : (b.attnUnitDone core).modes = b.modes := by
  have hp := b.modes_keepProj
  obtain ⟨keep, hk⟩ : ∃ k, b.keepProj = k := ⟨_, rfl⟩
  rw [attnUnitDone, hk]
  rw [hk] at hp
  split
  · rfl
  · extract_lets ctx via
    split
    · next u f hu hf =>
      split
      · rfl
      · next a ha =>
        split
        · rfl
        · extract_lets s finish
          have hfin (c : Block) (r : FloeRes) (hr : r.1.modes = c.modes) : (finish c r).modes = c.modes := by
            unfold finish
            split
            · rw [modes_unitEnds, hr]
            · split
              · next h => exact modes_opWaits _ _ _ _ _ h
              · rw [modes_unitEnds, modes_opFailed, hr]
          obtain ⟨fin, hf⟩ : ∃ g, finish = g := ⟨_, rfl⟩
          rw [hf] at hfin ⊢
          split
          · next e _ => exact hfin b (b, some e) rfl
          · next h => exact (hfin _ _ (modes_attnUnit ..)).trans (hp _ _ _ _ _ h)
    · rfl

end Sys2Proof.Machine
end

section
/-!
The module-wide states through steps, resets and the tile controllers.
-/
namespace Sys2Proof.Machine

@[simp] theorem Block.modes_dropEntry (b : Block) (ctx : Nat) (e : Entry) (st : Nat) : (b.dropEntry ctx e st).modes = b.modes := by
  simp only [dropEntry, modes_completeEntry, modes_modCtx]

@[simp] theorem Block.modes_drained (b : Block) (ctx : Nat) : (b.drained ctx).modes = b.modes := by
  simp only [drained, modes_modCtx, modes_emitStep]

@[simp] theorem Block.modes_drainN (b : Block) (ctx n : Nat) : (b.drainN ctx n).modes = b.modes := by
  induction n generalizing b with
  | zero => rfl
  | succ n ih =>
    unfold drainN
    dsimp only
    split
    · rfl
    · split
      · rfl
      · simp only [modes_ite, ih, modes_drained, modes_dropEntry, ite_self]

@[simp] theorem Block.modes_drainStep (b : Block) (ctx : Nat) : (b.drainStep ctx).modes = b.modes := by
  rw [drainStep, modes_riseDone, modes_drainN]

@[simp] theorem Block.modes_scrubCore (b : Block) (core ctx : Nat) : (b.scrubCore core ctx).modes = b.modes := by
  simp only [scrubCore]
  split <;> simp only [modes_modCore]

@[simp] theorem Block.modes_emptyTqs (b : Block) (ctx : Nat) : (b.emptyTqs ctx).modes = b.modes := by
  simp only [emptyTqs, modes_modPart]

@[simp] theorem Block.modes_scrubAll (b : Block) (ctx : Nat) : (b.scrubAll ctx).modes = b.modes := by
  simp only [scrubAll, modes_emptyTqs, modes_scrubCore, implies_true, modes_foldl, modes_crossTo, modes_floeDiscard]

@[simp] theorem Block.modes_endKids (b : Block) (a : Abort) : (b.endKids a).modes = b.modes := by
  rw [endKids]
  refine modes_foldl _ (fun b x => ?_) _ _
  dsimp only
  (repeat' split) <;> simp only [modes_crossFront, modes_modCore, modes_cross, modes_emit]

@[simp] theorem Block.modes_dropKernels (b : Block) (ctx seq : Nat) : (b.dropKernels ctx seq).modes = b.modes := by
  simp only [dropKernels, modes_modCore, implies_true, modes_foldl]

@[simp] theorem Block.modes_endEntries (b : Block) (ctx : Nat) (seqs : List Nat) : (b.endEntries ctx seqs).modes = b.modes := by
  simp only [endEntries, modes_ite, modes_modCtx, modes_finishEntry, modes_dropKernels, ite_self, implies_true, modes_foldl]

@[simp] theorem Block.modes_settleStep (b : Block) (ctx : Nat) (ended : Bool) (endSt : Nat) :
    (b.settleStep ctx ended endSt).modes = b.modes := by
  simp only [settleStep, modes_ite, modes_modCtx, modes_drainStep, ite_self]

@[simp] theorem Block.modes_closeEntries (b : Block) (ctx : Nat) (p : Entry → Bool) (st : Entry → Nat) :
    (b.closeEntries ctx p st).modes = b.modes := by
  simp only [closeEntries, modes_dropEntry, implies_true, modes_foldl]

@[simp] theorem Block.modes_endScope (b : Block) (a : Abort) : (b.endScope a).modes = b.modes := by
  simp only [endScope, modes_riseDone, modes_settleStep, modes_closeEntries, modes_dropKernels, implies_true, modes_foldl, modes_scrubAll]

@[simp] theorem Block.modes_finishAbort (b : Block) (a : Abort) : (b.finishAbort a).modes = b.modes := by
  simp only [finishAbort, modes_ite, modes_launchDone, implies_true, modes_foldl, modes_scrubCore, modes_attnRelease, modes_with,
    modes_emitStep, modes_endKids, modes_endEntries, ite_self, modes_endScope]

@[simp] theorem Block.modes_nested (b : Block) (ctx : Nat) : (b.nested ctx).modes = b.modes := by
  simp only [nested, modes_ite]
  (repeat' split) <;> simp only [modes_finishEntry]

@[simp] theorem Block.modes_openStep (b : Block) (ctx : Nat) : (b.openStep ctx).modes = b.modes := by
  simp only [openStep, modes_nested, modes_modCtx, modes_emitStep]

@[simp] theorem Block.modes_lateAtOnce (b : Block) (ctx : Nat) (e : Entry) : (b.lateAtOnce ctx e).modes = b.modes := by
  simp only [lateAtOnce, modes_drainStep, modes_dropEntry, modes_scrubAll, modes_retireGroups, modes_emitStep, modes_modCtx]

@[simp] theorem Block.modes_stepBegin (b : Block) (ctx : Nat) : (b.stepBegin ctx).modes = b.modes := by
  refine modes_ringTurn _ _ _ _ fun b e => ?_
  dsimp only
  (repeat' split) <;> simp only [modes_openStep, modes_modCtx, modes_lateAtOnce, modes_finishEntry, modes_nested]

@[simp] theorem Block.modes_commitStep (b : Block) (ctx : Nat) (e : Entry) : (b.commitStep ctx e).modes = b.modes := by
  simp only [commitStep, modes_riseDone, modes_modCtx, modes_closeEntries, modes_floeCommit, modes_retireGroups, modes_emitStep]

@[simp] theorem Block.modes_stepEnd (b : Block) (ctx : Nat) : (b.stepEnd ctx).modes = b.modes := by
  refine modes_ringTurn _ _ _ _ fun b e => ?_
  dsimp only
  split
  · exact modes_finishEntry ..
  · split
    · rfl
    · split
      · exact modes_dropStep ..
      · split
        · exact modes_finishEntry ..
        · split
          · next h =>
            obtain ⟨e, -, he⟩ := Option.bind_eq_some_iff.mp h
            exact modes_opWaits _ _ _ _ _ he
          · exact modes_commitStep ..
  · rfl

@[simp] theorem Block.modes_modChan (b : Block) (ch : Nat) (f : Chan → Chan) : (b.modChan ch f).modes = b.modes := by
  simp only [modChan, modes_with]

@[simp] theorem Block.modes_scrubTo (b : Block) (ch line : Nat) : (b.scrubTo ch line).modes = b.modes := by
  simp only [scrubTo, modes_ite, modes_emit, modes_modChan, ite_self]

@[simp] theorem Block.modes_dramPatrolScrub (b : Block) (ch line : Nat) (f : Finding) : (b.dramPatrolScrub ch line f).modes = b.modes := by
  simp only [dramPatrolScrub, modes_ite]
  (repeat' split) <;> simp only [modes_scrubTo, modes_emit, modes_modPart, modes_modChan, modes_with]

@[simp] theorem Block.modes_scratchpadPatrolSweep (b : Block) (core : Nat) (tile : Bool) (g : Nat) (f : Finding) :
    (b.scratchpadPatrolSweep core tile g f).modes = b.modes := by
  simp only [scratchpadPatrolSweep, modes_ite]
  (repeat' split) <;> simp only [modes_emit, modes_modPart, modes_modCore]

@[simp] theorem Block.modes_resetTrace (b : Block) (event part trigger : Nat) : (b.resetTrace event part trigger).modes = b.modes := by
  simp only [resetTrace, modes_emit]

@[simp] theorem Block.modes_resetCtx (b : Block) (ctx : Nat) : (b.resetCtx ctx).modes = b.modes := by
  simp only [resetCtx, modes_riseDone, modes_settleStep, modes_modCtx, modes_closeEntries, modes_floeDiscard, modes_ite,
    modes_retireStep, ite_self]

@[simp] theorem Block.modes_escalateOps (b : Block) (part : Nat) (ids : List Nat) : (b.escalateOps part ids).modes = b.modes := by
  unfold escalateOps
  refine modes_foldl _ (fun b page => ?_) _ _
  split
  · rfl
  · simp only [modes_ite, modes_mbNotice, modes_revoke, modes_modMbox, modes_mbReply, ite_self]

@[simp] theorem Block.modes_dropRecords (b : Block) (part : Nat) : (b.dropRecords part).modes = b.modes := by
  simp only [dropRecords, modes_traceDrop, implies_true, modes_foldl, modes_setRing, modes_withTreleb]

@[simp] theorem Block.modes_resetHub (b : Block) (part : Nat) : (b.resetHub part).modes = b.modes := by
  simp only [resetHub, modes_withTreleb, modes_modFaults, modes_unpark, implies_true, modes_foldl, modes_withWeave]

@[simp] theorem Block.modes_resetStores (b : Block) (part : Nat) : (b.resetStores part).modes = b.modes := by
  simp only [resetStores, modes_with, modes_modFirn]

@[simp] theorem Block.modes_takeKeys (b : Block) (part : Nat) : (b.takeKeys part).modes = b.modes := by
  simp only [takeKeys, modes_withSec, modes_modPart, modes_draw]

@[simp] theorem Block.modes_clearNew (b : Block) (part : Nat) : (b.clearNew part).modes = b.modes := by
  simp only [clearNew, modes_ite, modes_modPart, modes_foldl, modes_modChan, modes_dramClear, implies_true, ite_self]

@[simp] theorem Block.modes_newKeys (b : Block) (part : Nat) : (b.newKeys part).modes = b.modes := by
  simp only [newKeys, modes_clearNew, modes_takeKeys]

@[simp] theorem Block.modes_rimLog (b : Block) (code part arg : Nat) : (b.rimLog code part arg).modes = b.modes := by
  simp only [rimLog, modes_log, modes_stamp]

@[simp] theorem Block.modes_updateLost (b : Block) : b.updateLost.modes = b.modes := by
  simp only [updateLost]
  split <;> simp only [modes_rimLog, modes_withRim, modes_draw]

@[simp] theorem Block.modes_updateLostIn (b : Block) (part : Nat) : (b.updateLostIn part).modes = b.modes := by
  simp only [updateLostIn, modes_ite, modes_updateLost, ite_self]

@[simp] theorem Block.modes_resetBegin (b : Block) (part trigger : Nat) : (b.resetBegin part trigger).modes = b.modes := by
  simp only [resetBegin, modes_ite, modes_rerunWaiting, modes_newKeys, modes_modPart, modes_modCore, implies_true, modes_foldl,
    modes_updateLostIn, modes_resetStores, modes_resetHub, modes_bank, modes_escalateOps, modes_modCtx, modes_resetCtx, modes_with,
    modes_emitStep, modes_resetTrace, modes_dropRecords, ite_self]

@[simp] theorem Block.modes_zeroTile (b : Block) (part : Nat) : (b.zeroTile part).modes = b.modes := by
  simp only [zeroTile, modes_modPart, modes_modCore, implies_true, modes_foldl]

@[simp] theorem Block.modes_zeroIslands (b : Block) (part : Nat) : (b.zeroIslands part).modes = b.modes := by
  simp only [zeroIslands, modes_setIsland, implies_true, modes_foldl]

@[simp] theorem Block.modes_flushDone (b : Block) (ctx : Nat) : (b.flushDone ctx).modes = b.modes := by
  rw [flushDone]
  refine modes_foldl_fst _ (fun r p => ?_) _ _
  dsimp only
  (repeat' split) <;> simp only [modes_raiseVector, modes_hostPut]

@[simp] theorem Block.modes_endCtx (b : Block) (ctx : Nat) : (b.endCtx ctx).modes = b.modes := by
  simp only [endCtx, modes_setCtx, modes_setMbox, modes_dropContext, modes_releaseRanges, implies_true, modes_foldl, modes_closeWindows,
    modes_hostPut, modes_flushDone, modes_withTreleb]

@[simp] theorem Block.modes_opRest (b : Block) (o : LongOp) : (b.opRest o).modes = b.modes := by
  simp only [opRest]
  split <;> simp only [modes_endCtx, modes_releaseCore, modes_reassign, modes_revoke]

@[simp] theorem Block.modes_afterOps (b : Block) (part : Nat) : (b.afterOps part).modes = b.modes := by
  simp only [afterOps, modes_mbNotice, modes_opRest, modes_modMbox, implies_true, modes_foldl]

@[simp] theorem Block.modes_disable (b : Block) (part : Nat) (perm : Bool) : (b.disable part perm).modes = b.modes := by
  simp only [disable, modes_ite, modes_modelState, ite_self, implies_true, modes_foldl, modes_rerunWaiting, modes_zeroTile,
    modes_dropRecords, modes_endCtx, modes_afterOps, modes_modPart, modes_updateLostIn, modes_resetStores, modes_resetHub, modes_with,
    modes_resetCtx, modes_resetTrace, modes_withRim]

@[simp] theorem Block.modes_removeAll (b : Block) : b.removeAll.modes = b.modes := by
  simp only [removeAll, modes_modCtx, implies_true, modes_foldl, modes_finishRemoval]

@[simp] theorem Block.modes_zeroEnd (b : Block) : b.zeroEnd.modes = b.modes := by
  simp only [zeroEnd]
  split <;> simp only [modes_ite, modes_mbFinish, modes_withSec, modes_removeAll, ite_self]

@[simp] theorem Block.modes_serveAgain (b : Block) (part : Nat) : (b.serveAgain part).modes = b.modes := by
  simp only [serveAgain, modes_mbDrain, modes_sendDone, implies_true, modes_foldl, modes_rerunWaiting, modes_afterOps, modes_resetTrace,
    modes_modCtx, modes_modPart]

@[simp] theorem Block.modes_resumeWalks (b : Block) (part : Nat) : (b.resumeWalks part).modes = b.modes := by
  unfold resumeWalks
  refine modes_foldl _ (fun b c => modes_foldl _ (fun b m => ?_) _ _) _ _
  dsimp only
  split
  · split
    · exact modes_modCore ..
    · rfl
  · rfl

@[simp] theorem Block.modes_partitionResetEnd (b : Block) (part : Nat) : (b.partitionResetEnd part).modes = b.modes := by
  simp only [partitionResetEnd, modes_ite, modes_zeroEnd, modes_disable, modes_resumeWalks, modes_serveAgain, ite_self]

@[simp] theorem Block.modes_failReset (b : Block) (part : Nat) : (b.failReset part).modes = b.modes := by
  simp only [failReset, modes_zeroEnd, modes_disable, modes_modPart]

@[simp] theorem Block.modes_heartbeat (b : Block) (part : Nat) : (b.heartbeat part).modes = b.modes := by
  simp only [heartbeat, modes_ite, modes_modPart, ite_self]

@[simp] theorem Block.modes_controlUncorrectable (b : Block) (part : Nat) : (b.controlUncorrectable part).modes = b.modes := by
  simp only [controlUncorrectable, modes_ite, modes_resetBegin, modes_resetTrace, ite_self]

@[simp] theorem Block.modes_abortOver (b : Block) (id : Nat) : (b.abortOver id).modes = b.modes := by
  unfold abortOver
  refine modes_foldl _ (fun b page => ?_) _ _
  split
  · rfl
  · simp only [modes_ite, modes_mbFinish, modes_opRest, modes_modMbox, ite_self]

@[simp] theorem Block.modes_abortDone (b : Block) (id : Nat) : (b.abortDone id).modes = b.modes := by
  simp only [abortDone]
  split <;> simp only [modes_ite, modes_abortOver, implies_true, modes_foldl, modes_finishAbort, ite_self]

@[simp] theorem Block.modes_doorbellWrite (b : Block) (ctx : Nat) (v : W64) : (b.doorbellWrite ctx v).modes = b.modes := by
  simp only [doorbellWrite, modes_ite, modes_emitCtx, modes_modCtx, ite_self]

@[simp] theorem Block.modes_ringGap (b : Block) (ctx found : Nat) : (b.ringGap ctx found).modes = b.modes := by
  simp only [ringGap, modes_mbNotice, modes_emitCtx, modes_modCtx]

@[simp] theorem Block.modes_ringLost (b : Block) (ctx addr : Nat) : (b.ringLost ctx addr).modes = b.modes := by
  simp only [ringLost, modes_faultNotice, modes_modCtx]

@[simp] theorem Block.modes_fetchSlot (b : Block) (ctx : Nat) : (b.fetchSlot ctx).modes = b.modes := by
  simp only [fetchSlot, modes_ringLost, implies_true, modes_ite, modes_modCtx, modes_ringGap, modes_emitCtx, modes_hostRead, ite_self]

@[simp] theorem Block.modes_fetchN (b : Block) (ctx : Nat) (first : Bool) (n : Nat) : (b.fetchN ctx first n).modes = b.modes := by
  induction n generalizing b first with
  | zero => rfl
  | succ n ih => simp only [fetchN, modes_ite, ih, modes_fetchSlot, ite_self]

@[simp] theorem Block.modes_ringFetch (b : Block) (ctx : Nat) : (b.ringFetch ctx).modes = b.modes := by
  simp only [ringFetch, modes_ite, modes_modCtx, modes_drainStep, modes_nested, modes_emitCtx, modes_fetchN, modes_cross, ite_self]

@[simp] theorem Block.modes_dispatched (b : Block) (ctx : Nat) (e : Entry) : (b.dispatched ctx e).modes = b.modes := by
  simp only [dispatched, modes_emitCtx, modes_modCtx]

@[simp] theorem Block.modes_dispatchAttn (b : Block) (ctx : Nat) (e : Entry) : (b.dispatchAttn ctx e).modes = b.modes := by
  simp only [dispatchAttn, modes_modCtx, modes_dispatched, implies_true, modes_feThrough]

@[simp] theorem Block.modes_dispatch (b : Block) (ctx : Nat) : (b.dispatch ctx).modes = b.modes := by
  simp only [dispatch, modes_ite]
  (repeat' split) <;> simp only [modes_finishEntry, modes_dispatchAttn, modes_dispatched]

@[simp] theorem Block.modes_accessFailed (b : Block) (ctx seq : Nat) (detail : List Byte) (st : Nat) :
    (b.accessFailed ctx seq detail st).modes = b.modes := by
  simp only [accessFailed, modes_finishEntry, modes_ite, modes_poisonSeen, ite_self]

@[simp] theorem Block.modes_launchWaits (b : Block) (ctx : Nat) (e : Entry) (cores : List Nat) (h : List Byte) (w : List W128)
    (p : List Byte) :
    (b.launchWaits ctx e cores h w p).modes = b.modes := by
  simp only [launchWaits, modes_modCtx, modes_modCore, implies_true, modes_foldl, modes_with]

theorem Block.modes_launchImage (b : Block) (ctx e cores h go) (hgo : ∀ c w, (go c w).modes = c.modes) :
    (b.launchImage ctx e cores h go).modes = b.modes := by
  unfold launchImage
  dsimp only
  split
  · exact hgo _ _
  · refine modes_feThrough _ _ _ _ _ _ (fun c st => modes_accessFailed ..) fun c d => ?_
    split
    · exact hgo _ _
    · exact modes_finishEntry ..

theorem Block.modes_launchParams (b : Block) (ctx e n go) (hgo : ∀ c w, (go c w).modes = c.modes) :
    (b.launchParams ctx e n go).modes = b.modes := by
  unfold launchParams
  split
  · exact hgo _ _
  · exact modes_feThrough _ _ _ _ _ _ (fun c st => modes_accessFailed ..) hgo

@[simp] theorem Block.modes_launch (b : Block) (ctx : Nat) : (b.launch ctx).modes = b.modes := by
  refine modes_ringTurn _ _ _ _ fun b e => ?_
  dsimp only
  split
  · exact modes_finishEntry ..
  · refine modes_feThrough _ _ _ _ _ _ (fun c st => modes_accessFailed ..) fun c d => ?_
    split
    · exact modes_finishEntry ..
    · exact modes_launchImage _ _ _ _ _ _ fun c w => modes_launchParams _ _ _ _ _ fun c p => modes_launchWaits ..

@[simp] theorem Block.modes_copyTaken (b : Block) (ctx core m : Nat) (e : Entry) (bd : Binding) (raw : List Byte) :
    (b.copyTaken ctx core m e bd raw).modes = b.modes := by
  simp only [copyTaken]
  split <;> simp only [modes_finishEntry, modes_emit, modes_modCtx, modes_setCore, modes_cross, modes_with]

@[simp] theorem Block.modes_copy (b : Block) (ctx : Nat) : (b.copy ctx).modes = b.modes := by
  refine modes_ringFree _ _ _ _ _ fun b e => ?_
  dsimp only
  (repeat' split) <;> simp only [modes_finishEntry, modes_accessFailed, implies_true, modes_copyTaken, modes_feThrough]

@[simp] theorem Block.modes_setEvent (b : Block) (ctx n : Nat) (v : W64) : (b.setEvent ctx n v).modes = b.modes := by
  simp only [setEvent, modes_modCtx]

@[simp] theorem Block.modes_eventRecord (b : Block) (ctx : Nat) : (b.eventRecord ctx).modes = b.modes := by
  simp only [eventRecord, modes_ite, modes_finishEntry, modes_setEvent, ite_self, implies_true, modes_ringTurn]

@[simp] theorem Block.modes_eventWait (b : Block) (ctx : Nat) : (b.eventWait ctx).modes = b.modes := by
  simp only [eventWait, modes_ite, modes_finishEntry, ite_self, implies_true, modes_ringTurn]

@[simp] theorem Block.modes_eventSet (b : Block) (page : Nat) : (b.eventSet page).modes = b.modes := by
  simp only [eventSet, modes_ite, modes_mbReply, modes_setEvent, ite_self, implies_true, modes_mbOp]

@[simp] theorem Block.modes_ctxCreate (b : Block) (page : Nat) : (b.ctxCreate page).modes = b.modes := by
  simp only [ctxCreate, modes_ite, modes_mbReply, modes_setCtx, modes_hostPut, ite_self, implies_true, modes_mbOp]

@[simp] theorem Block.modes_ctxDestroy (b : Block) (page : Nat) : (b.ctxDestroy page).modes = b.modes := by
  simp only [ctxDestroy, modes_ite, modes_mbReply, modes_mbBusy, modes_abortCtx, modes_modCtx, ite_self, implies_true, modes_mbOp]

@[simp] theorem Block.modes_resumeWrites (b : Block) (ctx done rec_ : Nat) : (b.resumeWrites ctx done rec_).1.modes = b.modes := by
  have h : ∀ q, (((b.ctx ctx).doneQ.filter (fun w => w.kind == 2)).foldl (fun (st : Block × Bool) w =>
      if st.2 then st.1.hostPut (w.addr - (b.ctx ctx).recBase + rec_) w.data else st) (b, true)) = q → q.1.modes = b.modes := by
    rintro q rfl
    refine modes_foldl_fst _ (fun st w => ?_) _ _
    rw [apply_ite Prod.fst, modes_ite, modes_hostPut, ite_self]
  rw [resumeWrites]
  generalize List.foldl _ _ _ = q at h
  rw [apply_ite Prod.fst, modes_ite, modes_hostPut, h _ rfl, ite_self]

@[simp] theorem Block.modes_ctxResume (b : Block) (page : Nat) : (b.ctxResume page).modes = b.modes := by
  simp only [ctxResume, modes_ite, modes_mbReply, modes_resumeWrites, modes_raiseVector, modes_modCtx, ite_self, implies_true, modes_mbOp]

theorem Block.modes_askedAbort (b c : Block) (ctx p page) (h : b.askedAbort ctx p page = some c) : c.modes = b.modes := by
  unfold askedAbort at h
  dsimp only at h
  (repeat' split at h) <;> cases h <;> simp only [modes_acceptAbort, modes_dropStep, modes_abortCtx]

@[simp] theorem Block.modes_ctxAbort (b : Block) (page : Nat) : (b.ctxAbort page).modes = b.modes := by
  refine modes_mbOp _ _ _ _ fun b m => ?_
  dsimp only
  split
  · exact modes_mbReply ..
  · split
    · exact modes_mbReply ..
    · next h => rw [modes_mbBusy, modes_askedAbort _ _ _ _ _ h]

@[simp] theorem Block.modes_ctxInfo (b : Block) (page : Nat) : (b.ctxInfo page).modes = b.modes := by
  simp only [ctxInfo, modes_ite, modes_mbReply, ite_self, implies_true, modes_mbOp]

@[simp] theorem Block.modes_tuneOpen (b : Block) (page : Nat) : (b.tuneOpen page).modes = b.modes := by
  simp only [tuneOpen, modes_ite, modes_mbReply, modes_modCtx, ite_self, implies_true, modes_mbOp]

@[simp] theorem Block.modes_tuneClose (b : Block) (page : Nat) : (b.tuneClose page).modes = b.modes := by
  simp only [tuneClose, modes_ite, modes_mbReply, modes_modCtx, ite_self, implies_true, modes_mbOp]

@[simp] theorem Block.modes_placeRing (b : Block) (pa log2 mode : Nat) : (b.placeRing pa log2 mode).1.modes = b.modes := by
  simp only [placeRing]
  split <;> simp only [modes_dramWrite, modes_hostPut]

@[simp] theorem Block.modes_traceRingConfig (b : Block) (page : Nat) : (b.traceRingConfig page).modes = b.modes := by
  simp only [traceRingConfig, modes_ite, modes_mbReply, modes_setRing, modes_emitEach, modes_traceMoved, modes_placeRing, ite_self,
    implies_true, modes_mbOp]

end Sys2Proof.Machine
end

section
/-!
The module-wide states through the Rim controller, the security island and power.
-/
namespace Sys2Proof.Machine

theorem Block.modes_modRim (b : Block) (f : Rim → Rim) (hf : ∀ t, (f t).state = t.state) : (b.modRim f).modes = b.modes := by
  simp only [modes, modRim, hf]

@[simp] theorem Block.modes_rimOut (b : Block) (m : List Byte) : (b.rimOut m).modes = b.modes := by
  simp only [rimOut, implies_true, modes_modRim]

@[simp] theorem Block.modes_rimOk (b : Block) (d : List Byte) : (b.rimOk d).modes = b.modes := by
  simp only [rimOk, modes_rimOut]

@[simp] theorem Block.modes_rimNo (b : Block) (reason : Nat) : (b.rimNo reason).modes = b.modes := by
  simp only [rimNo, modes_rimOut]

@[simp] theorem Block.modes_rimStatus (b : Block) : b.rimStatus.modes = b.modes := by
  simp only [rimStatus, modes_ite, modes_rimOk, ite_self]

@[simp] theorem Block.modes_logInfo (b : Block) : b.logInfo.modes = b.modes := by
  simp only [logInfo, modes_ite, modes_rimOk, ite_self]

@[simp] theorem Block.modes_logRead (b : Block) (seq : Nat) : (b.logRead seq).modes = b.modes := by
  simp only [logRead, modes_ite, modes_rimOk, ite_self]

@[simp] theorem Block.modes_logProgrammed (b : Block) : b.logProgrammed.modes = b.modes := by
  simp only [logProgrammed, modes_ite]
  (repeat' split) <;> simp only [implies_true, modes_modRim, modes_rimLog]

@[simp] theorem Block.modes_watchdogSet (b : Block) (mask ms : Nat) : (b.watchdogSet mask ms).modes = b.modes := by
  simp only [watchdogSet, modes_ite, modes_rimNo, modes_rimOk, modes_rimLog, modes_modPart, ite_self, implies_true, modes_foldl]

@[simp] theorem Block.modes_partitionReset (b : Block) (part : Nat) : (b.partitionReset part).modes = b.modes := by
  simp only [partitionReset, modes_ite, modes_rimNo, modes_resetBegin, modes_rimOk, modes_rimLog, ite_self]

@[simp] theorem Block.modes_mgmtRingSet (b : Block) (inbound outbound vector : Nat) :
    (b.mgmtRingSet inbound outbound vector).modes = b.modes := by
  simp only [mgmtRingSet, modes_ite, modes_rimNo, modes_rimOk, implies_true, modes_modRim, ite_self]

@[simp] theorem Block.modes_mgmtFail (b : Block) : b.mgmtFail.modes = b.modes := by
  simp only [mgmtFail, implies_true, modes_modRim]

@[simp] theorem Block.modes_mgmtWrite (b : Block) (p : List Byte) : (b.mgmtWrite p).modes = b.modes := by
  simp only [mgmtWrite]
  split <;> simp only [modes_ite, implies_true, modes_modRim, modes_hostPut, modes_mgmtFail, ite_self]

@[simp] theorem Block.modes_mgmtRead (b : Block) (n : Nat) : (b.mgmtRead n).modes = b.modes := by
  induction n generalizing b with
  | zero => rfl
  | succ n ih =>
    unfold mgmtRead
    split
    · rfl
    · dsimp only
      split
      · rw [modes_mgmtFail, modes_hostError]
      · split
        · rfl
        · rw [ih]
          exact modes_modRim _ _ fun _ => rfl

@[simp] theorem Block.modes_mgmtRingPoll (b : Block) : b.mgmtRingPoll.modes = b.modes := by
  unfold mgmtRingPoll
  split
  · rfl
  · dsimp only
    split
    · exact modes_mgmtRead ..
    · have h := modes_foldl Block.mgmtWrite (fun b p => modes_mgmtWrite b p)
      have hr (b : Block) (n : Rim → Nat) : (b.modRim (fun r => { r with carried := n r })).modes = b.modes := modes_modRim _ _ fun _ => rfl
      rw [modes_ite]
      split
      · exact modes_mgmtRead ..
      · simp only [modes_ite, modes_raiseVector, hr, h, modes_mgmtRead, ite_self]

@[simp] theorem Block.modes_clampSet (b : Block) (cause level : Nat) : (b.clampSet cause level).modes = b.modes := by
  simp only [clampSet, modes_ite, modes_setPoints, implies_true, modes_foldl, modes_with, modes_rimLog, modes_withPower, ite_self]

@[simp] theorem Block.modes_threshold (b : Block) (id which : Nat) (reading : Int) : (b.threshold id which reading).modes = b.modes := by
  simp only [threshold, modes_ite, modes_rimLog, modes_rimOut, ite_self]

@[simp] theorem Block.modes_dimmReading (b : Block) (part : Nat) (r : Int) : (b.dimmReading part r).modes = b.modes := by
  simp only [dimmReading, modes_ite, modes_modChan, modes_emit, ite_self, implies_true, modes_foldl]

@[simp] theorem Block.modes_sensorSample (b : Block) (id : Nat) (reading : Int) (isOpen : Bool) :
    (b.sensorSample id reading isOpen).modes = b.modes := by
  simp only [sensorSample, modes_ite, modes_clampSet, modes_dimmReading, modes_rimLog, implies_true, modes_modRim, ite_self,
    modes_threshold]

@[simp] theorem Block.modes_clamp (b : Block) (cause level : Nat) : (b.clamp cause level).modes = b.modes := by
  simp only [clamp, modes_ite, modes_clampSet, ite_self]

@[simp] theorem Block.modes_clampRelease (b : Block) (cause level : Nat) : (b.clampRelease cause level).modes = b.modes := by
  simp only [clampRelease, modes_ite, modes_clampSet, ite_self]

@[simp] theorem Block.modes_pldmPlatform (b : Block) (r : PldmReq) : (b.pldmPlatform r).modes = b.modes := by
  simp only [pldmPlatform]
  split <;> simp only [modes_ite, modes_rimOut, ite_self, implies_true, modes_modRim]

@[simp] theorem Block.modes_updateLog (b : Block) (stage reason : Nat) : (b.updateLog stage reason).modes = b.modes := by
  simp only [updateLog, modes_rimLog]

@[simp] theorem Block.modes_requestUpdate (b : Block) (len : Nat) : (b.requestUpdate len).modes = b.modes := by
  simp only [requestUpdate, modes_ite, modes_rimOut]
  (repeat' split) <;> simp only [modes_rimOut, implies_true, modes_modRim]

@[simp] theorem Block.modes_updateTo (b : Block) (u : Update) (stage : Nat) : (b.updateTo u stage).modes = b.modes := by
  simp only [updateTo, implies_true, modes_modRim, modes_updateLog]

@[simp] theorem Block.modes_updateFails (b : Block) (u : Update) (reason : Nat) : (b.updateFails u reason).modes = b.modes := by
  simp only [updateFails, modes_updateLog, implies_true, modes_modRim]

@[simp] theorem Block.modes_updateStageEnd (b : Block) (image : List Byte) : (b.updateStageEnd image).modes = b.modes := by
  simp only [updateStageEnd]
  (repeat' split) <;> simp only [modes_updateTo, modes_updateFails, implies_true, modes_modRim, modes_rimOut, modes_updateLog]

theorem Block.modes_modSec (b : Block) (f : Sec → Sec) (hf : ∀ t, (f t).state = t.state) : (b.modSec f).modes = b.modes := by
  simp only [modes, modSec, hf]

@[simp] theorem Block.modes_secLog (b : Block) (code arg : Nat) : (b.secLog code arg).modes = b.modes := by
  simp only [secLog, modes_log, modes_stamp, modes_cross]

@[simp] theorem Block.modes_attestQueue (b : Block) (page : Option Nat) (tag : Nat) (nonce : List Byte) (addr len : Nat) :
    (b.attestQueue page tag nonce addr len).modes = b.modes := by
  simp only [attestQueue, implies_true, modes_modSec]

@[simp] theorem Block.modes_attest (b : Block) (page : Nat) : (b.attest page).modes = b.modes := by
  simp only [attest, modes_ite, modes_mbReply, modes_attestQueue, ite_self, implies_true, modes_mbOp]

@[simp] theorem Block.modes_attestDeliver (b : Block) (a : Attest) (rep : List Byte) : (b.attestDeliver a rep).modes = b.modes := by
  simp only [attestDeliver]
  split <;> simp only [modes_rimOut, modes_ite, modes_mbNotice, modes_bufWrite, ite_self]

@[simp] theorem Block.modes_attestWritten (b : Block) : b.attestWritten.modes = b.modes := by
  simp only [attestWritten, modes_ite]
  (repeat' split) <;> simp only [modes_attestDeliver, implies_true, modes_modSec, modes_feGate]

@[simp] theorem Block.modes_identityRead (b : Block) (page : Nat) : (b.identityRead page).modes = b.modes := by
  simp only [identityRead, modes_ite, modes_mbReply, modes_bufWrite, ite_self, implies_true, modes_mbOpAt]

@[simp] theorem Block.modes_challengeIssue (b : Block) (page : Nat) : (b.challengeIssue page).modes = b.modes := by
  simp only [challengeIssue, modes_ite, modes_mbReply, implies_true, modes_modSec, modes_draw, ite_self, modes_mbOpIf]

@[simp] theorem Block.modes_zeroiseStores (b : Block) : b.zeroiseStores.modes = b.modes := by
  simp only [zeroiseStores, modes_buildEnd, modes_modFirn]
  split <;> simp only [modes_ite, modes_installFailed, modes_firnNotice, modes_firnOver, ite_self]

@[simp] theorem Block.modes_vendorRequest (b : Block) (nonce : List Byte) : (b.vendorRequest nonce).modes = b.modes := by
  simp only [vendorRequest, modes_ite, modes_rimOut, modes_attestQueue, ite_self]

theorem Block.modes_modPower (b : Block) (f : Power → Power) (hf : ∀ t, (f t).state = t.state) : (b.modPower f).modes = b.modes := by
  simp only [modes, modPower, hf]

@[simp] theorem Block.modes_senseOpen (b : Block) (rail : Nat) : (b.senseOpen rail).modes = b.modes := by
  simp only [senseOpen, modes_ite, modes_rimLog, implies_true, modes_modPower, ite_self]

@[simp] theorem Block.modes_startDisable (b : Block) (part : Nat) : (b.startDisable part).modes = b.modes := by
  simp only [startDisable, modes_ite, modes_disable, implies_true, modes_modRim, ite_self]

@[simp] theorem Block.modes_pmicFault (b : Block) (ch status : Nat) : (b.pmicFault ch status).modes = b.modes := by
  simp only [pmicFault, modes_ite, modes_emit, modes_rimLog, implies_true, modes_modPower, modes_failReset, ite_self, modes_resetBegin,
    modes_startDisable]

@[simp] theorem Block.modes_channelTrained (b : Block) (ch why : Nat) : (b.channelTrained ch why).modes = b.modes := by
  simp only [channelTrained, modes_emit, modes_modChan]

@[simp] theorem Block.modes_trainDone (b : Block) (ch : Nat) (ok : Bool) : (b.trainDone ch ok).modes = b.modes := by
  simp only [trainDone, modes_ite, modes_channelTrained, modes_startDisable, modes_modChan, modes_emit, ite_self, modes_clearNew,
    modes_failReset]

@[simp] theorem Block.modes_stepEnds (b : Block) (n : Nat) (ok : Bool) (next : Nat) : (b.stepEnds n ok next).modes = b.modes := by
  simp only [stepEnds, implies_true, modes_modPower, modes_rimLog]

@[simp] theorem Block.modes_advanceFloor (b : Block) : b.advanceFloor.modes = b.modes := by
  simp only [advanceFloor, modes_ite, modes_secLog, implies_true, modes_modSec, ite_self]

@[simp] theorem Block.modes_upTrain (b : Block) (ok : Bool) : (b.upTrain ok).modes = b.modes := by
  simp only [upTrain, modes_stepEnds, modes_ite, modes_newKeys, ite_self, implies_true, modes_foldl, modes_startDisable]

@[simp] theorem Block.modes_checkModel (b : Block) (ok : Bool) (m : Nat) : (b.checkModel ok m).modes = b.modes := by
  simp only [checkModel]
  split <;> simp only [modes_dirCommit, modes_modFirn, modes_eraseExtents, modes_finishRemoval, modes_ite, modes_modelState,
    modes_tagRegions, ite_self]

@[simp] theorem Block.modes_upFirn (b : Block) (ok : Bool) : (b.upFirn ok).modes = b.modes := by
  simp only [upFirn, modes_stepEnds, modes_checkModel, implies_true, modes_foldl, modes_draw, modes_modFirn]

@[simp] theorem Block.modes_upGetis (b : Block) (ok : Bool) : (b.upGetis ok).modes = b.modes := by
  simp only [upGetis, modes_stepEnds, modes_ite, modes_startDisable, implies_true, modes_foldl, modes_draw, ite_self]

@[simp] theorem Block.modes_scalarOp (b : Block) (core op : Nat) (f : W64 → W64 → W64) : (b.scalarOp core op f).modes = b.modes := by
  simp only [scalarOp, modes_issued, implies_true, modes_issue]

@[simp] theorem Block.modes_ldp (b : Block) (core : Nat) : (b.ldp core).modes = b.modes := by
  simp only [ldp, modes_ite, modes_preciseStop, modes_issued, ite_self, implies_true, modes_issue]

@[simp] theorem Block.modes_lidx (b : Block) (core : Nat) : (b.lidx core).modes = b.modes := by
  refine modes_issue _ _ _ _ fun r => ?_
  dsimp only
  (repeat' split) <;> simp only [modes_preciseStop, modes_issued]

end Sys2Proof.Machine
end

section
/-!
The operations that change a module-wide state: each leaves them among those the manual names.
-/
namespace Sys2Proof.Machine
open Block

/-- The states are among those the manual names, and the keeper within its 64 bits. -/
structure Modes.Legal (m : Modes) : Prop where
  keeper : m.keeper ≤ timeEnd
  time   : m.time ≤ 3
  treleb : m.treleb ≤ 3
  power  : m.power ≤ 4
  rim    : m.rim ≤ 4
  sec    : m.sec ≤ 2
  domain : m.domain ≤ 5

theorem Block.legal_iff (b : Block) : b.Legal ↔ b.modes.Legal :=
  ⟨fun ⟨a, b, c, d, e, f, g⟩ => ⟨a, b, c, d, e, f, g⟩, fun ⟨a, b, c, d, e, f, g⟩ => ⟨a, b, c, d, e, f, g⟩⟩

namespace Modes.Legal

variable {m : Modes} {st : Nat}

theorem withTime (h : m.Legal) (hs : st ≤ 3) : Legal { m with time := st } := { h with time := hs }

theorem withTreleb (h : m.Legal) (hs : st ≤ 3) : Legal { m with treleb := st } := { h with treleb := hs }

theorem withPower (h : m.Legal) (hs : st ≤ 4) : Legal { m with power := st } := { h with power := hs }

theorem withRim (h : m.Legal) (hs : st ≤ 4) : Legal { m with rim := st } := { h with rim := hs }

theorem withSec (h : m.Legal) (hs : st ≤ 2) : Legal { m with sec := st } := { h with sec := hs }

theorem withDomain (h : m.Legal) (hs : st ≤ 5) : Legal { m with domain := st } := { h with domain := hs }

end Modes.Legal

section
variable (b : Block)

@[simp] theorem Block.modes_linkState (st w : Nat) : (b.linkState st w).modes = { b.modes with treleb := st } := modes_emit ..

@[simp] theorem Block.modes_timeState (st : Nat) : (b.timeState st).modes = { b.modes with time := st } := by
  unfold timeState
  dsimp only
  split
  · next h => rw [← h]; rfl
  · exact modes_emit ..

@[simp] theorem Block.modes_domainState (st : Nat) : (b.domainState st).modes = { b.modes with domain := st } := by
  rw [domainState, modes_mbNotice, modes_emit]; rfl

@[simp] theorem Block.modes_powerState (st c : Nat) : (b.powerState st c).modes = { b.modes with power := st } := by
  rw [powerState, modes_rimLog]; rfl

@[simp] theorem Block.modes_stopAll : b.stopAll.modes = { b.modes with treleb := 0 } := by
  have h := b.modes_updateLost
  rw [stopAll]
  exact congrArg (fun m => { m with treleb := 0 }) h

@[simp] theorem Block.modes_coldPackage : b.coldPackage.modes = ⟨0, 0, 0, b.power.state, b.rim.state, b.sec.state, 0⟩ := rfl

end

theorem Time.keeper_pass (t : Time) (n : Nat) : (t.pass n).keeper = min (t.keeper + n) timeEnd := by
  unfold pass
  dsimp only
  split <;> rfl

theorem Time.state_pass (t : Time) (n : Nat) : (t.pass n).state = t.state := by
  unfold pass
  dsimp only
  split <;> rfl

theorem Block.legal_ite {p : Prop} [Decidable p] {x y : Block} (hx : x.modes.Legal) (hy : y.modes.Legal) :
    (if p then x else y).modes.Legal := by
  split
  · exact hx
  · exact hy

section
variable {b : Block} (h : b.modes.Legal)
include h

theorem Block.legal_advanceTo (t : Nat) : (b.advanceTo t).modes.Legal :=
  { h with
    keeper := (Time.keeper_pass ..).trans_le (Nat.min_le_right ..)
    time := (Time.state_pass ..).trans_le h.time }

theorem Block.legal_modTime (f : Time → Time)
    (hf : ∀ t : Time, t.keeper ≤ timeEnd → t.state ≤ 3 → (f t).keeper ≤ timeEnd ∧ (f t).state ≤ 3 := by exact fun _ hk hs => ⟨hk, hs⟩) :
    (b.modTime f).modes.Legal :=
  { h with keeper := (hf _ h.keeper h.time).1, time := (hf _ h.keeper h.time).2 }

theorem Block.legal_modTreleb (f : Treleb → Treleb) (hf : ∀ t : Treleb, t.state ≤ 3 → (f t).state ≤ 3 := by exact fun _ h => h) :
    (b.modTreleb f).modes.Legal :=
  { h with treleb := hf _ h.treleb }

theorem Block.legal_modRim (f : Rim → Rim) (hf : ∀ r : Rim, r.state ≤ 4 → (f r).state ≤ 4 := by exact fun _ h => h) :
    (b.modRim f).modes.Legal :=
  { h with rim := hf _ h.rim }

theorem Block.legal_modSec (f : Sec → Sec) (hf : ∀ x : Sec, x.state ≤ 2 → (f x).state ≤ 2 := by exact fun _ h => h) :
    (b.modSec f).modes.Legal :=
  { h with sec := hf _ h.sec }

theorem Block.legal_modPower (f : Power → Power) (hf : ∀ p : Power, p.state ≤ 4 → (f p).state ≤ 4 := by exact fun _ h => h) :
    (b.modPower f).modes.Legal :=
  { h with power := hf _ h.power }

theorem Block.legal_modDomain (f : Domain → Domain) (hf : ∀ d : Domain, d.state ≤ 5 → (f d).state ≤ 5 := by exact fun _ h => h) :
    (b.modDomain f).modes.Legal :=
  { h with domain := hf _ h.domain }

theorem Block.legal_timeState {st : Nat} (hs : st ≤ 3) : (b.timeState st).modes.Legal := by
  rw [modes_timeState]
  exact h.withTime hs

theorem Block.legal_domainState {st : Nat} (hs : st ≤ 5) : (b.domainState st).modes.Legal := by
  rw [modes_domainState]
  exact h.withDomain hs

theorem Block.legal_linkState {st : Nat} (hs : st ≤ 3) (w : Nat) : (b.linkState st w).modes.Legal := by
  rw [modes_linkState]
  exact h.withTreleb hs

theorem Block.legal_powerState {st : Nat} (hs : st ≤ 4) (c : Nat) : (b.powerState st c).modes.Legal := by
  rw [modes_powerState]
  exact h.withPower hs

theorem Block.legal_stopAll : b.stopAll.modes.Legal := by
  rw [modes_stopAll]
  exact h.withTreleb (Nat.zero_le _)

theorem Block.legal_creditTimeout (core ctx) : (b.creditTimeout core ctx).modes.Legal := by
  unfold creditTimeout
  split
  · exact h
  · rw [modes_modCore]
    exact legal_advanceTo h _

theorem Block.legal_snoopTimeout (line) : (b.snoopTimeout line).modes.Legal := by
  unfold snoopTimeout
  split
  · exact h
  · rw [modes_rerunWaiting, modes_emit]
    refine legal_modTreleb ?_ _
    rw [modes_dropSnoop]
    exact legal_advanceTo h _

theorem Block.legal_completionTimeout (tag) : (b.completionTimeout tag).modes.Legal := by
  unfold completionTimeout
  cases b.req? tag with
  | none => exact h
  | some r =>
    have ht : (((b.advanceTo (r.at_ + 50000000)).retireReq tag).modTreleb (·.errBit 6)).modes.Legal := by
      refine legal_modTreleb ?_ _
      rw [modes_retireReq]
      exact legal_advanceTo h _
    dsimp only
    split
    · exact h
    · exact h
    · exact h
    · exact h
    · rw [modes_reqFailed]
      exact ht

theorem Block.legal_intrFailed (tag) : (b.intrFailed tag).modes.Legal := by
  unfold intrFailed
  cases b.req? tag with
  | none => exact h
  | some r =>
    dsimp only
    split
    · rw [modes_intrDropped]
      refine legal_modTreleb ?_ _
      rw [modes_retireReq]
      exact legal_advanceTo h _
    · exact h

theorem Block.legal_trained (failed reversed) : (b.trained failed reversed).modes.Legal := by
  unfold trained
  extract_lets w c d
  have hc : c.modes.Legal := legal_modTreleb h _
  have hd : d.modes.Legal := by
    unfold d
    split
    · exact legal_modTreleb hc _
    · exact hc
  split
  · exact legal_linkState hd (by decide) _
  · exact legal_linkState hd (by decide) _

theorem Block.legal_linkTrainingEnd (failed reversed) : (b.linkTrainingEnd failed reversed).modes.Legal := by
  unfold linkTrainingEnd
  split
  · exact h
  · exact legal_trained h ..

theorem Block.legal_linkRetrain : b.linkRetrain.modes.Legal := by
  unfold linkRetrain
  split
  · exact h
  · exact legal_linkState (legal_advanceTo h _) (by decide) _

theorem Block.legal_recovery : b.recovery.modes.Legal := by
  unfold recovery
  split
  · exact h
  · exact legal_linkState (legal_modTreleb h _) (by decide) _

theorem Block.legal_linkDown : b.linkDown.modes.Legal := by
  unfold linkDown
  dsimp only
  rw [modes_rerunWaiting, modes_foldl _ fun _ _ => modes_reqFailed .., modes_foldl _ fun _ _ => modes_modPart ..]
  exact legal_modTreleb (legal_linkState h (by decide) _) _

theorem Block.legal_recoveryEnd (failed reversed) : (b.recoveryEnd failed reversed).modes.Legal := by
  unfold recoveryEnd
  split
  · exact h
  · split
    · exact legal_linkDown (legal_modTreleb h _)
    · exact legal_modTreleb (legal_trained h ..) _

theorem Block.legal_hostNoResponse (stream) : (b.hostNoResponse stream).modes.Legal := by
  unfold hostNoResponse
  dsimp only
  generalize (if stream < 64 then _ else _ : Park) = park
  split
  · rw [modes_fault, modes_retireReq]
    exact legal_advanceTo h _
  · split
    · exact h
    · split
      · rw [modes_frontAnswer, modes_retireReq]
        exact legal_advanceTo h _
      · rw [modes_retireReq]
        exact legal_advanceTo h _

theorem Block.legal_faultBatchClose : b.faultBatchClose.modes.Legal := by
  unfold faultBatchClose
  dsimp only
  split
  · rw [modes_ite]
    split
    · exact h
    · rw [modes_closeBatch, modes_ite]
      split
      · exact legal_advanceTo h _
      · exact h
  · exact h

theorem Block.legal_encTimeout (i) : (b.encTimeout i).modes.Legal := by
  unfold encTimeout
  split
  · exact h
  · exact legal_advanceTo h _

theorem Block.legal_groupExpired (i) : (b.groupExpired i).modes.Legal := by
  unfold groupExpired
  split
  · exact h
  · simp only [modes_emit]
    exact legal_advanceTo h _

theorem Block.legal_retryResend (core reqId) : (b.retryResend core reqId).modes.Legal := by
  unfold retryResend
  split
  · exact h
  · split
    · exact h
    · simp only [modes_foldl, modes_transmit, modes_modCore, implies_true]
      exact legal_advanceTo h _

theorem Block.legal_remoteTimeout (core reqId) : (b.remoteTimeout core reqId).modes.Legal := by
  unfold remoteTimeout
  split
  · exact h
  · dsimp only
    split <;> simp only [modes_failDesc, modes_cross, modes_emit, modes_modCore] <;> exact legal_advanceTo h _

theorem Block.legal_retryExhausted (port) : (b.retryExhausted port).modes.Legal := by
  unfold retryExhausted
  dsimp only
  split
  · exact h
  · rw [modes_portDown]
    exact legal_advanceTo h _

theorem Block.legal_timeMessageSend : b.timeMessageSend.modes.Legal := by
  unfold timeMessageSend
  split
  · exact h
  · simp only [modes_sendTime, modes_modTime, and_self, implies_true]
    exact legal_advanceTo h _

theorem Block.legal_timeAccept (port t) : (b.timeAccept port t).modes.Legal := by
  unfold timeAccept
  dsimp only
  split
  · refine legal_timeState (legal_modTime h _) ?_
    split <;> decide
  · split
    · refine legal_timeState ?_ (by decide)
      rw [modes_ite, modes_emit, ite_self]
      exact legal_modTime h _ (by exact fun _ _ hs => ⟨Nat.min_le_right .., hs⟩)
    · refine legal_timeState (legal_modTime h _) ?_
      split <;> decide

theorem Block.legal_masterLost : b.masterLost.modes.Legal := by
  unfold masterLost
  split
  · exact h
  · refine legal_domainState ?_ (by decide)
    rw [modes_emit]
    exact legal_modTime (legal_timeState (legal_advanceTo h _) (by decide)) _

theorem Block.legal_timeDistribution : b.timeDistribution.modes.Legal := by
  unfold timeDistribution
  split
  · exact h
  · exact legal_advanceTo h _

theorem Block.legal_portRetrain (port) : (b.portRetrain port).modes.Legal := by
  unfold portRetrain
  dsimp only
  split
  · exact h
  · rw [modes_modPort]
    exact legal_advanceTo h _

theorem Block.legal_noDomain : b.noDomain.modes.Legal := h.withDomain (st := 0) (by decide)

theorem Block.legal_becomeMaster (p tag) : (b.becomeMaster p tag).modes.Legal := by
  unfold becomeMaster
  dsimp only
  rw [modes_foldl _ fun _ _ => modes_sendAssign ..]
  refine legal_domainState (legal_timeState ?_ (by decide)) (by decide)
  rw [modes_applyTopology]
  exact legal_modDomain h _ (by exact fun _ _ => Nat.zero_le _)

theorem Block.legal_takeOver : b.takeOver.modes.Legal := by
  unfold takeOver
  dsimp only
  rw [modes_foldl _ fun _ _ => modes_sendAssign ..]
  exact legal_domainState (legal_timeState (legal_modDomain h _) (by decide)) (by decide)

theorem Block.legal_domainReady : b.domainReady.modes.Legal := by
  unfold domainReady
  dsimp only
  split
  · exact h
  · refine legal_domainState (legal_modDomain ?_ _) (by decide)
    split
    · exact legal_advanceTo h _
    · exact h

theorem Block.legal_groupUnreachable : b.groupUnreachable.modes.Legal := by
  unfold groupUnreachable
  split
  · exact h
  · simp only [modes_mbFinish, modes_modDomain, implies_true]
    exact legal_advanceTo h _

theorem Block.legal_marginScan : b.marginScan.modes.Legal := by
  unfold marginScan
  split
  · exact h
  · rw [modes_modFirn, modes_ite]
    split
    · exact h
    · exact legal_advanceTo h _

theorem Block.legal_cadenceTick (ctx) : (b.cadenceTick ctx).modes.Legal := by
  unfold cadenceTick
  split
  · rw [modes_openStep]
    exact legal_advanceTo h _
  · exact h

theorem Block.legal_deadlinePassed (ctx) : (b.deadlinePassed ctx).modes.Legal := by
  unfold deadlinePassed
  split
  · rw [modes_dropStep]
    exact legal_advanceTo h _
  · exact h

theorem Block.legal_tileResetRelease (part) : (b.tileResetRelease part).modes.Legal := by
  unfold tileResetRelease
  dsimp only
  split
  · exact h
  · simp only [modes_emitEach, modes_modPart, modes_zeroIslands, modes_zeroTile, modes_dropRecords]
    exact legal_advanceTo h _

theorem Block.legal_resetFailed (part) : (b.resetFailed part).modes.Legal := by
  unfold resetFailed
  split
  · exact h
  · rw [modes_failReset]
    exact legal_advanceTo h _

theorem Block.legal_watchdog (part engine) : (b.watchdog part engine).modes.Legal := by
  unfold watchdog
  split
  · exact h
  · generalize List.foldl _ _ _ = o
    split
    · exact h
    · simp only [modes_resetBegin, modes_modPart, modes_emit]
      exact legal_advanceTo h _

theorem Block.legal_heartbeatLost (part) : (b.heartbeatLost part).modes.Legal := by
  unfold heartbeatLost
  split
  · exact h
  · rw [modes_resetBegin, modes_resetTrace]
    exact legal_advanceTo h _

theorem Block.legal_halt_ (cause) : (b.halt_ cause).modes.Legal := by
  unfold halt_
  split
  · exact h
  · refine Modes.Legal.withRim (legal_stopAll ?_) (st := 3) (by decide)
    rw [modes_emit]
    exact h

theorem Block.legal_abortEscalate (id) : (b.abortEscalate id).modes.Legal := by
  unfold abortEscalate
  split
  · exact h
  · rw [modes_resetBegin]
    exact legal_advanceTo h _

theorem Block.legal_coldPackage : b.coldPackage.modes.Legal :=
  ⟨Nat.zero_le _, Nat.zero_le _, Nat.zero_le _, h.power, h.rim, h.sec, Nat.zero_le _⟩

theorem Block.legal_startUp (why) : (b.startUp why).modes.Legal := by
  have hu : b.updateLost.modes.Legal := b.modes_updateLost ▸ h
  unfold startUp
  dsimp only
  refine legal_powerState ?_ (by decide) _
  exact { legal_coldPackage hu with rim := Nat.zero_le _, sec := Nat.zero_le _ }

theorem Block.legal_moduleReset (force) : (b.moduleReset force).modes.Legal := by
  unfold moduleReset
  split
  · exact h
  · split
    · rw [modes_rimNo]
      exact h
    · refine legal_startUp ?_ _
      rw [modes_rimOk, modes_rimLog]
      exact h

theorem Block.legal_recoveryUpdate (image) : (b.recoveryUpdate image).modes.Legal := by
  unfold recoveryUpdate
  split
  · exact h
  · dsimp only
    split
    · rw [modes_rimOut, modes_updateLog]
      exact h
    · refine legal_startUp ?_ _
      rw [modes_rimOut, modes_rimLog, modes_updateLog]
      exact h

theorem Block.legal_rimLockstep : b.rimLockstep.modes.Legal := by
  unfold rimLockstep
  split
  · exact h
  · exact legal_modRim (by rw [modes_updateLost]; exact h) _ (by exact fun _ _ => Nat.le_refl 4)

theorem Block.legal_rimStart : b.rimStart.modes.Legal := by
  unfold rimStart
  split
  · exact h
  · rw [modes_rimLog, modes_rimLog]
    refine legal_modRim h _ (by intro _ _; dsimp only; split <;> decide)

theorem Block.legal_selfTestFails (test) : (b.selfTestFails test).modes.Legal := by
  unfold selfTestFails
  refine legal_halt_ ?_ _
  rw [modes_draw]
  refine legal_modSec ?_ _ (by exact fun _ _ => Nat.le_refl 2)
  rw [modes_foldl _ fun _ _ => modes_modPart .., modes_secLog]
  exact h

theorem Block.legal_drbgReseed (ok) : (b.drbgReseed ok).modes.Legal := by
  unfold drbgReseed
  split
  · exact h
  · split
    · exact h
    · exact legal_selfTestFails h _

theorem Block.legal_inputApplied (mv) : (b.inputApplied mv).modes.Legal := by
  unfold inputApplied
  split
  · exact h
  · exact legal_startUp (legal_modPower h _) _

theorem Block.legal_powerOff : b.powerOff.modes.Legal :=
  { legal_coldPackage h with power := Nat.zero_le _, rim := Nat.zero_le _, sec := Nat.zero_le _ }

theorem Block.legal_protectedOff (cause) : (b.protectedOff cause).modes.Legal := by
  unfold protectedOff
  dsimp only
  exact legal_powerState (legal_modPower (legal_stopAll h) _) (by decide) _

theorem Block.legal_railFault (rail kind reading) : (b.railFault rail kind reading).modes.Legal := by
  unfold railFault
  dsimp only
  split
  · exact h
  · refine legal_modPower (legal_protectedOff ?_ _) _
    rw [modes_rimLog]
    exact h

theorem Block.legal_startHalt : b.startHalt.modes.Legal :=
  legal_modRim (legal_stopAll h) _ (by exact fun _ _ => (by decide : 3 ≤ 4))

theorem Block.legal_upRom (ok) : (b.upRom ok).modes.Legal := by
  unfold upRom
  split
  · rw [modes_stepEnds]
    exact legal_modSec (legal_modRim h _) _ (by exact fun _ _ => (by decide : 1 ≤ 2))
  · dsimp only
    refine legal_startHalt (legal_modSec ?_ _ (by exact fun _ _ => Nat.le_refl 2))
    rw [modes_secLog, modes_draw, modes_stepEnds]
    exact h

theorem Block.legal_upImage (ok) : (b.upImage ok).modes.Legal := by
  unfold upImage
  split
  · refine legal_powerState ?_ (by decide) _
    rw [modes_stepEnds, modes_advanceFloor]
    exact legal_modRim h _
  · rw [modes_rimLog]
    refine legal_modRim ?_ _ (by exact fun _ _ => (by decide : 1 ≤ 4))
    rw [modes_stepEnds]
    exact h

theorem Block.legal_upRails (ok) : (b.upRails ok).modes.Legal := by
  unfold upRails
  split
  · refine legal_powerState (legal_modPower ?_ _) (by decide) _
    rw [modes_stepEnds]
    exact h
  · dsimp only
    refine legal_protectedOff ?_ _
    rw [modes_stepEnds, modes_rimLog, modes_draw, modes_draw]
    exact h

theorem Block.legal_upHub (ok) : (b.upHub ok).modes.Legal := by
  unfold upHub
  split
  · refine legal_startHalt ?_
    rw [modes_stepEnds]
    exact h
  · rw [modes_stepEnds]
    exact { h with keeper := Nat.zero_le _, time := Nat.zero_le _, treleb := (by decide : 1 ≤ 3) }

theorem Block.legal_upReady : b.upReady.modes.Legal := by
  unfold upReady
  dsimp only
  rw [modes_mbDrain, modes_foldl _ fun _ _ => modes_setPoints ..]
  refine legal_modPower ?_ _
  rw [modes_stepEnds, modes_rimLog]
  refine legal_modRim ?_ _ (by exact fun _ _ => (by decide : 2 ≤ 4))
  rw [modes_foldl]
  · exact h
  · exact fun c p => (modes_modRim _ _ fun _ => rfl).trans (modes_modPart ..)

theorem Block.legal_powerUpStep (ok) : (b.powerUpStep ok).modes.Legal := by
  unfold powerUpStep
  split
  · exact legal_upRom h _
  · exact legal_upImage h _
  · exact legal_upRails h _
  · exact legal_upHub h _
  · rw [modes_upTrain]; exact h
  · rw [modes_upFirn]; exact h
  · rw [modes_upGetis]; exact h
  · split
    · exact legal_upReady h
    · exact h
  · exact h

theorem Block.legal_tick : b.tick.modes.Legal := by
  unfold tick
  split
  · exact legal_advanceTo h _
  · exact h

theorem Block.legal_zeroise : b.zeroise.modes.Legal := by
  unfold zeroise
  dsimp only
  rw [modes_foldl]
  · refine legal_advanceTo ?_ _
    rw [modes_zeroiseStores]
    exact h
  · intro b p
    rw [modes_ite, modes_newKeys, modes_resetBegin, modes_modPart, ite_self]

theorem Block.legal_zeroiseFor (page m kind) : (b.zeroiseFor page m kind).modes.Legal := by
  unfold zeroiseFor
  have hz : (b.mbBusy page m [] [0, 1, 2, 3]).zeroise.modes.Legal := legal_zeroise (by rw [modes_mbBusy]; exact h)
  simp only [modes_zeroEnd, modes_modSec, implies_true, modes_ite, modes_secLog, ite_self]
  exact hz

theorem Block.legal_withToken (page m scope) (f : Block → Block) (hf : ∀ c : Block, c.modes.Legal → (f c).modes.Legal) :
    (b.withToken page m scope f).modes.Legal := by
  unfold withToken
  dsimp only
  split
  · rw [modes_mbReply]; exact h
  · split
    · split
      · exact hf _ h
      · rw [modes_mbReply, modes_secLog]; exact h
    · simp only [modes_mbReply, modes_bufMissed]
      exact h

theorem Block.legal_mbOpIf (page op p) (f : Block → List Byte → Block) (hf : ∀ (c : Block) m, c.modes.Legal → (f c m).modes.Legal) :
    (b.mbOpIf page op p f).modes.Legal := by
  unfold mbOpIf
  split
  · exact h
  · rw [modes_ite]
    split
    · rw [modes_mbDrain]
      exact hf _ _ (by rw [modes_mbTake]; exact h)
    · exact h

theorem Block.legal_control (port) (f : Block → Block) (hf : ∀ c : Block, c.modes.Legal → (f c).modes.Legal) :
    (b.control port f).modes.Legal := by
  unfold control
  split
  · exact h
  · exact hf _ (by rw [modes_ctlArrive]; exact h)

theorem Block.legal_zeroiseVolatile (page) : (b.zeroiseVolatile page).modes.Legal := by
  refine legal_mbOpIf h _ _ _ _ fun c m hc => ?_
  split
  · rw [modes_mbReply]; exact hc
  · exact legal_zeroiseFor hc _ _ _

theorem Block.legal_zeroiseDecommission (page) : (b.zeroiseDecommission page).modes.Legal := by
  refine legal_mbOpIf h _ _ _ _ fun c m hc => ?_
  split
  · rw [modes_mbReply]; exact hc
  · exact legal_withToken hc _ _ _ _ fun c hc => legal_zeroiseFor hc _ _ _

theorem Block.legal_debugUnlock (page) : (b.debugUnlock page).modes.Legal := by
  refine legal_mbOpIf h _ _ _ _ fun c m hc => ?_
  split
  · rw [modes_mbReply]; exact hc
  · exact legal_withToken hc _ _ _ _ fun c hc => legal_zeroiseFor hc _ _ _

theorem Block.legal_mbReply (page m st out) : (b.mbReply page m st out).modes.Legal := by
  rw [modes_mbReply]
  exact h

theorem Block.legal_domainConfig (page) : (b.domainConfig page).modes.Legal := by
  refine legal_mbOpIf h _ _ _ _ fun c m hc => ?_
  have no (r) := legal_mbReply hc page m stInvalid [BitVec.ofNat 8 r]
  extract_lets p role tag d no' yes plain resumes e
  refine legal_ite (no 1) (legal_ite (no 1) (legal_ite (no 1) (legal_ite (no 2) (legal_ite (no 3) ?_))))
  clear_value role
  split
  · refine legal_ite (legal_mbReply hc ..) (legal_mbReply (legal_domainState (legal_timeState ?_ (by decide)) (by decide)) ..)
    exact legal_modTime (legal_noDomain hc) _
  · have hd : e.modes.Legal := legal_modDomain hc _ (by exact fun _ _ => Nat.zero_le _)
    refine legal_ite (legal_mbReply hc ..) (legal_mbReply (legal_domainState (legal_timeState hd ?_) (by decide)) ..)
    split <;> decide
  · refine legal_mbReply ?_ ..
    split
    · exact legal_takeOver hc
    · exact legal_becomeMaster hc _ _

theorem Block.legal_timeMessage (port master tag t) : (b.timeMessage port master tag t).modes.Legal := by
  refine legal_control h _ _ fun c hc => ?_
  dsimp only
  split
  · exact hc
  · split
    · exact legal_domainState hc (by decide)
    · split
      · exact hc
      · have ha := legal_timeAccept hc port t
        rw [modes_ite, modes_sendTime, ite_self]
        split
        · exact legal_domainState ha (by decide)
        · exact ha

theorem Block.legal_assign (port a) : (b.assign port a).modes.Legal := by
  refine legal_control h _ _ fun c hc => ?_
  dsimp only
  split
  · exact hc
  · split
    · split
      · exact hc
      · exact legal_domainState hc (by decide)
    · split
      · exact hc
      · rw [modes_sendJoined, modes_foldl _ fun _ _ => modes_sendAssign ..]
        refine legal_domainState ?_ (by decide)
        rw [modes_applyTopology]
        exact legal_modDomain hc _ fun _ _ => hc.domain

theorem Block.legal_invalAnswered : b.invalAnswered.modes.Legal := by
  unfold invalAnswered
  dsimp only
  split
  · exact h
  · rw [modes_startInval]
    exact h

theorem Block.legal_invalidateDone : b.invalidateDone.modes.Legal := by
  unfold invalidateDone
  split
  · exact h
  · dsimp only
    split
    · rw [modes_mbFinish, modes_invalTrace]; exact h
    · exact legal_invalAnswered (by rw [modes_invalTrace]; exact h)
    · rw [modes_invalTrace]; exact h

end

end Sys2Proof.Machine
end

section
/-!
Every step keeps the module-wide states legal.
-/
namespace Sys2Proof.Machine
open Block

theorem Block.legal_of_same {b c : Block} (h : b.modes.Legal) (hc : c.modes = b.modes) : c.modes.Legal := hc ▸ h

theorem legal_exec (c : Instr) (s : State) (h : s.toBlock.modes.Legal) : ∃ t, exec c s = .next t ∧ t.toBlock.modes.Legal := by
  cases c <;> refine ⟨_, rfl, ?_⟩ <;> dsimp only
  -- The commands that set a state, then those that choose between operations; every other one keeps the states.
  case creditTimeout => exact legal_creditTimeout h ..
  case cadenceTick => exact legal_cadenceTick h ..
  case deadline => exact legal_deadlinePassed h ..
  case abortEscalate => exact legal_abortEscalate h ..
  case marginScan => exact legal_marginScan h ..
  case domainConfig => exact legal_domainConfig h ..
  case jobGroupUnreachable => exact legal_groupUnreachable h ..
  case zeroiseVolatile => exact legal_zeroiseVolatile h ..
  case zeroiseDecommission => exact legal_zeroiseDecommission h ..
  case debugUnlock => exact legal_debugUnlock h ..
  case invalidateDone => exact legal_invalidateDone h ..
  case faultBatchClose => exact legal_faultBatchClose h ..
  case hostNoResponse => exact legal_hostNoResponse h ..
  case encReassemblyTimeout => exact legal_encTimeout h ..
  case retryResend => exact legal_retryResend h ..
  case remoteTimeout => exact legal_remoteTimeout h ..
  case groupExpired => exact legal_groupExpired h ..
  case retryExhausted => exact legal_retryExhausted h ..
  case portRetrain => exact legal_portRetrain h ..
  case timeMessageSend => exact legal_timeMessageSend h ..
  case timeMessage => exact legal_timeMessage h ..
  case masterLost => exact legal_masterLost h ..
  case timeDistribution => exact legal_timeDistribution h ..
  case assign => exact legal_assign h ..
  case domainReady => exact legal_domainReady h ..
  case linkTrainingEnd => exact legal_linkTrainingEnd h ..
  case linkRetrain => exact legal_linkRetrain h ..
  case recovery => exact legal_recovery h ..
  case recoveryEnd => exact legal_recoveryEnd h ..
  case completionTimeout => exact legal_completionTimeout h ..
  case intrFailed => exact legal_intrFailed h ..
  case snoopTimeout => exact legal_snoopTimeout h ..
  case watchdog => exact legal_watchdog h ..
  case heartbeatLost => exact legal_heartbeatLost h ..
  case tileResetRelease => exact legal_tileResetRelease h ..
  case resetFailed => exact legal_resetFailed h ..
  case moduleReset => exact legal_moduleReset h ..
  case recoveryUpdate => exact legal_recoveryUpdate h ..
  case rimLockstep => exact legal_rimLockstep h ..
  case rimStart => exact legal_rimStart h ..
  case drbgReseed => exact legal_drbgReseed h ..
  case inputApplied => exact legal_inputApplied h ..
  case powerUpStep => exact legal_powerUpStep h ..
  case railFault => exact legal_railFault h ..
  case entropyHealthFail => exact legal_ite h (legal_selfTestFails h _)
  case inputLost => exact legal_ite h (legal_powerOff h)
  case undervoltageLockout => exact legal_ite h (legal_protectedOff h _)
  case overvoltageLockout => exact legal_ite h (legal_protectedOff h _)
  case eFuseTrip => exact legal_ite h (legal_ite (legal_powerOff h) (legal_protectedOff h _))
  case thermalTrip => exact legal_ite (legal_protectedOff h _) h
  case hubFault => exact legal_ite (legal_halt_ h _) h
  case quantumEnd =>
    refine legal_ite h ?_
    split
    · exact legal_advanceTo h _
    · refine legal_ite ?_ ?_
      · rw [modes_modCore]; exact legal_advanceTo h _
      · rw [modes_takeNext]; exact legal_advanceTo h _
  case floeOpInit => exact legal_of_same h <| modes_floeOp _ _ _ _ fun b f r p => modes_floeInit ..
  case floeOpBind => exact legal_of_same h <| modes_floeOp _ _ _ _ fun b f r p => modes_floeBind ..
  case floeOpRelease => exact legal_of_same h <| modes_floeOp _ _ _ _ fun b f r p => modes_floeRelease ..
  case floeOpTruncate => exact legal_of_same h <| modes_floeOp _ _ _ _ fun b f r p => modes_floeTruncate ..
  case floeOpShare => exact legal_of_same h <| modes_floeOp _ _ _ _ fun b f r p => modes_floeShare ..
  case write => exact legal_of_same h <| modes_arrive _ _ _ _ fun b => modes_hubRun ..
  case final => exact legal_of_same h <| modes_arrive _ _ _ _ fun b => modes_hubRun ..
  case atomic => exact legal_of_same h <| modes_arrive _ _ _ _ fun b => modes_hubRun ..
  case enc => exact legal_of_same h <| modes_arrive _ _ _ _ fun b => modes_hubRun ..
  case resp => exact legal_of_same h <| modes_arrive _ _ _ _ fun b => modes_takeResp ..
  case timeReply => exact legal_of_same h <| modes_control _ _ _ fun b => modes_modPort ..
  case waitevResume =>
    refine legal_of_same h ?_
    split <;> simp only [modes_waitev]
  case flagReread =>
    refine legal_of_same h ?_
    split <;> simp only [modes_waitev]
  case tagWaitResume =>
    refine legal_of_same h ?_
    (repeat' split) <;> simp only [modes_tagWait, modes_modCore]
  case hqWaitResume =>
    refine legal_of_same h ?_
    (repeat' split) <;> simp only [modes_hqPush, modes_hqPop]
  case engineStop =>
    refine legal_of_same h ?_
    (repeat' split) <;> simp only [modes_engineStopAt]
  case engineInstructionCompletes =>
    refine legal_of_same h ?_
    split
    · rfl
    · rw [modes_ite, modes_setCore, ite_self]
  case kernelDone =>
    refine legal_of_same h ?_
    (repeat' split) <;> simp only [modes_kernelDone]
  case i3cDynamicAddress => exact legal_ite h (legal_modRim h _)
  all_goals exact legal_of_same h (by simp [modes_ite])

/-- Settles O60: every command's meaning keeps the states legal, and so does the tick. -/
theorem stepsKeepStatesLegal : Obligations.StepsKeepStatesLegal := by
  intro s t h hs
  rw [legal_iff] at h ⊢
  unfold step at hs
  split at hs
  · cases hs
    exact legal_tick h
  · next c rest _ =>
    obtain ⟨u, hu, hl⟩ := legal_exec c { s with pending := rest } h
    cases hu.symm.trans hs
    exact hl

end Sys2Proof.Machine
end

section
/-!
Control messages and domain time: what a message to a port, the taking of one and a change of the time or domain state leave.
-/
namespace Sys2Proof

theorem SMap.get_map {α : Type} (d : α) (f : α → α) (m : SMap α) (k : Nat) (hd : f d = d) :
    SMap.get d (m.map fun i => (i.1, f i.2)) k = f (SMap.get d m k) := by
  induction m with
  | nil => exact hd.symm
  | cons p l ih =>
    rw [List.map_cons, SMap.get, SMap.get]
    split
    · rfl
    · exact ih

end Sys2Proof

namespace Sys2Proof.Machine

theorem answers_of_run {c : Instr} {s : State} {f : Block → Block} {P : State → Prop} (hexec : exec c s = s.run f)
    (h : P { s with toBlock := f s.toBlock }) : Answers c s P := ⟨_, hexec, rfl, h⟩

/-- The block without its ports. -/
abbrev Block.sansPorts (b : Block) : Block := { b with weave := { b.weave with ports := [] } }

/-! ### Messages to ports -/

section
variable (b : Block)

/-- A port's retry buffer keeps what it holds, and the message that is sent joins it. -/
theorem Block.mem_buf_ctlSend (p ty : Nat) (l : List Nat) {q : Nat} {x : Sent} (h : x ∈ (b.port q).buf) :
    x ∈ ((b.ctlSend p ty l).port q).buf := by
  unfold ctlSend
  by_cases hq : q = p
  · subst hq
    simp [h]
  · rw [modPort_eq, port_setPort_other _ _ _ _ hq]
    exact h

theorem Block.exists_buf_ctlSend (p ty : Nat) (l : List Nat) :
    ∃ x ∈ ((b.ctlSend p ty l).port p).buf, x.bytes = natLe 1 ty ++ l.flatMap (natLe 8) := by
  simp [ctlSend]

theorem Block.sendTime_cons (p : Nat) (l : List Nat) :
    b.sendTime (p :: l) = (b.ctlSend p 0x30 [b.weave.domain.master, b.weave.domain.tag.toNat, b.time.corrected]).sendTime l := rfl

theorem Block.sansPorts_sendTime (l : List Nat) : (b.sendTime l).sansPorts = b.sansPorts := by
  induction l generalizing b with
  | nil => rfl
  | cons p l ih =>
    rw [sendTime_cons]
    exact ih _

theorem Block.mem_buf_sendTime (l : List Nat) {q : Nat} {x : Sent} (h : x ∈ (b.port q).buf) : x ∈ ((b.sendTime l).port q).buf := by
  induction l generalizing b with
  | nil => exact h
  | cons p l ih => exact ih _ (b.mem_buf_ctlSend _ _ _ h)

/-- Each port that a time message is sent on holds it in its retry buffer (R31). -/
theorem Block.exists_buf_sendTime {l : List Nat} {p : Nat} (hp : p ∈ l) : ∃ x ∈ ((b.sendTime l).port p).buf,
    x.bytes = natLe 1 0x30 ++ natLe 8 b.weave.domain.master ++ natLe 8 b.weave.domain.tag.toNat ++ natLe 8 b.time.corrected := by
  induction l generalizing b with
  | nil => cases hp
  | cons q l ih =>
    rw [sendTime_cons]
    cases hp with
    | head =>
      obtain ⟨x, hx, hb⟩ := b.exists_buf_ctlSend p 0x30 [b.weave.domain.master, b.weave.domain.tag.toNat, b.time.corrected]
      exact ⟨x, mem_buf_sendTime _ _ hx, by simpa using hb⟩
    | tail _ hp => exact ih _ hp

end

/-! ### Trace and log beside a change of the time, the domain, a port or the mailboxes -/

section
variable {b c : Block} (h : Traced b c)
include h

theorem Traced.modTime (f : Time → Time) : Traced (b.modTime f) (c.modTime f) :=
  ⟨congrArg (·.modTime f) h.1, fun hp => congrArg (·.modTime f) (h.2 hp)⟩

theorem Traced.modDomain (f : Domain → Domain) : Traced (b.modDomain f) (c.modDomain f) :=
  ⟨congrArg (·.modDomain f) h.1, fun hp => congrArg (·.modDomain f) (h.2 hp)⟩

theorem Traced.modPort (p : Nat) (f : Port → Port) : Traced (b.modPort p f) (c.modPort p f) :=
  ⟨congrArg (·.modPort p f) h.1, fun hp => congrArg (·.modPort p f) (h.2 hp)⟩

theorem Traced.withMboxes (l : SMap Mbox) : Traced { b with mboxes := l } { c with mboxes := l } :=
  ⟨congrArg (fun x => { x with mboxes := l }) h.1, fun hp => congrArg (fun x => { x with mboxes := l }) (h.2 hp)⟩

end

section
variable (b : Block)

theorem Block.timeState_traced (st : Nat) : Traced (b.modTime (fun t => { t with state := st })) (b.timeState st) := by
  unfold timeState
  dsimp only
  split
  · next h =>
    subst h
    exact .refl _
  · exact emit_traced ..

/-- A change of the domain state changes the state and, for its message to the operator, the mailboxes (R414). -/
theorem Block.domainState_traced (st : Nat) :
    Traced { b.modDomain (fun d => { d with state := st }) with mboxes := (b.domainState st).mboxes } (b.domainState st) :=
  ((b.modDomain fun d => { d with state := st }).emit_traced hubIsl 0x040C 0xFF 0 (st * 2 ^ 8)).withMboxes (b.domainState st).mboxes

theorem Block.ctlArrive_traced (port : Nat) :
    Traced (b.modPort port (fun t => { t with rxSeq := (t.rxSeq + 1) % 4096, rxAt := b.time.keeper })) (b.ctlArrive port) :=
  cross_traced ..

/-- The keeper after a time message (R31–R33): stepped where no context exists and time is not locked, else to be slewed. -/
def Block.acceptedTime (b : Block) (port masterTime : Nat) : Time :=
  let now := min (masterTime + (b.port port).delay) timeEnd
  let off : Int := (now : Int) - (b.time.keeper : Int)
  if (b.port port).delay = 0 then { b.time with lastSync := b.time.keeper, state := if b.time.state = 2 then 2 else 1 }
  else if b.time.state ≤ 1 ∧ (List.range 64).all (fun c => (b.ctx c).state == 0) = true then
    { b.time with keeper := now, lastSync := now, offset := off, owed := 0, acc := 0, distAt := now, state := 2 }
  else { b.time with
    lastSync := b.time.keeper, offset := off, owed := off, acc := 0
    state := if -12 ≤ off ∧ off ≤ 12 ∧ (b.time.state = 1 ∨ b.time.state = 2) then 2 else 1 }

theorem Block.timeAccept_traced (port mt : Nat) : Traced { b with time := b.acceptedTime port mt } (b.timeAccept port mt) := by
  unfold timeAccept acceptedTime
  dsimp only
  split
  · exact timeState_traced ..
  · split
    · have hemit (p : Prop) [Decidable p] (c : Block) (a : Nat) : Traced c (if p then c else c.emit hubIsl 0x0701 0xFF 0 a) := by
        split
        · exact .refl _
        · exact emit_traced ..
      exact ((hemit _ _ _).modTime fun t => { t with state := 2 }).trans (timeState_traced ..)
    · simp only [decide_eq_true_eq, and_assoc]
      exact timeState_traced ..

theorem Block.acceptedTime_congr {c : Block} {port : Nat} (hdelay : (c.port port).delay = (b.port port).delay) (htime : c.time = b.time)
    (hctxs : c.ctxs = b.ctxs) (mt : Nat) : c.acceptedTime port mt = b.acceptedTime port mt := by
  have hctx : c.ctx = b.ctx := funext fun x => congrArg (fun l => SMap.get ({} : Ctx) l x) hctxs
  unfold acceptedTime
  rw [hdelay, htime, hctx]

end

/-! ### A time message from the parent -/

section
variable (b : Block) (port mt : Nat)

/-- The block once a follower has taken a time message: MASTER_LOST ends with it (R415). -/
def Block.followed : Block :=
  if b.weave.domain.state = 4 then (b.timeAccept port mt).domainState 2 else b.timeAccept port mt

theorem Block.domain_ctlArrive : (b.ctlArrive port).weave.domain = b.weave.domain :=
  calc (b.ctlArrive port).weave.domain
      = (b.modPort port fun t => { t with rxSeq := (t.rxSeq + 1) % 4096, rxAt := b.time.keeper }).weave.domain :=
        congrArg Weave.domain (b.ctlArrive_traced port).weave
    _ = b.weave.domain := rfl

theorem Block.timeMessage_of_parent {b : Block} {port : Nat} {master : Nat} {tag : W64} (hup : (b.port port).state = 2) (hrun : b.halted = false)
    (htag : b.weave.domain.tag = tag) (hstate : b.weave.domain.state = 2 ∨ b.weave.domain.state = 4)
    (hmaster : b.weave.domain.master = master) (hparent : b.weave.domain.parent = some port) (mt : Nat) :
    b.timeMessage port master tag mt = let c := (b.ctlArrive port).followed port mt
      if (c.port port).delay = 0 then c else c.sendTime c.childPorts := by
  have hd := b.domain_ctlArrive port
  have h3 : b.weave.domain.state ≠ 3 := by omega
  have h24 : ¬(b.weave.domain.state ≠ 2 ∧ b.weave.domain.state ≠ 4) := by omega
  simp only [timeMessage, control, hup, hrun, hd, htag, hmaster, hparent, h3, h24, followed, ne_eq, not_true_eq_false,
    Bool.false_eq_true, false_and, or_self, if_false]

theorem Block.domain_domainState (st : Nat) : (b.domainState st).weave.domain = { b.weave.domain with state := st } :=
  congrArg Weave.domain (b.domainState_traced st).weave

variable {b} {port mt}

/-- What sending time leaves is what the ports are not part of. -/
theorem Block.eq_of_sansPorts {c : Block} (h : c.sansPorts = b.sansPorts) :
    c.time = b.time ∧ c.weave.domain = b.weave.domain ∧ c.cores = b.cores ∧ c.ctxs = b.ctxs :=
  ⟨congrArg (·.time) h, congrArg (·.weave.domain) h, congrArg (·.cores) h, congrArg (·.ctxs) h⟩

theorem Block.followed_eq (hstate : b.weave.domain.state = 2 ∨ b.weave.domain.state = 4) :
    (b.followed port mt).time = b.acceptedTime port mt ∧ (b.followed port mt).weave.domain = { b.weave.domain with state := 2 } ∧
      (b.followed port mt).cores = b.cores ∧ (b.followed port mt).ctxs = b.ctxs := by
  have ha := b.timeAccept_traced port mt
  have hd : (b.timeAccept port mt).weave.domain = b.weave.domain := congrArg Weave.domain ha.weave
  unfold followed
  split
  · have hs := (b.timeAccept port mt).domainState_traced 2
    exact ⟨hs.time.trans ha.time, by rw [domain_domainState, hd], hs.cores.trans ha.cores, hs.ctxs.trans ha.ctxs⟩
  · next h4 =>
    have h2 : b.weave.domain.state = 2 := hstate.resolve_right h4
    exact ⟨ha.time, by rw [hd, ← h2], ha.cores, ha.ctxs⟩

/-- A follower that takes a time message has its time corrected, and stands in its domain (R31–R34, R415). -/
theorem Block.timeMessage_eq {master : Nat} {tag : W64} (hup : (b.port port).state = 2) (hrun : b.halted = false)
    (htag : b.weave.domain.tag = tag) (hstate : b.weave.domain.state = 2 ∨ b.weave.domain.state = 4)
    (hmaster : b.weave.domain.master = master) (hparent : b.weave.domain.parent = some port) :
    (b.timeMessage port master tag mt).time = b.acceptedTime port mt ∧
      (b.timeMessage port master tag mt).weave.domain = { b.weave.domain with state := 2 } ∧
      (b.timeMessage port master tag mt).cores = b.cores ∧ (b.timeMessage port master tag mt).ctxs = b.ctxs := by
  have ht := b.ctlArrive_traced port
  have hd := b.domain_ctlArrive port
  have hdelay : ((b.ctlArrive port).port port).delay = (b.port port).delay := by simp [Block.port, ht.weave, setPort, SMap.get_put_same]
  obtain ⟨htime, hdom, hcores, hctxs⟩ := (b.ctlArrive port).followed_eq (port := port) (mt := mt) (hd ▸ hstate)
  rw [b.acceptedTime_congr hdelay ht.time ht.ctxs] at htime
  rw [hd] at hdom
  rw [timeMessage_of_parent hup hrun htag hstate hmaster hparent]
  dsimp only
  split
  · exact ⟨htime, hdom, hcores.trans ht.cores, hctxs.trans ht.ctxs⟩
  · obtain ⟨htime', hdom', hcores', hctxs'⟩ := eq_of_sansPorts (sansPorts_sendTime _ ((b.ctlArrive port).followed port mt).childPorts)
    exact ⟨htime'.trans htime, hdom'.trans hdom, hcores'.trans (hcores.trans ht.cores), hctxs'.trans (hctxs.trans ht.ctxs)⟩

end

/-! ### The master's time messages -/

section
variable {b : Block}

/-- The block when the master's next time message is due (R31). -/
def Block.due (b : Block) : Block :=
  let now := b.time.pass (b.time.sentAt + 64000 - b.time.keeper)
  { b with time := { now with sentAt := now.keeper } }

/-- The ports of the domain that are UP. -/
def Block.upPorts (b : Block) : List Nat := b.weave.domain.ports.filter fun p => (b.port p).state == 2

theorem Block.mem_upPorts {p : Nat} : p ∈ b.upPorts ↔ p ∈ b.weave.domain.ports ∧ (b.port p).state = 2 := by
  simp [upPorts]

theorem Block.timeMessageSend_of_master (hstate : b.weave.domain.state = 3) (hrun : b.halted = false) :
    b.timeMessageSend = b.due.sendTime b.upPorts := by
  have hcond : ¬(b.weave.domain.state ≠ 3 ∨ b.halted = true) := by simp [hstate, hrun]
  rw [timeMessageSend, if_neg hcond]
  rfl

end

/-! ### Loss of the master, distribution and the keeper -/

/-- What follows the loss of the master: HOLDOVER, MASTER_LOST and what trace, log and operator hear of both (R34, R415). -/
theorem Block.masterLost_traced {b : Block} (hdomain : b.weave.domain.state = 2) (htime : b.time.state = 2) :
    let now := b.time.pass (b.time.lastSync + 200000 - b.time.keeper)
    Traced { b with
      time := { now with state := 3, holdover := now.keeper }
      weave := { b.weave with domain := { b.weave.domain with state := 4 } }, mboxes := b.masterLost.mboxes } b.masterLost := by
  intro now
  have hcond : ¬(b.weave.domain.state ≠ 2 ∨ b.time.state ≠ 2) := by simp [hdomain, htime]
  have hlost : b.masterLost = ((((b.advanceTo (b.time.lastSync + 200000)).timeState 3).modTime fun t => { t with holdover := t.keeper }).emit
      hubIsl 0x0702 0xFF 0 b.weave.domain.master).domainState 4 := by
    have hw := ((b.advanceTo (b.time.lastSync + 200000)).timeState_traced 3).weave
    rw [masterLost, if_neg hcond]
    dsimp only
    rw [show (((b.advanceTo (b.time.lastSync + 200000)).timeState 3).modTime fun t => { t with holdover := t.keeper }).weave.domain.master =
      b.weave.domain.master from congrArg (fun w => w.domain.master) hw]
  rw [hlost]
  have hheld := (((b.advanceTo (b.time.lastSync + 200000)).timeState_traced 3).modTime fun t => { t with holdover := t.keeper }).trans
    (emit_traced _ hubIsl 0x0702 0xFF 0 b.weave.domain.master)
  exact ((hheld.modDomain fun d => { d with state := 4 }).withMboxes _).trans (domainState_traced _ 4)

theorem Block.timeDistribution_of_hubRuns {b : Block} (h : b.hubRuns = true) :
    b.timeDistribution = { b with
      time := { b.time.pass (b.time.distAt + 1024 - b.time.keeper) with
        distAt := (b.time.pass (b.time.distAt + 1024 - b.time.keeper)).keeper }
      islands := b.islands.map fun i => (i.1, { i.2 with skew := 0 }) } := by
  simp only [timeDistribution, h]
  rfl

theorem Time.owed_pass (t : Time) (n : Nat) : (t.pass n).owed.natAbs = t.owed.natAbs - (t.acc + n) / t.slewEvery := by
  unfold pass
  dsimp only [slewEvery]
  generalize (t.acc + n) / _ = k
  split
  · next h => simp [h]
  · next h =>
    dsimp only
    split <;> omega

/-! ### Domain time -/

section
variable {s : State}

theorem answers_timeMessageSend (hstate : s.weave.domain.state = 3) (hrun : s.halted = false) :
    Answers .timeMessageSend s (fun t =>
      let now := s.time.pass (s.time.sentAt + 64000 - s.time.keeper)
      t.time = { now with sentAt := now.keeper } ∧
      Leaves (fun b => { b with time := {}, weave := { b.weave with ports := [] } }) s.toBlock t.toBlock ∧
      ∀ p ∈ s.weave.domain.ports, (s.port p).state = 2 → ∃ x ∈ (t.port p).buf, x.bytes =
        natLe 1 0x30 ++ natLe 8 s.weave.domain.master ++ natLe 8 s.weave.domain.tag.toNat ++ natLe 8 t.time.corrected) := by
  refine answers_of_run (f := Block.timeMessageSend) rfl ?_
  rw [Block.timeMessageSend_of_master hstate hrun]
  have hsent := Block.sansPorts_sendTime s.toBlock.due s.upPorts
  obtain ⟨htime, -⟩ := Block.eq_of_sansPorts hsent
  refine ⟨htime, ⟨congrArg (fun x => { x.quiet with time := {} }) hsent, fun _ => congrArg (fun x => { x.muted with time := {} }) hsent⟩,
    fun p hp hup => ?_⟩
  obtain ⟨x, hx, hbytes⟩ := Block.exists_buf_sendTime s.toBlock.due (Block.mem_upPorts.mpr ⟨hp, hup⟩)
  exact ⟨x, hx, hbytes.trans (congrArg (fun t => _ ++ natLe 8 (Time.corrected t)) htime.symm)⟩

variable {port master : Nat} {tag : W64} (mt : Nat)

/-- What taking a time message from the parent leads to (R31–R34). -/
theorem answers_timeMessage (h : s.HearsTime port master tag) :
    Answers (.timeMessage port master tag mt) s (fun t => t.time = s.acceptedTime port mt ∧
      t.weave.domain = { s.weave.domain with state := 2 } ∧ t.cores = s.cores ∧ t.ctxs = s.ctxs) := by
  obtain ⟨⟨hup, hrun⟩, htag, hstate, hmaster, hparent⟩ := h
  exact answers_of_run (f := (·.timeMessage port master tag mt)) rfl (Block.timeMessage_eq hup hrun htag hstate hmaster hparent)

theorem answers_timeReply (h : s.Hears port) (delay : Nat) :
    Answers (.timeReply port delay) s (fun t => Traced ((s.heard port).modPort port (fun x => { x with delay := delay })) t.toBlock) := by
  obtain ⟨hup, hrun⟩ := h
  refine answers_of_run (f := fun b => b.control port (fun b => b.modPort port (fun t => { t with delay := delay }))) rfl ?_
  simp only [Block.control, hup, hrun, ne_eq, not_true_eq_false, Bool.false_eq_true, or_self, if_false]
  exact (s.ctlArrive_traced port).modPort port _

theorem answers_masterLost (hdomain : s.weave.domain.state = 2) (htime : s.time.state = 2) :
    Answers .masterLost s (fun t =>
      let now := s.time.pass (s.time.lastSync + 200000 - s.time.keeper)
      t.time = { now with state := 3, holdover := now.keeper } ∧ t.weave = { s.weave with domain := { s.weave.domain with state := 4 } } ∧
      Leaves (fun b => { b with time := {}, weave := {}, mboxes := [] }) s.toBlock t.toBlock) := by
  have h := Block.masterLost_traced hdomain htime
  exact answers_of_run (f := Block.masterLost) rfl ⟨h.time, h.weave, h.leaves fun b => { b with time := {}, weave := {}, mboxes := [] }⟩

theorem answers_timeDistribution (h : s.hubRuns = true) : Answers .timeDistribution s (fun t =>
    let now := s.time.pass (s.time.distAt + 1024 - s.time.keeper)
    t.time = { now with distAt := now.keeper } ∧ (∀ i, t.counter i = now.keeper ∧ (t.island i).last = (s.island i).last ∧
      (t.island i).seq = (s.island i).seq) ∧
    { t.toBlock with time := {}, islands := [] } = { s.toBlock with time := {}, islands := [] }) := by
  refine answers_of_run (f := Block.timeDistribution) rfl ?_
  rw [Block.timeDistribution_of_hubRuns h]
  refine ⟨rfl, fun i => ?_, rfl⟩
  simp only [Block.counter, Block.island, SMap.get_map ({} : Island) (fun i => { i with skew := 0 }) s.islands i rfl, add_zero, Int.toNat_natCast,
    and_self]

end

theorem message_timeQuery : Message .timeQuery 0x0601 (fun _ _ _ => True) stOK
    (fun s _ _ => natLe 8 s.time.keeper ++ natLe 1 s.time.state ++ natLe 1 0 ++
      natLe 2 (if s.time.state = 0 then 0xFFFF else s.weave.domain.master) ++
      natLe 4 (((if s.time.owed = 0 then 0 else if 0 < s.time.owed then 1000000 else -1000000) % (2 ^ 32 : Nat) : Int).toNat) ++
      natLe 8 s.time.lastSync ++ natLe 8 ((s.time.offset % (2 ^ 64 : Nat)).toNat) ++ natLe 8 s.time.holdover ++ natLe 16 0)
    (fun s _ _ => s.toBlock) :=
  message_of_reply (fun _ _ => rfl) fun page s m _ _ => by
    have htime : (s.mbTake page m).time = s.time := by simp [Block.mbTake]
    have hweave : (s.mbTake page m).weave = s.weave := by simp [Block.mbTake]
    refine ⟨s.mbTake page m, ?_, rfl, s.leaves_mbTake page m⟩
    simp only [htime, hweave, Time.slewPpb]

/-- Settles O37: a follower's time after a message from its parent is `Block.acceptedTime`, whose branches are the three rules of
R31–R33; what trace, log and operator hear of a change differs from it in nothing else. -/
theorem domainTimeIsKept : Obligations.DomainTimeIsKept := by
  unfold Obligations.DomainTimeIsKept
  refine ⟨⟨fun s => answers_timeMessageSend, fun port master tag mt s h hdelay => ?_, fun port master tag mt s h hdelay => ?_,
    fun port delay s h => answers_timeReply h delay, fun s => answers_masterLost⟩,
    ⟨fun s => answers_timeDistribution, fun t n => ⟨t.keeper_pass n, t.owed_pass n, t.state_pass n⟩⟩, message_timeQuery⟩
  · have ha := answers_timeMessage mt h
    simp only [Block.acceptedTime, hdelay, if_false] at ha
    exact ha
  · have ha := answers_timeMessage mt h
    simp only [Block.acceptedTime, hdelay, if_true] at ha
    exact ha

end Sys2Proof.Machine
end

section
/-!
More of the mailbox: what an operation may read of the block that has taken a message, and operations that wait for the accesses
they name (R302, R319, R332).
-/
namespace Sys2Proof.Machine

theorem Answers.mono {i : Instr} {s : State} {P Q : State → Prop} (h : Answers i s P) (hPQ : ∀ t, P t → Q t) : Answers i s Q := by
  obtain ⟨t, hexec, hpending, hP⟩ := h
  exact ⟨t, hexec, hpending, hPQ t hP⟩

section
variable {b c : Block} (h : Leaves Block.sansMail b c)
include h

/-- What reads nothing that trace, log or a mailbox changes finds the same. -/
theorem Leaves.observe {α : Type} (f : Block → α) (hf : ∀ x : Block, f x.quiet.sansMail = f x := by exact fun _ => rfl) : f c = f b :=
  calc f c = f c.quiet.sansMail := (hf c).symm
    _ = f b.quiet.sansMail := congrArg f h.1
    _ = f b := hf b

/-- A change of what trace, log and mailboxes leave alone goes on beside them. -/
theorem Leaves.map (g : Block → Block) (hquiet : ∀ x : Block, (g x).quiet.sansMail = g x.quiet.sansMail := by exact fun _ => rfl)
    (hmuted : ∀ x : Block, (g x).muted.sansMail = g x.muted.sansMail := by exact fun _ => rfl)
    (hrings : ∀ x : Block, (g x).rings = x.rings := by exact fun _ => rfl) : Leaves Block.sansMail (g b) (g c) :=
  ⟨(hquiet c).trans ((congrArg g h.1).trans (hquiet b).symm),
    fun hp => (hmuted c).trans ((congrArg g (h.2 fun n => by have := hp n; rwa [Block.ring, hrings] at this)).trans (hmuted b).symm)⟩

end

/-! ### Operations that end in a reply -/

/-- An operation that leaves the block `c` and the reply to a message that was alone in its queue. -/
theorem answers_of_reply {i : Instr} {s : State} {page op st : Nat} {m pl : List Byte} {c : Block} (hturn : s.Turn page op m)
    (hexec : exec i s = .next { s with toBlock := (c.mbReply page m st pl).mbDrain page })
    (hboxes : c.mboxes = (s.mbTake page m).mboxes) :
    Answers i s (fun t => t.Replied page m st pl ∧ (t.mbox page).inq = [] ∧ (∀ p, p ≠ page → t.mbox p = s.mbox p) ∧
      t.toBlock.sansMail = c.sansMail) := by
  have hmbox (p : Nat) : c.mbox p = (s.mbTake page m).mbox p := by simp only [Block.mbox, hboxes]
  have hempty : ((c.mbReply page m st pl).mbox page).inq = [] := by
    rw [Block.inq_mbReply, hmbox, Block.inq_mbTake, hturn.2, List.drop_one, List.tail_cons]
  rw [Block.mbDrain_of_inq_nil _ _ hempty] at hexec
  refine ⟨_, hexec, rfl, Block.mem_outq_mbPump _ _ (Block.mem_outq_mbReply ..), (Block.inq_mbPump ..).trans hempty, fun p hp => ?_, rfl⟩
  calc ((c.mbReply page m st pl).mbPump page).mbox p
      = (c.mbReply page m st pl).mbox p := Block.mbox_mbPump_other _ _ hp
    _ = c.mbox p := Block.mbox_mbReply_other _ _ _ _ _ hp
    _ = (s.mbTake page m).mbox p := hmbox p
    _ = s.mbox p := Block.mbox_mbTake_other _ _ _ hp

theorem Block.mbOpAt_of_turn {b : Block} {page op : Nat} {m : List Byte} (h : b.mbTurn page op = some m)
    {rs : List Byte → List (Nat × Nat)} {acc : Nat} (hfree : page < 64 → b.feStall page (rs m) acc = none)
    (f : Block → List Byte → Block) : b.mbOpAt page op rs acc f = (f (b.mbTake page m) m).mbDrain page := by
  have hstall : b.feStall page (if page < 64 then rs m else []) acc = none := by
    split
    · next hp => exact hfree hp
    · rfl
  simp only [mbOpAt, h, feGate, hstall]

/-- An operation satisfies `Message` where nothing stands against the accesses it names, and its work ends in the reply. -/
theorem message_of_reply_at {mk : Nat → Instr} {op acc : Nat} {rs : List Byte → List (Nat × Nat)} {f : Nat → Block → List Byte → Block}
    (hexec : ∀ page s, exec (mk page) s = s.run (·.mbOpAt page op rs acc (f page)))
    {ok : State → Nat → List Byte → Prop} {st : Nat} {pl : State → Nat → List Byte → List Byte} {eff : State → Nat → List Byte → Block}
    (hfree : ∀ page s m, ok s page m → page < 64 → s.feStall page (rs m) acc = none)
    (hreply : ∀ page s m, s.Turn page op m → ok s page m → ∃ c : Block,
      f page (s.mbTake page m) m = c.mbReply page m st (pl s page m) ∧
        c.mboxes = (s.mbTake page m).mboxes ∧ Leaves Block.sansMail (eff s page m) c) :
    Message mk op ok st pl eff := by
  intro page s m hturn hok
  obtain ⟨c, hf, hboxes, heff⟩ := hreply page s m hturn hok
  have hrun : exec (mk page) s = .next { s with toBlock := (c.mbReply page m st (pl s page m)).mbDrain page } := by
    rw [hexec, State.run_eq, Block.mbOpAt_of_turn hturn.1 (hfree page s m hok), hf]
  refine (answers_of_reply hturn hrun hboxes).mono fun t ht => ?_
  obtain ⟨hreplied, hinq, hother, ht⟩ := ht
  exact ⟨hreplied, hinq, hother,
    ⟨(congrArg (fun x => x.quiet) ht).trans heff.1, fun hp => (congrArg (fun x => x.muted) ht).trans (heff.2 hp)⟩⟩

/-! ### Buffers -/

theorem Block.mboxes_hostPut (b : Block) (a : Nat) (l : List Byte) : (b.hostPut a l).1.mboxes = b.mboxes := by
  unfold hostPut
  split
  · rfl
  · exact (emit_traced ..).mboxes

theorem Block.mboxes_feWrite (b : Block) (ctx va : Nat) (l : List Byte) : (b.feWrite ctx va l).1.mboxes = b.mboxes := by
  unfold feWrite
  refine List.foldlRecOn (motive := fun r : Block × Nat => r.1.mboxes = b.mboxes) _ _ rfl fun r hr p _ => ?_
  split
  · exact hr
  · dsimp only
    split
    · exact hr
    · split
      · exact hr
      · split <;> next hput => exact (congrArg (·.1.mboxes) hput).symm.trans ((r.1.mboxes_hostPut ..).trans hr)

/-- A buffer that is written leaves the mailboxes alone. -/
theorem Block.mboxes_bufWrite {b : Block} {page addr : Nat} {l : List Byte} (h : (b.bufWrite page addr l).2 = true) :
    (b.bufWrite page addr l).1.mboxes = b.mboxes := by
  unfold bufWrite at h ⊢
  split
  · next hp =>
    simp only [hp, if_true] at h
    dsimp only
    split
    · exact b.mboxes_feWrite ..
    · next hst => simp [hst] at h
  · split
    · rfl
    · exact b.mboxes_hostPut ..

end Sys2Proof.Machine
end

section
/-!
Tenancy: bindings, assignments, operating points and what is read of them (R25, R378, R383, R384, R388, R389).
-/
namespace Sys2Proof.Machine

/-! ### CORE_BIND and PARTITION_ASSIGN -/

/-- Dropping prefetch entries changes the movers alone. -/
theorem Core.dropPrefetch_eq (k : Core) (p : PfEntry → Bool) : k.dropPrefetch p = { k with movers := (k.dropPrefetch p).movers } := by
  refine List.foldlRecOn (motive := fun x : Core => x = { k with movers := x.movers }) _ _ rfl fun x hx m _ => ?_
  exact congrArg (fun y : Core => y.modMover m _) hx

section
variable (b : Block)

theorem Block.bind_eq (ctx : Nat) (p : List Byte) : b.bind ctx p =
    let core := fld p 0 1
    let bd : Binding := ⟨ctx, fld p 1 1, fld p 8 2, fld p 10 2, fld p 12 2, fld p 14 2, [], [], []⟩
    let k := ((b.core core).dropPrefetch (fun _ => true)).clearSwap bd
    let c := b.setCore core { k with
      binds := (b.core core).binds ++ [bd], shares := (fld p 3 1, fld p 4 1, fld p 5 1)
      lastPos := if (b.core core).binds.isEmpty then none else (b.core core).lastPos }
    let t := b.part (partOf core)
    if (b.boundCores ctx).any (fun c => partOf c == partOf core) then c
    else c.setPart (partOf core) { t with
      ranges := t.ranges ++ [(ctx, fld p 16 2, fld p 18 2)]
      tqOwner := ((List.range 16).filter (fun i => bit (fld p 6 2) i)).foldl (fun l i => SMap.put l i (ctx + 1)) t.tqOwner } := by
  have hk := (b.core (fld p 0 1)).dropPrefetch_eq (fun _ => true)
  have hbinds := congrArg Core.binds hk
  have hlast := congrArg Core.lastPos hk
  simp only [bind, modCore_eq, modPart_eq, part_setCore, Core.clearSwap, hbinds, hlast]
  cases (b.boundCores ctx).any (fun c => partOf c == partOf (fld p 0 1)) <;> rfl

theorem Block.mboxes_bind (ctx : Nat) (p : List Byte) : (b.bind ctx p).mboxes = b.mboxes := by
  simp only [bind]
  split <;> rfl

variable {b} in
theorem Leaves.bind {c : Block} (h : Leaves Block.sansMail b c) (ctx : Nat) (p : List Byte) :
    Leaves Block.sansMail (b.bind ctx p) (c.bind ctx p) := by
  have hbound : c.boundCores ctx = b.boundCores ctx := h.observe (·.boundCores ctx)
  simp only [Block.bind, hbound]
  split
  · exact h.map (·.modCore (fld p 0 1) _)
  · exact h.map (fun x => (x.modCore (fld p 0 1) _).modPart (partOf (fld p 0 1)) _)

theorem Block.core_foldl_modCore {g : Nat → Nat} (hg : Function.Injective g) (f : Core → Core) {l : List Nat} (hl : l.Nodup) (i : Nat) :
    (l.foldl (fun b j => b.modCore (g j) f) b).core (g i) = if i ∈ l then f (b.core (g i)) else b.core (g i) := by
  induction l generalizing b with
  | nil => rfl
  | cons j l ih =>
    obtain ⟨hj, hl⟩ := List.nodup_cons.mp hl
    rw [List.foldl_cons, ih _ hl, modCore_eq]
    by_cases hij : i = j
    · subst hij
      simp [hj]
    · simp [hij, core_setCore_other _ _ _ _ (hg.ne hij)]

/-- The points of a partition follow one by one (R25). -/
theorem Block.core_setPoints {i : Nat} (p : Nat) (hi : i < 4) :
    let want := min (slicePoint (b.part p).sliceW) (clampCap b.power.level)
    let k := b.core (4 * p + i)
    (b.setPoints p).core (4 * p + i) = if want ≤ k.point then { k with point := want, pointTo := want } else { k with pointTo := want } := by
  intro want k
  have hinj : Function.Injective (4 * p + ·) := fun _ _ h => Nat.add_left_cancel h
  exact (b.core_foldl_modCore hinj _ List.nodup_range i).trans (if_pos (List.mem_range.mpr hi))

end

theorem message_coreBind : Message .coreBind 0x0201 (fun s _ m => s.bindRefusal (mCtx m) (mPl m) = none)
    stOK (fun _ _ _ => []) (fun s _ m => s.bind (mCtx m) (mPl m)) :=
  message_of_reply (fun _ _ => rfl) fun page s m _ hok => by
    have hok' : (s.mbTake page m).bindRefusal (mCtx m) (mPl m) = none :=
      ((s.leaves_mbTake page m).observe (·.bindRefusal (mCtx m) (mPl m))).trans hok
    refine ⟨(s.mbTake page m).bind (mCtx m) (mPl m), ?_, Block.mboxes_bind .., (s.leaves_mbTake page m).bind _ _⟩
    simp only [hok']

theorem message_sliceConfig : Message .sliceConfig 0x0204
    (fun _ _ m => fld (mPl m) 0 1 < 16 ∧ 20 ≤ fld (mPl m) 4 4 ∧ fld (mPl m) 4 4 ≤ 10000) stOK (fun _ _ _ => [])
    (fun s _ m => s.toBlock.setCore (fld (mPl m) 0 1) { s.core (fld (mPl m) 0 1) with quantumTo := fld (mPl m) 4 4 }) :=
  message_of_reply (fun _ _ => rfl) fun page s m _ ⟨hcore, hlow, hhigh⟩ => by
    exact ⟨_, if_neg (by omega), rfl, (s.leaves_mbTake page m).map fun x =>
      x.modCore (fld (mPl m) 0 1) fun k => { k with quantumTo := fld (mPl m) 4 4 }⟩

theorem message_partitionAssign : Message .partitionAssign 0x0203 (fun s _ m =>
      let p := mPl m
      fld p 0 1 ≤ 3 ∧ fld p 1 1 ≤ 1 ∧ rsv p 7 49 = true ∧ fld p 4 2 % 5 = 0 ∧ 100 ≤ fld p 4 2 ∧ fld p 4 2 ≤ 400 ∧ fld p 6 1 ≤ 16 ∧
      fld p 4 2 + (((List.range 4).filter (· != fld p 0 1)).map (fun q => (s.part q).sliceW)).sum ≤ 1080 ∧
      fld p 6 1 + (((List.range 4).filter (· != fld p 0 1)).map (fun q => (s.part q).lanes)).sum ≤ 16 ∧
      (fld p 2 2 = (s.part (fld p 0 1)).jobGroup ∨ ∀ i < 4, (s.core (4 * fld p 0 1 + i)).binds = []))
    stOK (fun _ _ _ => []) (fun s _ m => s.assignPart (mPl m)) :=
  message_of_reply (fun _ _ => rfl) fun page s m _ hok => by
    obtain ⟨hpart, hforce, hrsv, hstep, hmin, hmax, hlanes, hwatts, hlaneSum, hgroup⟩ := hok
    have htake := s.leaves_mbTake page m
    have hp (q : Nat) : (s.mbTake page m).part q = s.part q := htake.observe (·.part q)
    have hc (n : Nat) : (s.mbTake page m).core n = s.core n := htake.observe (·.core n)
    refine ⟨(s.mbTake page m).assignPart (mPl m), ?_, rfl, htake.map (·.assignPart (mPl m))⟩
    have hbound : (s.part (fld (mPl m) 0 1)).jobGroup = fld (mPl m) 2 2 ∨
        (List.range 4).any (fun i => !(s.core (4 * fld (mPl m) 0 1 + i)).binds.isEmpty) = false := by
      refine hgroup.imp Eq.symm fun h => ?_
      simpa using h
    simp only [hp, hc]
    rw [if_neg, if_pos]
    · rcases hbound with h | h <;> simp [h]
    · have hkeep : ¬(fld (mPl m) 2 2 ≠ (s.part (fld (mPl m) 0 1)).jobGroup ∧
          (List.range 4).any (fun i => !(s.core (4 * fld (mPl m) 0 1 + i)).binds.isEmpty) = true ∧ fld (mPl m) 1 1 = 0) :=
        fun ⟨hchange, hany, _⟩ => hbound.elim (fun h => hchange h.symm) fun h => by simp [h] at hany
      simp only [hrsv, hkeep, Bool.not_true, Bool.false_eq_true, false_or, or_false]
      omega

/-! ### Readings -/

theorem message_powerRead : Message .powerRead 0x0604 (fun _ _ _ => True)
    stOK (fun s page _ =>
      let clamped := if s.power.level ≠ 0 then 1 else 0
      if page < 64 then natLe 8 (s.time.keeper / 100000000 * 100000000) ++ natLe 2 (Config.powerReading (s.freeCtr * 8)) ++ natLe 1 clamped
      else natLe 8 (s.time.keeper / 1000000 * 1000000) ++
        (List.range 5).flatMap (fun i => natLe 4 (Config.powerReading (s.freeCtr * 8 + i))) ++ natLe 1 clamped ++ natLe 1 s.power.cause_)
    (fun s _ _ => { s.toBlock with freeCtr := s.freeCtr + 1 }) :=
  message_of_reply (fun _ _ => rfl) fun page s m _ _ => by
    have htake := s.leaves_mbTake page m
    have hpower : (s.mbTake page m).power = s.power := htake.observe (·.power)
    have htime : (s.mbTake page m).time = s.time := htake.observe (·.time)
    have hfree : (s.mbTake page m).freeCtr = s.freeCtr := htake.observe (·.freeCtr)
    refine ⟨{ s.mbTake page m with freeCtr := (s.mbTake page m).freeCtr + 1 }, ?_, rfl, htake.map fun x => { x with freeCtr := x.freeCtr + 1 }⟩
    simp only [Block.draw, hpower, htime, hfree, add_zero]
    split <;> rfl

/-- The record of COUNTERS_READ (R388, R481). -/
def State.countersRecord (s : State) (page : Nat) (m : List Byte) : List Byte :=
  if page < 64 then s.ctxCounters page (s.time.keeper / 1000 * 1000)
  else natLe 8 s.time.keeper ++ natLe 1 (fld (mPl m) 0 1) ++ natLe 55 0 ++ (match fld (mPl m) 0 1 with
    | 0 => (List.range 4).flatMap s.partCounters
    | 1 => (List.range 24).flatMap s.chanCounters
    | _ => s.ctxCounters (mCtx m) s.time.keeper)

theorem message_countersRead : Message .countersRead 0x0603 (fun s page m => fld (mPl m) 8 8 % 64 = 0 ∧
       (page < 64 → s.feStall page [(fld (mPl m) 8 8, 128)] 2 = none) ∧
       (64 ≤ page → fld (mPl m) 0 1 ≤ 2 ∧ (fld (mPl m) 0 1 = 2 → mCtx m < 64 ∧ (s.ctx (mCtx m)).state ≠ 0)) ∧
       ((s.mbTake page m).bufWrite page (fld (mPl m) 8 8) (s.countersRecord page m)).2 = true)
     stOK (fun _ _ _ => []) (fun s page m => s.buffered page m (s.countersRecord page m)) :=
  message_of_reply_at (fun _ _ => rfl) (fun page s m hok hp => by simpa only [hok.1, if_true] using hok.2.1 hp)
    fun page s m _ ⟨haddr, _, hsel, hput⟩ => by
    have htake := s.leaves_mbTake page m
    have htime : (s.mbTake page m).time = s.time := htake.observe (·.time)
    have hstate : (s.mbTake page m).ctx = s.ctx := htake.observe (·.ctx)
    have hctx : (s.mbTake page m).ctxCounters = s.ctxCounters := htake.observe (·.ctxCounters)
    have hpart : (s.mbTake page m).partCounters = s.partCounters := htake.observe (·.partCounters)
    have hchan : (s.mbTake page m).chanCounters = s.chanCounters := htake.observe (·.chanCounters)
    refine ⟨s.buffered page m (s.countersRecord page m), ?_, Block.mboxes_bufWrite hput, ⟨rfl, fun _ => rfl⟩⟩
    simp only [htime, hstate, hctx, hpart, hchan, State.buffered]
    by_cases hp : page < 64
    · simp only [State.countersRecord, hp, if_true] at hput ⊢
      simp [haddr, hput]
    · obtain ⟨hsel, hwhose⟩ := hsel (Nat.le_of_not_lt hp)
      have hpages : fld (mPl m) 0 1 = 0 ∨ fld (mPl m) 0 1 = 1 ∨ fld (mPl m) 0 1 = 2 := by omega
      rcases hpages with h | h | h
      · simp only [State.countersRecord, hp, h, if_false] at hput ⊢
        simp only [haddr, hput, ne_eq, not_true_eq_false, if_false, if_true]
      · simp only [State.countersRecord, hp, h, if_false] at hput ⊢
        simp only [haddr, hput, ne_eq, not_true_eq_false, if_false, if_true]
      · obtain ⟨hctx64, hlive⟩ := hwhose h
        have hfound : ¬(64 ≤ mCtx m ∨ (s.ctx (mCtx m)).state = 0) := by omega
        simp only [State.countersRecord, hp, h, hfound, if_false] at hput ⊢
        simp only [haddr, hput, ne_eq, not_true_eq_false, if_false, if_true]

/-- Settles O31: each message's work on the block that has taken it is its effect on the state, since taking it changes nothing
that the work reads. -/
theorem tenancyIsSet : Obligations.TenancyIsSet := by
  unfold Obligations.TenancyIsSet
  refine ⟨⟨?_, message_sliceConfig⟩, ⟨message_partitionAssign, fun b p i hi => b.core_setPoints p hi⟩, fun core s hcore => ?_,
    message_countersRead, message_powerRead⟩
  · simpa only [Block.bind_eq] using message_coreBind
  · refine answers_of_run (f := fun b => if 16 ≤ core then b else b.modCore core (fun k => { k with point := max k.point k.pointTo })) rfl ?_
    rw [if_neg (by omega), Block.modCore_eq]

end Sys2Proof.Machine
end

section
/-!
Bytes of a store after a write, as runs.
-/
namespace Sys2Proof

theorem Mem.bytes_congr {m m' : Mem} {a n : Nat} (h : ∀ i, a ≤ i → i < a + n → Mem.byte m i = Mem.byte m' i) :
    Mem.bytes m a n = Mem.bytes m' a n := by
  induction n generalizing a with
  | zero => rfl
  | succ n ih =>
    rw [Mem.bytes, Mem.bytes, h a (by omega) (by omega), ih fun i hlo hhi => h i (by omega) (by omega)]

/-- What is written is read back as a run. -/
theorem Mem.bytes_write (m : Mem) (a : Nat) (l : List Byte) (h : Mem.wf m = true) : Mem.bytes (Mem.write m a l) a l.length = l := by
  induction l generalizing m a with
  | nil => rfl
  | cons x l ih =>
    have hhead : Mem.byte (Mem.write m a (x :: l)) a = x := Mem.byte_write_in m a (x :: l) 0 h (Nat.succ_pos _)
    rw [List.length_cons, Mem.bytes, hhead, Mem.write, ih _ _ (SMap.wf_set _ _ _ _ h)]

theorem Mem.bytes_write_out (m : Mem) (a : Nat) (l : List Byte) {c n : Nat} (h : c + n ≤ a ∨ a + l.length ≤ c) :
    Mem.bytes (Mem.write m a l) c n = Mem.bytes m c n :=
  Mem.bytes_congr fun i hlo hhi => Mem.byte_write_out m a l i (by omega)

/-- The space of an address and its offset, at a distance that stays below the end of the space (R294). -/
theorem bits_add {pa k : Nat} (h : bits pa 47 0 + k < 2 ^ 48) : bits (pa + k) 47 0 = bits pa 47 0 + k ∧ bits (pa + k) 51 48 = bits pa 51 48 := by
  unfold bits at h ⊢
  omega

end Sys2Proof
end

section
/-!
Trace rings in the DRAM tier: where records land and are counted, and what a record leaves of the rings and the memory (R38–R40).
-/
namespace Sys2Proof.Machine

/-! ### A record lands or is dropped -/

theorem Block.ownWrite_of_dram {b : Block} {pa k : Nat} (hspace : bits pa 51 48 = 0) (hk : bits pa 47 0 + k < 2 ^ 48) (l : List Byte) :
    b.ownWrite (pa + k) l = b.dramWrite (bits pa 47 0 + k) l [] := by
  obtain ⟨hoff, hsp⟩ := bits_add hk
  rw [ownWrite, hoff, hsp, if_pos hspace]

/-- A ring that is placed in the DRAM tier, or nowhere (R333). -/
def TraceRing.InDram (g : TraceRing) : Prop :=
  ∀ pa, g.placed = some pa → bits pa 51 48 = 0 ∧ bits pa 47 0 + 64 + 32 * 2 ^ g.log2 ≤ 2 ^ 48

/-- The offset in the DRAM tier where a ring at `a` takes its next record (R39). -/
def TraceRing.slot (g : TraceRing) (a : Nat) : Nat := a + 64 + 32 * (g.write % 2 ^ g.log2)

theorem TraceRing.slot_lt (g : TraceRing) (a : Nat) : g.slot a < a + 64 + 32 * 2 ^ g.log2 := by
  have hmod : g.write % 2 ^ g.log2 < 2 ^ g.log2 := Nat.mod_lt _ (by positivity)
  unfold slot
  omega

section
variable {b : Block} {r pa : Nat} (hplaced : (b.ring r).placed = some pa) (hdram : (b.ring r).InDram)
include hplaced hdram

theorem Block.traceLand_of_dram (rec : List Byte) :
    b.traceLand r rec = ((b.dramWrite ((b.ring r).slot (bits pa 47 0)) rec []).dramWrite (bits pa 47 0)
      (natLe 8 ((b.ring r).write + 1)) []).setRing r { b.ring r with write := (b.ring r).write + 1 } := by
  obtain ⟨hspace, hfit⟩ := hdram pa hplaced
  have hslot := (b.ring r).slot_lt (bits pa 47 0)
  have hnext : (b.ring r).next pa = pa + (64 + 32 * ((b.ring r).write % 2 ^ (b.ring r).log2)) := by
    rw [TraceRing.next, Nat.add_assoc, Nat.mul_comm 32]
  have hland : b.ownWrite ((b.ring r).next pa) rec = b.dramWrite ((b.ring r).slot (bits pa 47 0)) rec [] := by
    unfold TraceRing.slot at hslot ⊢
    rw [hnext, ownWrite_of_dram hspace (by omega), Nat.add_assoc]
  have hcount (c : Block) (l : List Byte) : c.ownWrite pa l = c.dramWrite (bits pa 47 0) l [] := if_pos hspace
  simp only [traceLand, hplaced, hland, hcount]

theorem Block.traceDrop_of_dram :
    b.traceDrop r = (b.dramWrite (bits pa 47 0 + 16) (natLe 8 ((b.ring r).dropped + 1)) []).setRing r
      { b.ring r with dropped := (b.ring r).dropped + 1 } := by
  obtain ⟨hspace, hfit⟩ := hdram pa hplaced
  simp only [traceDrop, hplaced, ownWrite_of_dram (k := 16) hspace (by omega)]

/-- R39, R40: the record is in its slot and the control block counts it. -/
theorem Block.traceLand_memory (hwf : Mem.wf b.dram.mem = true) {rec : List Byte} (hrec : rec.length = 32) :
    Mem.bytes (b.traceLand r rec).dram.mem ((b.ring r).slot (bits pa 47 0)) 32 = rec ∧
      Mem.bytes (b.traceLand r rec).dram.mem (bits pa 47 0) 8 = natLe 8 ((b.ring r).write + 1) ∧
      ∀ x, (x < (b.ring r).slot (bits pa 47 0) ∨ (b.ring r).slot (bits pa 47 0) + 32 ≤ x) → (x < bits pa 47 0 ∨ bits pa 47 0 + 8 ≤ x) →
        Mem.byte (b.traceLand r rec).dram.mem x = Mem.byte b.dram.mem x := by
  have hmem : (b.traceLand r rec).dram.mem = Mem.write (Mem.write b.dram.mem ((b.ring r).slot (bits pa 47 0)) rec) (bits pa 47 0)
      (natLe 8 ((b.ring r).write + 1)) := by
    rw [traceLand_of_dram hplaced hdram]
    rfl
  have hafter : bits pa 47 0 + 64 ≤ (b.ring r).slot (bits pa 47 0) := Nat.le_add_right ..
  rw [hmem]
  refine ⟨?_, ?_, fun x hslot hindex => ?_⟩
  · rw [Mem.bytes_write_out _ _ _ (by rw [natLe_length]; omega), ← hrec]
    exact Mem.bytes_write _ _ _ hwf
  · have hindex := Mem.bytes_write _ (bits pa 47 0) (natLe 8 ((b.ring r).write + 1)) (Mem.wf_write b.dram.mem ((b.ring r).slot (bits pa 47 0)) rec hwf)
    rwa [natLe_length] at hindex
  · rw [Mem.byte_write_out _ _ _ _ (by rwa [natLe_length]), Mem.byte_write_out _ _ _ _ (by rwa [hrec])]

/-- R40: the control block counts the record that is dropped. -/
theorem Block.traceDrop_memory (hwf : Mem.wf b.dram.mem = true) :
    Mem.bytes (b.traceDrop r).dram.mem (bits pa 47 0 + 16) 8 = natLe 8 ((b.ring r).dropped + 1) ∧
      ∀ x, (x < bits pa 47 0 + 16 ∨ bits pa 47 0 + 24 ≤ x) → Mem.byte (b.traceDrop r).dram.mem x = Mem.byte b.dram.mem x := by
  have hmem : (b.traceDrop r).dram.mem = Mem.write b.dram.mem (bits pa 47 0 + 16) (natLe 8 ((b.ring r).dropped + 1)) := by
    rw [traceDrop_of_dram hplaced hdram]
    rfl
  rw [hmem]
  refine ⟨?_, fun x hx => Mem.byte_write_out _ _ _ _ (by rwa [natLe_length])⟩
  have hcount := Mem.bytes_write _ (bits pa 47 0 + 16) (natLe 8 ((b.ring r).dropped + 1)) hwf
  rwa [natLe_length] at hcount

end

/-! ### What an event leaves -/

/-- What a record leaves of its ring: its place, size and mode. -/
abbrev TraceRing.site (g : TraceRing) : TraceRing := { g with write := 0, dropped := 0, wait := [] }

/-- The block without what trace records change where every ring is in the DRAM tier: stamps, log, rings and that memory. -/
abbrev Block.sansTrace (b : Block) : Block :=
  { b.muted with rings := [], dram := { b.dram with mem := [], poison := [], fails := [] } }

theorem TraceRing.InDram.of_site {g g' : TraceRing} (h : g.InDram) (hsite : g'.site = g.site) : g'.InDram := by
  have hplaced : g'.placed = g.placed := by simpa using congrArg TraceRing.placed hsite
  have hlog : g'.log2 = g.log2 := by simpa using congrArg TraceRing.log2 hsite
  unfold InDram
  rw [hplaced, hlog]
  exact h

section
variable (b : Block)

theorem Block.site_setRing {r : Nat} {g : TraceRing} (h : g.site = (b.ring r).site) (q : Nat) : ((b.setRing r g).ring q).site = (b.ring q).site := by
  by_cases hq : q = r
  · subst hq
    rw [ring_setRing_same, h]
  · rw [ring_setRing_other _ _ _ _ hq]

theorem Block.ring_dramWrite (o : Nat) (l : List Byte) (bad : List Nat) (q : Nat) : (b.dramWrite o l bad).ring q = b.ring q := rfl

theorem Block.mem_dramWrite (o : Nat) (l : List Byte) (bad : List Nat) : (b.dramWrite o l bad).dram.mem = Mem.write b.dram.mem o l := rfl

theorem Block.rings_ownWrite (pa : Nat) (l : List Byte) : (b.ownWrite pa l).rings = b.rings := by
  unfold ownWrite
  split <;> rfl

theorem Block.wf_ownWrite (pa : Nat) (l : List Byte) (h : Mem.wf b.dram.mem = true) : Mem.wf (b.ownWrite pa l).dram.mem = true := by
  unfold ownWrite
  split
  · exact Mem.wf_write _ _ _ h
  · exact h

/-- A ring in host memory sends its oldest record or nothing (R40). -/
theorem Block.traceSend_eq (r : Nat) : b.traceSend r = { b with treleb := (b.traceSend r).treleb } := by
  unfold traceSend
  dsimp only
  split
  · split <;> rfl
  · rfl

theorem Block.site_traceDrop (r q : Nat) : ((b.traceDrop r).ring q).site = (b.ring q).site := by
  unfold traceDrop
  dsimp only
  split
  · exact b.site_setRing (g := { b.ring r with dropped := (b.ring r).dropped + 1 }) rfl q
  · next pa _ =>
    have hrings (n : Nat) : (b.ownWrite (pa + 16) (natLe 8 ((b.ring r).dropped + 1))).ring n = b.ring n :=
      congrArg (fun l => SMap.get ({} : TraceRing) l n) (b.rings_ownWrite ..)
    rw [site_setRing _ (by rw [hrings]), hrings]

theorem Block.site_traceLand (r : Nat) (rec : List Byte) (q : Nat) : ((b.traceLand r rec).ring q).site = (b.ring q).site := by
  unfold traceLand
  dsimp only
  split
  · rfl
  · next pa _ =>
    have hrings (n : Nat) : ((b.ownWrite ((b.ring r).next pa) rec).ownWrite pa (natLe 8 ((b.ring r).write + 1))).ring n = b.ring n :=
      congrArg (fun l => SMap.get ({} : TraceRing) l n) ((rings_ownWrite ..).trans (b.rings_ownWrite ..))
    rw [site_setRing _ (by rw [hrings]), hrings]

theorem Block.ring_traceDrop_other {r q : Nat} (hq : q ≠ r) : (b.traceDrop r).ring q = b.ring q := by
  unfold traceDrop
  dsimp only
  rw [ring_setRing_other _ _ _ _ hq]
  split
  · rfl
  · exact congrArg (fun l => SMap.get ({} : TraceRing) l q) (b.rings_ownWrite ..)

theorem Block.ring_traceLand_other {r q : Nat} (rec : List Byte) (hq : q ≠ r) : (b.traceLand r rec).ring q = b.ring q := by
  unfold traceLand
  dsimp only
  split
  · rfl
  · rw [ring_setRing_other _ _ _ _ hq]
    exact congrArg (fun l => SMap.get ({} : TraceRing) l q) ((rings_ownWrite ..).trans (b.rings_ownWrite ..))

theorem Block.wf_traceDrop (r : Nat) (h : Mem.wf b.dram.mem = true) : Mem.wf (b.traceDrop r).dram.mem = true := by
  unfold traceDrop
  dsimp only
  split
  · exact h
  · exact b.wf_ownWrite _ _ h

theorem Block.wf_traceLand (r : Nat) (rec : List Byte) (h : Mem.wf b.dram.mem = true) : Mem.wf (b.traceLand r rec).dram.mem = true := by
  unfold traceLand
  dsimp only
  split
  · exact h
  · exact wf_ownWrite _ _ _ (b.wf_ownWrite _ _ h)

theorem Block.sansTrace_traceDrop (r : Nat) (h : (b.ring r).InDram) : (b.traceDrop r).sansTrace = b.sansTrace := by
  cases hp : (b.ring r).placed with
  | none => simp only [traceDrop, hp]; rfl
  | some pa => rw [traceDrop_of_dram hp h]; rfl

theorem Block.sansTrace_traceLand (r : Nat) (rec : List Byte) (h : (b.ring r).InDram) : (b.traceLand r rec).sansTrace = b.sansTrace := by
  cases hp : (b.ring r).placed with
  | none => simp only [traceLand, hp]
  | some pa => rw [traceLand_of_dram hp h]; rfl

/-- What an event can do: beside stamp and log, its record lands in its ring, joins those that wait for a ring in host memory, or is
dropped; where the ring is placed nowhere, nothing. -/
theorem Block.emit_cases (isl event ctx step arg : Nat) : ∃ c : Block, c.muted = b.muted ∧
    let r := ringOf isl
    (b.emit isl event ctx step arg = c ∨ ∃ pa, (c.ring r).placed = some pa ∧
      (b.emit isl event ctx step arg = c.traceDrop r ∨ (∃ rec, b.emit isl event ctx step arg = c.traceLand r rec) ∨
        (bits pa 51 48 ≠ 0 ∧ ∃ w, b.emit isl event ctx step arg = (c.setRing r { c.ring r with wait := (c.ring r).wait ++ [w] }).traceSend r))) := by
  unfold emit emitAt
  dsimp only
  generalize hlogged : (if logged event then _ else (b.stamp isl 0).2) = c
  have hmuted : c.muted = b.muted := by
    rw [← hlogged]
    split
    · exact muted_log ..
    · rfl
  split
  · exact ⟨c, hmuted, .inl rfl⟩
  · generalize hstamped : c.setIsland isl _ = d
    have hring : d.ring = c.ring := by rw [← hstamped]; rfl
    have hd : d.muted = b.muted := by rw [← hstamped]; exact hmuted
    rw [← hring]
    split
    · exact ⟨d, hd, .inl rfl⟩
    · next pa hp =>
      refine ⟨d, hd, .inr ⟨pa, hp, ?_⟩⟩
      split
      · exact .inl rfl
      · split
        · exact .inr (.inl ⟨_, rfl⟩)
        · next hspace => exact .inr (.inr ⟨hspace, _, rfl⟩)

theorem Block.ring_of_muted {c : Block} (h : c.muted = b.muted) (q : Nat) : c.ring q = b.ring q :=
  congrArg (fun x => x.ring q) h

/-- An event leaves every ring's place, size and mode (R40). -/
theorem Block.site_emit (isl event ctx step arg q : Nat) : ((b.emit isl event ctx step arg).ring q).site = (b.ring q).site := by
  obtain ⟨c, hc, h⟩ := b.emit_cases isl event ctx step arg
  rw [← b.ring_of_muted hc]
  obtain h | ⟨pa, -, h | ⟨rec, h⟩ | ⟨-, w, h⟩⟩ := h <;> rw [h]
  · exact c.site_traceDrop _ _
  · exact c.site_traceLand _ _ _
  · rw [traceSend_eq]
    exact c.site_setRing (g := { c.ring (ringOf isl) with wait := (c.ring (ringOf isl)).wait ++ [w] }) rfl q

theorem Block.wf_emit (isl event ctx step arg : Nat) (hwf : Mem.wf b.dram.mem = true) :
    Mem.wf (b.emit isl event ctx step arg).dram.mem = true := by
  obtain ⟨c, hc, h⟩ := b.emit_cases isl event ctx step arg
  have hdram : c.dram = b.dram := congrArg (fun x => x.dram) hc
  rw [← hdram] at hwf
  obtain h | ⟨pa, -, h | ⟨rec, h⟩ | ⟨-, w, h⟩⟩ := h <;> rw [h]
  · exact hwf
  · exact c.wf_traceDrop _ hwf
  · exact c.wf_traceLand _ _ hwf
  · rw [traceSend_eq]
    exact hwf

/-- An event changes no ring that is placed nowhere. -/
theorem Block.ring_emit_of_unplaced (isl event ctx step arg : Nat) {q : Nat} (hq : (b.ring q).placed = none) :
    (b.emit isl event ctx step arg).ring q = b.ring q := by
  obtain ⟨c, hc, h⟩ := b.emit_cases isl event ctx step arg
  rw [← b.ring_of_muted hc] at hq ⊢
  obtain h | ⟨pa, hp, h⟩ := h
  · rw [h]
  · have hother : q ≠ ringOf isl := by
      rintro rfl
      rw [hq] at hp
      cases hp
    obtain h | ⟨rec, h⟩ | ⟨-, w, h⟩ := h <;> rw [h]
    · exact c.ring_traceDrop_other hother
    · exact c.ring_traceLand_other rec hother
    · rw [traceSend_eq]
      exact c.ring_setRing_other _ _ _ hother

/-- Where every ring that is placed is in the DRAM tier, an event changes nothing else than trace. -/
theorem Block.sansTrace_emit (isl event ctx step arg : Nat) (hdram : ∀ q, (b.ring q).InDram) :
    (b.emit isl event ctx step arg).sansTrace = b.sansTrace := by
  obtain ⟨c, hc, h⟩ := b.emit_cases isl event ctx step arg
  have hsans : c.sansTrace = b.sansTrace :=
    congrArg (fun x : Block => { x with rings := [], dram := { x.dram with mem := [], poison := [], fails := [] } }) hc
  have hring : (c.ring (ringOf isl)).InDram := b.ring_of_muted hc _ ▸ hdram _
  rw [← hsans]
  obtain h | ⟨pa, hp, h | ⟨rec, h⟩ | ⟨hspace, w, h⟩⟩ := h
  · rw [h]
  · rw [h, c.sansTrace_traceDrop _ hring]
  · rw [h, c.sansTrace_traceLand _ _ hring]
  · exact absurd (hring pa hp).1 hspace

/-! ### Records of several islands, and records that wait -/

theorem Block.site_emitEach (l : List Nat) (event ctx step arg q : Nat) : ((b.emitEach l event ctx step arg).ring q).site = (b.ring q).site :=
  List.foldlRecOn (motive := fun c : Block => (c.ring q).site = (b.ring q).site) _ _ rfl fun c hc i _ =>
    (c.site_emit i event ctx step arg q).trans hc

theorem Block.quiet_emitEach (l : List Nat) (event ctx step arg : Nat) : (b.emitEach l event ctx step arg).quiet = b.quiet :=
  List.foldlRecOn (motive := fun c : Block => c.quiet = b.quiet) _ _ rfl fun c hc i _ => (c.emit_traced i event ctx step arg).1.trans hc

theorem Block.sansTrace_emitEach (l : List Nat) (event ctx step arg : Nat) (hdram : ∀ q, (b.ring q).InDram) :
    (b.emitEach l event ctx step arg).sansTrace = b.sansTrace := by
  have hboth := List.foldlRecOn (motive := fun c : Block => (∀ q, (c.ring q).InDram) ∧ c.sansTrace = b.sansTrace) l
    (fun b i => b.emit i event ctx step arg) ⟨hdram, rfl⟩ fun c ⟨hc, hsans⟩ i _ =>
      ⟨fun q => (hc q).of_site (c.site_emit i event ctx step arg q), (c.sansTrace_emit i event ctx step arg hc).trans hsans⟩
  exact hboth.2

/-- Records that wait for a ring move to its place in the DRAM tier. -/
theorem Block.traceMoved_eq {r pa : Nat} (hplaced : (b.ring r).placed = some pa) (hdram : (b.ring r).InDram) :
    (∀ q, ((b.traceMoved r).ring q).site = (b.ring q).site) ∧ (b.traceMoved r).quiet = b.quiet ∧ (b.traceMoved r).sansTrace = b.sansTrace := by
  have hmoved : b.traceMoved r = (b.ring r).wait.foldl (fun c w => c.traceLand r w.2) (b.setRing r { b.ring r with wait := [] }) := by
    simp only [traceMoved, hplaced, (hdram pa hplaced).1, if_true]
  rw [hmoved]
  refine List.foldlRecOn (motive := fun c : Block => (∀ q, (c.ring q).site = (b.ring q).site) ∧ c.quiet = b.quiet ∧ c.sansTrace = b.sansTrace)
    _ _ ⟨fun q => b.site_setRing (g := { b.ring r with wait := [] }) rfl q, rfl, rfl⟩ fun c ⟨hsite, hquiet, hsans⟩ w _ => ?_
  exact ⟨fun q => (c.site_traceLand ..).trans (hsite q), (c.quiet_traceLand ..).trans hquiet,
    (c.sansTrace_traceLand _ _ (hdram.of_site (hsite r))).trans hsans⟩

end

/-! ### A ring is placed -/

/-- The block once a ring has been placed (R38, R39, R333): its control block, the records that waited for it, and where it is its
first place since cold start the event of each of its islands (R42). -/
def Block.ringPlaced (b : Block) (r pa log2 mode : Nat) : Block :=
  let c := (b.placeRing pa log2 mode).1
  let d := (c.setRing r { c.ring r with placed := some pa, log2 := log2, stop := mode == 1, write := 0, dropped := 0, ever := true }).traceMoved r
  if !(c.ring r).ever then d.emitEach (allIslands.filter (fun i => ringOf i == r)) 0x0703 0xFF 0 2 else d

section
variable {b : Block} (r : Nat) {pa log2 : Nat} (mode : Nat) (hspace : bits pa 51 48 = 0) (hfit : bits pa 47 0 + 64 + 32 * 2 ^ log2 ≤ 2 ^ 48)

/-- The bytes of a control block whose ring is empty (R39). -/
def controlBlock (log2 mode : Nat) : List Byte := natLe 24 0 ++ natLe 1 log2 ++ natLe 1 mode ++ natLe 38 0

/-- A ring's control block and its entry, at its place. -/
def Block.ringSet (b : Block) (r pa log2 mode : Nat) : Block :=
  (b.dramWrite (bits pa 47 0) (controlBlock log2 mode) []).setRing r
    { b.ring r with placed := some pa, log2 := log2, stop := mode == 1, write := 0, dropped := 0, ever := true }

theorem Block.ring_ringSet : (b.ringSet r pa log2 mode).ring r =
    { b.ring r with placed := some pa, log2 := log2, stop := mode == 1, write := 0, dropped := 0, ever := true } :=
  ring_setRing_same ..

theorem Block.ring_ringSet_other {q : Nat} (hq : q ≠ r) : (b.ringSet r pa log2 mode).ring q = b.ring q :=
  (ring_setRing_other _ _ _ _ hq).trans (ring_dramWrite ..)

theorem Block.quiet_ringSet : (b.ringSet r pa log2 mode).quiet = b.quiet :=
  (quiet_setRing ..).trans (quiet_dramWrite ..)

theorem Block.sansTrace_dramWrite (o : Nat) (l : List Byte) (bad : List Nat) : (b.dramWrite o l bad).sansTrace = b.sansTrace := rfl

theorem Block.sansTrace_setRing (g : TraceRing) : (b.setRing r g).sansTrace = b.sansTrace := rfl

theorem Block.sansTrace_ringSet : (b.ringSet r pa log2 mode).sansTrace = b.sansTrace :=
  (sansTrace_setRing ..).trans (sansTrace_dramWrite ..)

include hspace in
theorem Block.ringPlaced_of_dram : b.ringPlaced r pa log2 mode =
    if !(b.ring r).ever then ((b.ringSet r pa log2 mode).traceMoved r).emitEach (allIslands.filter (fun i => ringOf i == r)) 0x0703 0xFF 0 2
    else (b.ringSet r pa log2 mode).traceMoved r := by
  have hput : b.placeRing pa log2 mode = (b.dramWrite (bits pa 47 0) (controlBlock log2 mode) [], true) := if_pos hspace
  simp only [ringPlaced, hput]
  cases hever : (b.ring r).ever <;> simp only [ring_dramWrite, hever, ringSet]

include hspace hfit

theorem Block.inDram_ringSet : ((b.ringSet r pa log2 mode).ring r).InDram := by
  rw [ring_ringSet]
  intro a ha
  dsimp only at ha ⊢
  obtain rfl : pa = a := Option.some.inj ha
  exact ⟨hspace, hfit⟩

theorem Block.traceMoved_ringSet :
    (∀ q, (((b.ringSet r pa log2 mode).traceMoved r).ring q).site = ((b.ringSet r pa log2 mode).ring q).site) ∧
      ((b.ringSet r pa log2 mode).traceMoved r).quiet = b.quiet ∧ ((b.ringSet r pa log2 mode).traceMoved r).sansTrace = b.sansTrace := by
  have h := (b.ringSet r pa log2 mode).traceMoved_eq (pa := pa) (by rw [ring_ringSet]) (inDram_ringSet r mode hspace hfit)
  rwa [quiet_ringSet, sansTrace_ringSet] at h

theorem Block.site_ringPlaced : ((b.ringPlaced r pa log2 mode).ring r).site = { placed := some pa, log2 := log2, stop := mode == 1, ever := true } := by
  obtain ⟨hsite, -, -⟩ := traceMoved_ringSet (b := b) r mode hspace hfit
  have hset : (((b.ringSet r pa log2 mode).traceMoved r).ring r).site = { placed := some pa, log2 := log2, stop := mode == 1, ever := true } := by
    rw [hsite, ring_ringSet]
  rw [ringPlaced_of_dram r mode hspace]
  split
  · rw [site_emitEach, hset]
  · exact hset

theorem Block.quiet_ringPlaced : (b.ringPlaced r pa log2 mode).quiet = b.quiet := by
  obtain ⟨-, hquiet, -⟩ := traceMoved_ringSet (b := b) r mode hspace hfit
  rw [ringPlaced_of_dram r mode hspace]
  split
  · rw [quiet_emitEach, hquiet]
  · exact hquiet

/-- With no other ring placed, placing one in the DRAM tier changes nothing else than trace. -/
theorem Block.sansTrace_ringPlaced (hnone : ∀ q, (b.ring q).placed = none) : (b.ringPlaced r pa log2 mode).sansTrace = b.sansTrace := by
  obtain ⟨hsite, -, hsans⟩ := traceMoved_ringSet (b := b) r mode hspace hfit
  have hdram (q : Nat) : (((b.ringSet r pa log2 mode).traceMoved r).ring q).InDram := by
    refine TraceRing.InDram.of_site ?_ (hsite q)
    by_cases hq : q = r
    · subst hq
      exact inDram_ringSet q mode hspace hfit
    · intro a ha
      rw [ring_ringSet_other _ _ hq, hnone q] at ha
      cases ha
  rw [ringPlaced_of_dram r mode hspace]
  split
  · rw [sansTrace_emitEach _ _ _ _ _ _ hdram, hsans]
  · exact hsans

omit hfit in
/-- A ring that was placed before, for which no record waits, is placed as it is set. -/
theorem Block.ringPlaced_of_ever (hever : (b.ring r).ever = true) (hwait : (b.ring r).wait = []) :
    b.ringPlaced r pa log2 mode = (b.ringSet r pa log2 mode).setRing r
      { b.ring r with placed := some pa, log2 := log2, stop := mode == 1, write := 0, dropped := 0, ever := true, wait := [] } := by
  have hring := ring_ringSet (b := b) (pa := pa) (log2 := log2) r mode
  rw [ringPlaced_of_dram r mode hspace, hever]
  simp only [traceMoved, hring, hwait, hspace, if_true, List.foldl_nil, Bool.not_true, Bool.false_eq_true, if_false]

omit hfit in
/-- R38, R39: the control block of a ring that is placed anew is that of an empty ring. -/
theorem Block.ringPlaced_empty (hever : (b.ring r).ever = true) (hwait : (b.ring r).wait = []) (hwf : Mem.wf b.dram.mem = true) :
    ((b.ringPlaced r pa log2 mode).ring r).write = 0 ∧ ((b.ringPlaced r pa log2 mode).ring r).dropped = 0 ∧
      Mem.bytes (b.ringPlaced r pa log2 mode).dram.mem (bits pa 47 0) 64 = controlBlock log2 mode := by
  have hmem := Mem.bytes_write b.dram.mem (bits pa 47 0) (controlBlock log2 mode) hwf
  have hlength : (controlBlock log2 mode).length = 64 := by simp only [controlBlock, List.length_append, natLe_length]
  rw [hlength] at hmem
  rw [ringPlaced_of_ever r mode hspace hever hwait, ring_setRing_same, dram_setRing, ringSet, dram_setRing, mem_dramWrite, hmem]
  exact ⟨rfl, rfl, rfl⟩

end

/-! ### TRACE_RING_CONFIG -/

theorem message_traceRingConfig_removed :
    Message .traceRingConfig 0x0602 (fun _ _ m => fld (mPl m) 0 1 ≤ 4 ∧ fld (mPl m) 1 1 = 0 ∧ fld (mPl m) 2 1 ≤ 1 ∧ rsv (mPl m) 3 5 = true ∧
      rsv (mPl m) 16 40 = true)
    stOK (fun _ _ _ => [])
    (fun s page m => (s.mbTake page m).setRing (fld (mPl m) 0 1)
      { (s.mbTake page m).ring (fld (mPl m) 0 1) with placed := none, wait := [] }) :=
  message_of_reply (fun _ _ => rfl) fun page s m _ ⟨hring, hsize, hmode, hrsv, hrsv'⟩ => by
    refine ⟨(s.mbTake page m).setRing (fld (mPl m) 0 1) { (s.mbTake page m).ring (fld (mPl m) 0 1) with placed := none, wait := [] },
      ?_, rfl, rfl, fun _ => rfl⟩
    have hsound : ¬(4 < fld (mPl m) 0 1 ∨ 1 < fld (mPl m) 2 1 ∨ (!rsv (mPl m) 3 5) = true ∨ (!rsv (mPl m) 16 40) = true ∨
        (fld (mPl m) 1 1 ≠ 0 ∧ (fld (mPl m) 1 1 < 11 ∨ 25 < fld (mPl m) 1 1))) := by
      simp only [hrsv, hrsv', Bool.not_true, Bool.false_eq_true, false_or]
      omega
    rw [if_neg hsound, if_pos hsize]

theorem exec_traceRingConfig {page : Nat} {s : State} {m : List Byte} (hturn : s.Turn page 0x0602 m) (hring : fld (mPl m) 0 1 ≤ 4)
    (hlow : 11 ≤ fld (mPl m) 1 1) (hhigh : fld (mPl m) 1 1 ≤ 25) (hmode : fld (mPl m) 2 1 ≤ 1) (hrsv : rsv (mPl m) 3 5 = true)
    (hrsv' : rsv (mPl m) 16 40 = true) (hself : bits (fld (mPl m) 8 8) 63 52 = s.self) (hspace : bits (fld (mPl m) 8 8) 51 48 = 0)
    (halign : fld (mPl m) 8 8 % 64 = 0) (husable : dramUsable (bits (fld (mPl m) 8 8) 47 0) (64 + 32 * 2 ^ fld (mPl m) 1 1) = true)
    (hpart : (s.part (bits (fld (mPl m) 8 8) 47 0 / 2 ^ 40)).state < 2) :
    exec (.traceRingConfig page) s = .next { s with toBlock := (((s.mbTake page m).ringPlaced (fld (mPl m) 0 1) (fld (mPl m) 8 8)
      (fld (mPl m) 1 1) (fld (mPl m) 2 1)).mbReply page m stOK []).mbDrain page } := by
  have htake := s.leaves_mbTake page m
  have hself' : (s.mbTake page m).self = s.self := htake.observe (·.self)
  have hpart' (p : Nat) : (s.mbTake page m).part p = s.part p := htake.observe (·.part p)
  have hput : ((s.mbTake page m).placeRing (fld (mPl m) 8 8) (fld (mPl m) 1 1) (fld (mPl m) 2 1)).2 = true := by
    rw [Block.placeRing, if_pos hspace]
  have hsound : ¬(4 < fld (mPl m) 0 1 ∨ 1 < fld (mPl m) 2 1 ∨ (!rsv (mPl m) 3 5) = true ∨ (!rsv (mPl m) 16 40) = true ∨
      (fld (mPl m) 1 1 ≠ 0 ∧ (fld (mPl m) 1 1 < 11 ∨ 25 < fld (mPl m) 1 1))) := by
    simp only [hrsv, hrsv', Bool.not_true, Bool.false_eq_true, false_or]
    omega
  show State.run s (·.traceRingConfig page) = _
  rw [State.run_eq, Block.traceRingConfig, Block.mbOp_of_turn hturn.1, if_neg hsound, if_neg (by omega), if_neg]
  · simp only [hput, Bool.not_true, Bool.false_eq_true, if_false, Block.ringPlaced]
  · rw [hself', hpart']
    rintro (h | h | h | ⟨-, h | h⟩)
    · exact h hself
    · exact h.1 hspace
    · exact h halign
    · simp [husable] at h
    · omega

theorem Block.wf_mbTake {b : Block} (h : Mem.wf b.dram.mem = true) (page : Nat) (m : List Byte) :
    Mem.wf (b.mbTake page m).dram.mem = true :=
  wf_emit _ _ _ _ _ _ h

theorem Block.ring_mbTake_of_unplaced {b : Block} {q : Nat} (h : (b.ring q).placed = none) (page : Nat) (m : List Byte) :
    (b.mbTake page m).ring q = b.ring q :=
  ring_emit_of_unplaced _ _ _ _ _ _ h

/-- The block without mailboxes, rings and the memory that holds rings in the DRAM tier. -/
abbrev Block.sansRings (b : Block) : Block :=
  { b with mboxes := [], rings := [], dram := { b.dram with mem := [], poison := [], fails := [] } }

/-- What placing a ring leaves of a block that has taken the message. -/
theorem Block.leaves_ringPlaced {b : Block} {page r pa log2 mode : Nat} {m : List Byte} (hspace : bits pa 51 48 = 0)
    (hfit : bits pa 47 0 + 64 + 32 * 2 ^ log2 ≤ 2 ^ 48) :
    Leaves Block.sansRings b
      ((b.mbTake page m).ringPlaced r pa log2 mode) := by
  have htake := b.leaves_mbTake page m
  have hquiet := quiet_ringPlaced (b := b.mbTake page m) r mode hspace hfit
  refine ⟨?_, fun hnone => ?_⟩
  · have h := htake.1
    rw [← hquiet] at h
    have hrings := congrArg sansRings h
    exact hrings
  · have hnone' (q : Nat) : ((b.mbTake page m).ring q).placed = none := by rw [ring_mbTake_of_unplaced (hnone q), hnone q]
    have hsans := congrArg sansMail (sansTrace_ringPlaced r mode hspace hfit hnone')
    have hrings := congrArg sansRings (htake.2 hnone)
    exact hsans.trans hrings

/-- Settles O32: an event's record is the only thing that changes a ring (`Block.emit_cases`), so the message that places a ring finds
it as it was, and a record in the DRAM tier is two writes, of its slot and of the control block. -/
theorem traceRingsTakeRecords : Obligations.TraceRingsTakeRecords := by
  unfold Obligations.TraceRingsTakeRecords
  refine ⟨⟨message_traceRingConfig_removed, ?_⟩, ?_⟩
  · intro page s m hturn hring hlow hhigh hmode hrsv hrsv' hself hspace halign husable hpart
    have hfit : bits (fld (mPl m) 8 8) 47 0 + 64 + 32 * 2 ^ fld (mPl m) 1 1 ≤ 2 ^ 48 := by
      have hroom := of_decide_eq_true husable
      omega
    have hexec := exec_traceRingConfig hturn hring hlow hhigh hmode hrsv hrsv' hself hspace halign husable hpart
    have hquiet := Block.quiet_ringPlaced (b := s.mbTake page m) (fld (mPl m) 0 1) (fld (mPl m) 2 1) hspace hfit
    refine (answers_of_reply hturn hexec (congrArg (fun x => x.mboxes) hquiet)).mono fun t ht => ?_
    obtain ⟨hreplied, -, -, ht⟩ := ht
    have hring : t.ring (fld (mPl m) 0 1) = _ := congrArg (fun x => x.ring (fld (mPl m) 0 1)) ht
    have hmem : t.dram = _ := congrArg (fun x => x.dram) ht
    have hsite := Block.site_ringPlaced (b := s.mbTake page m) (fld (mPl m) 0 1) (fld (mPl m) 2 1) hspace hfit
    have hleaves := Block.leaves_ringPlaced (b := s.toBlock) (page := page) (r := fld (mPl m) 0 1) (mode := fld (mPl m) 2 1) (m := m) hspace hfit
    rw [hring, hmem]
    refine ⟨hreplied, congrArg (fun g => g.placed) hsite, congrArg (fun g => g.log2) hsite, congrArg (fun g => g.stop) hsite,
      congrArg (fun g => g.ever) hsite, ?_, fun hever hnone hwait hwf => ?_⟩
    · exact ⟨(congrArg (fun x => x.quiet.sansRings) ht).trans hleaves.1,
        fun hp => (congrArg (fun x => x.muted.sansRings) ht).trans (hleaves.2 hp)⟩
    · have htake := Block.ring_mbTake_of_unplaced hnone page m
      exact Block.ringPlaced_empty _ _ hspace (by rw [htake, hever]) (by rw [htake, hwait]) (Block.wf_mbTake hwf page m)
  · intro b r pa rec hplaced hspace hrec hfit hwf
    have hdram : (b.ring r).InDram := fun a ha => by
      obtain rfl : pa = a := Option.some.inj (hplaced.symm.trans ha)
      exact ⟨hspace, hfit⟩
    obtain ⟨hslot, hindex, hother⟩ := Block.traceLand_memory hplaced hdram hwf hrec
    obtain ⟨hcount, hrest⟩ := Block.traceDrop_memory hplaced hdram hwf
    refine ⟨⟨hslot, hindex, ?_, ?_, hother⟩, hcount, ?_, ?_, hrest⟩
    · rw [Block.traceLand_of_dram hplaced hdram, Block.ring_setRing_same]
    · rw [Block.traceLand_of_dram hplaced hdram]; rfl
    · rw [Block.traceDrop_of_dram hplaced hdram, Block.ring_setRing_same]
    · rw [Block.traceDrop_of_dram hplaced hdram]; rfl

end Sys2Proof.Machine
end

section
/-!
An engine instruction completes (R119, R154): what the head of a queue leaves of its core once it has executed, said once for the
three engines.
-/
namespace Sys2Proof.Machine

/-! ### The sequencer state that an engine instruction works on -/

section
variable {k : Core} {o : EngOp} (hcurrent : ∀ x ∈ k.old, x.1 ≠ o.kid)
include hcurrent

theorem Core.engSeq_of_current : k.engSeq o = k.seq o.ctx := by
  have hfind : k.old.find? (fun x => x.1 == o.kid) = none :=
    List.find?_eq_none.mpr fun x hx heq => hcurrent x hx (beq_iff_eq.mp heq)
  rw [engSeq, hfind]

theorem Core.setEngSeq_of_current (q : SeqState) : k.setEngSeq o q = k.setSeq o.ctx q := by
  have hany : ¬ k.old.any (fun x => x.1 == o.kid) = true := fun hany => by
    obtain ⟨x, hx, heq⟩ := List.any_eq_true.mp hany
    exact hcurrent x hx (beq_iff_eq.mp heq)
  rw [setEngSeq, if_neg hany]

end

/-! ### Markers and the core that is left -/

/-- The markers change tags alone (R154). -/
theorem EngOp.markers_eq (o : EngOp) (k0 k : Core) : o.markers k0 k = { k with tags := (o.markers k0 k).tags } := by
  refine List.foldlRecOn (motive := fun x : Core => x = { k with tags := x.tags }) _ _ rfl fun x hx t _ => ?_
  split
  · rw [hx]
    rfl
  · exact hx

/-- The core once the instruction `o` has executed on engine `e` and only `rest` remains of its queue. -/
def Block.engineDone (b : Block) (core e : Nat) (o : EngOp) (rest : List EngOp) : Core :=
  let k := o.markers (b.core core) (b.engineRun core o)
  { ((k.setEngineQ e rest).trimOld) with
    arrProg := if e = 0 then b.time.keeper else k.arrProg
    vecProg := if e = 1 then b.time.keeper else k.vecProg
    sfuProg := if e = 2 then b.time.keeper else k.sfuProg }

/-- The head of an engine queue that may run leaves its core at `Block.engineDone`, and nothing else changes. -/
theorem answers_engineInstructionCompletes {s : State} {core e : Nat} {o : EngOp} {rest : List EngOp} (h : s.HeadRuns core e o rest)
    {P : State → Prop} (hP : ∀ t, onlyCore s t core → t.core core = s.engineDone core e o rest → P t) :
    Answers (.engineInstructionCompletes core e) s P := by
  obtain ⟨hup, he, hqueue, hready, hfault⟩ := h
  have hruns : ¬((!s.coreUp core) = true ∨ 2 < e ∨ (!(s.core core).headReady o) = true ∨ (s.engineFault core o).isSome = true) := by
    simp only [hup, hready, hfault, Bool.not_true, Bool.false_eq_true, Option.isSome_none, false_or, or_false]
    omega
  have hexec : exec (.engineInstructionCompletes core e) s =
      .next { s with toBlock := s.toBlock.setCore core (s.engineDone core e o rest) } := by
    show execEngineInstructionCompletes core e s = _
    simp only [execEngineInstructionCompletes, State.run_eq, hqueue, if_neg hruns]
    rfl
  refine ⟨_, hexec, rfl, hP _ ⟨fun c hc => ?_, rfl, stampsOnly_of rfl⟩ ?_⟩
  · exact Block.core_setCore_other _ _ _ _ hc
  · exact Block.core_setCore_same ..

/-- Where the instruction's work is to set its context's sequencer state, that and what its end moves on are all that changes of
the core; `Core.setEngineQ` says which queue. -/
theorem Block.engineDone_of_setSeq {b : Block} {core e : Nat} {o : EngOp} {q : SeqState}
    (hrun : b.engineRun core o = (b.core core).setSeq o.ctx q) (rest : List EngOp) :
    b.engineDone core e o rest = { ((b.core core).setSeq o.ctx q).setEngineQ e rest with
      tags := (b.engineDone core e o rest).tags, old := (b.engineDone core e o rest).old
      arrProg := if e = 0 then b.time.keeper else (b.core core).arrProg
      vecProg := if e = 1 then b.time.keeper else (b.core core).vecProg
      sfuProg := if e = 2 then b.time.keeper else (b.core core).sfuProg } := by
  rw [engineDone, hrun, EngOp.markers_eq]
  match e with
  | 0 => rfl
  | 1 => rfl
  | _ + 2 => rfl

end Sys2Proof.Machine
end

section
/-!
The tensor array (R72, R73, R83): reads of an accumulator bank after a write, after a row and after a tile are written, and the tile
that a TMMA writes.
-/
namespace Sys2Proof.Machine

/-! ### Elements of a bank -/

section
variable (q : SeqState) {bank row col bank' row' col' : Nat}

/-- An element is stored by bank, row and column: two elements of banks of 128 by 128 never meet (R72). -/
theorem SeqState.accAt_setAcc (v : W32) (hrow : row < 128) (hcol : col < 128) (hrow' : row' < 128) (hcol' : col' < 128) :
    (q.setAcc bank row col v).accAt bank' row' col' =
      if bank' = bank ∧ row' = row ∧ col' = col then v else q.accAt bank' row' col' := by
  split
  case isTrue hsame =>
    obtain ⟨rfl, rfl, rfl⟩ := hsame
    exact SMap.get_put_same ..
  case isFalse hother => exact SMap.get_put_other _ _ _ _ _ (by omega)

@[simp] theorem SeqState.accAt_accWritten (n : Nat) : (q.accWritten bank row n).accAt bank' row' col' = q.accAt bank' row' col' := rfl

end

/-! ### Rows and tiles -/

/-- The first `n` elements of a row of a bank are written with the values `f`. -/
def SeqState.fillRow (q : SeqState) (bank row n : Nat) (f : Nat → W32) : SeqState :=
  (List.range n).foldl (fun q j => q.setAcc bank row j (f j)) q

/-- A tile at the origin of a bank is written with the values `f`, row after row. -/
def SeqState.fillTile (q : SeqState) (bank rows cols : Nat) (f : Nat → Nat → W32) : SeqState :=
  (List.range rows).foldl (fun q i => (q.accWritten bank i cols).fillRow bank i cols (f i)) q

section
variable (q : SeqState) {bank bank' row' col' : Nat} (hrow' : row' < 128) (hcol' : col' < 128)
include hrow' hcol'

theorem SeqState.accAt_fillRow {row n : Nat} (hrow : row < 128) (hn : n ≤ 128) (f : Nat → W32) :
    (q.fillRow bank row n f).accAt bank' row' col' =
      if bank' = bank ∧ row' = row ∧ col' < n then f col' else q.accAt bank' row' col' := by
  induction n with
  | zero => simp [fillRow]
  | succ n ih =>
    have hsucc : q.fillRow bank row (n + 1) f = (q.fillRow bank row n f).setAcc bank row n (f n) := by
      simp only [fillRow, List.range_succ, List.foldl_append, List.foldl_cons, List.foldl_nil]
    rw [hsucc, accAt_setAcc _ _ hrow hn hrow' hcol', ih (by omega)]
    by_cases hnew : col' = n
    · subst hnew
      simp
    · have hbelow : col' < n + 1 ↔ col' < n := by omega
      simp only [hnew, hbelow, and_false, if_false]

theorem SeqState.accAt_fillTile {rows cols : Nat} (hrows : rows ≤ 128) (hcols : cols ≤ 128) (f : Nat → Nat → W32) :
    (q.fillTile bank rows cols f).accAt bank' row' col' =
      if bank' = bank ∧ row' < rows ∧ col' < cols then f row' col' else q.accAt bank' row' col' := by
  induction rows with
  | zero => simp [fillTile]
  | succ n ih =>
    have hsucc : q.fillTile bank (n + 1) cols f = ((q.fillTile bank n cols f).accWritten bank n cols).fillRow bank n cols (f n) := by
      simp only [fillTile, List.range_succ, List.foldl_append, List.foldl_cons, List.foldl_nil]
    rw [hsucc, accAt_fillRow _ hrow' hcol' hrows hcols, accAt_accWritten, ih (by omega)]
    by_cases hnew : row' = n
    · subst hnew
      simp
    · have hbelow : row' < n + 1 ↔ row' < n := by omega
      simp only [hnew, hbelow, false_and, and_false, if_false]

end

/-- A tile's writes touch nothing of the sequencer state but the accumulators and their check bits. -/
theorem SeqState.fillTile_eq (q : SeqState) (bank rows cols : Nat) (f : Nat → Nat → W32) : q.fillTile bank rows cols f =
    { q with acc := (q.fillTile bank rows cols f).acc, accBad := (q.fillTile bank rows cols f).accBad } := by
  have hrow (x : SeqState) (i : Nat) : x.fillRow bank i cols (f i) = { x with acc := (x.fillRow bank i cols (f i)).acc } :=
    List.foldlRecOn (motive := fun y : SeqState => y = { x with acc := y.acc }) _ _ rfl fun y hy j _ => by rw [hy]; rfl
  refine List.foldlRecOn (motive := fun x : SeqState => x = { q with acc := x.acc, accBad := x.accBad }) _ _ rfl fun x hx i _ => ?_
  rw [hrow, hx]
  rfl

/-! ### TMMA -/

/-- What a TMMA makes of the element `x`, from its row `a` of A and its column `b` of B: the grouped sum started from the element, or
from zero where ZERO is set (R73, R83). -/
def tmmaElem (w : W128) (a b : List Val) (x : W32) : W32 :=
  toF32 (group (if bit w.toNat 121 then Val.fin false 0 0 else f32 x) ((a.zip b).map (fun p => p.1.mul p.2)))

/-- Row `i` of the A operand of a queued TMMA whose A descriptor is `d`. -/
abbrev Core.tmmaRow (k : Core) (o : EngOp) (d : ScaleDesc) (i : Nat) : List Val :=
  lineVals d.elem d.bscale (k.operandCodes o.swap (tmmaA o.word o.vals d)) (k.operandScales o.swap (tmmaA o.word o.vals d)) i

/-- Column `j` of a B operand as the hold register has it (R79). -/
abbrev Hold.column (h : Hold) (j : Nat) : List Val := lineVals h.fmt h.bscale h.codes h.scales j

/-- The B operand of a TMMA that reads it from the scratchpad, with the descriptor `d`. -/
abbrev Core.tmmaRead (k : Core) (o : EngOp) (d : ScaleDesc) : Hold :=
  ⟨wf_ o.word 105 98, d.elem, d.bscale, k.operandCodes o.swap (tmmaB o.word o.vals d), k.operandScales o.swap (tmmaB o.word o.vals d)⟩

/-- The sequencer state after a TMMA with rows `a` of A and the B operand `h`. -/
def SeqState.tmma (q : SeqState) (w : W128) (a : Nat → List Val) (h : Hold) : SeqState :=
  let q' := q.fillTile (wf_ w 123 122) (wf_ w 113 106) (wf_ w 105 98) (fun i j => tmmaElem w (a i) (h.column j) (q.accAt (wf_ w 123 122) i j))
  if bit w.toNat 119 then { q' with hold := some h, holdBad := false } else q'

/-- A fold along a row that counts its columns writes each column with the value at its count. -/
theorem SeqState.foldl_columns (q : SeqState) (bank row n : Nat) (column : Nat → List Val) (f : List Val → Nat → W32) :
    (((List.range n).map column).foldl (fun (st : Nat × SeqState) b => (st.1 + 1, st.2.setAcc bank row st.1 (f b st.1))) (0, q)) =
      (n, q.fillRow bank row n (fun j => f (column j) j)) := by
  induction n with
  | zero => rfl
  | succ n ih =>
    simp only [fillRow, List.range_succ, List.map_append, List.map_cons, List.map_nil, List.foldl_append, List.foldl_cons,
      List.foldl_nil] at ih ⊢
    rw [ih]

/-- The B operand that a TMMA works with: the hold register's, or the one it reads (R79). -/
def Core.TmmaOperand (k : Core) (o : EngOp) (h : Hold) : Prop :=
  if bit o.word.toNat 120 then (k.engSeq o).hold = some h
  else ∃ d, ScaleDesc.parse o.descB = some d ∧ h = k.tmmaRead o d

theorem tmmaRun_eq {k : Core} {o : EngOp} {d : ScaleDesc} {h : Hold} (hA : ScaleDesc.parse o.descA = some d) (hB : k.TmmaOperand o h) :
    tmmaRun k o = k.setEngSeq o ((k.engSeq o).tmma o.word (k.tmmaRow o d) h) := by
  have hsource : (if bit o.word.toNat 120 then (k.engSeq o).hold else (ScaleDesc.parse o.descB).map (k.tmmaRead o)) = some h := by
    rw [Core.TmmaOperand] at hB
    split
    case isTrue hheld => rwa [if_pos hheld] at hB
    case isFalse hheld =>
      rw [if_neg hheld] at hB
      obtain ⟨d2, hdesc, rfl⟩ := hB
      rw [hdesc]
      rfl
  have hrow (q : SeqState) (i : Nat) := q.foldl_columns (wf_ o.word 123 122) i (wf_ o.word 105 98) h.column
    (fun b j => tmmaElem o.word (k.tmmaRow o d i) b ((k.engSeq o).accAt (wf_ o.word 123 122) i j))
  unfold tmmaElem at hrow
  simp only [tmmaRun, hA]
  rw [hsource]
  dsimp only
  simp only [hrow]
  rfl

section
variable (q : SeqState) (w : W128) (a : Nat → List Val) (h : Hold)

/-- A TMMA changes the accumulators, and the hold register where HOLD is set. -/
theorem SeqState.tmma_frame : { q.tmma w a h with acc := [], accBad := [], hold := none, holdBad := false } =
    { q with acc := [], accBad := [], hold := none, holdBad := false } := by
  rw [tmma, fillTile_eq]
  split <;> rfl

theorem SeqState.hold_tmma : (q.tmma w a h).hold = if bit w.toNat 119 then some h else q.hold := by
  rw [tmma, fillTile_eq]
  split <;> rfl

/-- An element of a bank after a TMMA: of its tile, what `tmmaElem` makes of it, and any other as it was. -/
theorem SeqState.accAt_tmma {bank i j : Nat} (hi : i < 128) (hj : j < 128) (hrows : wf_ w 113 106 ≤ 128) (hcols : wf_ w 105 98 ≤ 128) :
    (q.tmma w a h).accAt bank i j =
      if bank = wf_ w 123 122 ∧ i < wf_ w 113 106 ∧ j < wf_ w 105 98 then
        tmmaElem w (a i) (h.column j) (q.accAt (wf_ w 123 122) i j)
      else q.accAt bank i j := by
  have hacc : (q.tmma w a h).acc = (q.fillTile (wf_ w 123 122) (wf_ w 113 106) (wf_ w 105 98)
      (fun i j => tmmaElem w (a i) (h.column j) (q.accAt (wf_ w 123 122) i j))).acc := by
    rw [tmma]
    split <;> rfl
  rw [accAt, hacc]
  exact q.accAt_fillTile hi hj hrows hcols _

end

/-- Settles O12: the array's nested folds fill the tile element by element (`tmmaRun_eq`), and no two elements of a bank share their
place, so an element of the tile is the grouped sum and any other is as it was (`SeqState.accAt_tmma`). -/
theorem tmmaAccumulates : Obligations.TmmaAccumulates := by
  unfold Obligations.TmmaAccumulates
  intro core s o rest d h hhead hop hA hcurrent hB hrows hcols
  have hseq := Core.engSeq_of_current hcurrent
  have hoperand : (s.core core).TmmaOperand o h := by
    rw [Core.TmmaOperand, hseq]
    exact hB
  have hrun : s.engineRun core o = (s.core core).setSeq o.ctx (((s.core core).seq o.ctx).tmma o.word ((s.core core).tmmaRow o d) h) := by
    simp only [Block.engineRun, hop]
    rw [tmmaRun_eq hA hoperand, Core.setEngSeq_of_current hcurrent, hseq]
  refine answers_engineInstructionCompletes hhead fun t honly hcore => ?_
  rw [Block.engineDone_of_setSeq hrun] at hcore
  have hseqs (x : Nat) : (t.core core).seq x = ((s.core core).setSeq o.ctx
      (((s.core core).seq o.ctx).tmma o.word ((s.core core).tmmaRow o d) h)).seq x := by rw [hcore]; rfl
  refine ⟨honly, by rw [hcore]; rfl, by rw [hcore]; rfl, fun x hx => ?_, ?_⟩
  · rw [hseqs, Core.seq_setSeq_other _ _ _ _ hx]
  · simp only [hseqs, Core.seq_setSeq_same]
    refine ⟨SeqState.tmma_frame .., SeqState.hold_tmma .., fun bank i hi j hj hout => ?_, fun i hi j hj => ?_⟩
    · rw [SeqState.accAt_tmma _ _ _ _ hi hj hrows hcols, if_neg (by omega)]
    · rw [SeqState.accAt_tmma _ _ _ _ (by omega) (by omega) hrows hcols, if_pos ⟨rfl, hi, hj⟩]
      rfl

end Sys2Proof.Machine
end

section
/-!
The sequencer (R91, R93, R102, R113): what an issue command that goes on or waits answers, the registers it writes, and the loop
levels it moves through.
-/
namespace Sys2Proof.Machine

/-! ### Issue commands that go on or wait -/

/-- An instruction that goes on after a crossing changes one sequencer, and stamps (R24). -/
theorem cross_issued_onlySeq (s : State) (i j core ctx : Nat) (q : SeqState) :
    onlySeq s { s with toBlock := (s.toBlock.cross i j).issued core ctx q } core ctx := by
  have hcross := s.toBlock.cross_eq i j
  obtain ⟨hcores, hseqs, hcore, hblock, -, hbytes⟩ := (issued_onlySeq { s with toBlock := s.toBlock.cross i j } core ctx q).1
  rw [hcross] at hcores hseqs hcore hblock hbytes ⊢
  exact ⟨hcores, hseqs, hcore, hblock, hcross ▸ stampsOnly_cross s i j, hbytes⟩

section
variable {s : State} {i : Instr} {core id : Nat} {r : Run} {g : Block → Block} {f : Run → Block} (h : s.Issues core id r)
  (hexec : exec i s = s.run g) (hissue : g s.toBlock = s.toBlock.issue core id f)
include h hexec hissue

/-- An issue command answers what its instruction makes of the block, where the word issues. -/
theorem State.Issues.answers {P : State → Prop} (hP : P { s with toBlock := f r }) : Answers i s P := by
  refine answers_of_run hexec ?_
  rwa [hissue, h.issue]

/-- A command whose instruction only sets the sequencer going. -/
theorem State.Issues.answers_issued {q : SeqState} (hf : f r = s.toBlock.issued core r.ctx q) :
    Answers i s (fun t => (t.core core).seq r.ctx = { q with wait := .none } ∧ onlySeq s t core r.ctx) := by
  refine h.answers hexec hissue ?_
  rw [hf]
  exact (issued_onlySeq s core r.ctx q).symm

/-- A command whose instruction waits. -/
theorem State.Issues.answers_waitOn {w : Wait} (hf : f r = s.toBlock.waitOn core r.ctx w) :
    Answers i s (fun t => (t.core core).seq r.ctx = { r.q with wait := w } ∧ onlySeq s t core r.ctx) := by
  refine h.answers hexec hissue ?_
  rw [hf, ← running_q h.1]
  exact (waitOn_onlySeq s core r.ctx w).symm

end

/-! ### Registers by selector (R93) -/

section
variable (q : SeqState) {n m : Nat} (v : W64)

theorem SeqState.setSel_of_lt (h : n < 64) : q.setSel n v = q.setS n v := if_pos h

theorem SeqState.setSel_of_ge (h : 64 ≤ n) : q.setSel n v = q.setA (n - 64) v := if_neg (by omega)

theorem SeqState.setSel_zero : q.setSel 0 v = q := rfl

theorem SeqState.sel_setSel_same (h : n ≠ 0) : (q.setSel n v).sel n = v := by
  by_cases hn : n < 64
  · simp [setSel_of_lt q v hn, setS, sel, hn, sreg, h, SMap.get_put_same]
  · simp [setSel_of_ge q v (Nat.le_of_not_lt hn), setA, sel, hn, areg, SMap.get_put_same]

theorem SeqState.sel_setSel_other (h : m ≠ n) : (q.setSel n v).sel m = q.sel m := by
  by_cases hn : n < 64
  · rw [setSel_of_lt q v hn, setS]
    split
    · rfl
    · simp only [sel, sreg, areg, SMap.get_put_other _ _ _ _ _ h]
  · rw [setSel_of_ge q v (Nat.le_of_not_lt hn), setA]
    unfold sel
    split
    · rfl
    · exact SMap.get_put_other _ _ _ _ _ (by omega)

theorem SeqState.bad_setSel (h : n ≠ 0) : (q.setSel n v).bad = SSet.erase q.bad n := by
  by_cases hn : n < 64
  · simp [setSel_of_lt q v hn, setS, h]
  · simp [setSel_of_ge q v (Nat.le_of_not_lt hn), setA, Nat.add_sub_of_le (Nat.le_of_not_lt hn)]

theorem SeqState.setSel_frame : { q.setSel n v with s := q.s, a := q.a, bad := q.bad } = q := by
  unfold setSel setS setA
  split
  · split <;> rfl
  · rfl

end

/-! ### Least and greatest (R107) -/

theorem word_minu_eq (x y : W64) : (if x.toNat ≤ y.toNat then x else y) = BitVec.ofNat 64 (Nat.min x.toNat y.toNat) := by
  show _ = BitVec.ofNat 64 (if x.toNat ≤ y.toNat then x.toNat else y.toNat)
  split <;> rw [BitVec.ofNat_toNat, BitVec.setWidth_eq]

theorem word_maxu_eq (x y : W64) : (if x.toNat ≤ y.toNat then y else x) = BitVec.ofNat 64 (Nat.max x.toNat y.toNat) := by
  show _ = BitVec.ofNat 64 (if x.toNat ≤ y.toNat then y.toNat else x.toNat)
  split <;> rw [BitVec.ofNat_toNat, BitVec.setWidth_eq]

theorem word_min_eq (x y : W64) : (if x.toInt ≤ y.toInt then x else y) = BitVec.ofInt 64 (Min.min x.toInt y.toInt) := by
  rw [min_def]
  split <;> rw [BitVec.ofInt_toInt]

theorem word_max_eq (x y : W64) : (if x.toInt ≤ y.toInt then y else x) = BitVec.ofInt 64 (Max.max x.toInt y.toInt) := by
  rw [max_def]
  split <;> rw [BitVec.ofInt_toInt]

end Sys2Proof.Machine
end

section
/-!
Scalar forms, loops and branches (R107, R112–R114).
-/
namespace Sys2Proof.Machine

/-! ### Scalar forms -/

theorem scalar_of_exec {mk : Nat → Instr} {op : Nat} {f g : W64 → W64 → W64} (hexec : ∀ core s, exec (mk core) s = s.run (·.scalarOp core op f))
    (hfg : ∀ x y, f x y = g x y) : Scalar mk op g := by
  intro core s r h _
  obtain ⟨t, hrun, hpending, ht⟩ := scalar_ok core op f g hfg s r h
  exact ⟨t, (hexec core s).trans hrun, hpending, ht⟩

theorem sequences_ldp (core : Nat) : Sequences (.ldp core) core 0x20D (fun _ r => (r.x + r.y).toNat % 8 = 0 ∧ (r.x + r.y).toNat < 4096 ∧
      poisonedIn 16 r.bind.paramBad (r.x + r.y).toNat 8 = [])
    (fun _ r => (r.q.setSel (wf_ r.word 115 109) (BitVec.ofNat 64 (leNat (Mem.bytes r.bind.params (r.x + r.y).toNat 8)))).next) := by
  intro s r h hok
  obtain ⟨halign, hpage, hgood⟩ := hok
  refine h.answers_issued (g := (·.ldp core)) rfl rfl ((if_neg (not_or.mpr ⟨not_not.mpr halign, ?_⟩)).trans (if_neg ?_))
  · exact Nat.not_le.mpr hpage
  · show ¬ (!(poisonedIn 16 r.bind.paramBad (r.x + r.y).toNat 8).isEmpty) = true
    rw [hgood]
    exact Bool.false_ne_true

theorem sequences_lidx (core : Nat) : Sequences (.lidx core) core 0x20E (fun _ r => r.y.toNat < r.q.loops.length)
    (fun _ r => (r.q.setSel (wf_ r.word 115 109)
      (BitVec.ofNat 64 ((r.q.loops.reverse[r.y.toNat]?).elim 0 LoopLevel.index))).next) := by
  intro s r h hlevel
  have hget : r.q.loops.reverse[r.y.toNat]? = some (r.q.loops.reverse[r.y.toNat]'(by simpa using hlevel)) :=
    List.getElem?_eq_getElem _
  refine h.answers_issued (g := (·.lidx core)) rfl rfl ?_
  rw [hget]
  show (match r.q.loops.reverse[r.y.toNat]? with
    | none => s.preciseStop core r.ctx stInvalid 3
    | some l => s.issued core r.ctx ((r.q.setSel (wf_ r.word 115 109) (BitVec.ofNat 64 l.index)).advance)) = _
  rw [hget]
  rfl

theorem sequences_time (core : Nat) : Sequences (.time core) core 0x20F (fun _ _ => True)
    (fun s r => (r.q.setSel (wf_ r.word 115 109) (BitVec.ofNat 64 (s.counter (arrIsl core)))).next) := by
  intro s r h _
  exact h.answers_issued (g := fun b => b.scalarOp core 0x0F (fun _ _ => BitVec.ofNat 64 (b.counter (arrIsl core)))) rfl rfl rfl

/-- Settles O3: each form's issue sets the sequencer alone (`scalar_ok`, `State.Issues.answers_issued`), and the register laws are
those of the sparse store (`SeqState.sel_setSel_same`, `SeqState.sel_setSel_other`). -/
theorem scalarFormsWriteTheirResults : Obligations.ScalarFormsWriteTheirResults := by
  unfold Obligations.ScalarFormsWriteTheirResults
  refine ⟨?_, ⟨sequences_ldp, sequences_lidx, sequences_time⟩, ?_⟩
  · exact ⟨scalar_of_exec (fun _ _ => rfl) fun _ _ => rfl, scalar_of_exec (fun _ _ => rfl) fun _ _ => rfl,
      scalar_of_exec (fun _ _ => rfl) fun _ _ => rfl, scalar_of_exec (fun _ _ => rfl) fun _ _ => rfl,
      scalar_of_exec (fun _ _ => rfl) fun _ _ => rfl, scalar_of_exec (fun _ _ => rfl) fun _ _ => rfl,
      scalar_of_exec (fun _ _ => rfl) fun _ _ => rfl, scalar_of_exec (fun _ _ => rfl) fun _ _ => rfl,
      scalar_of_exec (fun _ _ => rfl) fun _ _ => rfl, scalar_of_exec (fun _ _ => rfl) word_minu_eq,
      scalar_of_exec (fun _ _ => rfl) word_maxu_eq, scalar_of_exec (fun _ _ => rfl) word_min_eq,
      scalar_of_exec (fun _ _ => rfl) word_max_eq⟩
  · refine ⟨fun q => ⟨rfl, q.setSel_zero⟩, fun q n v hn _ => q.sel_setSel_same v hn, fun q n m v _ _ hm => q.sel_setSel_other v hm,
      fun q n m v hn _ => ?_, fun q n v => q.setSel_frame v⟩
    rw [q.bad_setSel v hn, SSet.has_erase]

/-! ### Loop levels (R113) -/

section
variable (q : SeqState) (ls : List LoopLevel)

theorem SeqState.setSel_withLoops (n : Nat) (v : W64) :
    ({ q with loops := ls }).setSel n v = { q.setSel n v with loops := ls } := by
  unfold setSel setS setA
  split
  · split <;> rfl
  · rfl

theorem LoopLevel.bump_withLoops (l : LoopLevel) : l.bump { q with loops := ls } = { l.bump q with loops := ls } := by
  unfold bump
  cases l.inc0 <;> cases l.inc1 <;> simp only [SeqState.setSel_withLoops] <;> rfl

theorem LoopLevel.pc_bump (l : LoopLevel) : (l.bump q).pc = q.pc := by
  have hpc (q : SeqState) (n : Nat) (v : W64) : (q.setSel n v).pc = q.pc :=
    (congrArg SeqState.pc (q.setSel_frame (n := n) v) :)
  unfold bump
  cases l.inc0 <;> cases l.inc1 <;> simp only [hpc]

/-- Where the levels go is given by the list of them alone. -/
theorem SeqState.endAt_withLoops (e : Nat) (levels : List LoopLevel) :
    ({ q with loops := ls }).endAt e levels = q.endAt e levels := by
  induction levels generalizing q with
  | nil => rfl
  | cons l rest ih =>
    unfold endAt
    split
    · simp only [LoopLevel.bump_withLoops, ih]
    · rfl

theorem SeqState.advance_of_no_end (h : ∀ l ∈ q.loops.head?, l.last ≠ q.pc) : q.advance = { q with pc := (q.pc + 1) % 32768 } := by
  obtain ⟨s, a, v, pc, loops⟩ := q
  cases loops with
  | nil => rfl
  | cons l rest => exact if_neg (h l rfl)

variable {q} {l : LoopLevel} {rest : List LoopLevel} (hloops : q.loops = l :: rest) (hlast : l.last = q.pc)
include hloops hlast

theorem SeqState.advance_of_more (hmore : 1 < l.remaining) : q.advance = { l.bump q with
    loops := { l with remaining := l.remaining - 1, index := l.index + 1 } :: rest, pc := l.first } := by
  rw [advance, hloops, endAt, if_pos hlast]
  exact if_pos hmore

theorem SeqState.advance_of_last (hdone : l.remaining ≤ 1) : q.advance = { l.bump q with loops := rest }.advance := by
  have hpc : ({ l.bump q with loops := rest }).pc = q.pc := l.pc_bump q
  rw [advance, advance, hpc, hloops, endAt, if_pos hlast]
  dsimp only
  rw [if_neg (Nat.not_lt.mpr hdone)]
  exact (endAt_withLoops ..).symm

end

/-! ### LOOP and BR (R112, R114) -/

/-- A body that ends inside the innermost level's is not refused (R112). -/
theorem Run.body_inside {r : Run} {last : Nat} (hwords : last < r.ker.words) (hnest : ∀ l ∈ r.q.loops.head?, last ≤ l.last) :
    ¬ (r.ker.words ≤ last ∨ (r.q.loops.head?.any fun l => decide (l.last < last)) = true) := by
  rintro (hout | hout)
  · omega
  · cases hhead : r.q.loops.head? with
    | none => simp [hhead] at hout
    | some l =>
      have hlt : l.last < last := by simpa [hhead] using hout
      exact absurd (hnest l hhead) (Nat.not_le.mpr hlt)

/-- The level that a LOOP opens (R112). -/
def Run.level (r : Run) : LoopLevel :=
  ⟨r.loopCount, 0, r.q.pc + 1, r.q.pc + wf_ r.word 119 104,
    if bit r.word.toNat 96 then some (wf_ r.word 103 97, wf_ r.word 95 90) else none,
    if bit r.word.toNat 82 then some (wf_ r.word 89 83, wf_ r.word 81 76) else none⟩

/-- Where a BR goes (R114), and the levels whose body holds the place. -/
def Run.target (r : Run) : Nat := ((r.q.pc : Int) + signed 20 (wf_ r.word 106 87)).toNat

def Run.levelsAtTarget (r : Run) : List LoopLevel := r.q.loops.dropWhile fun l => decide (r.target < l.first ∨ l.last < r.target)

theorem sequences_loop_opens (core : Nat) : Sequences (.loop core) core 0x700
    (fun _ r => 1 ≤ wf_ r.word 119 104 ∧ wf_ r.word 119 104 ≤ 32767 ∧ 1 ≤ r.loopCount ∧ r.loopCount < 2 ^ 32 ∧
      r.q.pc + wf_ r.word 119 104 < r.ker.words ∧
      (∀ l ∈ r.q.loops.head?, r.q.pc + wf_ r.word 119 104 ≤ l.last) ∧ r.q.loops.length < 4)
    (fun _ r => { r.q with
      loops := r.level :: r.q.loops, pc := r.q.pc + 1, wait := .none }) := by
  intro s r h ⟨hlen, hlen', hcount, hcount', hwords, hnest, hdepth⟩
  refine h.answers_issued (g := (·.loop core)) (q := { r.q with loops := r.level :: r.q.loops, pc := r.q.pc + 1 }) rfl rfl ?_
  have hfield : ¬ (wf_ r.word 119 104 = 0 ∨ 32767 < wf_ r.word 119 104 ∨ 2 ^ 32 ≤ r.loopCount) := by omega
  refine (if_neg hfield).trans ((if_neg (Run.body_inside hwords hnest)).trans ((if_neg ?_).trans ((if_neg ?_).trans ?_)))
  · exact Nat.ne_of_gt hcount
  · exact Nat.not_le.mpr hdepth
  · rfl

theorem sequences_loop_skips (core : Nat) : Sequences (.loop core) core 0x700
    (fun _ r => 1 ≤ wf_ r.word 119 104 ∧ wf_ r.word 119 104 ≤ 32767 ∧ r.loopCount = 0 ∧
      r.q.pc + wf_ r.word 119 104 < r.ker.words ∧
      (∀ l ∈ r.q.loops.head?, r.q.pc + wf_ r.word 119 104 ≤ l.last))
    (fun _ r => { r.q.endAt (r.q.pc + wf_ r.word 119 104) r.q.loops with wait := .none }) := by
  intro s r h ⟨hlen, hlen', hcount, hwords, hnest⟩
  refine h.answers_issued (g := (·.loop core)) rfl rfl ?_
  have hfield : ¬ (wf_ r.word 119 104 = 0 ∨ 32767 < wf_ r.word 119 104 ∨ 2 ^ 32 ≤ r.loopCount) := by omega
  exact (if_neg hfield).trans ((if_neg (Run.body_inside hwords hnest)).trans (if_pos hcount))

theorem sequences_br_taken (core : Nat) : Sequences (.br core) core 0x800
    (fun _ r => wf_ r.word 123 120 ≤ 6 ∧ brTaken (wf_ r.word 123 120) (r.q.sreg (wf_ r.word 119 114)) r.brY ∧
      0 ≤ (r.q.pc : Int) + signed 20 (wf_ r.word 106 87) ∧ (r.q.pc : Int) + signed 20 (wf_ r.word 106 87) < r.ker.words)
    (fun _ r => { r.q with loops := r.levelsAtTarget, pc := r.target, wait := .none }) := by
  intro s r h ⟨hcond, htaken, hlow, hhigh⟩
  refine h.answers_issued (g := (·.br core)) (q := { r.q with loops := r.levelsAtTarget, pc := r.target }) rfl rfl ?_
  have hgoes : ¬ (!brTaken (wf_ r.word 123 120) (r.q.sreg (wf_ r.word 119 114)) r.brY) = true := by simp [htaken]
  refine (if_neg (Nat.not_lt.mpr hcond)).trans ((if_neg hgoes).trans ((if_neg ?_).trans rfl))
  omega

theorem sequences_br_passes (core : Nat) : Sequences (.br core) core 0x800
    (fun _ r => wf_ r.word 123 120 ≤ 6 ∧ brTaken (wf_ r.word 123 120) (r.q.sreg (wf_ r.word 119 114)) r.brY = false)
    (fun _ r => r.q.next) := by
  intro s r h ⟨hcond, hnot⟩
  refine h.answers_issued (g := (·.br core)) rfl rfl ?_
  have hpasses : (!brTaken (wf_ r.word 123 120) (r.q.sreg (wf_ r.word 119 114)) r.brY) = true := by simp [hnot]
  exact (if_neg (Nat.not_lt.mpr hcond)).trans (if_pos hpasses)

theorem brTaken_eq (x y : W64) : brTaken 0 x y = true ∧ brTaken 1 x y = decide (x = y) ∧ brTaken 2 x y = decide (x ≠ y) ∧
    brTaken 3 x y = x.ult y ∧ brTaken 4 x y = !x.ult y ∧ brTaken 5 x y = x.slt y ∧ brTaken 6 x y = !x.slt y := by
  refine ⟨rfl, beq_eq_decide x y, ?_, rfl, ?_, rfl, ?_⟩
  · simp [brTaken, bne, beq_eq_decide]
  · simp [brTaken, BitVec.ult, ← decide_not]
  · simp [brTaken, BitVec.slt, ← decide_not]

/-- Settles O4: the levels are walked by `SeqState.endAt`, which reads them from the list it is given (`SeqState.endAt_withLoops`), and
each case of LOOP and BR issues by its own conditions. -/
theorem loopsAndBranchesMoveThePc : Obligations.LoopsAndBranchesMoveThePc := by
  unfold Obligations.LoopsAndBranchesMoveThePc
  exact ⟨⟨fun q => q.advance_of_no_end, fun _ _ _ => SeqState.advance_of_more, fun _ _ _ => SeqState.advance_of_last⟩,
    ⟨sequences_loop_opens, sequences_loop_skips⟩, sequences_br_taken, sequences_br_passes, brTaken_eq⟩

end Sys2Proof.Machine
end

section
/-!
What leaves all but one core alone, and the slot tags (R110, R155, R156, R193).
-/
namespace Sys2Proof

theorem SSet.has_foldl_flip {l : List Nat} (hl : l.Nodup) (t : SSet) (p : Nat) :
    SSet.has (l.foldl (fun t a => SSet.put t a (!SSet.has t a)) t) p = (SSet.has t p != l.contains p) := by
  induction l generalizing t with
  | nil => simp
  | cons a l ih =>
    obtain ⟨ha, hl⟩ := List.nodup_cons.mp hl
    rw [List.foldl_cons, ih hl, SSet.has_put]
    by_cases hp : p = a
    · subst hp
      simp [ha]
    · simp [hp]

theorem SSet.has_foldl_put (l : List Nat) (full : Bool) (t : SSet) (p : Nat) :
    SSet.has (l.foldl (fun t a => SSet.put t a full) t) p = if p ∈ l then full else SSet.has t p := by
  induction l generalizing t with
  | nil => simp
  | cons a l ih =>
    rw [List.foldl_cons, ih, SSet.has_put]
    by_cases hp : p = a <;> simp [hp]

theorem testBit_sum_mapIdx {α : Type} (p : α → Bool) (l : List α) (i : Nat) :
    (l.mapIdx fun j x => if p x then 2 ^ j else 0).sum.testBit i = (l[i]?).elim false p := by
  induction l generalizing i with
  | nil => simp
  | cons x l ih =>
    have hdouble : (l.mapIdx fun j x => if p x then 2 ^ (j + 1) else 0).sum =
        2 * (l.mapIdx fun j x => if p x then 2 ^ j else 0).sum := by
      rw [List.mapIdx_eq_zipIdx_map, List.mapIdx_eq_zipIdx_map, ← List.sum_map_mul_left]
      congr 2
      funext y
      cases p y.1 <;> simp [Nat.pow_succ, Nat.mul_comm]
    rw [List.mapIdx_cons, List.sum_cons, hdouble]
    cases i with
    | zero =>
      rw [Nat.testBit_zero]
      cases h : p x <;> simp [h, Nat.add_mod]
    | succ i =>
      rw [Nat.testBit_succ, List.getElem?_cons_succ, ← ih]
      congr 1
      split <;> omega

end Sys2Proof

namespace Sys2Proof.Machine

/-! ### One core alone -/

section
variable {s t : State} {core : Nat}

theorem onlyCore_refl (s : State) (core : Nat) : onlyCore s s core := ⟨fun _ _ => rfl, rfl, stampsOnly_of rfl⟩

theorem onlyCore_cross (s : State) (i j core : Nat) : onlyCore s { s with toBlock := s.toBlock.cross i j } core :=
  ⟨fun c _ => congrArg (·.core c) (s.toBlock.cross_eq i j),
    congrArg (fun b : Block => { b with cores := [], islands := [] }) (s.toBlock.cross_eq i j), stampsOnly_cross s i j⟩

theorem onlyCore.setCore (h : onlyCore s t core) (x : Core) : onlyCore s { t with toBlock := t.toBlock.setCore core x } core := by
  obtain ⟨hcores, hblock, hstamps⟩ := h
  exact ⟨fun c hc => (t.toBlock.core_setCore_other core x c hc).trans (hcores c hc), hblock, hstamps⟩

theorem onlyCore.issued (h : onlyCore s t core) (ctx : Nat) (q : SeqState) :
    onlyCore s { t with toBlock := t.toBlock.issued core ctx q } core := h.setCore _

end

@[simp] theorem Block.core_issued (b : Block) (core ctx : Nat) (q : SeqState) : (b.issued core ctx q).core core =
    { (b.core core).setSeq ctx { q with wait := .none } with seqProg := b.time.keeper } := by
  simp only [issued, modCore_eq, core_setCore_same]

/-- A record update beside the sequencer state leaves what `Core.setSeq` says of it. -/
theorem Core.seq_withSeqProg (k : Core) (ctx : Nat) (q : SeqState) (n x : Nat) :
    ({ k.setSeq ctx q with seqProg := n } : Core).seq x = if x = ctx then q else k.seq x := by
  show (k.setSeq ctx q).seq x = _
  split
  · next h => rw [h, seq_setSeq_same]
  · next h => exact seq_setSeq_other _ _ _ _ h

/-! ### TAG words (R110) -/

theorem tagSlots_ok {r : Run} {slots : List Nat} (h : tagSlots r = .ok slots) : slots.length ≤ 64 ∧ slots.Nodup := by
  unfold tagSlots at h
  dsimp only at h
  split at h
  · cases h
  · split at h
    · cases h
    · next hcount _ =>
      cases h
      refine ⟨by rw [List.length_map, List.length_range]; omega, List.Nodup.map (fun i j hij => ?_) List.nodup_range⟩
      exact Nat.add_left_cancel hij

section
variable {s : State} {i : Instr} {core op : Nat} {r : Run} {slots : List Nat} {g : Block → Block} {f : Run → List Nat → Block}

/-- A TAG instruction whose slots are good answers what it makes of the block. -/
theorem State.Issues.answers_tag {P : State → Prop} (h : s.Issues core (0x500 + op) r) (hslots : tagSlots r = .ok slots)
    (hexec : exec i s = s.run g) (hissue : g s.toBlock = s.toBlock.tagIssue core op f)
    (hP : P { s with toBlock := f r slots }) : Answers i s P := by
  refine h.answers hexec hissue ?_
  rwa [hslots]

end

section
variable {s : State} {core : Nat} {r : Run} {slots : List Nat} (hslots : tagSlots r = .ok slots)
include hslots

theorem answers_test (h : s.Issues core 0x504 r) : Answers (.test core) s (fun t => onlySeq s t core r.ctx ∧ ∃ v : W64,
      (t.core core).seq r.ctx = (r.q.setSel (wf_ r.word 95 89) v).next ∧
      ∀ i, v.getLsbD i = (slots[i]?).elim false (fun x => (s.core core).full (physSlot (s.core core).swap x))) := by
  refine State.Issues.answers_tag (op := 4) h hslots (g := (·.tagTest core)) rfl rfl ?_
  dsimp only
  generalize hmask : BitVec.ofNat 64 _ = v
  obtain ⟨honly, hseq⟩ := issued_onlySeq s core r.ctx (r.q.setSel (wf_ r.word 95 89) v).advance
  refine ⟨honly, v, hseq, fun i => ?_⟩
  rw [← hmask, BitVec.getLsbD_ofNat, testBit_sum_mapIdx]
  by_cases hi : i < 64
  · simp [hi]
  · rw [List.getElem?_eq_none (by have := (tagSlots_ok hslots).1; omega)]
    simp

/-- WAITFULL and WAITEMPTY go on where every slot has the tag, and wait elsewhere. -/
theorem answers_tagWait {i : Instr} {op : Nat} {full : Bool} (h : s.Issues core (0x500 + op) r)
    (hexec : exec i s = .next { s with toBlock := s.tagWait core op full }) :
    Answers i s (fun t => onlySeq s t core r.ctx ∧ (t.core core).seq r.ctx =
      if (∀ x ∈ slots, (s.core core).full (physSlot (s.core core).swap x) = full) then r.q.next else { r.q with wait := .tag }) := by
  refine h.answers_tag hslots (g := fun _ => s.tagWait core op full) hexec rfl ?_
  have hall : slots.all (fun x => (s.core core).full (physSlot (s.core core).swap x) == full) = true ↔
      ∀ x ∈ slots, (s.core core).full (physSlot (s.core core).swap x) = full := by
    simp only [List.all_eq_true, beq_iff_eq]
  dsimp only
  by_cases hmet : ∀ x ∈ slots, (s.core core).full (physSlot (s.core core).swap x) = full
  · rw [if_pos (hall.mpr hmet), if_pos hmet]
    exact issued_onlySeq s core r.ctx _
  · rw [if_neg (hall.not.mpr hmet), if_neg hmet, ← running_q h.1]
    exact waitOn_onlySeq s core r.ctx _

theorem answers_swaphalf (h : s.Issues core 0x505 r) : Answers (.swaphalf core) s (fun t => onlyCore s t core ∧
      (t.core core).seq r.ctx = r.q.next ∧ (∀ x, x ≠ r.ctx → (t.core core).seq x = (s.core core).seq x) ∧
      { t.core core with swap := [], seqs := [], seqProg := 0 } = { s.core core with swap := [], seqs := [], seqProg := 0 } ∧
      ∀ p, SSet.has (t.core core).swap p = (SSet.has (s.core core).swap p != slots.contains (2 * p))) := by
  refine State.Issues.answers_tag (op := 5) h hslots (g := (·.swapHalf core)) rfl rfl ?_
  refine ⟨((onlyCore_refl s core).setCore _).issued _ _, ?_⟩
  simp only [Block.modCore_eq, Block.core_issued, Block.core_setCore_same, Core.seq_withSeqProg]
  refine ⟨if_pos trivial, fun x hx => if_neg hx, rfl, fun p => ?_⟩
  have hpairs : ((slots.filter (fun x => x % 2 == 0)).map (fun x => x / 2)).Nodup := by
    refine ((tagSlots_ok hslots).2.filter _).map_on fun x hx y hy hxy => ?_
    simp only [List.mem_filter, beq_iff_eq] at hx hy
    omega
  refine (SSet.has_foldl_flip hpairs _ p).trans ?_
  congr 1
  rw [Bool.eq_iff_iff]
  simp only [List.contains_iff_mem, List.mem_map, List.mem_filter, beq_iff_eq]
  constructor
  · rintro ⟨x, ⟨hx, heven⟩, rfl⟩
    rwa [Nat.mul_div_cancel' (Nat.dvd_of_mod_eq_zero heven)]
  · intro hp
    exact ⟨2 * p, ⟨hp, by omega⟩, by omega⟩

theorem answers_tagSet {i : Instr} {op : Nat} {full : Bool} (h : s.Issues core (0x500 + op) r)
    (hexec : exec i s = s.run (·.tagSet core op full)) : Answers i s (fun t => onlyCore s t core ∧
      (t.core core).seq r.ctx = r.q.next ∧ (∀ x, x ≠ r.ctx → (t.core core).seq x = (s.core core).seq x) ∧
      { t.core core with tagOps := [], issueCtr := 0, seqs := [], seqProg := 0 } =
        { s.core core with tagOps := [], issueCtr := 0, seqs := [], seqProg := 0 } ∧
      (t.core core).issueCtr = (s.core core).issueCtr + 1 ∧
      (t.core core).tagOps = (s.core core).tagOps ++
        [⟨(s.core core).issueCtr, r.ctx, full, slots.map (physSlot (s.core core).swap)⟩]) := by
  refine h.answers_tag hslots hexec rfl ?_
  refine ⟨((onlyCore_refl s core).setCore _).issued _ _, ?_⟩
  simp only [Block.modCore_eq, Block.core_issued, Block.core_setCore_same, Core.seq_withSeqProg]
  exact ⟨if_pos trivial, fun x hx => if_neg hx, rfl, rfl, rfl⟩

end

theorem answers_tagSetTakesEffect {core : Nat} {s : State} {o : TagOp} {rest : List TagOp} (hup : s.coreUp core = true)
    (hops : (s.core core).tagOps = o :: rest) (hdone : (s.core core).computeDone o.id = true) :
    Answers (.tagSetTakesEffect core) s (fun t => onlyCore s t core ∧ (t.core core).tagOps = rest ∧
      { t.core core with tags := [], tagOps := [] } = { s.core core with tags := [], tagOps := [] } ∧
      ∀ x, (t.core core).full x = if x ∈ o.slots then o.full else (s.core core).full x) := by
  have hexec : exec (.tagSetTakesEffect core) s = .next { s with
      toBlock := s.toBlock.setCore core { (s.core core).setTags o.slots o.full with tagOps := rest } } := by
    show execTagSetTakesEffect core s = _
    simp only [execTagSetTakesEffect, State.run_eq, hup, Bool.not_true, Bool.false_eq_true, if_false, Block.modCore_eq, hops, hdone, if_true]
  refine ⟨_, hexec, rfl, (onlyCore_refl s core).setCore _, ?_⟩
  simp only [Block.core_setCore_same]
  exact ⟨trivial, rfl, SSet.has_foldl_put _ _ _⟩

/-- Settles O5: a TAG word's slots are distinct and at most 64 (`tagSlots_ok`), so TEST's sum of powers reads as its bits and
SWAPHALF flips each of its pairs once. -/
theorem tagsGuardSlots : Obligations.TagsGuardSlots := by
  unfold Obligations.TagsGuardSlots
  refine ⟨⟨fun _ _ _ _ h hslots => answers_test hslots h, fun _ _ _ _ h hslots => answers_tagWait (op := 2) hslots h rfl,
    fun _ _ _ _ h hslots => answers_tagWait (op := 3) hslots h rfl, fun _ _ _ _ h hslots => answers_swaphalf hslots h⟩,
    fun full core s r slots h hslots => ?_, fun _ _ _ _ hup hops hdone => answers_tagSetTakesEffect hup hops hdone⟩
  cases full with
  | true => exact answers_tagSet (op := 0) hslots h rfl
  | false => exact answers_tagSet (op := 1) hslots h rfl

end Sys2Proof.Machine
end

section
/-!
Handle queues (R111, R160, R165): a queue that is stored is read back and no other is touched.
-/
namespace Sys2Proof.Machine

/-! ### Prefetch entries (R164) -/

/-- What a discard of prefetch entries makes of one mover. -/
def Mover.dropPrefetch (v : Mover) (p : PfEntry → Bool) : Mover := { v with
  prefetch := v.prefetch.filter (fun e => !p e)
  queue := v.queue.map (fun d => { d with pieces := d.pieces.map (fun x =>
    if x.kept ∧ p ⟨d.ctx, bits (fld d.raw 1 1) 3 0, x.src, x.phys, x.data, d.id, 0⟩ then { x with kept := false } else x) }) }

theorem Core.mover_foldl_modMover (f : Nat → Mover → Mover) {l : List Nat} (hl : l.Nodup) (k : Core) (m : Nat) :
    (l.foldl (fun k m => k.modMover m (f m)) k).mover m = if m ∈ l then f m (k.mover m) else k.mover m := by
  induction l generalizing k with
  | nil => rfl
  | cons a l ih =>
    obtain ⟨ha, hl⟩ := List.nodup_cons.mp hl
    rw [List.foldl_cons, ih hl, modMover_eq]
    by_cases hm : m = a
    · subst hm
      simp [ha]
    · simp [hm, mover_setMover_other _ _ _ _ hm]

theorem Core.mover_dropPrefetch (k : Core) (p : PfEntry → Bool) {m : Nat} (hm : m < 4) :
    (k.dropPrefetch p).mover m = (k.mover m).dropPrefetch p :=
  (k.mover_foldl_modMover (fun _ v => v.dropPrefetch p) List.nodup_range m).trans (if_pos (List.mem_range.mpr hm))

/-! ### A queue alone -/

section
variable {s t : State} {core ctx qsel : Nat} {bd : Binding} {l : List W32}

theorem Block.queueOf_congr {b c : Block} {core : Nat} (hhq : (c.core core).hq = (b.core core).hq) (hparts : c.parts = b.parts)
    (bd : Binding) (q : Nat) : c.queueOf core bd q = b.queueOf core bd q := by
  unfold queueOf part
  rw [hhq, hparts]

theorem onlyQueue_refl (h : s.queueOf core bd qsel = some l) : onlyQueue s s core ctx bd qsel l :=
  ⟨h, fun _ _ _ => rfl, fun _ _ => rfl, fun _ => rfl, fun _ _ => rfl, rfl, rfl, stampsOnly_of rfl,
    fun _ => rfl, fun _ => rfl, fun _ => rfl, fun _ _ => rfl, fun _ _ => rfl⟩

/-- Sequencer state of the context and prefetch entries may still change. -/
theorem onlyQueue.setCore (h : onlyQueue s t core ctx bd qsel l) {x : Core} (hseq : ∀ y, y ≠ ctx → x.seq y = (t.core core).seq y)
    (hx : { x with seqs := [], seqProg := 0, movers := [] } = { t.core core with seqs := [], seqProg := 0, movers := [] }) :
    onlyQueue s { t with toBlock := t.toBlock.setCore core x } core ctx bd qsel l := by
  obtain ⟨hqueue, hothers, hcores, hparts, hseqs, hcore, hblock, hstamps, hhost, hdram, hfirn, hscratch, htile⟩ := h
  have hhq : x.hq = (t.core core).hq := (congrArg (fun y : Core => y.hq) hx :)
  have hsame (y : Binding) (q : Nat) : (t.toBlock.setCore core x).queueOf core y q = t.queueOf core y q :=
    Block.queueOf_congr ((congrArg Core.hq (Block.core_setCore_same ..)).trans hhq) rfl y q
  have hother (c : Nat) (hc : c ≠ core) : (t.toBlock.setCore core x).core c = t.core c := t.toBlock.core_setCore_other core x c hc
  refine ⟨(hsame ..).trans hqueue, fun y q hy => (hsame ..).trans (hothers y q hy), fun c hc => (hother c hc).trans (hcores c hc),
    hparts, fun y hy => ?_, ?_, hblock, hstamps, hhost, hdram, hfirn, fun c a => ?_, htile⟩
  · rw [Block.core_setCore_same, hseq y hy, hseqs y hy]
  · rw [Block.core_setCore_same]
    exact (congrArg (fun y : Core => { y with hq := [] }) hx :).trans hcore
  · by_cases hc : c = core
    · subst hc
      rw [Block.core_setCore_same, ← hscratch c a]
      exact (congrArg (fun y : Core => Mem.byte y.scratch a) hx :)
    · rw [hother c hc]
      exact hscratch c a

theorem onlyQueue.issued (h : onlyQueue s t core ctx bd qsel l) (q : SeqState) :
    onlyQueue s { t with toBlock := t.toBlock.issued core ctx q } core ctx bd qsel l :=
  h.setCore (fun _ hy => Core.seq_setSeq_other _ _ _ _ hy) rfl

theorem onlyQueue.dropPrefetch (h : onlyQueue s t core ctx bd qsel l) (p : PfEntry → Bool) :
    onlyQueue s { t with toBlock := t.toBlock.modCore core (·.dropPrefetch p) } core ctx bd qsel l := by
  show onlyQueue s { t with toBlock := t.toBlock.setCore core ((t.core core).dropPrefetch p) } core ctx bd qsel l
  have hmovers := (t.core core).dropPrefetch_eq p
  generalize (t.core core).dropPrefetch p = x at hmovers ⊢
  rw [hmovers]
  exact h.setCore (fun _ _ => rfl) rfl

/-- A queue that the context may use is stored, after a crossing of its handle (R24): it holds what was stored, and no other queue
differs. -/
theorem onlyQueue_setQueue {l0 : List W32} (hqueue : s.queueOf core bd qsel = some l0) (i j : Nat) (l : List W32) :
    onlyQueue s { s with toBlock := (s.toBlock.cross i j).setQueue core bd qsel l } core ctx bd qsel l := by
  have hstamps : ∀ n, _ := stampsOnly_cross s i j
  rw [s.toBlock.cross_eq] at hstamps ⊢
  generalize (s.toBlock.cross i j).islands = is at hstamps ⊢
  unfold Block.setQueue
  by_cases hcoreq : qsel < 16
  · rw [if_pos hcoreq, Block.modCore_eq]
    refine ⟨?_, fun y q hy => ?_, fun c hc => Block.core_setCore_other _ _ _ _ hc, fun _ => rfl, fun x _ => ?_, ?_, rfl, hstamps,
      fun _ => rfl, fun _ => rfl, fun _ => rfl, fun c a => ?_, fun _ _ => rfl⟩
    · simp only [Block.queueOf, if_pos hcoreq, Block.core_setCore_same, SMap.get_put_same]
    · unfold Block.queueOf
      split
      · next hq =>
        rw [Block.core_setCore_same]
        refine congrArg some (SMap.get_put_other _ _ _ _ _ fun hkey => hy ⟨?_, .inr ?_⟩) <;> omega
      · rfl
    · rw [Block.core_setCore_same]
      rfl
    · rw [Block.core_setCore_same]
      rfl
    · by_cases hc : c = core
      · subst hc
        rw [Block.core_setCore_same]
        rfl
      · rw [Block.core_setCore_other _ _ _ _ hc]
        rfl
  · rw [if_neg hcoreq, Block.modPart_eq]
    have howner : SMap.get 0 (s.part (partOf core)).tqOwner (qsel - 16) = bd.ctx + 1 := by
      unfold Block.queueOf at hqueue
      rw [if_neg hcoreq] at hqueue
      dsimp only at hqueue
      by_contra hne
      rw [if_neg hne] at hqueue
      cases hqueue
    have hpart (P : Part → Part → Prop) (hrefl : ∀ x, P x x)
        (hput : P { s.part (partOf core) with tqs := SMap.put (s.part (partOf core)).tqs (qsel - 16) l } (s.part (partOf core)))
        (p : Nat) : P (({ s.toBlock with islands := is }.setPart (partOf core)
          { s.part (partOf core) with tqs := SMap.put (s.part (partOf core)).tqs (qsel - 16) l }).part p) (s.part p) := by
      by_cases hp : p = partOf core
      · subst hp
        rw [Block.part_setPart_same]
        exact hput
      · rw [Block.part_setPart_other _ _ _ _ hp]
        exact hrefl _
    refine ⟨?_, fun y q hy => ?_, fun _ _ => rfl, hpart (fun x y => { x with tqs := [] } = { y with tqs := [] }) (fun _ => rfl) rfl,
      fun _ _ => rfl, rfl, rfl, hstamps, fun _ => rfl, fun _ => rfl, fun _ => rfl, fun _ _ => rfl,
      fun p a => hpart (fun x y => Mem.byte x.tile a = Mem.byte y.tile a) (fun _ => rfl) rfl p⟩
    · unfold Block.queueOf
      rw [if_neg hcoreq, Block.part_setPart_same]
      exact (if_pos howner).trans (congrArg some (SMap.get_put_same ..))
    · unfold Block.queueOf
      split
      · rfl
      · next hq =>
        rw [Block.part_setPart_same]
        dsimp only
        have hkey : q - 16 ≠ qsel - 16 := fun hkey => hy ⟨by omega, .inl (by omega)⟩
        rw [SMap.get_put_other _ _ _ _ _ hkey]
        rfl

end

end Sys2Proof.Machine
end

section
/-!
PUSH, POP and their trying forms (R111, R165).
-/
namespace Sys2Proof.Machine

@[simp] theorem Block.core_cross (b : Block) (i j c : Nat) : (b.cross i j).core c = b.core c :=
  congrArg (·.core c) (b.cross_eq i j)

theorem Block.cross_self (b : Block) (i : Nat) : b.cross i i = b := if_pos rfl

theorem Block.crossQueue_eq_cross (b : Block) (core q : Nat) :
    b.crossQueue core q = b.cross (arrIsl core) (if q < 16 then arrIsl core else fabIsl (partOf core)) := by
  unfold crossQueue
  split
  · exact (b.cross_self _).symm
  · rfl

theorem Block.queueCross_eq_cross (b : Block) (core q : Nat) :
    b.queueCross core q = b.cross (if q < 16 then arrIsl core else fabIsl (partOf core)) (arrIsl core) := by
  unfold queueCross
  split
  · exact (b.cross_self _).symm
  · rfl

theorem Block.movers_setQueue (b : Block) (core : Nat) (bd : Binding) (q : Nat) (l : List W32) :
    ((b.setQueue core bd q l).core core).movers = (b.core core).movers := by
  unfold setQueue
  split
  · rw [modCore_eq, core_setCore_same]
  · rfl

theorem Block.movers_issued (b : Block) (core ctx : Nat) (q : SeqState) :
    ((b.issued core ctx q).core core).movers = (b.core core).movers := by
  rw [core_issued]
  rfl

theorem Block.seq_issued (b : Block) (core ctx : Nat) (q : SeqState) :
    ((b.issued core ctx q).core core).seq ctx = { q with wait := .none } := by
  rw [core_issued]
  exact (Core.seq_withSeqProg ..).trans (if_pos rfl)

/-- An instruction that goes on leaves every mover of its core. -/
theorem Block.mover_issued (b : Block) (core ctx : Nat) (q : SeqState) (m : Nat) :
    ((b.issued core ctx q).core core).mover m = (b.core core).mover m := by
  rw [core_issued]
  rfl

section
variable {s : State} {i : Instr} {core op : Nat} {try_ : Bool} {r : Run} {l : List W32} (h : s.Issues core (0x600 + op) r)
include h

/-- A PUSH or TRYPUSH that earlier compute and a full queue do not hold back. -/
theorem answers_hqPush (hexec : exec i s = s.run (·.hqPush core op try_))
    (hqueue : s.queueOf core r.bind (wf_ r.word 121 117) = some l) (hdone : (s.core core).computeDone (s.core core).issueCtr = true)
    (hroom : l.length < 64 ∨ try_ = true) :
    Answers i s (fun t =>
      (t.core core).seq r.ctx = (if try_ then r.q.setS (wf_ r.word 110 105) (if l.length < 64 then 1#64 else 0#64) else r.q).next ∧
      onlyQueue s t core r.ctx r.bind (wf_ r.word 121 117)
        (if l.length < 64 then l ++ [(r.q.sreg (wf_ r.word 116 111)).setWidth 32] else l) ∧
      (t.core core).movers = (s.core core).movers) := by
  have hgoes : ¬ ((!(s.core core).computeDone (s.core core).issueCtr) = true ∨ (!decide (l.length < 64)) = true ∧ (!try_) = true) := by
    rcases hroom with hroom | hroom <;> simp [hdone, hroom]
  refine h.answers hexec rfl ?_
  dsimp only
  rw [hqueue]
  dsimp only
  rw [if_neg hgoes]
  simp only [decide_eq_true_eq, Block.seq_issued, Block.movers_issued]
  refine ⟨rfl, ?_⟩
  by_cases hlen : l.length < 64
  · simp only [if_pos hlen, Block.movers_setQueue, Block.crossQueue_eq_cross, Block.core_cross]
    exact ⟨(onlyQueue_setQueue hqueue _ _ _).issued _, trivial⟩
  · simp only [if_neg hlen]
    exact ⟨(onlyQueue_refl hqueue).issued _, trivial⟩

theorem answers_hqPush_waits (hexec : exec i s = s.run (·.hqPush core op try_))
    (hqueue : s.queueOf core r.bind (wf_ r.word 121 117) = some l)
    (hheld : 64 ≤ l.length ∧ try_ = false ∨ (s.core core).computeDone (s.core core).issueCtr = false) :
    Answers i s (fun t => (t.core core).seq r.ctx = { r.q with wait := .hq } ∧ onlySeq s t core r.ctx) := by
  refine h.answers_waitOn hexec rfl ?_
  dsimp only
  rw [hqueue]
  refine if_pos ?_
  rcases hheld with ⟨hfull, htry⟩ | hbusy
  · exact .inr (by simp [htry, hfull])
  · exact .inl (by simp [hbusy])

theorem answers_hqPop {x : W32} (hexec : exec i s = .next { s with toBlock := s.hqPop core op try_ })
    (hqueue : s.queueOf core r.bind (wf_ r.word 121 117) = some (x :: l)) :
    Answers i s (fun t =>
      (t.core core).seq r.ctx = (if try_ then (r.q.setS (wf_ r.word 116 111) (x.setWidth 64)).setS (wf_ r.word 110 105) 1#64
        else r.q.setS (wf_ r.word 116 111) (x.setWidth 64)).next ∧
      onlyQueue s t core r.ctx r.bind (wf_ r.word 121 117) l ∧
      (wf_ r.word 121 117 < 16 → (t.core core).movers = (s.core core).movers) ∧
      (16 ≤ wf_ r.word 121 117 → ∀ m < 4, ((t.core core).mover m).prefetch =
        ((s.core core).mover m).prefetch.filter (fun e => e.space != 1))) := by
  refine h.answers (g := fun _ => s.hqPop core op try_) hexec rfl ?_
  dsimp only
  rw [hqueue]
  dsimp only
  simp only [Block.seq_issued, Block.movers_issued, Block.mover_issued]
  refine ⟨rfl, ?_⟩
  have hstored := onlyQueue_setQueue (ctx := r.ctx) hqueue (if wf_ r.word 121 117 < 16 then arrIsl core else fabIsl (partOf core))
    (arrIsl core) l
  rw [Block.queueCross_eq_cross]
  by_cases hcoreq : 16 ≤ wf_ r.word 121 117
  · rw [if_pos hcoreq]
    refine ⟨(hstored.dropPrefetch _).issued _, fun h => absurd hcoreq (Nat.not_le.mpr h), fun _ m hm => ?_⟩
    rw [Block.modCore_eq, Block.core_setCore_same, Core.mover_dropPrefetch _ _ hm]
    unfold Core.mover
    rw [Block.movers_setQueue, Block.core_cross]
    rfl
  · rw [if_neg hcoreq]
    refine ⟨hstored.issued _, fun _ => ?_, fun h => absurd h hcoreq⟩
    rw [Block.movers_setQueue, Block.core_cross]

theorem answers_pop_waits (hexec : exec i s = s.run (·.hqPop core op false))
    (hqueue : s.queueOf core r.bind (wf_ r.word 121 117) = some []) :
    Answers i s (fun t => (t.core core).seq r.ctx = { r.q with wait := .hq } ∧ onlySeq s t core r.ctx) := by
  refine h.answers_waitOn hexec rfl ?_
  dsimp only
  rw [hqueue]
  rfl

theorem answers_trypop_empty (hexec : exec i s = s.run (·.hqPop core op true))
    (hqueue : s.queueOf core r.bind (wf_ r.word 121 117) = some []) :
    Answers i s (fun t => (t.core core).seq r.ctx = (r.q.setS (wf_ r.word 110 105) 0#64).next ∧ onlySeq s t core r.ctx) := by
  refine h.answers_issued hexec rfl ?_
  dsimp only
  rw [hqueue]
  rfl

end

/-- Settles O6: a stored queue is read back and no other is touched (`onlyQueue_setQueue`), and what else each form changes keeps
that (`onlyQueue.issued`, `onlyQueue.dropPrefetch`). -/
theorem tileQueuesAreFirstInFirstOut : Obligations.TileQueuesAreFirstInFirstOut := by
  unfold Obligations.TileQueuesAreFirstInFirstOut
  refine ⟨⟨fun core s r l h hqueue hlen hdone => ?_, fun core s r l h hqueue hheld => ?_, fun core s r l h hqueue hdone => ?_,
    fun core s r l h hqueue hbusy => ?_⟩, fun core s r x l h hqueue => ?_, fun core s r h hqueue => ?_,
    fun core s r x l h hqueue => ?_, fun core s r h hqueue => ?_⟩
  · have hpush := answers_hqPush (i := .push core) (op := 0) (try_ := false) h rfl hqueue hdone (.inl hlen)
    simp only [if_pos hlen] at hpush
    exact hpush
  · exact answers_hqPush_waits (op := 0) (try_ := false) h rfl hqueue (hheld.imp_left (⟨·, rfl⟩))
  · exact answers_hqPush (op := 2) (try_ := true) h rfl hqueue hdone (.inr rfl)
  · exact answers_hqPush_waits (op := 2) (try_ := true) h rfl hqueue (.inr hbusy)
  · exact answers_hqPop (op := 1) (try_ := false) h rfl hqueue
  · exact answers_pop_waits (op := 1) h rfl hqueue
  · refine (answers_hqPop (op := 3) (try_ := true) h rfl hqueue).mono fun t ⟨hseq, honly, hcoreq, htileq⟩ => ?_
    exact ⟨honly, hcoreq, htileq, hseq⟩
  · exact (answers_trypop_empty (op := 3) h rfl hqueue).mono fun t ht => ht.symm

end Sys2Proof.Machine
end

section
/-!
Waits (R115, R116, R155, R168): the fields of a WAITEV word, what its evaluation makes of the block, and a wait's end.
-/
namespace Sys2Proof.Machine

/-- The kind of a WAITEV word and its two flags, from the four bits that hold them (R115). -/
theorem waitev_fields (w : W128) : wf_ w 123 122 = wf_ w 123 120 / 4 ∧ bit w.toNat 121 = decide (wf_ w 123 120 / 2 % 2 = 1) ∧
    bit w.toNat 120 = decide (wf_ w 123 120 % 2 = 1) := by
  have hkind : w.toNat / 2 ^ 122 = w.toNat / 2 ^ 120 / 4 := by omega
  have hacq : w.toNat / 2 ^ 121 = w.toNat / 2 ^ 120 / 2 := by omega
  unfold wf_ bits bit
  rw [hkind, hacq]
  generalize w.toNat / 2 ^ 120 = x
  simp only [beq_eq_decide, Nat.reduceAdd, Nat.reduceSub, Nat.reducePow, decide_eq_decide]
  omega

/-- What a WAITEV whose condition holds does (R24, R116, R168). -/
def Block.waitOver (b : Block) (core : Nat) (r : Run) (isl : Nat) (acq : Bool) : Block :=
  (if acq then (b.cross isl (arrIsl core)).modCore core (·.dropPrefetch (fun _ => true)) else b.cross isl (arrIsl core)).issued
    core r.ctx r.q.advance

theorem Block.seq_waitOver (b : Block) (core : Nat) (r : Run) (isl : Nat) (acq : Bool) :
    ((b.waitOver core r isl acq).core core).seq r.ctx = r.q.next := Block.seq_issued ..

/-- The value a WAITEV names (R115). -/
abbrev Run.waitValue (r : Run) : Nat := (r.q.sreg (wf_ r.word 103 98)).toNat

/-- The address of the flag word it names. -/
abbrev Run.flagAddr (r : Run) : W64 := r.q.areg (wf_ r.word 107 104)

/-- The event counter it names, as its context has it. -/
abbrev Block.eventOf (b : Block) (r : Run) : Nat := (SMap.get 0#64 (b.ctx r.ctx).events (wf_ r.word 119 108)).toNat

/-- The flag's condition (R115). -/
abbrev Run.flagMet (r : Run) (x : Nat) : Prop := if bit r.word.toNat 120 then x = r.waitValue else r.waitValue ≤ x

section
variable {s : State} {core : Nat} {r : Run}

section
variable (h : s.Issues core 0x900 r)
include h

theorem State.Issues.waitev_event (hfield : wf_ r.word 123 120 = 0) : s.waitev core =
    if r.waitValue ≤ s.eventOf r then s.waitOver core r (fabIsl (partOf core)) false else s.waitOn core r.ctx .event := by
  obtain ⟨hkind, hacq, heq⟩ := waitev_fields r.word
  rw [hfield] at hkind hacq heq
  rw [Block.waitev, h.issue]
  dsimp only
  rw [hkind, hacq, heq]
  rfl

theorem State.Issues.waitev_time (hfield : wf_ r.word 123 120 = 8) : s.waitev core =
    if r.waitValue ≤ s.counter (arrIsl core) then s.waitOver core r (arrIsl core) false else s.waitOn core r.ctx .time := by
  obtain ⟨hkind, hacq, heq⟩ := waitev_fields r.word
  rw [hfield] at hkind hacq heq
  rw [Block.waitev, h.issue]
  dsimp only
  rw [hkind, hacq, heq]
  rfl

theorem State.Issues.waitev_flag {x isl : Nat} (hkind : wf_ r.word 123 122 = 1) (hspace : bits r.flagAddr.toNat 63 56 ≤ 1)
    (halign : r.flagAddr.toNat % 8 = 0) (hread : s.readFlag core r.ctx r.flagAddr = .ok (x, isl)) : s.waitev core =
    if r.flagMet x then s.waitOver core r isl (bit r.word.toNat 121)
    else s.waitOn core r.ctx (if isl = trelebIsl then .flagHost else .flag) := by
  rw [Block.waitev, h.issue]
  dsimp only
  rw [hkind, if_neg (by omega), if_neg (by omega), if_neg (by omega), if_neg (Nat.not_lt.mpr hspace), if_neg (not_not.mpr halign), hread]
  dsimp only
  unfold Run.flagMet
  cases bit r.word.toNat 120 <;> simp only [Bool.false_eq_true, if_false, if_true, decide_eq_true_eq, beq_iff_eq] <;> rfl

end

section
variable {i : Instr} (hexec : exec i s = .next { s with toBlock := s.waitev core })
include hexec

/-- A WAITEV without acquire whose condition holds only lets its sequencer go on. -/
theorem answers_waitev_over {isl : Nat} (hover : s.waitev core = s.waitOver core r isl false) :
    Answers i s (fun t => (t.core core).seq r.ctx = r.q.next ∧ onlySeq s t core r.ctx) := by
  refine ⟨_, hexec, rfl, ?_⟩
  rw [hover]
  exact ⟨s.seq_waitOver .., cross_issued_onlySeq ..⟩

theorem answers_waitev_waits (h : s.Issues core 0x900 r) {w : Wait} (hwait : s.waitev core = s.waitOn core r.ctx w) :
    Answers i s (fun t => (t.core core).seq r.ctx = { r.q with wait := w } ∧ onlySeq s t core r.ctx) := by
  refine ⟨_, hexec, rfl, ?_⟩
  rw [hwait, ← running_q h.1]
  exact (waitOn_onlySeq ..).symm

/-- One with acquire also discards the core's prefetch entries (R168). -/
theorem answers_waitev_acquires {isl : Nat} {acq : Bool} (hover : s.waitev core = s.waitOver core r isl acq) :
    Answers i s (fun t => onlyCore s t core ∧ (t.core core).seq r.ctx = r.q.next ∧
      (∀ y, y ≠ r.ctx → (t.core core).seq y = (s.core core).seq y) ∧
      (if acq then ∀ m < 4, ((t.core core).mover m).prefetch = [] else (t.core core).movers = (s.core core).movers) ∧
      { t.core core with seqs := [], seqProg := 0, movers := [] } = { s.core core with seqs := [], seqProg := 0, movers := [] }) := by
  refine ⟨_, hexec, rfl, ?_⟩
  rw [hover, Block.waitOver]
  refine ⟨?_, Block.seq_issued .., ?_⟩
  · cases acq with
    | false => exact (onlyCore_cross ..).issued _ _
    | true => exact ((onlyCore_cross ..).setCore _).issued _ _
  · rw [Block.core_issued]
    cases acq with
    | false =>
      simp only [Bool.false_eq_true, if_false, Block.core_cross]
      exact ⟨fun y hy => Core.seq_setSeq_other _ _ _ _ hy, rfl, rfl⟩
    | true =>
      simp only [if_true, Block.modCore_eq, Block.core_setCore_same, Block.core_cross]
      have hprefetch (m : Nat) (hm : m < 4) : (((s.core core).dropPrefetch fun _ => true).mover m).prefetch = [] := by
        rw [Core.mover_dropPrefetch _ _ hm]
        exact List.filter_eq_nil_iff.mpr (by simp)
      have hmovers := (s.core core).dropPrefetch_eq (fun _ => true)
      generalize (s.core core).dropPrefetch (fun _ => true) = k at hprefetch hmovers ⊢
      refine ⟨fun y hy => ?_, hprefetch, ?_⟩ <;> rw [hmovers]
      · exact Core.seq_setSeq_other _ _ _ _ hy
      · rfl

end

end

/-! ### Waits evaluated again -/

section
variable {s : State} {core : Nat}

theorem exec_waitevResume (hwait : s.waitAt core = .event) :
    exec (.waitevResume core) s = .next { s with toBlock := s.waitev core } := by
  show execWaitevResume core s = _
  simp only [execWaitevResume, State.run_eq, hwait]

theorem exec_flagReread (hwait : s.waitAt core = .flagHost) :
    exec (.flagReread core) s = .next { s with toBlock := s.waitev core } := by
  show execFlagReread core s = _
  simp only [execFlagReread, State.run_eq, hwait]

theorem exec_tagWaitResume {r : Run} (h : s.Issues core 0x502 r) (hup : s.coreUp core = true) (hwait : s.waitAt core = .tag) :
    exec (.tagWaitResume core 0) s = .next { s with toBlock := s.tagWait core 2 true } := by
  show execTagWaitResume core 0 s = _
  simp only [execTagWaitResume, State.run_eq, hup, hwait, h.1, Option.map_some, h.2.2.1]
  rfl

theorem exec_hqWaitResume {r : Run} (h : s.Issues core 0x601 r) (hwait : s.waitAt core = .hq) :
    exec (.hqWaitResume core) s = .next { s with toBlock := s.hqPop core 1 false } := by
  show execHqWaitResume core s = _
  simp only [execHqWaitResume, State.run_eq, hwait, h.1, Option.map_some, h.2.2.1]

end

/-- Settles O7: a WAITEV goes on or waits as its condition says (`State.Issues.waitev_event`, `waitev_time`, `waitev_flag`), and a
resumed wait is the same evaluation. -/
theorem waitsEndWhenTheirConditionHolds : Obligations.WaitsEndWhenTheirConditionHolds := by
  unfold Obligations.WaitsEndWhenTheirConditionHolds
  refine ⟨⟨fun core s r h ⟨hfield, hmet⟩ => ?_, fun core s r h ⟨hfield, hmet⟩ => ?_, fun core s r h ⟨hfield, hmet⟩ => ?_,
    fun core s r h ⟨hfield, hmet⟩ => ?_, fun core s r x isl h hkind hspace halign hread hmet => ?_,
    fun core s r x isl h hkind hspace halign hread hmet => ?_⟩, fun core s r h ⟨hwait, hfield, hmet⟩ => ?_,
    fun core s r x h hwait hfield hspace halign hread hmet => ?_, fun core s r slots h hup hwait hslots hfull => ?_,
    fun core s r x l h hwait hqueue => ?_⟩
  · exact answers_waitev_over rfl ((h.waitev_event hfield).trans (if_pos hmet))
  · exact answers_waitev_waits rfl h ((h.waitev_event hfield).trans (if_neg (Nat.not_le.mpr hmet)))
  · exact answers_waitev_over rfl ((h.waitev_time hfield).trans (if_pos hmet))
  · exact answers_waitev_waits rfl h ((h.waitev_time hfield).trans (if_neg (Nat.not_le.mpr hmet)))
  · exact answers_waitev_acquires rfl ((h.waitev_flag hkind hspace halign hread).trans (if_pos hmet))
  · have hnot : ¬ r.flagMet x := by
      unfold Run.flagMet
      split at hmet <;> simp_all
    exact (answers_waitev_waits rfl h ((h.waitev_flag hkind hspace halign hread).trans (if_neg hnot))).mono fun t ht => ht.symm
  · exact answers_waitev_over (exec_waitevResume hwait) ((h.waitev_event hfield).trans (if_pos hmet))
  · obtain ⟨hkind, hacq, heq⟩ := waitev_fields r.word
    rw [hfield] at hkind hacq heq
    have hover := (h.waitev_flag hkind hspace halign hread).trans (if_pos (by unfold Run.flagMet; rwa [heq]))
    rw [hacq] at hover
    exact answers_waitev_over (exec_flagReread hwait) hover
  · refine (answers_tagWait (op := 2) hslots h (exec_tagWaitResume h hup hwait)).mono fun t ⟨honly, hseq⟩ => ?_
    rw [if_pos hfull] at hseq
    exact ⟨hseq, honly⟩
  · refine (answers_hqPop (op := 1) h (exec_hqWaitResume h hwait) hqueue).mono fun t ⟨hseq, honly, _⟩ => ?_
    exact ⟨hseq, honly⟩

end Sys2Proof.Machine
end

section
/-!
DEPMARK and STAMP (R117, R118, R191).
-/
namespace Sys2Proof.Machine

/-! ### Dependence marks -/

/-- The mark of a DEPMARK word with the issue number `id` (R191). -/
def Run.mark (r : Run) (id : Nat) : Mark :=
  ⟨id, r.ctx, wf_ r.word 117 102, wf_ r.word 119 118 == 1, wf_ r.word 123 120, false⟩

/-- A mover with a mark at the end of its queue. -/
def Mover.addMark (v : Mover) (x : Mark) : Mover := { v with marks := v.marks ++ [x], markIds := v.markIds ++ [x.id] }

/-- A core with a mark, made of its issue number, in the queues of the movers of a list that a mask selects. -/
def Core.addMarks (k : Core) (mask : Nat) (x : Nat → Mark) (l : List Nat) : Core :=
  l.foldl (fun k m => if bit mask m then k.modMover m (·.addMark (x k.issueCtr)) else k) k

section
variable (k : Core) (mask : Nat) (x : Nat → Mark)

theorem Core.addMarks_eq (l : List Nat) : k.addMarks mask x l = { k with movers := (k.addMarks mask x l).movers } := by
  refine List.foldlRecOn (motive := fun y : Core => y = { k with movers := y.movers }) _ _ rfl fun y hy m _ => ?_
  split
  · rw [hy]
    rfl
  · exact hy

theorem Core.mover_addMarks {l : List Nat} (hl : l.Nodup) (m : Nat) : (k.addMarks mask x l).mover m =
    if m ∈ l ∧ bit mask m = true then (k.mover m).addMark (x k.issueCtr) else k.mover m := by
  induction l generalizing k with
  | nil => simp [addMarks]
  | cons a l ih =>
    obtain ⟨ha, hl⟩ := List.nodup_cons.mp hl
    rw [addMarks, List.foldl_cons]
    refine (ih _ hl).trans ?_
    by_cases hma : m = a
    · subst hma
      by_cases hbit : bit mask m = true <;> simp [ha, hbit]
    · by_cases hbit : bit mask a = true <;> simp [hma, hbit, mover_setMover_other _ _ _ _ hma]

end

/-- A core on which a DEPMARK has placed its marks. -/
def Core.marked (k : Core) (r : Run) : Core :=
  let y := k.addMarks (wf_ r.word 123 120) r.mark (List.range 4)
  { y with issueCtr := y.issueCtr + 1 }

theorem Core.marked_eq (k : Core) (r : Run) : k.marked r = { k with movers := (k.marked r).movers, issueCtr := k.issueCtr + 1 } :=
  congrArg (fun y : Core => { y with issueCtr := y.issueCtr + 1 }) (k.addMarks_eq ..)

theorem Core.mover_marked (k : Core) (r : Run) {m : Nat} (hm : m < 4) : (k.marked r).mover m =
    if bit (wf_ r.word 123 120) m then (k.mover m).addMark (r.mark k.issueCtr) else k.mover m := by
  refine (k.mover_addMarks _ _ List.nodup_range m).trans ?_
  simp only [List.mem_range.mpr hm, true_and]

theorem answers_depmark {core : Nat} {s : State} {r : Run} (h : s.Issues core 0xA00 r) (hkind : wf_ r.word 119 118 ≤ 1) :
    Answers (.depmark core) s (fun t => onlyCore s t core ∧ (t.core core).seq r.ctx = r.q.next ∧
      (∀ x, x ≠ r.ctx → (t.core core).seq x = (s.core core).seq x) ∧
      { t.core core with movers := [], issueCtr := 0, seqs := [], seqProg := 0 } =
        { s.core core with movers := [], issueCtr := 0, seqs := [], seqProg := 0 } ∧
      (t.core core).issueCtr = (s.core core).issueCtr + 1 ∧
      ∀ m < 4, (t.core core).mover m = if bit (wf_ r.word 123 120) m then
          ((s.core core).mover m).addMark (r.mark (s.core core).issueCtr) else (s.core core).mover m) := by
  refine h.answers (g := (·.depmark core)) (f := fun r => if 1 < wf_ r.word 119 118 then s.preciseStop core r.ctx stInvalid 2
    else ((s.cross (arrIsl core) (movIsl core)).modCore core (·.marked r)).issued core r.ctx r.q.advance) rfl rfl ?_
  dsimp only
  rw [if_neg (Nat.not_lt.mpr hkind)]
  refine ⟨((onlyCore_cross ..).setCore _).issued _ _, Block.seq_issued .., ?_⟩
  simp only [Block.core_issued, Block.modCore_eq, Block.core_setCore_same, Block.core_cross]
  have hmarked := (s.core core).marked_eq r
  have hmover (m : Nat) (hm : m < 4) := (s.core core).mover_marked r hm
  generalize (s.core core).marked r = k at hmarked hmover ⊢
  refine ⟨fun x hx => ?_, ?_, ?_, hmover⟩ <;> rw [hmarked]
  · exact Core.seq_setSeq_other _ _ _ _ hx
  · rfl
  · rfl

/-! ### Trace records of a kernel -/

theorem answers_stamp {core : Nat} {s : State} {r : Run} (h : s.Issues core 0xB00 r) :
    Answers (.stamp core) s (fun t => t.toBlock =
        (s.toBlock.emit (arrIsl core) (0x8000 + wf_ r.word 123 109) r.ctx r.ker.step (r.q.sreg (wf_ r.word 108 103)).toNat).issued
          core r.ctx r.q.advance ∧
      (t.core core).seq r.ctx = r.q.next ∧ (∀ x, x ≠ r.ctx → (t.core core).seq x = (s.core core).seq x) ∧
      { t.core core with seqs := [], seqProg := 0 } = { s.core core with seqs := [], seqProg := 0 } ∧
      (∀ c, c ≠ core → t.core c = s.core c) ∧ Leaves (fun b => { b with cores := [] }) s.toBlock t.toBlock) := by
  refine h.answers (g := (·.stampOp core)) rfl rfl ⟨rfl, Block.seq_issued .., ?_⟩
  dsimp only
  have htraced := s.emit_traced (arrIsl core) (0x8000 + wf_ r.word 123 109) r.ctx r.ker.step (r.q.sreg (wf_ r.word 108 103)).toNat
  generalize s.emit (arrIsl core) (0x8000 + wf_ r.word 123 109) r.ctx r.ker.step (r.q.sreg (wf_ r.word 108 103)).toNat = b at htraced ⊢
  rw [Block.core_issued, htraced.core]
  refine ⟨fun x hx => Core.seq_setSeq_other _ _ _ _ hx, rfl, fun c hc => ?_, ?_⟩
  · exact (b.core_setCore_other _ _ _ hc).trans (htraced.core c)
  · exact htraced.leaves (fun b => { b with cores := [] })

/-- Settles O8: the marks are placed mover by mover (`Core.mover_addMarks`), and a trace record changes trace and log alone
(`Block.emit_traced`). -/
theorem marksAndStamps : Obligations.MarksAndStamps := by
  unfold Obligations.MarksAndStamps
  exact ⟨fun _ _ _ h hkind => answers_depmark h hkind, fun _ _ _ h => answers_stamp h⟩

end Sys2Proof.Machine
end

section
/-!
Engine forms issue (R105, R108, R119, R127): what entering a queue leaves of the core, said once for the three engines.
-/
namespace Sys2Proof.Machine

/-- The instruction that `Block.enqueue` makes of a word (R119). -/
def Core.newOp (k : Core) (r : Run) (vals : List Nat) (da db : List Byte) : EngOp :=
  ⟨k.issueCtr, r.ctx, r.ker.kid, r.q.pc, r.word, vals, da, db, k.swap, false⟩

theorem Core.engineQ_setEngineQ_same (k : Core) {e : Nat} (he : e < 3) (l : List EngOp) : (k.setEngineQ e l).engineQ e = l := by
  match e, he with
  | 0, _ | 1, _ | 2, _ => rfl

theorem Core.engineQ_setEngineQ_other (k : Core) {e e' : Nat} (he : e < 3) (he' : e' < 3) (hne : e' ≠ e) (l : List EngOp) :
    (k.setEngineQ e l).engineQ e' = k.engineQ e' := by
  match e, e', he, he' with
  | 0, 1, _, _ | 0, 2, _, _ | 1, 0, _, _ | 1, 2, _, _ | 2, 0, _, _ | 2, 1, _, _ => rfl
  | 0, 0, _, _ | 1, 1, _, _ | 2, 2, _, _ => exact absurd rfl hne

/-- Storing an engine queue changes the engine queues alone. -/
theorem Core.setEngineQ_frame (k : Core) (e : Nat) (l : List EngOp) :
    { k.setEngineQ e l with array := [], vector := [], sfu := [] } = { k with array := [], vector := [], sfu := [] } := by
  match e with
  | 0 | 1 | _ + 2 => rfl

section
variable {s : State} {core e id : Nat} {r : Run} {i : Instr} {vals : List Nat} {da db : List Byte} {q : SeqState}
  {g : Block → Block} {f : Run → Block}

/-- An engine instruction that finds a place in its queue and passes its checks enters the queue with its word, and its sequencer
goes on. -/
theorem State.Issues.answers_enqueue (h : s.Issues core id r) (he : e < 3) (hroom : ((s.core core).engineQ e).length < engineDepth e)
    (hexec : exec i s = s.run g) (hissue : g s.toBlock = s.toBlock.engineIssue core id e f)
    (hf : f r = s.enqueue core e r vals da db q) : Answers i s (fun t => onlyCore s t core ∧
      (t.core core).seq r.ctx = { q with wait := .none } ∧ (t.core core).issueCtr = (s.core core).issueCtr + 1 ∧
      ({ t.core core with seqs := [], seqProg := 0, issueCtr := 0, array := [], vector := [], sfu := [], arrProg := 0, vecProg := 0, sfuProg := 0 } =
        { s.core core with seqs := [], seqProg := 0, issueCtr := 0, array := [], vector := [], sfu := [], arrProg := 0, vecProg := 0, sfuProg := 0 }) ∧
      (∀ e', e' < 3 → e' ≠ e → (t.core core).engineQ e' = (s.core core).engineQ e') ∧
      ∃ o : EngOp, (t.core core).engineQ e = (s.core core).engineQ e ++ [o] ∧ o.word = r.word ∧ o.ctx = r.ctx ∧
        o.kid = r.ker.kid ∧ o.pc = r.q.pc ∧ o.id = (s.core core).issueCtr ∧ o.swap = (s.core core).swap) := by
  refine h.answers hexec hissue ?_
  have hplace : ¬ (s.core core).engineFull e = true := by
    rw [Core.engineFull, decide_eq_true_eq]
    exact Nat.not_le.mpr hroom
  dsimp only
  rw [if_neg hplace, hf]
  refine ⟨((onlyCore_refl s core).setCore _).issued _ _, Block.seq_issued .., ?_⟩
  have hframe := (s.core core).setEngineQ_frame e ((s.core core).engineQ e ++ [(s.core core).newOp r vals da db])
  have hsame := (s.core core).engineQ_setEngineQ_same he ((s.core core).engineQ e ++ [(s.core core).newOp r vals da db])
  have hother (e' : Nat) (he' : e' < 3) (hne : e' ≠ e) :=
    (s.core core).engineQ_setEngineQ_other he he' hne ((s.core core).engineQ e ++ [(s.core core).newOp r vals da db])
  have hqueues (k : Core) (x y a v u : Nat) (ctx : Nat) (q : SeqState) (e' : Nat) :
      Core.engineQ { { k with issueCtr := x, arrProg := a, vecProg := v, sfuProg := u }.setSeq ctx q with seqProg := y } e' =
        k.engineQ e' := by
    match e' with
    | 0 | 1 | _ + 2 => rfl
  unfold Block.enqueue
  simp only [Block.core_issued, Block.modCore_eq, Block.core_setCore_same, hqueues]
  refine ⟨rfl, ?_, hother, _, hsame, rfl, rfl, rfl, rfl, rfl, rfl⟩
  exact (congrArg (fun k : Core => { k with seqs := [], seqProg := 0, issueCtr := 0, arrProg := 0, vecProg := 0, sfuProg := 0 }) hframe :)

end

/-- What a vector form captures of its registers (R106, R127). -/
def Run.vecVals (r : Run) : List Nat :=
  [(r.q.sreg (wf_ r.word 95 90)).toNat, (r.q.areg (wf_ r.word 87 84)).toNat, (r.q.areg (bits (modOf r.word) 16 13)).toNat,
   (r.q.areg (bits (modOf r.word) 20 17)).toNat, (r.q.sreg (bits (modOf r.word) 27 22)).toNat]

theorem vecIssues_of_exec {mk : Nat → Instr} {op : Nat} (hexec : ∀ core s, exec (mk core) s = s.run (·.vecIssue core op)) :
    VecIssues mk op := by
  intro core s r h hok hroom
  refine h.answers_enqueue (vals := r.vecVals) (da := []) (db := []) (by decide) hroom (hexec core s) rfl ?_
  dsimp only
  rw [hok]
  rfl

theorem sfuIssues_of_exec {mk : Nat → Instr} {fn : Nat} (hexec : ∀ core s, exec (mk core) s = s.run (·.sfuIssue core fn)) :
    SfuIssues mk fn := by
  intro core s r h ⟨hlow, hhigh⟩ hroom
  refine h.answers_enqueue (vals := []) (da := []) (db := []) (by decide) hroom (hexec core s) rfl (if_neg ?_)
  omega

/-- What a TMMA captures of its registers (R74, R105). -/
def Run.tmmaVals (r : Run) : List Nat :=
  [(r.q.areg (wf_ r.word 97 94)).toNat, (r.q.sreg (wf_ r.word 93 88)).toNat, (r.q.sreg (wf_ r.word 87 82)).toNat,
   (r.q.areg (wf_ r.word 77 74)).toNat, (r.q.sreg (wf_ r.word 73 68)).toNat, (r.q.sreg (wf_ r.word 67 62)).toNat]

theorem engineIssues_tmma : EngineIssues .tmma 0x100 0 (fun s core r => tmmaCheck (s.core core) r r.tmmaVals
      ((s.core core).scratchBytes (s.core core).swap (r.q.areg (wf_ r.word 81 78)).toNat 32)
      ((s.core core).scratchBytes (s.core core).swap (r.q.areg (wf_ r.word 61 58)).toNat 32) = none) (·.q.advance) := by
  intro core s r h hok hroom
  refine h.answers_enqueue (g := (·.tmma core)) (vals := r.tmmaVals)
    (da := (s.core core).scratchBytes (s.core core).swap (r.q.areg (wf_ r.word 81 78)).toNat 32)
    (db := (s.core core).scratchBytes (s.core core).swap (r.q.areg (wf_ r.word 61 58)).toNat 32) (by decide) hroom rfl rfl ?_
  dsimp only
  unfold Run.tmmaVals at hok
  rw [hok]
  rfl

theorem Run.vecNext_eq (r : Run) : r.vecNext =
    if wf_ r.word 123 116 = 0x25 ∧ wf_ r.word 95 90 ≠ 0 ∧ wf_ r.word 95 90 ∈ r.q.endSels then { r.q with owes := true } else r.q.advance := by
  unfold vecNext
  simp only [List.contains_iff_mem]

/-- Settles O10: every engine form is one issue to its engine (`State.Issues.answers_enqueue`) where its own checks pass. -/
theorem engineFormsIssue : Obligations.EngineFormsIssue := by
  unfold Obligations.EngineFormsIssue
  refine ⟨?_, ?_, ⟨engineIssues_tmma, ?_⟩, Run.vecNext_eq⟩
  · refine ⟨?_, ?_, ?_, ?_, ?_, ?_, ?_, ?_, ?_, ?_, ?_, ?_, ?_, ?_, ?_, ?_, ?_⟩ <;> exact vecIssues_of_exec fun _ _ => rfl
  · refine ⟨?_, ?_, ?_, ?_, ?_, ?_, ?_, ?_, ?_, ?_, ?_, ?_⟩ <;> exact vecIssues_of_exec fun _ _ => rfl
  · refine ⟨?_, ?_, ?_, ?_, ?_, ?_, ?_⟩ <;> exact sfuIssues_of_exec fun _ _ => rfl

end Sys2Proof.Machine
end

section
/-!
Vector forms (R124, R126, R127): a write of lanes read back, and what the head of the vector or SFU queue leaves of its core.
-/
namespace Sys2Proof

/-- A run of puts at rising keys, read back: the run's elements in their place, and every other key as it was. -/
theorem SMap.get_foldl_put {α : Type} (d : α) (base : Nat) (l : List α) (n : Nat) (m : SMap α) (k : Nat) :
    SMap.get d (l.foldl (fun (st : Nat × SMap α) x => (st.1 + 1, SMap.put st.2 (base + st.1) x)) (n, m)).2 k =
      if base + n ≤ k then (l[k - (base + n)]?).getD (SMap.get d m k) else SMap.get d m k := by
  induction l generalizing n m with
  | nil => simp
  | cons x l ih =>
    rw [List.foldl_cons, ih]
    by_cases hk : k = base + n
    · subst hk
      rw [if_neg (by omega), if_pos (Nat.le_refl _), SMap.get_put_same, Nat.sub_self]
      rfl
    · rw [SMap.get_put_other _ _ _ _ _ hk]
      by_cases hle : base + n ≤ k
      · rw [if_pos (by omega), if_pos hle, show k - (base + n) = k - (base + (n + 1)) + 1 by omega, List.getElem?_cons_succ]
      · rw [if_neg (by omega), if_neg hle]

end Sys2Proof

namespace Sys2Proof.Machine

/-! ### Lanes -/

theorem SeqState.lane_mapLanes (q : SeqState) {vd n v i : Nat} (f : Nat → W32) (hn : n ≤ 512) (hi : i < 512) :
    (q.mapLanes vd n f).lane v i = if v = vd ∧ i < n then f i else q.lane v i := by
  show SMap.get 0#32 (((List.range n).map f).foldl (fun (st : Nat × SMap W32) x => (st.1 + 1, SMap.put st.2 (vd * 512 + st.1) x)) (0, q.v)).2
    (v * 512 + i) = _
  rw [SMap.get_foldl_put, Nat.add_zero]
  by_cases hv : v = vd
  · subst hv
    rw [if_pos (Nat.le_add_right _ _), Nat.add_sub_cancel_left]
    by_cases hin : i < n
    · simp [hin]
    · rw [List.getElem?_eq_none (by simpa using hin), if_neg fun h => hin h.2]
      rfl
  · rw [if_neg fun h : v = vd ∧ i < n => hv h.1]
    split
    · rw [List.getElem?_eq_none (by simp only [List.length_map, List.length_range]; omega)]
      rfl
    · rfl

/-- A form whose work on the registers is to map the active lanes is a `LaneForm`. -/
theorem laneForm_of_mapLanes {op : Nat} {f : SeqState → W128 → Nat → Nat → W32}
    (h : ∀ (q : SeqState) w sv, wf_ w 123 116 = op → q.vecOp w sv = q.mapLanes (wf_ w 115 111) (nelem w) (f q w sv)) : LaneForm op f := by
  intro q w sv v i hop hn _ hi
  rw [h q w sv hop, q.lane_mapLanes _ hn hi]

theorem SeqState.lane_sfuOp {q : SeqState} {w : W128} {f : SfuFn} {v i : Nat} (hf : SfuFn.ofCode (wf_ w 123 120) = some f)
    (hn : wf_ w 109 100 ≤ 512) (hi : i < 512) : (q.sfuOp w).lane v i = if v = wf_ w 119 115 ∧ i < wf_ w 109 100
      then toF32 (f.apply (rne ((f32 (q.lane (wf_ w 114 110) i)).mul (fp32.val (wf_ w 95 64))))) else q.lane v i := by
  rw [sfuOp, hf]
  exact q.lane_mapLanes _ hn hi

/-! ### Forms on registers -/

/-- Where a later kernel of the context runs, an engine instruction's work goes to the registers kept of its own (R194). -/
theorem Core.setEngSeq_of_old {k : Core} {o : EngOp} (hold : ∃ x ∈ k.old, x.1 = o.kid) (q : SeqState) :
    k.setEngSeq o q = { k with old := SMap.put k.old o.kid q } := by
  obtain ⟨x, hx, hkid⟩ := hold
  exact if_pos (List.any_eq_true.mpr ⟨x, hx, by simp [hkid]⟩)

/-- Either way only the registers of its context, or those kept, change. -/
theorem Core.setEngSeq_eq (k : Core) (o : EngOp) (q : SeqState) :
    k.setEngSeq o q = { k with seqs := (k.setEngSeq o q).seqs, old := (k.setEngSeq o q).old } := by
  unfold setEngSeq
  split <;> rfl

theorem Core.seq_setEngSeq_other (k : Core) (o : EngOp) (q : SeqState) {x : Nat} (hx : x ≠ o.ctx) :
    (k.setEngSeq o q).seq x = k.seq x := by
  unfold setEngSeq
  split
  · rfl
  · exact seq_setSeq_other _ _ _ _ hx

/-- An instruction with no tagged access leaves the tags. -/
theorem EngOp.markers_of_untagged {o : EngOp} {k0 : Core} (h : o.tagged k0 = []) (k : Core) : o.markers k0 k = k := by
  rw [markers, h]
  rfl

/-- The vector and special-function forms that touch registers alone name no tagged range. -/
theorem EngOp.tagged_of_register {o : EngOp} (h : 0x222 ≤ o.op ∧ o.op ≤ 0x248 ∨ 0x300 ≤ o.op) (k : Core) : o.tagged k = [] := by
  unfold tagged
  rw [if_neg (by omega), if_neg (by omega), if_neg (by omega)]

theorem Core.seqs_setEngineQ (k : Core) (e : Nat) (l : List EngOp) : (k.setEngineQ e l).seqs = k.seqs := by
  match e with
  | 0 | 1 | _ + 2 => rfl

theorem Core.tags_setEngineQ (k : Core) (e : Nat) (l : List EngOp) : (k.setEngineQ e l).tags = k.tags := by
  match e with
  | 0 | 1 | _ + 2 => rfl

section
variable {s : State} {core : Nat} {o : EngOp} {rest : List EngOp} {q : SeqState}

/-- An instruction whose work is to set the registers it works on: what is left of the core. -/
theorem answers_setEngSeq {e : Nat} (h : s.HeadRuns core e o rest) (hrun : s.engineRun core o = (s.core core).setEngSeq o q) :
    Answers (.engineInstructionCompletes core e) s (fun t => onlyCore s t core ∧
      t.core core = { (s.core core).setEngineQ e rest with
        seqs := (t.core core).seqs, tags := (t.core core).tags, old := (t.core core).old
        arrProg := if e = 0 then s.time.keeper else (s.core core).arrProg
        vecProg := if e = 1 then s.time.keeper else (s.core core).vecProg
        sfuProg := if e = 2 then s.time.keeper else (s.core core).sfuProg } ∧
      (o.tagged (s.core core) = [] → (t.core core).tags = (s.core core).tags) ∧
      (∀ x, x ≠ o.ctx → (t.core core).seq x = (s.core core).seq x) ∧
      ((∀ x ∈ (s.core core).old, x.1 ≠ o.kid) → (t.core core).seq o.ctx = q) ∧
      ((∃ x ∈ (s.core core).old, x.1 = o.kid) → (t.core core).seqs = (s.core core).seqs)) := by
  refine answers_engineInstructionCompletes h fun t honly hcore => ⟨honly, ?_⟩
  have hwork := (s.core core).setEngSeq_eq o q
  have hothers (x : Nat) (hx : x ≠ o.ctx) := (s.core core).seq_setEngSeq_other o q hx
  have hown (hcurrent : ∀ x ∈ (s.core core).old, x.1 ≠ o.kid) : ((s.core core).setEngSeq o q).seq o.ctx = q := by
    rw [Core.setEngSeq_of_current hcurrent, Core.seq_setSeq_same]
  have hkept (hold : ∃ x ∈ (s.core core).old, x.1 = o.kid) : ((s.core core).setEngSeq o q).seqs = (s.core core).seqs := by
    rw [Core.setEngSeq_of_old hold]
  have htags (htagged : o.tagged (s.core core) = []) := EngOp.markers_of_untagged htagged ((s.core core).setEngSeq o q)
  rw [Block.engineDone, hrun] at hcore
  generalize (s.core core).setEngSeq o q = k at hwork hothers hown hkept htags hcore
  have hmarkers := o.markers_eq (s.core core) k
  generalize o.markers (s.core core) k = k' at htags hmarkers hcore
  have hseqs : (t.core core).seqs = k.seqs := by
    rw [hcore]
    exact (Core.seqs_setEngineQ ..).trans (congrArg Core.seqs hmarkers :)
  have hseq (x : Nat) : (t.core core).seq x = k.seq x := congrArg (fun l => SMap.get ({} : SeqState) l x) hseqs
  refine ⟨?_, fun htagged => ?_, fun x hx => (hseq x).trans (hothers x hx), fun hcurrent => (hseq _).trans (hown hcurrent),
    fun hold => hseqs.trans (hkept hold)⟩
  · rw [hcore, hmarkers, hwork]
    match e with
    | 0 | 1 | _ + 2 => rfl
  · rw [hcore]
    exact (Core.tags_setEngineQ ..).trans ((congrArg Core.tags (htags htagged)).trans (congrArg Core.tags hwork :))

/-- What a register form of the vector engine makes of the registers it works on (R94, R127). -/
def SeqState.vecDone (q : SeqState) (o : EngOp) : SeqState :=
  let q := q.vecOp o.word (o.vals.getD 0 0)
  if o.op = 0x225 then q.settle o else q

theorem Block.engineRun_of_vectorForm (b : Block) (hlow : 0x222 ≤ o.op) (hhigh : o.op ≤ 0x248) :
    b.engineRun core o = (b.core core).setEngSeq o (((b.core core).engSeq o).vecDone o) := by
  unfold engineRun SeqState.vecDone
  dsimp only
  split
  any_goals omega
  · next hop => rw [if_pos hop]
  · next hop => rw [if_neg (by omega), if_neg hop]

theorem Block.engineRun_of_sfuForm (b : Block) (hop : 0x300 ≤ o.op) :
    b.engineRun core o = (b.core core).setEngSeq o (((b.core core).engSeq o).sfuOp o.word) := by
  unfold engineRun
  dsimp only
  split
  any_goals omega
  exact if_pos hop

theorem answers_vectorForm (h : s.HeadRuns core 1 o rest) (hlow : 0x222 ≤ o.op) (hhigh : o.op ≤ 0x248) :
    Answers (.engineInstructionCompletes core 1) s (fun t => onlyCore s t core ∧ (t.core core).vector = rest ∧
      { t.core core with seqs := [], vector := [], vecProg := 0, old := [] } = { s.core core with seqs := [], vector := [], vecProg := 0, old := [] } ∧
      (∀ x, x ≠ o.ctx → (t.core core).seq x = (s.core core).seq x) ∧
      ((∀ x ∈ (s.core core).old, x.1 ≠ o.kid) → (t.core core).seq o.ctx =
        (let q := ((s.core core).seq o.ctx).vecOp o.word (o.vals.getD 0 0)
         if o.op = 0x225 ∧ q.owes = true ∧ q.pc = o.pc ∧ q.kid = o.kid then { q.advance with owes := false } else q)) ∧
      ((∃ x ∈ (s.core core).old, x.1 = o.kid) → (t.core core).seqs = (s.core core).seqs)) := by
  refine (answers_setEngSeq h (s.engineRun_of_vectorForm hlow hhigh)).mono fun t ⟨honly, hcore, htags, hothers, hown, hkept⟩ => ?_
  rw [htags (EngOp.tagged_of_register (.inl ⟨hlow, hhigh⟩) _)] at hcore
  refine ⟨honly, (congrArg (fun k : Core => k.vector) hcore :), ?_, hothers, fun hcurrent => ?_, hkept⟩
  · exact (congrArg (fun k : Core => { k with seqs := [], vector := [], vecProg := 0, old := [] }) hcore :)
  · rw [hown hcurrent, Core.engSeq_of_current hcurrent]
    unfold SeqState.vecDone SeqState.settle
    by_cases hvext : o.op = 0x225 <;> simp only [hvext, if_true, if_false, true_and, false_and]

theorem answers_sfuForm (h : s.HeadRuns core 2 o rest) (hop : 0x300 ≤ o.op) :
    Answers (.engineInstructionCompletes core 2) s (fun t => onlyCore s t core ∧ (t.core core).sfu = rest ∧
      { t.core core with seqs := [], sfu := [], sfuProg := 0, old := [] } = { s.core core with seqs := [], sfu := [], sfuProg := 0, old := [] } ∧
      (∀ x, x ≠ o.ctx → (t.core core).seq x = (s.core core).seq x) ∧
      ((∀ x ∈ (s.core core).old, x.1 ≠ o.kid) → (t.core core).seq o.ctx = ((s.core core).seq o.ctx).sfuOp o.word) ∧
      ((∃ x ∈ (s.core core).old, x.1 = o.kid) → (t.core core).seqs = (s.core core).seqs)) := by
  refine (answers_setEngSeq h (s.engineRun_of_sfuForm hop)).mono fun t ⟨honly, hcore, htags, hothers, hown, hkept⟩ => ?_
  rw [htags (EngOp.tagged_of_register (.inr hop) _)] at hcore
  refine ⟨honly, (congrArg (fun k : Core => k.sfu) hcore :), ?_, hothers, fun hcurrent => ?_, hkept⟩
  · exact (congrArg (fun k : Core => { k with seqs := [], sfu := [], sfuProg := 0, old := [] }) hcore :)
  · rw [hown hcurrent, Core.engSeq_of_current hcurrent]

/-! ### VLD and VST (R127, R150) -/

theorem answers_vld (h : s.HeadRuns core 1 o rest) (hop : o.op = 0x220) :
    Answers (.engineInstructionCompletes core 1) s (fun t => onlyCore s t core ∧ (t.core core).vector = rest ∧
      { t.core core with seqs := [], tags := [], vector := [], vecProg := 0, old := [] } =
        { s.core core with seqs := [], tags := [], vector := [], vecProg := 0, old := [] } ∧
      (∀ x, x ≠ o.ctx → (t.core core).seq x = (s.core core).seq x) ∧
      ((∀ x ∈ (s.core core).old, x.1 ≠ o.kid) → (t.core core).seq o.ctx = ((s.core core).seq o.ctx).setLanes (wf_ o.word 115 111) 0
        (vldLanes o.word ((s.core core).scratchBytes o.swap (vecAddr (o.vals.getD 1 0) o.word) (nelem o.word * laneBytes o.word))))) := by
  have hrun : s.engineRun core o = (s.core core).setEngSeq o (((s.core core).engSeq o).setLanes (wf_ o.word 115 111) 0
      (vldLanes o.word ((s.core core).scratchBytes o.swap (vecAddr (o.vals.getD 1 0) o.word) (nelem o.word * laneBytes o.word)))) := by
    simp only [Block.engineRun, hop]
  refine (answers_setEngSeq h hrun).mono fun t ⟨honly, hcore, _, hothers, hown, _⟩ => ?_
  refine ⟨honly, (congrArg (fun k : Core => k.vector) hcore :), ?_, hothers, fun hcurrent => ?_⟩
  · exact (congrArg (fun k : Core => { k with seqs := [], tags := [], vector := [], vecProg := 0, old := [] }) hcore :)
  · rw [hown hcurrent, Core.engSeq_of_current hcurrent]

end

/-- A write to the scratchpad changes bytes and their poison alone. -/
theorem Core.scratchWrite_eq (k : Core) (swap : SSet) (a : Nat) (l : List Byte) (bad : List Nat) : k.scratchWrite swap a l bad =
    { k with scratch := (k.scratchWrite swap a l bad).scratch, poison := (k.scratchWrite swap a l bad).poison } := by
  refine List.foldlRecOn (motive := fun x : Core => x = { k with scratch := x.scratch, poison := x.poison }) _ _ rfl fun x hx r _ => ?_
  dsimp only
  rw [hx]

theorem mem_slotRuns {a n : Nat} {r : Nat × Nat} (h : r ∈ slotRuns a n) : r.1 + r.2 ≤ n ∨ r.2 = 0 := by
  unfold slotRuns at h
  obtain ⟨i, -, rfl⟩ := List.mem_map.mp h
  dsimp only
  omega

/-- With no swapped pair, a write to the scratchpad leaves every byte outside its range (R150, R193). -/
theorem Core.byte_scratchWrite_out (k : Core) (a : Nat) (l : List Byte) (bad : List Nat) {x : Nat} (hx : x < a ∨ a + l.length ≤ x) :
    Mem.byte (k.scratchWrite [] a l bad).scratch x = Mem.byte k.scratch x := by
  refine List.foldlRecOn (motive := fun y : Core => Mem.byte y.scratch x = Mem.byte k.scratch x) _ _ rfl fun y hy r hr => ?_
  refine (Mem.byte_write_out _ _ _ _ ?_).trans hy
  have hrun := mem_slotRuns hr
  show x < a + r.1 ∨ a + r.1 + ((l.drop r.1).take r.2).length ≤ x
  rw [List.length_take, List.length_drop]
  omega

theorem answers_vst {s : State} {core : Nat} {o : EngOp} {rest : List EngOp} (h : s.HeadRuns core 1 o rest) (hop : o.op = 0x221)
    (hswap : o.swap = []) : Answers (.engineInstructionCompletes core 1) s (fun t => onlyCore s t core ∧ (t.core core).vector = rest ∧
      { t.core core with scratch := [], poison := [], tags := [], vector := [], vecProg := 0, old := [] } =
        { s.core core with scratch := [], poison := [], tags := [], vector := [], vecProg := 0, old := [] } ∧
      let a := vecAddr (o.vals.getD 1 0) o.word
      let l := vstBytes o.word ((s.core core).engSeq o)
      (t.core core).scratch = ((s.core core).scratchWrite [] a l []).scratch ∧
      ∀ x, (x < a ∨ a + l.length ≤ x) → Mem.byte (t.core core).scratch x = Mem.byte (s.core core).scratch x) := by
  refine answers_engineInstructionCompletes h fun t honly hcore => ⟨honly, ?_⟩
  have hrun : s.engineRun core o = (s.core core).scratchWrite [] (vecAddr (o.vals.getD 1 0) o.word)
      (vstBytes o.word ((s.core core).engSeq o)) [] := by
    simp only [Block.engineRun, hop, hswap]
  dsimp only
  have hout (x : Nat) := (s.core core).byte_scratchWrite_out (vecAddr (o.vals.getD 1 0) o.word)
    (vstBytes o.word ((s.core core).engSeq o)) [] (x := x)
  have hwrite := (s.core core).scratchWrite_eq [] (vecAddr (o.vals.getD 1 0) o.word) (vstBytes o.word ((s.core core).engSeq o)) []
  rw [hcore, Block.engineDone, hrun]
  generalize (s.core core).scratchWrite [] (vecAddr (o.vals.getD 1 0) o.word) (vstBytes o.word ((s.core core).engSeq o)) [] = k
    at hout hwrite ⊢
  have hmarkers := o.markers_eq (s.core core) k
  generalize o.markers (s.core core) k = k' at hmarkers ⊢
  rw [hmarkers]
  refine ⟨rfl, ?_, rfl, hout⟩
  rw [hwrite]
  rfl

/-- Settles O11: a vector form maps its active lanes (`SeqState.lane_mapLanes`), and what an instruction at the head leaves of its
core follows from the one thing it sets: registers (`answers_setEngSeq`) or bytes (`answers_vst`). -/
theorem vectorFormsComplete : Obligations.VectorFormsComplete := by
  unfold Obligations.VectorFormsComplete
  refine ⟨?_, ⟨fun _ _ _ _ h hlow hhigh => answers_vectorForm h hlow hhigh, fun _ _ _ _ h hop => answers_sfuForm h hop,
    fun _ _ _ _ _ hf hn _ hi => SeqState.lane_sfuOp hf hn hi⟩, fun _ _ _ _ h hop hswap => answers_vst h hop hswap,
    fun _ _ _ _ h hop => answers_vld h hop⟩
  refine ⟨?_, ?_, ?_, ?_, ?_, ?_, ?_, ?_, ?_, ?_, ?_, ?_⟩ <;>
    exact laneForm_of_mapLanes fun q w sv hop => by simp only [SeqState.vecOp, hop] <;> rfl

end Sys2Proof.Machine
end

section
/-!
MOV (R109, R182): what the acceptance of a descriptor changes of its core.
-/
namespace Sys2Proof.Machine

/-! ### One core and trace -/

/-- Beside one core, nothing differs but trace and log. -/
def Block.AtCore (b : Block) (core : Nat) (c : Block) : Prop :=
  (∀ x, x ≠ core → c.core x = b.core x) ∧ Leaves (fun b => { b with cores := [] }) b c

section
variable {b c d : Block} {core : Nat}

theorem Traced.atCore (h : Traced b c) (core : Nat) : b.AtCore core c :=
  ⟨fun x _ => h.core x, h.leaves (fun b => { b with cores := [] })⟩

theorem Leaves.trans_of_rings {f : Block → Block} (hf : ∀ x : Block, (f x).rings = x.rings) (h : Leaves f b c) (h' : Leaves f c d) :
    Leaves f b d := by
  obtain ⟨hquiet, hmuted⟩ := h
  obtain ⟨hquiet', hmuted'⟩ := h'
  refine ⟨hquiet'.trans hquiet, fun hp => (hmuted' fun r => ?_).trans (hmuted hp)⟩
  have hrings : c.rings = b.rings := (hf c.muted).symm.trans ((congrArg (fun x : Block => x.rings) (hmuted hp)).trans (hf b.muted))
  exact (congrArg (fun l => (SMap.get ({} : TraceRing) l r).placed) hrings).trans (hp r)

theorem Block.AtCore.trans (h : b.AtCore core c) (h' : c.AtCore core d) : b.AtCore core d :=
  ⟨fun x hx => (h'.1 x hx).trans (h.1 x hx), h.2.trans_of_rings (fun _ => rfl) h'.2⟩

theorem Block.AtCore.setCore (h : b.AtCore core c) (k : Core) : b.AtCore core (c.setCore core k) :=
  h.trans ⟨fun x hx => c.core_setCore_other core k x hx, rfl, fun _ => rfl⟩

end

/-! ### Descriptors -/

/-- The core with a group in force for what a descriptor sends out (R180). -/
def Core.openGroup (k : Core) (d : Desc) : Core :=
  if d.dstSp ≠ 3 ∨ d.op = 2 ∨ (k.groupFor d.ctx d.target d.window).isSome then k
  else { k with groups := k.groups ++ [⟨d.ctx, d.target, d.window, 0, 0, true⟩] }

/-- A descriptor as `Core.accept` enters it: with the core's issue number, the group in force and the pieces of its walk. -/
def Core.queued (k : Core) (d : Desc) : Desc := { d with
  id := k.issueCtr, group := (((k.openGroup d).groupFor d.ctx d.target d.window).map (·.group)).getD 0, pieces := d.mkPieces }

/-- Acceptance puts the descriptor at the end of the mover's queue, and beside it changes groups and the issue number. -/
theorem Core.accept_eq (k : Core) (m : Nat) (d : Desc) : k.accept m d =
    { k.modMover m (fun v => { v with queue := v.queue ++ [k.queued d] }) with
      groups := (k.accept m d).groups, issueCtr := k.issueCtr + 1 } := by
  unfold accept queued openGroup
  dsimp only
  split <;> split <;> rfl

/-- It may also start the mover's timer. -/
theorem Core.acceptAt_eq (k : Core) (now m : Nat) (d : Desc) : k.acceptAt now m d =
    { k.modMover m (fun v => { v with queue := v.queue ++ [k.queued d] }) with
      groups := (k.accept m d).groups, movProg := (k.acceptAt now m d).movProg, issueCtr := k.issueCtr + 1 } := by
  have haccept := k.accept_eq m d
  unfold acceptAt
  dsimp only
  generalize k.accept m d = k' at haccept ⊢
  have hmovProg : k'.movProg = k.movProg := (congrArg (fun y : Core => y.movProg) haccept :)
  split
  · exact haccept ▸ rfl
  · rwa [hmovProg]

theorem Core.mover_acceptAt_same (k : Core) (now m : Nat) (d : Desc) :
    (k.acceptAt now m d).mover m = { k.mover m with queue := (k.mover m).queue ++ [k.queued d] } := by
  rw [acceptAt_eq]
  exact mover_setMover_same ..

theorem Core.mover_acceptAt_other (k : Core) (now : Nat) {m x : Nat} (d : Desc) (hx : x ≠ m) :
    (k.acceptAt now m d).mover x = k.mover x := by
  rw [acceptAt_eq]
  exact mover_setMover_other _ _ _ _ hx

theorem Core.seq_acceptAt (k : Core) (now m : Nat) (d : Desc) (x : Nat) : (k.acceptAt now m d).seq x = k.seq x := by
  rw [acceptAt_eq]
  rfl

theorem answers_mov_full {core : Nat} {s : State} {r : Run} (h : s.Issues core 0x400 r)
    (hfull : 64 ≤ ((s.core core).mover (wf_ r.word 123 122)).queue.length) : Answers (.mov core) s (fun t => t = s) := by
  refine h.answers (g := (·.mov core)) rfl rfl ?_
  dsimp only
  rw [if_pos hfull]

/-- The scratchpad address of a MOV word's descriptor (R109). -/
def Run.movAddr (r : Run) : Nat := ((r.q.areg (wf_ r.word 121 118)).toNat + 64 * wf_ r.word 117 102) % 2 ^ 64

/-- A descriptor's bytes with the addresses that a MOV word puts in their place (R109). -/
def Run.movRaw (r : Run) (raw : List Byte) : List Byte :=
  let raw := if bit r.word.toNat 101 then patch raw 8 (natLe 8 (r.q.areg (wf_ r.word 100 97)).toNat) else raw
  if bit r.word.toNat 96 then patch raw 16 (natLe 8 (r.q.areg (wf_ r.word 95 92)).toNat) else raw

/-- The descriptor that a MOV word names. -/
def Run.movDesc (r : Run) (k : Core) : Desc :=
  newDesc r.ctx r.ker.kid r.ker.step r.q.pc (wf_ r.word 91 76)
    (r.movRaw (k.scratchBytes k.swap r.movAddr (descLen (k.scratchBytes k.swap r.movAddr 64)))) k.swap

/-- A descriptor enters a mover's queue with its trace record, and the sequencer goes on (R182). -/
def Block.queueDesc (b : Block) (core ctx step m : Nat) (d : Desc) (q : SeqState) : Block :=
  (((b.cross (arrIsl core) (movIsl core)).modCore core (fun k => k.acceptAt b.time.keeper m d)).emit
    (movIsl core) 0x0100 ctx step (d.arg m + d.units % 2 ^ 24 * 2 ^ 24)).issued core ctx q

theorem answers_mov {core : Nat} {s : State} {r : Run} (h : s.Issues core 0x400 r)
    (hroom : ((s.core core).mover (wf_ r.word 123 122)).queue.length < 64) (haligned : r.movAddr % 64 = 0)
    (hmain : r.bind.holds r.movAddr 64 = true)
    (hall : r.bind.holds r.movAddr (descLen ((s.core core).scratchBytes (s.core core).swap r.movAddr 64)) = true)
    (hgood : (s.core core).scratchBad (s.core core).swap r.movAddr
      (descLen ((s.core core).scratchBytes (s.core core).swap r.movAddr 64)) = [])
    (hsound : s.descRefusal core r.bind (r.movDesc (s.core core)) = none) :
    Answers (.mov core) s (fun t => t.toBlock =
      s.queueDesc core r.ctx r.ker.step (wf_ r.word 123 122) (r.movDesc (s.core core)) r.q.advance) := by
  refine h.answers (g := (·.mov core)) rfl rfl ?_
  unfold Run.movDesc Run.movRaw Run.movAddr at *
  dsimp only at *
  rw [if_neg (Nat.not_le.mpr hroom), if_neg (not_not.mpr haligned), if_neg (by rw [hmain]; decide),
    if_neg (by rw [hall]; decide), if_neg (by rw [hgood]; decide), hsound]
  rfl

section
variable (b : Block) (core ctx step m : Nat) (d : Desc) (q : SeqState)

theorem Block.core_queueDesc_same : (b.queueDesc core ctx step m d q).core core =
    { ((b.core core).acceptAt b.time.keeper m d).setSeq ctx { q with wait := .none } with seqProg := b.time.keeper } := by
  unfold queueDesc
  rw [Block.core_issued]
  simp [Block.modCore_eq, Block.core_setCore_same, (b.cross_traced _ _).time]

theorem Block.queueDesc_beside : b.AtCore core (b.queueDesc core ctx step m d q) :=
  (((b.cross_traced _ _).atCore core).setCore _).trans ((Block.emit_traced ..).atCore core) |>.setCore _

end

/-- Settles O15: what the acceptance of a descriptor changes of its core (`Core.acceptAt_eq`). -/
theorem movQueuesItsDescriptor : Obligations.MovQueuesItsDescriptor := by
  unfold Obligations.MovQueuesItsDescriptor
  refine ⟨fun core s r h hroom haligned hmain hall hgood hsound => ?_, fun core s r h hfull => answers_mov_full h hfull⟩
  refine (answers_mov h hroom haligned hmain hall hgood hsound).mono fun t ht => ?_
  obtain ⟨hcores, hblock⟩ := s.queueDesc_beside core r.ctx r.ker.step (wf_ r.word 123 122) (r.movDesc (s.core core)) r.q.advance
  have hcore := s.core_queueDesc_same core r.ctx r.ker.step (wf_ r.word 123 122) (r.movDesc (s.core core)) r.q.advance
  rw [ht]
  generalize s.queueDesc core r.ctx r.ker.step (wf_ r.word 123 122) (r.movDesc (s.core core)) r.q.advance = c at hcore hcores hblock
  have hsame := (s.core core).mover_acceptAt_same s.time.keeper (wf_ r.word 123 122) (r.movDesc (s.core core))
  have hother (x : Nat) (hx) := (s.core core).mover_acceptAt_other s.time.keeper (x := x) (m := wf_ r.word 123 122) (r.movDesc (s.core core)) hx
  have hseq (x : Nat) := (s.core core).seq_acceptAt s.time.keeper (wf_ r.word 123 122) (r.movDesc (s.core core)) x
  have hframe := (s.core core).acceptAt_eq s.time.keeper (wf_ r.word 123 122) (r.movDesc (s.core core))
  generalize (s.core core).acceptAt s.time.keeper (wf_ r.word 123 122) (r.movDesc (s.core core)) = k at hcore hsame hother hseq hframe
  rw [hcore]
  refine ⟨(Core.seq_withSeqProg ..).trans (if_pos rfl), ⟨(s.core core).queued (r.movDesc (s.core core)), hsame, ?_⟩, hother,
    fun x hx => (Core.seq_setSeq_other _ _ _ _ hx).trans (hseq x), ?_, hcores, hblock⟩
  · exact ⟨rfl, rfl, rfl, rfl, rfl, rfl, rfl, rfl, rfl⟩
  · rw [hframe]
    rfl

end Sys2Proof.Machine
end

section
/-!
Stops and aborts (R101, R120, R369): the memories they leave, and the cores an abort of other cores' kernels leaves.
-/
namespace Sys2Proof.Machine

/-! ### What every stop and abort leaves -/

/-- What of a core no stop and no abort changes: its scratchpad, its program and which kernels are done. -/
def Core.stores (k : Core) : Mem × SMap W128 × List (Nat × Bool) := (k.scratch, k.prog, k.kernels.map (fun x => (x.kid, x.done)))

/-- What no stop and no abort changes: that of every core, and the tile buffers. -/
def Block.stores (b : Block) : (Nat → Mem × SMap W128 × List (Nat × Bool)) × (Nat → Mem) :=
  (fun c => (b.core c).stores, fun p => (b.part p).tile)

theorem Core.map_kid_done_of {k : Core} {f : Kernel → Kernel} (hf : ∀ x, (f x).kid = x.kid ∧ (f x).done = x.done) :
    (k.kernels.map f).map (fun x => (x.kid, x.done)) = k.kernels.map (fun x => (x.kid, x.done)) := by
  rw [List.map_map]
  exact List.map_congr_left fun x _ => Prod.ext (hf x).1 (hf x).2

section
variable (b : Block)

theorem Block.stores_of_traced {c : Block} (h : Traced b c) : c.stores = b.stores := by
  unfold stores part
  rw [h.parts, funext h.core]

theorem Block.stores_setCore {core : Nat} {k : Core} (h : k.stores = (b.core core).stores) : (b.setCore core k).stores = b.stores := by
  refine Prod.ext (funext fun c => ?_) rfl
  by_cases hc : c = core
  · subst hc
    exact (congrArg Core.stores (b.core_setCore_same ..)).trans h
  · exact congrArg Core.stores (b.core_setCore_other _ _ _ hc)

theorem Block.stores_modCore {core : Nat} {f : Core → Core} (h : ∀ k, (f k).stores = k.stores) : (b.modCore core f).stores = b.stores :=
  b.stores_setCore (h _)

theorem Block.stores_modCtx (ctx : Nat) (f : Ctx → Ctx) : (b.modCtx ctx f).stores = b.stores := rfl

theorem Block.stores_foldl {α : Type} (f : Block → α → Block) (h : ∀ b x, (f b x).stores = b.stores) (l : List α) (b : Block) :
    (l.foldl f b).stores = b.stores :=
  List.foldlRecOn (motive := fun c : Block => c.stores = b.stores) l f rfl fun c hc x _ => (h c x).trans hc

theorem Block.stores_emit (i e x n a : Nat) : (b.emit i e x n a).stores = b.stores := b.stores_of_traced (b.emit_traced ..)

theorem Block.stores_emitCtx (i e x a : Nat) : (b.emitCtx i e x a).stores = b.stores := b.stores_emit ..

theorem Block.stores_cross (i j : Nat) : (b.cross i j).stores = b.stores := b.stores_of_traced (b.cross_traced ..)

theorem Core.stores_resumeTimer (k : Core) (m now : Nat) : (k.resumeTimer m now).stores = k.stores := by
  unfold resumeTimer
  dsimp only
  split
  · rfl
  · split <;> rfl

theorem Block.stores_unpark (core m : Nat) : (b.unpark core m).stores = b.stores := by
  have hpark : (b.modCore core (fun k => (k.resumeTimer m b.time.keeper).modMover m (fun v => { v with park := .none }))).stores =
      b.stores := b.stores_modCore fun k => k.stores_resumeTimer m b.time.keeper
  unfold unpark
  dsimp only
  split
  · exact hpark
  · exact hpark

theorem Block.stores_modMover (core m : Nat) (f : Mover → Mover) : (b.modCore core (fun k => k.modMover m f)).stores = b.stores :=
  b.stores_modCore fun _ => rfl

theorem Block.stores_unparkAttn (core ctx : Nat) : (b.unparkAttn core ctx).stores = b.stores := by
  unfold unparkAttn
  dsimp only
  split
  · exact b.stores_unpark ..
  · rfl

theorem Block.stores_cancelMovers (core : Nat) (p : Desc → Bool) : (b.cancelMovers core p).stores = b.stores := by
  refine stores_foldl _ (fun b m => ?_) _ _
  dsimp only
  split
  · rfl
  · rw [stores_foldl _ fun b d => b.stores_emitCtx .., stores_modMover]
    split
    · exact b.stores_unpark ..
    · rfl

theorem Block.stores_bank (core : Nat) : (b.bank core).stores = b.stores := by
  unfold bank
  dsimp only
  split
  · rfl
  · exact (b.modCtx ..).stores_modCore fun k => rfl

theorem Block.stores_abortKernel (core kid : Nat) (other : Bool) : (b.abortKernel core kid other).stores = b.stores := by
  unfold abortKernel
  dsimp only
  split
  · split
    · rfl
    · exact b.stores_modCore fun k => rfl
  · split
    · rw [stores_cancelMovers]
      refine b.stores_modCore fun k => Prod.ext rfl (Prod.ext rfl (Core.map_kid_done_of fun x => ?_))
      split <;> exact ⟨rfl, rfl⟩
    · rw [apply_ite stores, stores_emitCtx, ite_self, stores_cancelMovers]
      refine (stores_modCore _ fun k => ?_).trans (b.stores_bank core)
      split <;> refine Prod.ext rfl (Prod.ext rfl (Core.map_kid_done_of fun x => ?_)) <;> split <;> exact ⟨rfl, rfl⟩

theorem Block.stores_crossTo (src : Nat) (dsts : List Nat) : (b.crossTo src dsts).stores = b.stores :=
  stores_foldl _ (fun b _ => b.stores_cross ..) _ _

theorem Block.stores_acceptAbort (ctx scope : Nat) (seqs : List Nat) (kids : List (Nat × Nat)) (drop : Nat) (page : Option Nat)
    (other : Bool) : (b.acceptAbort ctx scope seqs kids drop page other).stores = b.stores := by
  unfold acceptAbort
  dsimp only
  refine (stores_foldl (fun b c => b.unparkAttn c ctx) (fun b c => b.stores_unparkAttn ..) _ _).trans ?_
  refine (stores_foldl _ (fun b c => b.stores_modCore fun k => ?_) _ _).trans ?_
  · rfl
  · rw [stores_foldl _ fun b ck => (stores_abortKernel ..).trans (b.stores_crossTo ..), stores_modCtx]
    exact b.stores_emit ..

end

end Sys2Proof.Machine
end

section
/-!
Precise stops and engine stops (R95, R101, R102, R120, R144): what a stop with no failed transfer makes of its own core.
-/
namespace Sys2Proof.Machine

/-! ### Other cores -/

section
variable (b : Block) {core c : Nat}

theorem Block.core_foldl_of {α : Type} {f : Block → α → Block} {l : List α} (h : ∀ b, ∀ x ∈ l, (f b x).core c = b.core c) :
    (l.foldl f b).core c = b.core c :=
  List.foldlRecOn (motive := fun d : Block => d.core c = b.core c) l f rfl fun d hd x hx => (h d x hx).trans hd

variable (hc : c ≠ core)
include hc

theorem Block.core_modCore_other (f : Core → Core) : (b.modCore core f).core c = b.core c := b.core_setCore_other _ _ _ hc

theorem Block.core_unpark_other (m : Nat) : (b.unpark core m).core c = b.core c := by
  have hpark := b.core_modCore_other hc (fun k => (k.resumeTimer m b.time.keeper).modMover m (fun v => { v with park := .none }))
  unfold unpark
  dsimp only
  split
  · exact hpark
  · exact hpark

theorem Block.core_cancelMovers_other (p : Desc → Bool) : (b.cancelMovers core p).core c = b.core c := by
  refine b.core_foldl_of fun b m _ => ?_
  dsimp only
  split
  · rfl
  · rw [core_foldl_of _ fun b d _ => by rw [emitCtx_eq, core_emit], core_modCore_other _ hc]
    split
    · exact b.core_unpark_other hc m
    · rfl

theorem Block.core_bank_other : (b.bank core).core c = b.core c := by
  unfold bank
  dsimp only
  split
  · rfl
  · exact core_modCore_other _ hc _

theorem Block.core_abortKernel_other (kid : Nat) (other : Bool) : (b.abortKernel core kid other).core c = b.core c := by
  unfold abortKernel
  dsimp only
  split
  · split
    · rfl
    · exact b.core_modCore_other hc _
  · split
    · rw [core_cancelMovers_other _ hc, core_modCore_other _ hc]
    · rw [apply_ite (fun d : Block => d.core c), emitCtx_eq, core_emit, ite_self, core_cancelMovers_other _ hc,
        core_modCore_other _ hc, core_bank_other _ hc]

end

section
variable (b : Block) (core : Nat)

/-- An abort of kernels of other cores, that holds no entry, leaves a core. -/
theorem Block.core_acceptAbort_of_others {kids : List (Nat × Nat)} (hkids : ∀ ck ∈ kids, ck.1 ≠ core) (ctx scope drop : Nat)
    (page : Option Nat) (other : Bool) : (b.acceptAbort ctx scope [] kids drop page other).core core = b.core core := by
  unfold acceptAbort
  have hgone : ((b.emitStep 0x0503 ctx scope 0).ctx ctx).attn.filter (fun a => [].contains a.seq) = [] :=
    List.filter_eq_nil_iff.mpr fun a _ => by simp
  dsimp only
  rw [hgone]
  simp only [List.filter_nil, List.flatMap_nil, List.foldl_nil]
  generalize hd : List.foldl _ _ (List.range 16) = d
  show d.core core = _
  rw [← hd]
  refine (core_foldl_of _ fun b c _ => ?_).trans ?_
  · have hunits : (b.core c).units.filter (fun u => !(u.ctx == ctx && ([] : List Nat).contains u.seq)) = (b.core c).units :=
      List.filter_eq_self.mpr fun u _ => by simp
    rw [modCore_eq, hunits]
    by_cases h : core = c
    · subst h
      exact b.core_setCore_same ..
    · exact b.core_setCore_other _ _ _ h
  · rw [core_foldl_of _ fun b ck hck => ?_]
    · exact core_emit ..
    · refine (core_abortKernel_other _ (hkids ck hck).symm _ _).trans ?_
      exact core_foldl_of _ fun b d _ => b.core_cross ..

/-- On its own core a bank of time changes the time it counts from. -/
theorem Block.core_bank_same : ∃ n, (b.bank core).core core = { b.core core with busyFrom := n } := by
  unfold bank
  dsimp only
  split
  · exact ⟨_, rfl⟩
  · exact ⟨_, core_setCore_same ..⟩

theorem Block.stores_modPart (n : Nat) {f : Part → Part} (hf : ∀ x, (f x).tile = x.tile) : (b.modPart n f).stores = b.stores := by
  rw [modPart_eq]
  refine Prod.ext rfl (funext fun p => ?_)
  by_cases hp : p = n
  · subst hp
    exact (congrArg Part.tile (part_setPart_same ..)).trans (hf _)
  · exact congrArg Part.tile (part_setPart_other _ _ _ _ hp)

theorem Block.stores_poisonSeen (isl part ctx step : Nat) : (b.poisonSeen isl part ctx step).stores = b.stores := by
  unfold poisonSeen
  exact (stores_emit ..).trans ((b.modCtx ctx _).stores_modPart part fun _ => rfl)

theorem Block.core_poisonSeen (isl part ctx step c : Nat) : (b.poisonSeen isl part ctx step).core c = b.core c := by
  unfold poisonSeen
  dsimp only
  rw [core_emit]
  rfl

/-- What a stop of a running kernel, or one that has halted, makes of its core where no transfer failed (R101, R120): the kernel
and the core's report say so, and beside them the sequencer's wait and the bank of time change. -/
def Core.Stopped (k k' : Core) (kid : Nat) (rep : StopReport) : Prop := ∃ stamp,
  { k' with seqs := [], busyFrom := 0 } = { k with
    seqs := [], busyFrom := 0
    kernels := k.kernels.map (fun x => if x.kid = kid then { x with state := .stopped, report := rep, stamp := stamp } else x)
    report := if k.kernels.all (fun x => decide (x.kid ≤ kid)) then rep else k.report }

/-- The change of a core that its kernel's stop makes (R101, R120). -/
def Core.stop (k : Core) (ker : Kernel) (kid stamp : Nat) (rep : StopReport) : Core :=
  let k := { k with
    kernels := k.kernels.map (fun x => if x.kid = kid then { x with state := .stopped, report := rep, stamp := stamp } else x)
    report := if k.kernels.all (fun x => decide (x.kid ≤ kid)) then rep else k.report }
  let q := k.seq ker.ctx
  if q.kid = kid then k.setSeq ker.ctx { q with wait := .none } else k

theorem Core.stop_eq (k : Core) (ker : Kernel) (kid stamp : Nat) (rep : StopReport) : ∃ l, k.stop ker kid stamp rep = { k with
    seqs := l
    kernels := k.kernels.map (fun x => if x.kid = kid then { x with state := .stopped, report := rep, stamp := stamp } else x)
    report := if k.kernels.all (fun x => decide (x.kid ≤ kid)) then rep else k.report } := by
  by_cases h : (k.seq ker.ctx).kid = kid
  · exact ⟨_, if_pos h⟩
  · exact ⟨_, if_neg h⟩

theorem Core.stores_stop (k : Core) (ker : Kernel) (kid stamp : Nat) (rep : StopReport) : (k.stop ker kid stamp rep).stores = k.stores := by
  obtain ⟨l, heq⟩ := k.stop_eq ker kid stamp rep
  rw [heq]
  refine Prod.ext rfl (Prod.ext rfl (Core.map_kid_done_of fun x => ?_))
  split <;> exact ⟨rfl, rfl⟩

theorem Core.stopped_stop (k : Core) (ker : Kernel) (kid stamp n : Nat) (rep : StopReport) :
    k.Stopped (Core.stop { k with busyFrom := n } ker kid stamp rep) kid rep := by
  obtain ⟨l, heq⟩ := Core.stop_eq { k with busyFrom := n } ker kid stamp rep
  exact ⟨stamp, congrArg (fun y : Core => { y with seqs := [], busyFrom := 0 }) heq⟩

theorem Block.stores_stopKernel (kid : Nat) (at_ : Option Nat) (rep : StopReport) : (b.stopKernel core kid at_ rep).stores = b.stores := by
  unfold stopKernel
  dsimp only
  cases (b.core core).kernels.find? (fun x => x.kid == kid) with
  | none => rfl
  | some ker =>
    dsimp only
    generalize hc : crossFront _ core = c
    have hstores : c.stores = b.stores := by
      rw [← hc, crossFront, stores_cross, apply_ite stores, stores_cancelMovers, ite_self]
      refine (stores_modCore _ fun k => k.stores_stop ker kid _ rep).trans ((stores_emit ..).trans ?_)
      rw [apply_ite stores, stores_bank, ite_self]
    rw [apply_ite stores, apply_ite stores, stores_acceptAbort, apply_ite stores, stores_acceptAbort, ite_self, ite_self, hstores, ite_self]

theorem Block.core_stopKernel {kid : Nat} {ker : Kernel} (hker : (b.core core).kernels.find? (fun x => x.kid == kid) = some ker)
    (hstate : ker.state = .running ∨ ker.state = .halted) (at_ : Option Nat) {rep : StopReport} (hdetail : rep.detail ≠ 0xA) :
    (b.core core).Stopped ((b.stopKernel core kid at_ rep).core core) kid rep := by
  have hgoes : ¬ (ker.state = .stopped ∨ ker.state = .aborted) := by rcases hstate with h | h <;> simp [h]
  have hbank : ∃ n, (if ker.state = .running then b.bank core else b).core core = { b.core core with busyFrom := n } := by
    split
    · exact b.core_bank_same core
    · exact ⟨_, rfl⟩
  obtain ⟨n, hbank⟩ := hbank
  unfold stopKernel
  dsimp only
  rw [hker]
  dsimp only
  rw [if_neg hgoes, if_neg hdetail, if_pos (.inl hdetail)]
  generalize hc : crossFront _ core = c
  have hcore : (b.core core).Stopped (c.core core) kid rep := by
    rw [← hc, crossFront, core_cross, modCore_eq, core_setCore_same, core_emit, hbank]
    exact (b.core core).stopped_stop ker kid _ n rep
  split
  · exact hcore
  · rw [core_acceptAbort_of_others]
    · exact hcore
    · intro ck hck
      simpa using (List.mem_filter.mp (List.mem_filter.mp hck).1).2

end

end Sys2Proof.Machine
end

section
/-!
Kernels that a word or an engine instruction stops (R95, R102, R120, R144).
-/
namespace Sys2Proof.Machine

/-! ### A stopped kernel -/

section
variable {k k' : Core} {kid : Nat} {rep : StopReport} (h : k.Stopped k' kid rep)
include h

theorem Core.Stopped.find? {ker : Kernel} (hker : k.kernels.find? (fun x => x.kid == kid) = some ker) :
    ∃ stamp, k'.kernels.find? (fun x => x.kid == kid) = some { ker with state := .stopped, report := rep, stamp := stamp } := by
  obtain ⟨stamp, hcore⟩ := h
  have hkernels := (congrArg (fun y : Core => y.kernels) hcore :)
  dsimp only at hkernels
  have hkid : ker.kid = kid := beq_iff_eq.mp (List.find?_some hker :)
  refine ⟨stamp, ?_⟩
  rw [hkernels, List.find?_map, List.find?_congr (p₂ := fun x => x.kid == kid), hker, Option.map_some, if_pos hkid]
  intro x _
  dsimp only [Function.comp]
  split <;> rfl

theorem Core.Stopped.report_eq (hnewest : ∀ x ∈ k.kernels, x.kid ≤ kid) : k'.report = rep := by
  obtain ⟨stamp, hcore⟩ := h
  refine ((congrArg (fun y : Core => y.report) hcore :)).trans (if_pos ?_)
  exact List.all_eq_true.mpr fun x hx => decide_eq_true (hnewest x hx)

theorem Core.Stopped.engineQ_eq (e : Nat) : k'.engineQ e = k.engineQ e := by
  obtain ⟨stamp, hcore⟩ := h
  match e with
  | 0 => exact (congrArg (fun y : Core => y.array) hcore :)
  | 1 => exact (congrArg (fun y : Core => y.vector) hcore :)
  | _ + 2 => exact (congrArg (fun y : Core => y.sfu) hcore :)

end

/-- What stays of the scratchpads and the tile buffers. -/
theorem Block.memories_of_stores {b c : Block} (h : c.stores = b.stores) :
    (∀ n, (c.core n).scratch = (b.core n).scratch) ∧ ∀ p, (c.part p).tile = (b.part p).tile :=
  ⟨fun n => congrArg (fun x => (x.1 n).1) h, fun p => congrArg (fun x => x.2 p) h⟩

/-! ### Precise stops -/

/-- What the sequencer runs: a kernel that runs, and the word at its PC where the program store holds one. -/
theorem running_spec {b : Block} {core : Nat} {r : Run} (h : b.running core = some r) :
    (b.core core).kernels.find? (fun x => x.kid == r.q.kid) = some r.ker ∧ r.ker.state = .running ∧
    (r.word = SMap.get 0#128 (b.core core).prog (r.ker.base + r.q.pc) ∨ r.word = 0#128) := by
  unfold Block.running at h
  dsimp only at h
  split at h
  · cases h
  · split at h
    · next ker bd hker hbind =>
      split at h
      · next hruns =>
        cases h
        refine ⟨hker, hruns.1, ?_⟩
        dsimp only
        split
        · exact .inl rfl
        · exact .inr rfl
      · cases h
    · cases h

/-- The report of a precise stop at the PC of what a core runs (R120, R121). -/
def Run.preciseReport (r : Run) (k : Core) (core status detail : Nat) : StopReport :=
  { status := status, core := core, cls := wordClass (SMap.get 0#128 k.prog (r.ker.base + r.q.pc)), precise := true,
    other := false, pc := r.q.pc, detail := detail, movId := 0, block := 0 }

theorem preciseStop_stops {b : Block} {core : Nat} {r : Run} (h : b.running core = some r) (status : Nat) {detail : Nat}
    (hdetail : detail ≠ 0xA) : (b.preciseStop core r.ctx status detail).stores = b.stores ∧
    (b.core core).Stopped ((b.preciseStop core r.ctx status detail).core core) r.ker.kid
      (r.preciseReport (b.core core) core status detail) := by
  obtain ⟨hker, hstate, -⟩ := running_spec h
  have hkid : r.ker.kid = r.q.kid := beq_iff_eq.mp (List.find?_some hker :)
  unfold Block.preciseStop
  dsimp only
  rw [running_q h, hker, hkid]
  dsimp only
  have hseen : ∀ c, c = (if status = stData then b.poisonSeen (arrIsl core) (partOf core) r.ctx r.ker.step else b) →
      c.stores = b.stores ∧ c.core core = b.core core := by
    rintro c rfl
    split
    · exact ⟨b.stores_poisonSeen .., b.core_poisonSeen ..⟩
    · exact ⟨rfl, rfl⟩
  generalize hc : (if status = stData then b.poisonSeen (arrIsl core) (partOf core) r.ctx r.ker.step else b) = c
  obtain ⟨hstores, hcore⟩ := hseen c hc.symm
  refine ⟨(c.stores_stopKernel ..).trans hstores, ?_⟩
  rw [← hcore] at hker ⊢
  exact c.core_stopKernel core hker (.inl hstate) none hdetail

/-- A HALT with no other bit is a word that R102 accepts. -/
theorem wordId_zero : wordId 0#128 = some 0 := by decide

theorem issue_of_refused {b : Block} {core : Nat} {r : Run} (h : b.running core = some r) (hword : (b.core core).wordBad r = false)
    (hrefused : wordId r.word = none) (id : Nat) (f : Run → Block) :
    b.issue core id f = b.preciseStop core r.ctx stInvalid 1 := by
  simp [Block.issue, h, hword, hrefused]

theorem issue_of_wordBad {b : Block} {core : Nat} {r : Run} (h : b.running core = some r) (hword : (b.core core).wordBad r = true)
    (id : Nat) (f : Run → Block) : b.issue core id f = b.preciseStop core r.ctx stData 9 := by
  simp [Block.issue, h, hword]

theorem issue_refused_stops {b : Block} {core : Nat} {r : Run} (h : b.running core = some r) (hword : (b.core core).wordBad r = false)
    (hrefused : wordId r.word = none) (id : Nat) (f : Run → Block) :
    let t := b.issue core id f
    (∀ c, (t.core c).scratch = (b.core c).scratch) ∧ (∀ p, (t.part p).tile = (b.part p).tile) ∧
    ∃ ker, (t.core core).kernels.find? (fun x => x.kid == r.ker.kid) = some ker ∧ ker.state = .stopped ∧
      ker.report = { status := stInvalid, core := core, cls := wordClass r.word, precise := true, other := false, pc := r.q.pc,
                     detail := 1, movId := 0, block := 0 } ∧
      ((∀ x ∈ (b.core core).kernels, x.kid ≤ r.ker.kid) → (t.core core).report = ker.report) := by
  dsimp only
  obtain ⟨hker, -, hat⟩ := running_spec h
  have hkid : r.ker.kid = r.q.kid := beq_iff_eq.mp (List.find?_some hker :)
  have hstored : r.word = SMap.get 0#128 (b.core core).prog (r.ker.base + r.q.pc) :=
    hat.resolve_right fun hzero => by rw [hzero, wordId_zero] at hrefused; cases hrefused
  obtain ⟨hstores, hstop⟩ := preciseStop_stops h stInvalid (detail := 1) (by decide)
  obtain ⟨stamp, hfound⟩ := hstop.find? (hkid.symm ▸ hker)
  rw [issue_of_refused h hword hrefused]
  obtain ⟨hscratch, htile⟩ := Block.memories_of_stores hstores
  refine ⟨hscratch, htile, _, hfound, rfl, ?_, hstop.report_eq⟩
  rw [hstored]
  rfl

theorem issue_wordBad_stops {b : Block} {core : Nat} {r : Run} (h : b.running core = some r) (hword : (b.core core).wordBad r = true)
    (id : Nat) (f : Run → Block) :
    let t := b.issue core id f
    (∀ c, (t.core c).scratch = (b.core c).scratch) ∧ (∀ p, (t.part p).tile = (b.part p).tile) ∧
    ∃ ker, (t.core core).kernels.find? (fun x => x.kid == r.ker.kid) = some ker ∧ ker.state = .stopped ∧
      ker.report.status = stData ∧ ker.report.detail = 9 ∧ ker.report.pc = r.q.pc ∧ ker.report.precise = true := by
  dsimp only
  obtain ⟨hker, -, -⟩ := running_spec h
  have hkid : r.ker.kid = r.q.kid := beq_iff_eq.mp (List.find?_some hker :)
  obtain ⟨hstores, hstop⟩ := preciseStop_stops h stData (detail := 9) (by decide)
  obtain ⟨stamp, hfound⟩ := hstop.find? (hkid.symm ▸ hker)
  rw [issue_of_wordBad h hword]
  obtain ⟨hscratch, htile⟩ := Block.memories_of_stores hstores
  exact ⟨hscratch, htile, _, hfound, rfl, rfl, rfl, rfl, rfl⟩

/-! ### Engine stops -/

/-- An engine fault is poison, a forbidden value or a range outside the kernel's rights, never a failed transfer (R144). -/
theorem engineFault_detail {b : Block} {core : Nat} {o : EngOp} {e : Nat × Nat} (h : b.engineFault core o = some e) :
    e.2 ≠ 0xA := by
  have hquant (h : quantFault b core o = some e) : e.2 ≠ 0xA := by
    unfold quantFault at h
    dsimp only at h
    (repeat' split at h) <;> cases h <;> decide
  unfold Block.engineFault at h
  dsimp only at h
  split at h
  · cases h
    decide
  · split at h
    · exact hquant h
    · split at h
      · cases h
      · split at h
        · cases h
          decide
        · cases h

/-- The engine instructions of a core without one and the kernel's later ones. -/
def Core.dropOps (k : Core) (o : EngOp) : Core := { k with
  array := k.array.filter (fun x => !(x.kid == o.kid && decide (o.id ≤ x.id)))
  vector := k.vector.filter (fun x => !(x.kid == o.kid && decide (o.id ≤ x.id)))
  sfu := k.sfu.filter (fun x => !(x.kid == o.kid && decide (o.id ≤ x.id))) }

theorem Core.engineQ_dropOps (k : Core) (o : EngOp) (e : Nat) :
    (k.dropOps o).engineQ e = (k.engineQ e).filter (fun x => !(x.kid == o.kid && decide (o.id ≤ x.id))) := by
  match e with
  | 0 | 1 | _ + 2 => rfl

/-- The report of an engine stop (R120, R121). -/
def EngOp.stopReport (o : EngOp) (core status detail : Nat) : StopReport :=
  { status := status, core := core, cls := wordClass o.word, precise := false, other := false, pc := o.pc, detail := detail,
    movId := 0, block := 0 }

theorem engineStopAt_stops {b : Block} {core : Nat} {o : EngOp} {ker : Kernel}
    (hker : (b.core core).kernels.find? (fun x => x.kid == o.kid) = some ker) (hstate : ker.state = .running ∨ ker.state = .halted)
    (status : Nat) {detail : Nat} (hdetail : detail ≠ 0xA) : (b.engineStopAt core o status detail).stores = b.stores ∧
    ((b.core core).dropOps o).Stopped ((b.engineStopAt core o status detail).core core) o.kid (o.stopReport core status detail) := by
  unfold Block.engineStopAt
  dsimp only
  generalize hc : (if status = stData then _ else _) = c
  have hseen : c.stores = b.stores ∧ c.core core = (b.core core).dropOps o := by
    have hdrop : (b.modCore core (·.dropOps o)).stores = b.stores ∧ (b.modCore core (·.dropOps o)).core core = (b.core core).dropOps o :=
      ⟨b.stores_modCore fun _ => rfl, b.core_setCore_same ..⟩
    rw [← hc]
    split
    · exact ⟨(Block.stores_poisonSeen ..).trans hdrop.1, (Block.core_poisonSeen ..).trans hdrop.2⟩
    · exact hdrop
  obtain ⟨hstores, hcore⟩ := hseen
  have hfound : (c.core core).kernels.find? (fun x => x.kid == o.kid) = some ker := by rw [hcore]; exact hker
  have hany : (c.core core).kernels.any (fun x => x.kid == o.kid) = true :=
    List.any_eq_true.mpr ⟨ker, List.mem_of_find?_eq_some hfound, (List.find?_some hfound :)⟩
  rw [if_pos hany]
  exact ⟨(c.stores_stopKernel ..).trans hstores, hcore ▸ c.core_stopKernel core hfound hstate none hdetail⟩

/-- Settles O13: an engine stop is a stop of the instruction's kernel (`engineStopAt_stops`), and no engine fault says that a
transfer failed (`engineFault_detail`). -/
theorem engineStopReportsTheInstruction : Obligations.EngineStopReportsTheInstruction := by
  unfold Obligations.EngineStopReportsTheInstruction
  intro core engine s o rest e ker hup hengine hqueue hready hfault hker hstate
  refine answers_of_run (f := fun b => b.engineStopAt core o e.1 e.2) ?_ ?_
  · have hgoes : ¬ ((!s.coreUp core) = true ∨ 2 < engine ∨ (!(s.core core).headReady o) = true) := by
      simp only [hup, hready, Bool.not_true, Bool.false_eq_true, false_or, or_false]
      omega
    show execEngineStop core engine s = _
    simp only [execEngineStop, State.run_eq, hqueue, if_neg hgoes, hfault]
  · obtain ⟨hstores, hstop⟩ := engineStopAt_stops (b := s.toBlock) (core := core) hker hstate e.1 (engineFault_detail hfault)
    obtain ⟨stamp, hfound⟩ := hstop.find? hker
    obtain ⟨hscratch, htile⟩ := Block.memories_of_stores hstores
    exact ⟨(hstop.engineQ_eq engine).trans (Core.engineQ_dropOps ..), hscratch, htile, _, hfound, rfl, rfl, rfl, rfl⟩

end Sys2Proof.Machine
end

section
/-!
HALT and the change of a core's context (R104, R383).
-/
namespace Sys2Proof.Machine

/-! ### One core, banked time and trace -/

/-- Beside one core and the time that contexts held a sequencer, nothing differs but trace and log. -/
def Block.AtCoreBanked (b : Block) (core : Nat) (c : Block) : Prop :=
  (∀ x, x ≠ core → c.core x = b.core x) ∧ (∀ x, { c.ctx x with busyNs := 0 } = { b.ctx x with busyNs := 0 }) ∧
    Leaves (fun b => { b with cores := [], ctxs := [] }) b c

section
variable {b c d : Block} {core : Nat}

theorem Traced.atCoreBanked (h : Traced b c) (core : Nat) : b.AtCoreBanked core c :=
  ⟨fun x _ => h.core x, fun x => congrArg (fun l => { SMap.get ({} : Ctx) l x with busyNs := 0 }) h.ctxs,
    h.leaves (fun b => { b with cores := [], ctxs := [] })⟩

theorem Block.AtCoreBanked.trans (h : b.AtCoreBanked core c) (h' : c.AtCoreBanked core d) : b.AtCoreBanked core d := by
  obtain ⟨hcores, hctxs, hblock⟩ := h
  obtain ⟨hcores', hctxs', hblock'⟩ := h'
  exact ⟨fun x hx => (hcores' x hx).trans (hcores x hx), fun x => (hctxs' x).trans (hctxs x),
    hblock.trans_of_rings (fun _ => rfl) hblock'⟩

theorem Block.AtCoreBanked.setCore (h : b.AtCoreBanked core c) (k : Core) : b.AtCoreBanked core (c.setCore core k) :=
  h.trans ⟨fun x hx => c.core_setCore_other core k x hx, fun _ => rfl, rfl, fun _ => rfl⟩

theorem Block.AtCoreBanked.emit (h : b.AtCoreBanked core c) (i e x n a : Nat) : b.AtCoreBanked core (c.emit i e x n a) :=
  h.trans ((c.emit_traced ..).atCoreBanked core)

theorem Block.atCoreBanked_refl (b : Block) (core : Nat) : b.AtCoreBanked core b := (Traced.refl b).atCoreBanked core

theorem Block.bank_atCoreBanked (b : Block) (core : Nat) : b.AtCoreBanked core (b.bank core) := by
  have hctx : b.AtCoreBanked core (b.modCtx ((b.core core).cur - 1) (fun x =>
      { x with busyNs := x.busyNs + (b.time.keeper - (b.core core).busyFrom) })) := by
    refine ⟨fun _ _ => rfl, fun x => ?_, rfl, fun _ => rfl⟩
    rw [modCtx_eq]
    by_cases hx : x = (b.core core).cur - 1
    · subst hx
      rw [ctx_setCtx_same]
    · rw [ctx_setCtx_other _ _ _ _ hx]
  unfold bank
  dsimp only
  split
  · exact b.atCoreBanked_refl core
  · exact hctx.setCore _

end

/-! ### A change of context -/

/-- What a change of the context on a core makes of the core `k` (R383): it runs the context, every sequencer state is as it was
but for the time its instruction was held, and beside the sequencer's own times and the movers' prefetched data nothing changes. -/
def Core.Switched (k k' : Core) (ctx : Nat) : Prop :=
  k'.cur = ctx + 1 ∧ (∀ x, { k'.seq x with held := 0 } = { k.seq x with held := 0 }) ∧
  (k.cur ≠ ctx + 1 → ∀ m < 4, (k'.mover m).prefetch = []) ∧
  { k' with seqs := [], cur := 0, lastPos := none, movers := [], sliceAt := 0, quantum := 0, seqProg := 0, busyFrom := 0 } =
    { k with seqs := [], cur := 0, lastPos := none, movers := [], sliceAt := 0, quantum := 0, seqProg := 0, busyFrom := 0 }

theorem Core.prefetch_dropPrefetch (k : Core) {m : Nat} (hm : m < 4) : ((k.dropPrefetch (fun _ => true)).mover m).prefetch = [] := by
  rw [mover_dropPrefetch _ _ hm]
  exact List.filter_eq_nil_iff.mpr fun _ _ => Bool.false_ne_true

theorem Core.seq_dropPrefetch (k : Core) (p : PfEntry → Bool) (x : Nat) : (k.dropPrefetch p).seq x = k.seq x := by
  rw [dropPrefetch_eq]
  rfl

/-- The time that the instruction of the context on the core has been held is noted (R383). -/
def Core.noteHeld (k : Core) (now : Nat) : Core := k.setSeq (k.cur - 1) { k.seq (k.cur - 1) with held := now - k.seqProg }

theorem Core.seq_noteHeld (k : Core) (now x : Nat) : { (k.noteHeld now).seq x with held := 0 } = { k.seq x with held := 0 } := by
  unfold noteHeld
  by_cases hx : x = k.cur - 1
  · subst hx
    rw [seq_setSeq_same]
  · rw [seq_setSeq_other _ _ _ _ hx]

/-- Its state comes to the core with the time that its own instruction was held. -/
def Core.take (k : Core) (bd : Binding) (now now' : Nat) : Core := { k.dropPrefetch (fun _ => true) with
  cur := bd.ctx + 1, lastPos := some bd.pos, sliceAt := now', quantum := k.quantumTo, busyFrom := now', seqProg := now - (k.seq bd.ctx).held }

section
variable {k k' : Core}

theorem Core.switched_take (hseq : ∀ x, { k'.seq x with held := 0 } = { k.seq x with held := 0 })
    (hcore : { k' with seqs := [], busyFrom := 0 } = { k with seqs := [], busyFrom := 0 }) (bd : Binding) (now now' : Nat) :
    k.Switched (k'.take bd now now') bd.ctx := by
  refine ⟨rfl, fun x => ?_, fun _ m hm => k'.prefetch_dropPrefetch hm, ?_⟩
  · exact (congrArg (fun q : SeqState => { q with held := 0 }) (k'.seq_dropPrefetch (fun _ => true) x)).trans (hseq x)
  · have hdrop := k'.dropPrefetch_eq (fun _ => true)
    unfold take
    generalize k'.dropPrefetch (fun _ => true) = y at hdrop ⊢
    rw [hdrop]
    exact (congrArg (fun y : Core => { y with cur := 0, lastPos := none, movers := [], sliceAt := 0, quantum := 0, seqProg := 0 }) hcore :)

end

/-- Another context's state is put on the core, as `Block.switchTo` does it. -/
theorem Block.switchTo_other {b : Block} {core : Nat} {bd : Binding} (h : (b.core core).cur ≠ bd.ctx + 1) :
    b.AtCoreBanked core (b.switchTo core bd) ∧ (b.core core).Switched ((b.switchTo core bd).core core) bd.ctx := by
  obtain ⟨n, hbank⟩ := b.core_bank_same core
  have hbanked := b.bank_atCoreBanked core
  unfold switchTo
  dsimp only
  rw [if_neg h]
  generalize b.bank core = b1 at hbank hbanked ⊢
  generalize hb2 : (if (b.core core).cur = 0 ∨ (!(b.core core).busy) = true then b1 else _) = b2
  have hheld : b.AtCoreBanked core b2 ∧ (∀ x, { (b2.core core).seq x with held := 0 } = { (b.core core).seq x with held := 0 }) ∧
      { b2.core core with seqs := [], busyFrom := 0 } = { b.core core with seqs := [], busyFrom := 0 } := by
    rw [← hb2]
    split
    · rw [hbank]
      exact ⟨hbanked, fun _ => rfl, rfl⟩
    · refine ⟨hbanked.setCore _, ?_⟩
      rw [modCore_eq, core_setCore_same, hbank]
      exact ⟨Core.seq_noteHeld { b.core core with busyFrom := n } b1.time.keeper, rfl⟩
  obtain ⟨hbanked2, hseq, hcore⟩ := hheld
  generalize hb3 : (if (b.core core).cur = 0 then b2 else _) = b3
  have hout : b.AtCoreBanked core b3 ∧ b3.core core = b2.core core := by
    rw [← hb3]
    split
    · exact ⟨hbanked2, rfl⟩
    · exact ⟨hbanked2.emit .., core_emit ..⟩
  obtain ⟨hbanked3, hcore3⟩ := hout
  rw [← hcore3] at hseq hcore
  have htake : b.AtCoreBanked core (b3.modCore core (·.take bd b1.time.keeper b3.time.keeper)) := hbanked3.setCore _
  have hswitched := Core.switched_take hseq hcore bd b1.time.keeper b3.time.keeper
  have hcore4 : (b3.modCore core (·.take bd b1.time.keeper b3.time.keeper)).core core =
    (b3.core core).take bd b1.time.keeper b3.time.keeper := b3.core_setCore_same ..
  split
  · exact ⟨htake, hcore4 ▸ hswitched⟩
  · refine ⟨htake.emit .., ?_⟩
    rw [emitCtx_eq, core_emit]
    exact hcore4 ▸ hswitched

theorem Block.switchTo_spec (b : Block) (core : Nat) (bd : Binding) :
    b.AtCoreBanked core (b.switchTo core bd) ∧ (b.core core).Switched ((b.switchTo core bd).core core) bd.ctx := by
  by_cases h : (b.core core).cur = bd.ctx + 1
  · rw [switchTo, if_pos h, modCore_eq, core_setCore_same]
    exact ⟨(b.atCoreBanked_refl core).setCore _, h, fun _ => rfl, fun hne => absurd h hne, rfl⟩
  · exact switchTo_other h

/-! ### HALT -/

/-- The report of a HALT (R104). -/
def Run.haltReport (r : Run) (core : Nat) : StopReport :=
  { status := 0, core := core, cls := 0, precise := false, other := false, pc := r.q.pc, detail := 0, movId := 0, block := 0 }

/-- What a HALT makes of its core beside the sequencer and the movers' prefetched data (R104). -/
def Core.Halted (k k' : Core) (r : Run) (core : Nat) : Prop :=
  k'.report = r.haltReport core ∧
  k'.kernels = k.kernels.map (fun x => if x.kid = r.ker.kid then { x with state := .halted, report := r.haltReport core } else x) ∧
  { k' with report := {}, kernels := [], seqs := [], cur := 0, lastPos := none, sliceAt := 0, quantum := 0, seqProg := 0, busyFrom := 0, movers := [] } =
    { k with report := {}, kernels := [], seqs := [], cur := 0, lastPos := none, sliceAt := 0, quantum := 0, seqProg := 0, busyFrom := 0, movers := [] }

theorem Core.Halted.switched {k k' k'' : Core} {r : Run} {core ctx : Nat} (h : k.Halted k' r core) (h' : k'.Switched k'' ctx) :
    k.Halted k'' r core := by
  obtain ⟨hreport, hkernels, hcore⟩ := h
  obtain ⟨-, -, -, hcore'⟩ := h'
  refine ⟨?_, ?_, ?_⟩
  · exact ((congrArg (fun y : Core => y.report) hcore' :)).trans hreport
  · exact ((congrArg (fun y : Core => y.kernels) hcore' :)).trans hkernels
  · exact ((congrArg (fun y : Core => { y with report := {}, kernels := [] }) hcore' :)).trans hcore

theorem answers_halt {core : Nat} {s : State} {r : Run} (h : s.Issues core 0x000 r) :
    Answers (.halt core) s (fun t => s.AtCoreBanked core t.toBlock ∧ (s.core core).Halted (t.core core) r core) := by
  refine h.answers (g := (·.halt core)) rfl rfl ?_
  dsimp only
  have hissued : s.AtCoreBanked core (s.issued core r.ctx r.q) := (s.toBlock.atCoreBanked_refl core).setCore _
  have hcore := s.core_issued core r.ctx r.q
  generalize s.issued core r.ctx r.q = b1 at hissued hcore ⊢
  obtain ⟨n, hbank⟩ := b1.core_bank_same core
  have hbanked := hissued.trans (b1.bank_atCoreBanked core)
  generalize b1.bank core = b2 at hbank hbanked ⊢
  generalize hb3 : Block.emit _ (arrIsl core) 0x0201 r.ctx r.ker.step r.q.pc = b3
  have hhalted : s.AtCoreBanked core b3 ∧ (s.core core).Halted (b3.core core) r core := by
    rw [← hb3]
    refine ⟨(hbanked.setCore _).emit .., ?_⟩
    rw [Block.core_emit, Block.modCore_eq, Block.core_setCore_same, hbank, hcore]
    exact ⟨rfl, rfl, rfl⟩
  obtain ⟨hatcore, hhalt⟩ := hhalted
  split
  · next bd _ =>
    split
    · obtain ⟨hswitch, hswitched⟩ := b3.switchTo_spec core bd
      exact ⟨hatcore.trans hswitch, hhalt.switched hswitched⟩
    · exact ⟨hatcore, hhalt⟩
  · exact ⟨hatcore, hhalt⟩

/-- Settles O9: a HALT changes its core as `Core.Halted` says, whatever context is then put on it (`Block.switchTo_spec`), and a
word that cannot issue is a precise stop (`preciseStop_stops`). -/
theorem kernelsEndAtHaltOrRefusal : Obligations.KernelsEndAtHaltOrRefusal := by
  unfold Obligations.KernelsEndAtHaltOrRefusal
  refine ⟨fun core s r h => (answers_halt h).mono fun t ⟨hatcore, hhalt⟩ => ?_,
    fun core id f b r h hword hrefused => issue_refused_stops h hword hrefused id f,
    fun core id f b r h hword => issue_wordBad_stops h hword id f⟩
  obtain ⟨hreport, hkernels, hcore⟩ := hhalt
  exact ⟨hreport, hreport ▸ hkernels, hcore, hatcore⟩

end Sys2Proof.Machine
end

section
/-!
LAUNCH and COPY (R96–R99, R338, R340): reads of the front end that go through, and the work they start.
-/
namespace Sys2Proof.Machine

/-! ### Stamps -/

/-- Nothing but stamps differs. -/
def Block.Stamped (b c : Block) : Prop := c = { b with islands := c.islands } ∧ ∀ i, (c.island i).skew = (b.island i).skew ∧
  (c.island i).seq = (b.island i).seq ∧ (b.island i).last ≤ (c.island i).last

section
variable {b c d : Block}

theorem Block.Stamped.refl (b : Block) : b.Stamped b := ⟨rfl, fun _ => ⟨rfl, rfl, Nat.le_refl _⟩⟩

theorem Block.Stamped.trans (h : b.Stamped c) (h' : c.Stamped d) : b.Stamped d := by
  obtain ⟨heq, hislands⟩ := h
  obtain ⟨heq', hislands'⟩ := h'
  refine ⟨heq'.trans (congrArg (fun x : Block => { x with islands := d.islands }) heq), fun i => ?_⟩
  obtain ⟨hskew, hseq, hlast⟩ := hislands i
  obtain ⟨hskew', hseq', hlast'⟩ := hislands' i
  exact ⟨hskew'.trans hskew, hseq'.trans hseq, Nat.le_trans hlast hlast'⟩

theorem Block.stamped_cross (b : Block) (i j : Nat) : b.Stamped (b.cross i j) := ⟨b.cross_eq i j, fun n => b.island_cross i j n⟩

theorem Block.stamped_crossFrom (b : Block) (srcs : List Nat) (dst : Nat) : b.Stamped (b.crossFrom srcs dst) :=
  List.foldlRecOn (motive := fun c : Block => b.Stamped c) srcs _ (.refl b) fun c hc i _ => hc.trans (c.stamped_cross i dst)

theorem Block.Stamped.traced (h : b.Stamped c) : Traced b c := by
  rw [h.1]
  exact ⟨rfl, fun _ => rfl⟩

/-! ### Reads of the front end -/

/-- A read that nothing stands against goes through, whatever stamps were taken before. -/
theorem Block.Stamped.feThrough (h : b.Stamped c) {ctx va n : Nat} {l : List Byte} (hstall : b.feStall ctx [(va, n)] 1 = none)
    (hread : b.feRead ctx va n = .ok l) : ∃ d, b.Stamped d ∧ ∀ no f, c.feThrough ctx va n no f = f d l := by
  have hstall' : c.feStall ctx [(va, n)] 1 = none := by
    rw [h.1]
    exact hstall
  have hread' : c.feRead ctx va n = .ok l := by
    rw [h.1]
    exact hread
  refine ⟨c.feSeen ctx va n, h.trans (c.stamped_crossFrom ..), fun no f => ?_⟩
  rw [Block.feThrough, feGate, hstall', hread']

/-- The words of an image where every named core holds it, and else those read, whose digest agrees (R97). -/
theorem Block.Stamped.launchImage (h : b.Stamped c) {ctx : Nat} {e : Entry} {cores : List Nat} {hd : List Byte} {w : List W128}
    (hwords : if ∀ c ∈ cores, b.residentOn ctx c ((hd.drop 16).take 32) = true
      then w = b.residentWords ctx (cores.headD 0) ((hd.drop 16).take 32)
      else b.feStall ctx [(fld e.raw 16 8 + 64, 16 * fld hd 0 4)] 1 = none ∧ ∃ d,
        b.feRead ctx (fld e.raw 16 8 + 64) (16 * fld hd 0 4) = .ok d ∧ sha256 d = (hd.drop 16).take 32 ∧ w = imageWords (fld hd 0 4) d) :
    ∃ d, b.Stamped d ∧ ∀ go, c.launchImage ctx e cores hd go = go d w := by
  have hresident : cores.all (fun x => c.residentOn ctx x ((hd.drop 16).take 32)) =
      cores.all (fun x => b.residentOn ctx x ((hd.drop 16).take 32)) := by
    rw [h.1]
    rfl
  have hheld : c.residentWords ctx (cores.headD 0) ((hd.drop 16).take 32) =
      b.residentWords ctx (cores.headD 0) ((hd.drop 16).take 32) := by
    rw [h.1]
    rfl
  by_cases hall : ∀ x ∈ cores, b.residentOn ctx x ((hd.drop 16).take 32) = true
  · rw [if_pos hall] at hwords
    refine ⟨c, h, fun go => ?_⟩
    unfold Block.launchImage
    dsimp only
    rw [hresident, if_pos (List.all_eq_true.mpr hall), hheld, hwords]
  · rw [if_neg hall] at hwords
    obtain ⟨hstall, l, hread, hdigest, hw⟩ := hwords
    obtain ⟨d, hd', hthrough⟩ := h.feThrough hstall hread
    refine ⟨d, hd', fun go => ?_⟩
    unfold Block.launchImage
    dsimp only
    rw [hresident, if_neg fun hall' => hall (List.all_eq_true.mp hall'), hthrough, if_pos hdigest, hw]

/-- The parameter block (R98). -/
theorem Block.Stamped.launchParams (h : b.Stamped c) {ctx n : Nat} {e : Entry} {p : List Byte}
    (hparams : if n = 0 then p = [] else b.feStall ctx [(fld e.raw 24 8, n)] 1 = none ∧ b.feRead ctx (fld e.raw 24 8) n = .ok p) :
    ∃ d, b.Stamped d ∧ ∀ go, c.launchParams ctx e n go = go d p := by
  by_cases hn : n = 0
  · rw [if_pos hn] at hparams
    exact ⟨c, h, fun go => by rw [Block.launchParams, if_pos hn, hparams]⟩
  · rw [if_neg hn] at hparams
    obtain ⟨d, hd, hthrough⟩ := h.feThrough hparams.1 hparams.2
    exact ⟨d, hd, fun go => by rw [Block.launchParams, if_neg hn, hthrough]⟩

end

/-! ### Entries that take their turn -/

theorem Block.ringTurn_of_turn {b : Block} {ctx op : Nat} {e : Entry} (hserves : b.serves ctx = true) (hturn : (b.ctx ctx).turn op = some e)
    (f : Block → Entry → Block) : b.ringTurn ctx op f = f b e := by
  have hfind : ((b.ctx ctx).turns op).find? (fun _ => true) = some e := by
    rw [← hturn, Ctx.turn]
    cases (b.ctx ctx).turns op <;> rfl
  rw [ringTurn, ringFree, hserves, hfind]
  rfl

/-! ### Kernels that wait on their cores -/

/-- A core with one more kernel waiting. -/
def Core.addWaiting (k : Core) (w : Waiting) : Core := { k with waiting := k.waiting ++ [w] }

/-- Kernels that wait on the cores of a list, each made of its core's place in the list. -/
def Block.addWaits (b : Block) (l : List (Nat × Nat)) (w : Nat → Waiting) : Block :=
  l.foldl (fun b ci => b.modCore ci.1 (·.addWaiting (w ci.2))) b

theorem Block.addWaits_eq (b : Block) (l : List (Nat × Nat)) (w : Nat → Waiting) :
    b.addWaits l w = { b with cores := (b.addWaits l w).cores } :=
  List.foldlRecOn (motive := fun c : Block => c = { b with cores := c.cores }) l _ rfl fun _ hc ci _ =>
    congrArg (fun d : Block => d.modCore ci.1 (·.addWaiting (w ci.2))) hc

theorem Block.core_addWaits (w : Nat → Waiting) {l : List Nat} (hl : l.Nodup) (b : Block) (n c : Nat) :
    (b.addWaits (l.zipIdx n) w).core c = if c ∈ l then (b.core c).addWaiting (w (n + l.idxOf c)) else b.core c := by
  induction l generalizing b n with
  | nil => rfl
  | cons a l ih =>
    obtain ⟨ha, hl⟩ := List.nodup_cons.mp hl
    rw [List.zipIdx_cons, addWaits, List.foldl_cons]
    refine (ih hl ..).trans ?_
    by_cases hc : c = a
    · subst hc
      rw [if_neg ha, if_pos List.mem_cons_self, List.idxOf_cons_self, modCore_eq, core_setCore_same, Nat.add_zero]
    · simp only [core_modCore_other _ hc, List.mem_cons, hc, false_or, List.idxOf_cons_ne l (Ne.symm hc), Nat.succ_eq_add_one,
        Nat.add_assoc, Nat.add_comm 1]

section
variable {b : Block} {ctx : Nat} {e : Entry} {cores : List Nat} {h : List Byte} {w : List W128} {p : List Byte}

/-- The kernel of a LAUNCH as it waits on the core at a place of the list (R99). -/
def Block.waiting (b : Block) (ctx : Nat) (e : Entry) (cores : List Nat) (h : List Byte) (w : List W128) (p : List Byte) (i : Nat) : Waiting :=
  ⟨ctx, e.seq, b.kidCtr, (b.ctx ctx).curStep, i, cores.length, h, w, p, bit e.flags 2⟩

theorem Block.launchWaits_eq : b.launchWaits ctx e cores h w p =
    (addWaits { b with kidCtr := b.kidCtr + 1 } (cores.zipIdx 0) (b.waiting ctx e cores h w p)).modCtx ctx
      (fun x => x.modEntry e.seq (fun y => { y with state := .started, stoch := bit (fld h 9 1) 0 })) := rfl

theorem Block.launchWaits_spec (hcores : cores.Nodup) : let t := b.launchWaits ctx e cores h w p
    (∀ c, t.core c = if c ∈ cores then (b.core c).addWaiting (b.waiting ctx e cores h w p (cores.idxOf c)) else b.core c) ∧
    t.ctx ctx = (b.ctx ctx).modEntry e.seq (fun y => { y with state := .started, stoch := bit (fld h 9 1) 0 }) ∧
    (∀ x, x ≠ ctx → t.ctx x = b.ctx x) ∧
    { t with cores := [], ctxs := [] } = { b with cores := [], ctxs := [], kidCtr := b.kidCtr + 1 } := by
  have hcore (c : Nat) := core_addWaits (b.waiting ctx e cores h w p) hcores { b with kidCtr := b.kidCtr + 1 } 0 c
  have hblock := addWaits_eq { b with kidCtr := b.kidCtr + 1 } (cores.zipIdx 0) (b.waiting ctx e cores h w p)
  simp only [Nat.zero_add] at hcore
  dsimp only
  rw [launchWaits_eq]
  generalize addWaits { b with kidCtr := b.kidCtr + 1 } (cores.zipIdx 0) (b.waiting ctx e cores h w p) = d at hcore hblock ⊢
  have hctx (x : Nat) : d.ctx x = b.ctx x := by
    rw [hblock]
    rfl
  rw [modCtx_eq, hctx]
  refine ⟨hcore, ctx_setCtx_same .., fun x hx => (ctx_setCtx_other _ _ _ _ hx).trans (hctx x), ?_⟩
  exact (congrArg (fun y : Block => { y with cores := [], ctxs := [] }) hblock :)

end

theorem nodup_maskCores (m : Nat) : (maskCores m).Nodup := List.nodup_range.filter _

theorem answers_launch {ctx : Nat} {s : State} {e : Entry} {h : List Byte} {w : List W128} {p : List Byte} (hturn : s.RingTurn ctx 1 e)
    (hsome : maskCores (fld e.raw 32 2) ≠ [])
    (hbound : ∀ c ∈ maskCores (fld e.raw 32 2), ((s.core c).bind? ctx).isSome = true) (haligned : fld e.raw 16 8 % 64 = 0)
    (hstall : s.feStall ctx [(fld e.raw 16 8, 64)] 1 = none) (hread : s.feRead ctx (fld e.raw 16 8) 64 = .ok h)
    (hheader : headerOk h = true) (hfits : s.imageFits ctx (fld h 0 4) (maskCores (fld e.raw 32 2)) = true)
    (hpaligned : fld h 10 2 ≠ 0 → fld e.raw 24 8 % 8 = 0) (htune : bit (fld h 9 1) 0 = true → (s.ctx ctx).tune.isSome = true)
    (hwords : if ∀ c ∈ maskCores (fld e.raw 32 2), s.residentOn ctx c ((h.drop 16).take 32) = true
      then w = s.residentWords ctx ((maskCores (fld e.raw 32 2)).headD 0) ((h.drop 16).take 32)
      else s.feStall ctx [(fld e.raw 16 8 + 64, 16 * fld h 0 4)] 1 = none ∧ ∃ d,
        s.feRead ctx (fld e.raw 16 8 + 64) (16 * fld h 0 4) = .ok d ∧ sha256 d = (h.drop 16).take 32 ∧ w = imageWords (fld h 0 4) d)
    (hparams : if fld h 10 2 = 0 then p = []
      else s.feStall ctx [(fld e.raw 24 8, fld h 10 2)] 1 = none ∧ s.feRead ctx (fld e.raw 24 8) (fld h 10 2) = .ok p) :
    Answers (.launch ctx) s (fun t => ∃ b, s.Stamped b ∧ t.toBlock = b.launchWaits ctx e (maskCores (fld e.raw 32 2)) h w p) := by
  obtain ⟨hserves, hnext, -⟩ := hturn
  obtain ⟨b1, h1, hthrough⟩ := (Block.Stamped.refl s.toBlock).feThrough hstall hread
  obtain ⟨b2, h2, himage⟩ := h1.launchImage hwords
  obtain ⟨b3, h3, hblock⟩ := h2.launchParams hparams
  refine answers_of_run (f := fun b => b.launch ctx) rfl ⟨b3, h3, ?_⟩
  have hnamed : ¬ ((maskCores (fld e.raw 32 2)).isEmpty = true ∨
      (maskCores (fld e.raw 32 2)).any (fun c => ((s.core c).bind? ctx).isNone) = true ∨ fld e.raw 16 8 % 64 ≠ 0) := by
    rintro (hempty | hmissing | hplace)
    · exact hsome (List.isEmpty_iff.mp hempty)
    · obtain ⟨c, hc, hnone⟩ := List.any_eq_true.mp hmissing
      exact absurd (hbound c hc) (by simp [Option.isNone_iff_eq_none.mp hnone])
    · exact hplace haligned
  have hsound : ¬ ((!headerOk h) = true ∨ (!b1.imageFits ctx (fld h 0 4) (maskCores (fld e.raw 32 2))) = true ∨
      (fld h 10 2 ≠ 0 ∧ fld e.raw 24 8 % 8 ≠ 0) ∨ (bit (fld h 9 1) 0 = true ∧ (b1.ctx ctx).tune.isNone = true)) := by
    have hfits' : b1.imageFits ctx (fld h 0 4) (maskCores (fld e.raw 32 2)) = true := by
      rw [h1.1]
      exact hfits
    have htune' : (b1.ctx ctx).tune = (s.ctx ctx).tune := by
      rw [h1.1]
      rfl
    rintro (hbad | hbad | ⟨hbad, hplace⟩ | ⟨hbad, hnone⟩)
    · simp [hheader] at hbad
    · simp [hfits'] at hbad
    · exact hplace (hpaligned hbad)
    · rw [htune'] at hnone
      exact absurd (htune hbad) (by simp [Option.isNone_iff_eq_none.mp hnone])
  show s.launch ctx = _
  rw [Block.launch, Block.ringTurn_of_turn hserves hnext]
  dsimp only
  rw [if_neg hnamed, hthrough, if_neg hsound, himage, hblock]

/-! ### COPY -/

/-- A descriptor of a COPY enters its mover's queue as a kernel of one instruction (R194, R201, R340). -/
def Core.takeCopy (k : Core) (bd : Binding) (ker : Kernel) (now m : Nat) (d : Desc) : Core :=
  Core.acceptAt { (k.clearSwap bd).dropPrefetch (fun _ => true) with kernels := k.kernels ++ [ker] } now m d

/-- The descriptor of a COPY (R340). -/
def Block.copyDesc (b : Block) (ctx core : Nat) (e : Entry) (bd : Binding) (raw : List Byte) : Desc :=
  newDesc ctx b.kidCtr (b.ctx ctx).curStep 0 (fld e.raw 26 2) raw ((b.core core).clearSwap bd).swap

/-- The kernel of one instruction that a COPY is. -/
def Block.copyKernel (b : Block) (ctx : Nat) (e : Entry) : Kernel :=
  ⟨b.kidCtr, ctx, e.seq, (b.ctx ctx).curStep, true, false, 0, 0, .halted, {}, 0, false⟩

section
variable {b : Block} {ctx core m : Nat} {e : Entry} {bd : Binding} {raw : List Byte}

theorem Block.copyTaken_eq (hsound : b.descRefusal core bd (b.copyDesc ctx core e bd raw) = none) :
    ∃ x y, b.copyTaken ctx core m e bd raw =
      ((((cross { b with kidCtr := b.kidCtr + 1 } x y).setCore core
        ((b.core core).takeCopy bd (b.copyKernel ctx e) b.time.keeper m (b.copyDesc ctx core e bd raw))).modCtx ctx
          (fun x => x.modEntry e.seq (fun e => { e with state := .started }))).emit (movIsl core) 0x0100 ctx (b.ctx ctx).curStep
            ((b.copyDesc ctx core e bd raw).arg m + (b.copyDesc ctx core e bd raw).units % 2 ^ 24 * 2 ^ 24)) := by
  refine ⟨fabIsl (partOf core), movIsl core, ?_⟩
  unfold copyTaken
  dsimp only
  change (match b.descRefusal core bd (b.copyDesc ctx core e bd raw) with | some r => _ | none => _) = _
  rw [hsound]
  dsimp only
  rw [(cross_traced { b with kidCtr := b.kidCtr + 1 } (fabIsl (partOf core)) (movIsl core)).time]
  rfl

theorem Block.copyTaken_spec (hsound : b.descRefusal core bd (b.copyDesc ctx core e bd raw) = none) :
    let t := b.copyTaken ctx core m e bd raw
    t.core core = (b.core core).takeCopy bd (b.copyKernel ctx e) b.time.keeper m (b.copyDesc ctx core e bd raw) ∧
    (∀ c, c ≠ core → t.core c = b.core c) ∧
    t.ctx ctx = (b.ctx ctx).modEntry e.seq (fun y => { y with state := .started }) ∧ (∀ x, x ≠ ctx → t.ctx x = b.ctx x) ∧
    t.kidCtr = b.kidCtr + 1 ∧ Leaves (fun b => { b with cores := [], ctxs := [], kidCtr := 0 }) b t := by
  obtain ⟨x, y, heq⟩ := copyTaken_eq (m := m) hsound
  have hcross := cross_traced { b with kidCtr := b.kidCtr + 1 } x y
  have hctx (n : Nat) : (cross { b with kidCtr := b.kidCtr + 1 } x y).ctx n = b.ctx n :=
    congrArg (fun l => SMap.get ({} : Ctx) l n) hcross.ctxs
  dsimp only
  rw [heq]
  simp only [core_emit, ctx_emit, kidCtr_emit, modCtx_eq, ctx_setCore, core_setCtx, kidCtr_setCtx, kidCtr_setCore, core_setCore_same,
    ctx_setCtx_same, hctx, hcross.kidCtr, true_and]
  generalize Block.cross _ x y = c at hcross hctx
  generalize Core.takeCopy _ _ _ _ _ _ = k
  refine ⟨fun n hn => (c.core_setCore_other _ _ _ hn).trans (hcross.core n), fun n hn => (ctx_setCtx_other _ _ _ _ hn).trans (hctx n), ?_⟩
  refine Leaves.trans_of_rings (fun _ => rfl) (c := c) ?_ (Leaves.trans_of_rings (fun _ => rfl) ?_ ((Block.emit_traced ..).leaves _))
  · exact hcross.leaves (fun b => { b with cores := [], ctxs := [], kidCtr := 0 })
  · exact ⟨rfl, fun _ => rfl⟩

end

/-- What the acceptance of a COPY makes of its core. -/
theorem Core.takeCopy_spec (k : Core) (bd : Binding) (ker : Kernel) (now m : Nat) (d : Desc) :
    let k' := (k.clearSwap bd).dropPrefetch (fun _ => true)
    let t := k.takeCopy bd ker now m d
    (∃ d' : Desc, t.mover m = { k'.mover m with queue := (k'.mover m).queue ++ [d'] } ∧ d'.raw = d.raw ∧ d'.ctx = d.ctx ∧
      d'.kid = d.kid ∧ d'.step = d.step ∧ d'.movId = d.movId ∧ d'.pieces = d.mkPieces ∧ d'.id = k'.issueCtr) ∧
    (∀ x, x ≠ m → t.mover x = k'.mover x) ∧ t.swap = k'.swap ∧ t.kernels = k.kernels ++ [ker] ∧
    { t with movers := [], movProg := [], issueCtr := 0, groups := [], kernels := [], swap := [] } =
      { k with movers := [], movProg := [], issueCtr := 0, groups := [], kernels := [], swap := [] } := by
  have hdrop := (k.clearSwap bd).dropPrefetch_eq (fun _ => true)
  unfold takeCopy
  dsimp only
  generalize (k.clearSwap bd).dropPrefetch (fun _ => true) = k' at hdrop
  have hsame := Core.mover_acceptAt_same { k' with kernels := k.kernels ++ [ker] } now m d
  have hother (x : Nat) (hx : x ≠ m) := Core.mover_acceptAt_other { k' with kernels := k.kernels ++ [ker] } now d hx
  have hframe := Core.acceptAt_eq { k' with kernels := k.kernels ++ [ker] } now m d
  generalize Core.acceptAt { k' with kernels := k.kernels ++ [ker] } now m d = t at hsame hother hframe
  refine ⟨⟨_, hsame, rfl, rfl, rfl, rfl, rfl, rfl, rfl⟩, hother, ?_, ?_, ?_⟩
  · rw [hframe]
    rfl
  · rw [hframe]
    rfl
  · rw [hframe, hdrop]
    rfl

theorem answers_copy {ctx : Nat} {s : State} {e : Entry} {bd : Binding} {main raw : List Byte} (hserves : s.serves ctx = true)
    (hturn : ((s.ctx ctx).turns 2).find? (s.copyTurn ctx) = some e) (hcore : fld e.raw 24 1 < 16)
    (hbind : (s.core (fld e.raw 24 1)).bind? ctx = some bd) (hm : fld e.raw 25 1 ≤ 3) (haligned : fld e.raw 16 8 % 64 = 0)
    (hstall : s.feStall ctx [(fld e.raw 16 8, 64)] 1 = none) (hmain : s.feRead ctx (fld e.raw 16 8) 64 = .ok main)
    (hstall' : s.feStall ctx [(fld e.raw 16 8, descLen main)] 1 = none) (hraw : s.feRead ctx (fld e.raw 16 8) (descLen main) = .ok raw) :
    Answers (.copy ctx) s (fun t => ∃ b, s.Stamped b ∧ t.toBlock = b.copyTaken ctx (fld e.raw 24 1) (fld e.raw 25 1) e bd raw) := by
  obtain ⟨b1, h1, hthrough⟩ := (Block.Stamped.refl s.toBlock).feThrough hstall hmain
  obtain ⟨b2, h2, hthrough'⟩ := h1.feThrough hstall' hraw
  refine answers_of_run (f := fun b => b.copy ctx) rfl ⟨b2, h2, ?_⟩
  have hplaced : ¬ (3 < fld e.raw 25 1 ∨ fld e.raw 16 8 % 64 ≠ 0) := by omega
  show s.copy ctx = _
  rw [Block.copy, Block.ringFree, hserves, hturn]
  dsimp only
  rw [if_pos hcore, hbind]
  dsimp only
  rw [if_neg hplaced, hthrough, hthrough']
  rfl

theorem Core.swap_dropPrefetch (k : Core) (p : PfEntry → Bool) : (k.dropPrefetch p).swap = k.swap := by
  rw [dropPrefetch_eq]

/-- Settles O19: the reads of the front end take stamps alone (`Block.Stamped.feThrough`), the kernel of a LAUNCH then waits on
each core of its mask (`Block.launchWaits_spec`), and a COPY's descriptor enters its mover's queue (`Core.takeCopy_spec`). -/
theorem launchAndCopyStartTheirWork : Obligations.LaunchAndCopyStartTheirWork := by
  unfold Obligations.LaunchAndCopyStartTheirWork
  refine ⟨fun ctx s e h w p hturn => ?_, fun ctx s e bd main raw hserves hturn => ?_⟩
  · intro cores img hsome hbound haligned hstall hread hheader hfits hpaligned htune hwords hparams
    refine (answers_launch hturn hsome hbound haligned hstall hread hheader hfits hpaligned htune hwords hparams).mono ?_
    rintro t ⟨b, hstamped, ht⟩
    obtain ⟨hcore, hctx, hothers, hblock⟩ := b.launchWaits_spec (ctx := ctx) (e := e) (h := h) (w := w) (p := p) (nodup_maskCores (fld e.raw 32 2))
    rw [← ht] at hcore hctx hothers hblock
    obtain ⟨heq, hislands⟩ := hstamped
    have hstamps : t.islands = b.islands := (congrArg (fun x : Block => x.islands) hblock :)
    have hkid : t.kidCtr = b.kidCtr + 1 := (congrArg (fun x : Block => x.kidCtr) hblock :)
    have hsame (c : Nat) : b.core c = s.core c := by
      rw [heq]
      rfl
    have hsameCtx (x : Nat) : b.ctx x = s.ctx x := by
      rw [heq]
      rfl
    have hsameKid : b.kidCtr = s.kidCtr := by rw [heq]
    refine ⟨fun c hc => ?_, fun c hc => ?_, hctx.trans (by rw [hsameCtx]), fun x hx => (hothers x hx).trans (hsameCtx x), ?_, fun i => ?_, ?_⟩
    · rw [hcore, if_pos hc, hsame, Block.waiting, hsameCtx, hsameKid]
      exact ⟨rfl, rfl⟩
    · rw [hcore, if_neg hc, hsame]
    · rw [hkid, hsameKid]
    · rw [Block.island, hstamps]
      exact hislands i
    · refine ((congrArg (fun x : Block => { x with islands := [], kidCtr := 0 }) hblock :)).trans ?_
      rw [heq]
  · intro addr core m k d hcore hbind hm haligned hstall hmain hstall' hraw hsound
    refine (answers_copy hserves hturn hcore hbind hm haligned hstall hmain hstall' hraw).mono ?_
    rintro t ⟨b, hstamped, ht⟩
    have hdesc : s.copyDesc ctx core e bd raw = d :=
      congrArg (newDesc ctx s.kidCtr (s.ctx ctx).curStep 0 (fld e.raw 26 2) raw) (Core.swap_dropPrefetch ..).symm
    have hsound' : b.descRefusal core bd (b.copyDesc ctx core e bd raw) = none := by
      rw [hstamped.1]
      rw [← hdesc] at hsound
      exact hsound
    obtain ⟨hat, hcores, hctx, hothers, hkid, hblock⟩ := Block.copyTaken_spec (m := m) hsound'
    rw [← ht] at hat hcores hctx hothers hkid hblock
    have hblock' := Leaves.trans_of_rings (f := fun b => { b with cores := [], ctxs := [], kidCtr := 0 }) (fun _ => rfl)
      (hstamped.traced.leaves _) hblock
    rw [hstamped.1] at hat hcores hctx hothers hkid
    obtain ⟨hmover, hmovers, hswap, hkernels, hframe⟩ := (s.core core).takeCopy_spec bd (s.copyKernel ctx e) s.time.keeper m (s.copyDesc ctx core e bd raw)
    have hat' : t.core core = (s.core core).takeCopy bd (s.copyKernel ctx e) s.time.keeper m (s.copyDesc ctx core e bd raw) := hat
    rw [← hat', hdesc] at hmover
    rw [← hat'] at hmovers hswap hkernels hframe
    exact ⟨hmover, hmovers, hswap, ⟨_, hkernels, rfl, rfl, rfl, rfl, rfl, rfl⟩, hframe, hcores, hctx, hothers, hkid, hblock'⟩

end Sys2Proof.Machine
end

section
/-!
Kernels start and contexts switch (R97–R100, R383).
-/
namespace Sys2Proof.Machine

/-! ### The end of a quantum -/

theorem Block.AtCoreBanked.time_weave {b c : Block} {core : Nat} (h : b.AtCoreBanked core c) : c.time = b.time ∧ c.weave = b.weave :=
  ⟨(congrArg (fun x : Block => x.time) h.2.2.1 :), (congrArg (fun x : Block => x.weave) h.2.2.1 :)⟩

/-- A due time that comes changes the domain time alone. -/
theorem Block.atCoreBanked_of_time {b c : Block} {core : Nat} {t : Time} (h : ({ b with time := t } : Block).AtCoreBanked core c) :
    c.time = t ∧ (∀ x, x ≠ core → c.core x = b.core x) ∧ (∀ x, { c.ctx x with busyNs := 0 } = { b.ctx x with busyNs := 0 }) ∧
      Leaves (fun b => { b with cores := [], ctxs := [], time := {} }) b c := by
  obtain ⟨htime, -⟩ := h.time_weave
  obtain ⟨hcores, hctxs, hquiet, hmuted⟩ := h
  exact ⟨htime, hcores, hctxs, (congrArg (fun x : Block => { x with time := {} }) hquiet :),
    fun hp => (congrArg (fun x : Block => { x with time := {} }) (hmuted hp) :)⟩

theorem answers_quantumEnd {core : Nat} {s : State} {bd : Binding} (hup : s.coreUp core = true) (hcur : (s.core core).cur ≠ 0)
    (habort : s.aborting ((s.core core).cur - 1) = false) (hready : s.nextReady core = some bd) (hne : bd.ctx + 1 ≠ (s.core core).cur)
    (htake : s.mayTake core bd.ctx = true) (hruns : (s.core core).runs bd.ctx = true) :
    Answers (.quantumEnd core) s (fun t =>
      t.toBlock = (s.advanceTo ((s.core core).sliceAt + (s.core core).quantum * 1000)).switchTo core bd) := by
  refine answers_of_run (f := fun b => (b.advanceTo ((b.core core).sliceAt + (b.core core).quantum * 1000)).switchTo core bd) ?_ rfl
  have hgoes : ¬ ((!s.coreUp core) = true ∨ (s.core core).cur = 0 ∨ s.aborting ((s.core core).cur - 1) = true) := by
    simp [hup, hcur, habort]
  have hnext : (s.advanceTo ((s.core core).sliceAt + (s.core core).quantum * 1000)).nextReady core = some bd := hready
  have htakes : (s.advanceTo ((s.core core).sliceAt + (s.core core).quantum * 1000)).takeNext core =
      (s.advanceTo ((s.core core).sliceAt + (s.core core).quantum * 1000)).switchTo core bd := by
    have htake' : (s.advanceTo ((s.core core).sliceAt + (s.core core).quantum * 1000)).mayTake core bd.ctx = true := htake
    have hruns' : ((s.advanceTo ((s.core core).sliceAt + (s.core core).quantum * 1000)).core core).runs bd.ctx = true := hruns
    unfold Block.takeNext
    rw [hnext]
    dsimp only
    rw [if_neg (by rw [htake']; decide), if_pos (.inl hruns')]
  show execQuantumEnd core s = _
  simp only [execQuantumEnd, State.run_eq, if_neg hgoes, hnext, if_neg hne, htakes]

/-! ### A kernel starts -/

/-- The state that a kernel starts with (R99). -/
def startState (self core : Nat) (bd : Binding) (w : Waiting) : SeqState where
  s := [(1, BitVec.ofNat 64 w.rank), (2, BitVec.ofNat 64 w.count), (3, BitVec.ofNat 64 bd.slotFirst),
    (4, BitVec.ofNat 64 bd.slotCount), (5, BitVec.ofNat 64 w.step), (6, BitVec.ofNat 64 w.seq),
    (7, BitVec.ofNat 64 (w.ctx + core * 2 ^ 8 + partOf core * 2 ^ 16 + self * 2 ^ 32))]
  pc := fld w.hdr 4 4
  kid := w.kid

theorem sel_startState (self core : Nat) (bd : Binding) (w : Waiting) {n : Nat} (hn : 8 ≤ n) : (startState self core bd w).sel n = 0#64 := by
  unfold SeqState.sel
  split
  · unfold SeqState.sreg
    have hother (k : Nat) (hk : k < 8) : n ≠ k := by omega
    simp [startState, SMap.get, hother]
  · rfl

/-- A program image that is placed changes the program store and the core's bindings (R95, R97). -/
theorem Core.load_eq (k : Core) (bd : Binding) (w : Waiting) : (k.load bd w).1 =
    { k with prog := (k.load bd w).1.prog, progBad := (k.load bd w).1.progBad, binds := (k.load bd w).1.binds } := by
  unfold load
  dsimp only
  split <;> rfl

theorem Core.keepOld_eq (k : Core) (ctx : Nat) : k.keepOld ctx = { k with old := (k.keepOld ctx).old } := by
  unfold keepOld
  dsimp only
  split <;> rfl

theorem Core.has_swap_clearSwap (k : Core) (bd : Binding) {p : Nat} (hlo : bd.slotFirst ≤ 2 * p + 1)
    (hhi : 2 * p < bd.slotFirst + bd.slotCount) : SSet.has (k.clearSwap bd).swap p = false := by
  refine Bool.eq_false_iff.mpr fun h => ?_
  have hkept := List.of_mem_filter (List.contains_iff_mem.mp h)
  rw [decide_eq_true_eq] at hkept
  omega

/-- The core whose context is switched, with the kernel started on it (R97–R100). -/
def Core.start (k : Core) (bd : Binding) (w : Waiting) (q : SeqState) (now : Nat) : Core :=
  let ld := (k.keepOld w.ctx).load bd w
  let k' := ((ld.1.setSeq w.ctx q).dropPrefetch (fun _ => true)).clearSwap bd
  { k' with
    kernels := k'.kernels ++
      [⟨w.kid, w.ctx, w.seq, w.step, false, bit (fld w.hdr 9 1) 0, ld.2.2.base, ld.2.2.words, .running, {}, 0, false⟩]
    waiting := k'.waiting.filter (fun x => x.kid != w.kid)
    binds := k'.binds.map (fun x => if x.ctx = w.ctx then { x with params := Mem.write [] 0 w.params, paramBad := [] } else x)
    seqProg := now, busyFrom := now }

theorem Core.start_spec (k : Core) (bd : Binding) (w : Waiting) (q : SeqState) (now : Nat) : let t := k.start bd w q now
    t.cur = k.cur ∧ t.seq w.ctx = q ∧
    (∃ x, t.kernels = k.kernels ++ [x] ∧ x.kid = w.kid ∧ x.ctx = w.ctx ∧ x.seq = w.seq ∧ x.step = w.step ∧ x.state = .running ∧ x.done = false) ∧
    t.waiting = k.waiting.filter (fun x => x.kid != w.kid) ∧
    (∀ p, bd.slotFirst ≤ 2 * p + 1 → 2 * p < bd.slotFirst + bd.slotCount → SSet.has t.swap p = false) ∧
    (∀ m < 4, (t.mover m).prefetch = []) ∧
    { t with seqs := [], kernels := [], waiting := [], prog := [], progBad := [], old := [], binds := [], movers := [], swap := [], seqProg := 0, busyFrom := 0 } =
      { k with seqs := [], kernels := [], waiting := [], prog := [], progBad := [], old := [], binds := [], movers := [], swap := [], seqProg := 0, busyFrom := 0 } := by
  have hold := k.keepOld_eq w.ctx
  unfold start
  dsimp only
  generalize k.keepOld w.ctx = k1 at hold ⊢
  have hload := k1.load_eq bd w
  generalize k1.load bd w = ld at hload ⊢
  obtain ⟨k2, bd', res⟩ := ld
  dsimp only at hload ⊢
  have hseq := ((k2.setSeq w.ctx q).seq_dropPrefetch (fun _ => true) w.ctx).trans (k2.seq_setSeq_same ..)
  have hprefetch (m : Nat) (hm : m < 4) := (k2.setSeq w.ctx q).prefetch_dropPrefetch hm
  have hdrop := (k2.setSeq w.ctx q).dropPrefetch_eq (fun _ => true)
  generalize (k2.setSeq w.ctx q).dropPrefetch (fun _ => true) = k3 at hseq hprefetch hdrop ⊢
  have hkernels : k3.kernels = k.kernels := by rw [hdrop, hload, hold]; rfl
  have hwaiting : k3.waiting = k.waiting := by rw [hdrop, hload, hold]; rfl
  have hcur : k3.cur = k.cur := by rw [hdrop, hload, hold]; rfl
  refine ⟨hcur, hseq, ⟨_, congrArg (· ++ [_]) hkernels, rfl, rfl, rfl, rfl, rfl, rfl⟩,
    congrArg (List.filter _) hwaiting, fun p => k3.has_swap_clearSwap bd, hprefetch, ?_⟩
  rw [hdrop, hload, hold]
  rfl

theorem Block.core_startKernel (b : Block) (core : Nat) (bd : Binding) (w : Waiting) : (b.startKernel core bd w).core core =
    ((b.switchTo core bd).core core).start bd w (startState (b.switchTo core bd).self core bd w) (b.switchTo core bd).time.keeper := by
  unfold startKernel
  dsimp only
  generalize b.switchTo core bd = c
  rw [core_emit, core_cross]
  simp only [modCore_eq, core_setCore_same]
  rfl

theorem Block.startKernel_atCoreBanked (b : Block) (core : Nat) (bd : Binding) (w : Waiting) : b.AtCoreBanked core (b.startKernel core bd w) := by
  have hswitch := (b.switchTo_spec core bd).1
  unfold startKernel
  dsimp only
  generalize b.switchTo core bd = c at hswitch ⊢
  exact ((((hswitch.setCore _).setCore _).setCore _).trans ((cross_traced ..).atCoreBanked core)).emit ..

theorem answers_kernelStart {core : Nat} {s : State} {bd : Binding} {w : Waiting} (hup : s.coreUp core = true)
    (hfree : (s.core core).busy = false) (hready : s.nextReady core = some bd) (htake : s.mayTake core bd.ctx = true)
    (hruns : (s.core core).runs bd.ctx = false) (hunits : (s.core core).units.any (fun u => u.ctx == bd.ctx) = false)
    (hwaiting : (s.core core).waiting.find? (fun x => x.ctx == bd.ctx) = some w) (hclaim : (s.ctx bd.ctx).holdsCore core w.seq = false) :
    Answers (.kernelStart core) s (fun t => t.toBlock = s.startKernel core bd w) := by
  refine answers_of_run (f := fun b => b.startKernel core bd w) ?_ rfl
  have hnext : s.takeNext core = s.startKernel core bd w := by
    unfold Block.takeNext
    rw [hready]
    dsimp only
    rw [if_neg (by rw [htake]; decide), if_neg (by rw [hruns, hunits]; decide), hwaiting]
    dsimp only
    rw [hclaim]
    rfl
  show execKernelStart core s = _
  simp only [execKernelStart, State.run_eq]
  rw [if_pos ⟨hup, by rw [hfree]; rfl⟩, hnext]

end Sys2Proof.Machine
end

section
/-!
Launches end (R101, R344, R358): which launch is open, its first stop, and how its entry ends.
-/
namespace Sys2Proof.Machine

/-! ### What the end of an entry leaves of the cores -/

section
variable (b : Block)

theorem Block.stores_setCtx (ctx : Nat) (x : Ctx) : (b.setCtx ctx x).stores = b.stores := rfl

theorem Block.stores_retireStep (ctx why : Nat) : (b.retireStep ctx why).stores = b.stores :=
  b.stores_emit ..

theorem Block.stores_dropStep (ctx why : Nat) (page : Option Nat) : (b.dropStep ctx why page).stores = b.stores := by
  unfold dropStep
  dsimp only
  split
  · exact (stores_acceptAbort ..).trans (b.stores_retireStep ..)
  · rfl

theorem Block.stores_sendDone (ctx : Nat) : (b.sendDone ctx).stores = b.stores := by
  unfold sendDone
  dsimp only
  split
  · rfl
  · split
    · rfl
    · split
      · rfl
      · split
        · unfold raiseVector
          split <;> rfl
        · rfl

theorem Block.stores_riseDone (ctx : Nat) : (b.riseDone ctx).stores = b.stores := by
  unfold riseDone
  dsimp only
  split
  · rfl
  · exact (stores_sendDone ..).trans (b.stores_setCtx ..)

theorem Block.stores_completeEntry (ctx seq status : Nat) : (b.completeEntry ctx seq status).stores = b.stores := by
  unfold completeEntry
  dsimp only
  split
  · rfl
  · split
    · rfl
    · exact b.stores_emit ..

theorem Block.stores_finishEntry (ctx seq status : Nat) (detail : List Byte) : (b.finishEntry ctx seq status detail).stores = b.stores := by
  unfold finishEntry
  dsimp only
  split
  · rfl
  · split
    · rfl
    · split
      · split
        · rfl
        · exact stores_dropStep ..
      · split
        · rfl
        · exact (stores_riseDone ..).trans (stores_completeEntry ..)

end

/-! ### Completion writes -/

/-- A completion write as it stands in the queue, sent or not. -/
def DoneWrite.sameAs (w w' : DoneWrite) : Prop := w'.kind = w.kind ∧ w'.data = w.data ∧ w'.seq = w.seq

/-- Sending the next write takes no record and no word out of the queue, and changes nothing else of the context. -/
theorem Block.ctx_sendDone (b : Block) (ctx : Nat) : ∃ q, (b.sendDone ctx).ctx ctx = { b.ctx ctx with doneQ := q } ∧
    ∀ w ∈ (b.ctx ctx).doneQ, w.kind ≠ 4 → ∃ w' ∈ q, w.sameAs w' := by
  have hkept : ∃ q, b.ctx ctx = { b.ctx ctx with doneQ := q } ∧ ∀ w ∈ (b.ctx ctx).doneQ, w.kind ≠ 4 → ∃ w' ∈ q, w.sameAs w' :=
    ⟨_, rfl, fun w hw _ => ⟨w, hw, rfl, rfl, rfl⟩⟩
  unfold sendDone
  dsimp only
  split
  · exact hkept
  · split
    · exact hkept
    · next w rest hqueue =>
      split
      · exact hkept
      · split
        · next hkind =>
          have hvector : (b.raiseVector (b.ctx ctx).vector).ctx ctx = b.ctx ctx := by
            unfold raiseVector
            split <;> rfl
          refine ⟨rest, ?_, fun x hx hne => ?_⟩
          · rw [modCtx_eq, ctx_setCtx_same, hvector]
          · rw [hqueue] at hx
            obtain rfl | hx := List.mem_cons.mp hx
            · exact absurd hkind hne
            · exact ⟨x, hx, rfl, rfl, rfl⟩
        · refine ⟨{ w with tag := some b.treleb.nextTag } :: rest, ?_, fun x hx _ => ?_⟩
          · rw [modCtx_eq, ctx_setCtx_same]
            rfl
          · rw [hqueue] at hx
            obtain rfl | hx := List.mem_cons.mp hx
            · exact ⟨_, List.mem_cons_self, rfl, rfl, rfl⟩
            · exact ⟨x, List.mem_cons_of_mem _ hx, rfl, rfl, rfl⟩

theorem fld_recordBytes_status (e : Entry) : fld (recordBytes e) 16 1 = e.status % 256 := by
  have hbytes : ((recordBytes e).drop 16).take 1 = natLe 1 e.status := rfl
  rw [fld, hbytes]
  simp [natLe, leNat]

/-- An entry of a run of completed ones that says more than OK has its record among the writes (R345). -/
theorem exists_record {l : List Entry} {e : Entry} (he : e ∈ l) (hstatus : e.status ≠ 0) (addr : Nat → Nat) :
    ∃ w ∈ (l.filter (fun e => (bit e.flags 1 && !e.refused) || e.status != 0)).mapIdx (fun i e =>
      (⟨2, addr i, recordBytes e, e.seq, none⟩ : DoneWrite)), w.kind = 2 ∧ w.seq = e.seq ∧ w.data = recordBytes e := by
  have hkept : e ∈ l.filter (fun e => (bit e.flags 1 && !e.refused) || e.status != 0) :=
    List.mem_filter.mpr ⟨he, by simp [hstatus]⟩
  obtain ⟨i, hi, hat⟩ := List.getElem_of_mem hkept
  exact ⟨_, List.mem_mapIdx.mpr ⟨i, hi, rfl⟩, rfl, by rw [hat], by rw [hat]⟩

/-- The context once the completed sequence number has risen over `cov` up to `top`, its writes queued (R344). -/
def Ctx.rise (x : Ctx) (cov : List Entry) (top : Entry) : Ctx :=
  let recs := if x.recLog2 = 0 then [] else cov.filter (fun e => (bit e.flags 1 && !e.refused) || e.status != 0)
  let recW : List DoneWrite := recs.mapIdx (fun i e => ⟨2, x.recBase + 32 * ((x.records + i) % 2 ^ x.recLog2), recordBytes e, e.seq, none⟩)
  let irq := cov.any (fun e => bit e.flags 0) && x.vector != 0xFF
  { x with
    entries := x.entries.drop cov.length
    records := x.records + recs.length
    doneSeq := top.seq
    lastStatus := ((cov.filter (fun e => e.status != 0)).getLast?.map (·.status)).getD x.lastStatus
    doneQ := x.doneQ ++ recW ++ [⟨1, x.doneAddr, natLe 8 top.seq, top.seq, none⟩] ++ (if irq then [⟨4, 0, [], top.seq, none⟩] else []) }

section
variable {b : Block} {ctx : Nat}

theorem Block.riseDone_of_none (h : ((b.ctx ctx).entries.takeWhile (fun e => e.state == .completed)).getLast? = none) : b.riseDone ctx = b := by
  unfold riseDone
  dsimp only
  rw [h]

theorem Block.riseDone_of_some {top : Entry} (h : ((b.ctx ctx).entries.takeWhile (fun e => e.state == .completed)).getLast? = some top) :
    b.riseDone ctx =
      (b.setCtx ctx ((b.ctx ctx).rise ((b.ctx ctx).entries.takeWhile (fun e => e.state == .completed)) top)).sendDone ctx := by
  unfold riseDone
  dsimp only
  rw [h]
  rfl

/-- Where every entry of a sequence number is completed with a status, it has ended with it once the completed sequence number has
risen. -/
theorem ended_riseDone {seq st : Nat} {t : State} (hall : ∀ e ∈ (b.ctx ctx).entries, e.seq = seq → e.state = .completed ∧ e.status = st)
    (hex : ∃ e ∈ (b.ctx ctx).entries, e.seq = seq) (ht : t.toBlock = b.riseDone ctx) : t.Ended ctx seq st := by
  obtain ⟨e, he, hseq⟩ := hex
  cases htop : ((b.ctx ctx).entries.takeWhile (fun e => e.state == .completed)).getLast? with
  | none =>
    rw [Block.riseDone_of_none htop] at ht
    exact .inl ⟨e, ht ▸ he, hseq, .inr (hall e he hseq).1, (hall e he hseq).2⟩
  | some top =>
    rw [Block.riseDone_of_some htop] at ht
    have hcov := List.prefix_iff_eq_take.mp (List.takeWhile_prefix (fun e : Entry => e.state == .completed) (l := (b.ctx ctx).entries))
    generalize (b.ctx ctx).entries.takeWhile (fun e => e.state == .completed) = cov at ht hcov
    obtain ⟨q, hctx, hkept⟩ := (b.setCtx ctx ((b.ctx ctx).rise cov top)).ctx_sendDone ctx
    rw [← ht, Block.ctx_setCtx_same] at hctx
    rw [Block.ctx_setCtx_same] at hkept
    have hentries : (t.ctx ctx).entries = (b.ctx ctx).entries.drop cov.length := congrArg Ctx.entries hctx
    have hqueue : (t.ctx ctx).doneQ = q := congrArg Ctx.doneQ hctx
    by_cases hleft : ∃ e ∈ (b.ctx ctx).entries.drop cov.length, e.seq = seq
    · obtain ⟨e, he, hseq⟩ := hleft
      obtain ⟨hstate, hstatus⟩ := hall e (List.mem_of_mem_drop he) hseq
      exact .inl ⟨e, hentries ▸ he, hseq, .inr hstate, hstatus⟩
    · refine .inr ⟨fun y hy hyseq => hleft ⟨y, hentries ▸ hy, hyseq⟩, ?_, fun hst hrec => ?_⟩
      · obtain ⟨w, hw, hkind, hdata, -⟩ := hkept ⟨1, (b.ctx ctx).doneAddr, natLe 8 top.seq, top.seq, none⟩ (by simp [Ctx.rise])
          (show 1 ≠ 4 by decide)
        exact ⟨w, hqueue ▸ hw, hkind, by rw [hdata, hctx]; rfl⟩
      · have hlog : (b.ctx ctx).recLog2 ≠ 0 := by
          rw [hctx] at hrec
          exact hrec
        have hecov : e ∈ cov := by
          rw [← List.take_append_drop cov.length (b.ctx ctx).entries, ← hcov] at he
          exact (List.mem_append.mp he).resolve_right fun hdrop => hleft ⟨e, hdrop, hseq⟩
        have hstatus := (hall e he hseq).2
        obtain ⟨w, hw, hkind, hwseq, hdata⟩ := exists_record hecov (hstatus.trans_ne hst)
          (fun i => (b.ctx ctx).recBase + 32 * (((b.ctx ctx).records + i) % 2 ^ (b.ctx ctx).recLog2))
        obtain ⟨w', hw', hkind', hdata', hseq'⟩ := hkept w (by simp [Ctx.rise, hlog, hw]) (by rw [hkind]; decide)
        refine ⟨w', hqueue ▸ hw', hkind'.trans hkind, hseq'.trans (hwseq.trans hseq), ?_⟩
        rw [hdata', hdata, fld_recordBytes_status, hstatus]

/-! ### An entry outside a step ends -/

theorem Ctx.mem_modEntry {x : Ctx} {seq : Nat} {f : Entry → Entry} {y : Entry} (h : y ∈ (x.modEntry seq f).entries) :
    ∃ z ∈ x.entries, y = if z.seq = seq then f z else z := by
  obtain ⟨z, hz, rfl⟩ := List.mem_map.mp h
  exact ⟨z, hz, rfl⟩

theorem Ctx.entry?_modEntry {x : Ctx} {seq : Nat} {e : Entry} (he : x.entry? seq = some e) {f : Entry → Entry}
    (hf : ∀ y, (f y).seq = y.seq) : (x.modEntry seq f).entry? seq = some (f e) := by
  have hseq : e.seq = seq := beq_iff_eq.mp (List.find?_some he :)
  unfold entry? at he ⊢
  unfold modEntry
  dsimp only
  rw [List.find?_map, List.find?_congr (p₂ := fun y => y.seq == seq), he, Option.map_some, if_pos hseq]
  intro y _
  dsimp only [Function.comp]
  split
  · rw [hf]
  · rfl

/-- The entry of a sequence number that has completed with a status, as `Block.completeEntry` leaves it. -/
theorem Block.completeEntry_completes {seq st : Nat} {e : Entry} (hentry : (b.ctx ctx).entry? seq = some e) (hstate : e.state ≠ .completed) :
    ∃ f : Entry → Entry, ((b.completeEntry ctx seq st).ctx ctx).entries = ((b.ctx ctx).modEntry seq f).entries ∧
      ∀ y, (f y).seq = y.seq ∧ (f y).state = .completed ∧ (f y).status = st := by
  unfold completeEntry
  dsimp only
  rw [hentry]
  dsimp only
  rw [if_neg hstate, modCtx_eq, ctx_setCtx_same, emitCtx_eq, ctx_emit]
  exact ⟨_, rfl, fun y => ⟨rfl, rfl, rfl⟩⟩

theorem ended_finishEntry {seq st : Nat} {e : Entry} {det : List Byte} {t : State} (hentry : (b.ctx ctx).entry? seq = some e)
    (hunfinished : e.state ≠ .finished) (huncompleted : e.state ≠ .completed) (hheld : e.held = false)
    (hstep : (b.ctx ctx).inStep e = false) (ht : t.toBlock = b.finishEntry ctx seq st det) : t.Ended ctx seq st := by
  have hends : b.finishEntry ctx seq st det = ((b.modCtx ctx (fun x => x.modEntry seq (fun y =>
      { y with state := .finished, status := st, detail := det }))).completeEntry ctx seq st).riseDone ctx := by
    unfold Block.finishEntry
    dsimp only
    rw [hentry]
    dsimp only
    rw [if_neg (by simp [hunfinished, huncompleted]), if_neg (by simp [hstep]), if_neg (by simp [hheld, hstep])]
  have hfinished : ((b.modCtx ctx (fun x => x.modEntry seq (fun y =>
      { y with state := .finished, status := st, detail := det }))).ctx ctx) =
        (b.ctx ctx).modEntry seq (fun y => { y with state := .finished, status := st, detail := det }) := by
    rw [Block.modCtx_eq, Block.ctx_setCtx_same]
  have hentry' := Ctx.entry?_modEntry hentry (f := fun y => { y with state := .finished, status := st, detail := det }) fun _ => rfl
  rw [← hfinished] at hentry'
  obtain ⟨f, hentries, hf⟩ := Block.completeEntry_completes (st := st) hentry'
    (show EState.finished ≠ EState.completed by decide)
  rw [hends] at ht
  refine ended_riseDone (fun y hy hseq => ?_) ?_ ht
  · rw [hentries] at hy
    obtain ⟨z, -, rfl⟩ := Ctx.mem_modEntry hy
    split at hseq
    · next hz => exact if_pos hz ▸ (hf z).2
    · next hz => exact absurd hseq hz
  · have hseq : ({ e with state := .finished, status := st, detail := det } : Entry).seq = seq := beq_iff_eq.mp (List.find?_some hentry :)
    refine ⟨f { e with state := .finished, status := st, detail := det }, ?_, (hf _).1.trans hseq⟩
    rw [hentries]
    exact List.mem_map.mpr ⟨_, List.mem_of_find?_eq_some hentry', if_pos hseq⟩

end

end Sys2Proof.Machine
end

section
/-!
A kernel is done on a core, and its launch with it where it was the last (R101).
-/
namespace Sys2Proof.Machine

/-! ### The first stop of a launch -/

/-- A kernel that is done. -/
def Kernel.finish (x : Kernel) : Kernel := { x with done := true }

/-- A core on which the kernels of an identity are done. -/
def Core.finishKernel (k : Core) (kid : Nat) : Core :=
  { k with kernels := k.kernels.map (fun x => if x.kid = kid then { x with done := true } else x) }

/-- The kernels of a launch, core by core. -/
def Block.launchKernels (b : Block) (ctx seq : Nat) : List Kernel :=
  (List.range 16).foldl (fun l c => l ++ (b.core c).kernels.filter (fun x => x.ctx == ctx && x.seq == seq)) []

/-- The earlier of a stop and those before it. -/
def firstOf (o : Option Kernel) (x : Kernel) : Option Kernel :=
  match o with
  | none => some x
  | some y => if x.stamp < y.stamp then some x else some y

/-- The report of the first stop among the kernels of a launch (R101). -/
def stopOf (l : List Kernel) : Option StopReport :=
  match (l.filter (fun x => x.state == .stopped)).foldl firstOf none with
  | some x => some x.report
  | none => (l.find? (fun x => x.state == .aborted)).map (·.report)

theorem Block.firstStop_eq (b : Block) (ctx seq : Nat) : b.firstStop ctx seq = stopOf (b.launchKernels ctx seq) := by
  unfold firstStop launchKernels
  dsimp only
  generalize List.foldl _ [] (List.range 16) = l
  rfl

theorem firstOf_map_finish (o : Option Kernel) (x : Kernel) : firstOf (o.map Kernel.finish) x.finish = (firstOf o x).map Kernel.finish := by
  cases o with
  | none => rfl
  | some y =>
    exact (apply_ite (Option.map Kernel.finish) (x.stamp < y.stamp) (some x) (some y)).symm

/-- Which kernels of a launch are done says nothing of its first stop. -/
theorem stopOf_map_finish (l : List Kernel) : stopOf (l.map Kernel.finish) = stopOf l := by
  have hstopped : (l.map Kernel.finish).filter (fun x => x.state == .stopped) = (l.filter (fun x => x.state == .stopped)).map Kernel.finish :=
    List.filter_map
  have haborted : (l.map Kernel.finish).find? (fun x => x.state == .aborted) = (l.find? (fun x => x.state == .aborted)).map Kernel.finish :=
    List.find?_map ..
  have hfirst (m : List Kernel) : (m.map Kernel.finish).foldl firstOf none = (m.foldl firstOf none).map Kernel.finish := by
    rw [List.foldl_map]
    exact List.foldl_hom (Option.map Kernel.finish) (init := none) (fun o x => firstOf_map_finish o x)
  unfold stopOf
  rw [hstopped, haborted, hfirst]
  cases (l.filter (fun x => x.state == .stopped)).foldl firstOf none with
  | some x => rfl
  | none => cases l.find? (fun x => x.state == .aborted) <;> rfl

theorem launchKernels_map_finish {b c : Block} (h : ∀ n, (c.core n).kernels.map Kernel.finish = (b.core n).kernels.map Kernel.finish)
    (ctx seq : Nat) : (c.launchKernels ctx seq).map Kernel.finish = (b.launchKernels ctx seq).map Kernel.finish := by
  have hkernels (n : Nat) : ((c.core n).kernels.filter (fun x => x.ctx == ctx && x.seq == seq)).map Kernel.finish =
      ((b.core n).kernels.filter (fun x => x.ctx == ctx && x.seq == seq)).map Kernel.finish := by
    have hfilter (l : List Kernel) : (l.filter (fun x => x.ctx == ctx && x.seq == seq)).map Kernel.finish =
        (l.map Kernel.finish).filter (fun x => x.ctx == ctx && x.seq == seq) :=
      (List.filter_map (f := Kernel.finish) (p := fun x : Kernel => x.ctx == ctx && x.seq == seq) (l := l)).symm
    rw [hfilter, hfilter, h]
  have hfold (d : Block) (l : List Nat) (acc : List Kernel) :
      (l.foldl (fun a n => a ++ (d.core n).kernels.filter (fun x => x.ctx == ctx && x.seq == seq)) acc).map Kernel.finish =
        acc.map Kernel.finish ++ l.flatMap (fun n => ((d.core n).kernels.filter (fun x => x.ctx == ctx && x.seq == seq)).map Kernel.finish) := by
    induction l generalizing acc with
    | nil => simp
    | cons n l ih => rw [List.foldl_cons, ih, List.map_append, List.flatMap_cons, List.append_assoc]
  unfold Block.launchKernels
  rw [hfold, hfold]
  simp only [hkernels]

theorem firstStop_congr {b c : Block} (h : ∀ n, (c.core n).kernels.map Kernel.finish = (b.core n).kernels.map Kernel.finish)
    (ctx seq : Nat) : c.firstStop ctx seq = b.firstStop ctx seq := by
  rw [Block.firstStop_eq, Block.firstStop_eq, ← stopOf_map_finish, launchKernels_map_finish h, stopOf_map_finish]

/-! ### Whether a launch is open -/

theorem Block.launchOpen_iff (b : Block) (ctx seq : Nat) : b.launchOpen ctx seq = true ↔ ∃ c < 16,
    (∃ x ∈ (b.core c).kernels, x.ctx = ctx ∧ x.seq = seq ∧ x.done = false) ∨ ∃ w ∈ (b.core c).waiting, w.ctx = ctx ∧ w.seq = seq := by
  simp [launchOpen, and_assoc]

/-! ### A kernel is done -/

section
variable (b : Block) (core : Nat) (ker : Kernel)

/-- The block on which a kernel has completed on its core, before its launch is looked at. -/
def Block.kernelEnded : Block :=
  (((b.emit (arrIsl core) 0x0204 ker.ctx ker.step (ker.report.pc + ker.report.detail * 2 ^ 32 + ker.report.status * 2 ^ 48)).modCore core
    (·.finishKernel ker.kid)).crossFront core)

theorem Block.kernelDone_eq : b.kernelDone core ker = (b.kernelEnded core ker).launchDone ker.ctx ker.seq := rfl

theorem Block.core_kernelEnded_same : (b.kernelEnded core ker).core core = (b.core core).finishKernel ker.kid := by
  rw [kernelEnded, crossFront, core_cross, modCore_eq, core_setCore_same, core_emit]

theorem Block.kernelEnded_atCore : b.AtCore core (b.kernelEnded core ker) :=
  (((b.emit_traced ..).atCore core).setCore _).trans ((cross_traced ..).atCore core)

theorem Block.ctx_kernelEnded (x : Nat) : (b.kernelEnded core ker).ctx x = b.ctx x := by
  rw [kernelEnded, crossFront, ctx, (cross_traced ..).ctxs]
  exact b.ctx_emit ..

/-- The block without the kernels of a launch. -/
def Block.dropLaunch (ctx seq : Nat) : Block :=
  (List.range 16).foldl (fun b c => b.modCore c (fun k => { k with kernels := k.kernels.filter (fun x => !(x.ctx == ctx && x.seq == seq)) })) b

theorem Block.core_dropLaunch (ctx seq c : Nat) : (b.dropLaunch ctx seq).core c = if c ∈ List.range 16
    then { b.core c with kernels := (b.core c).kernels.filter (fun x => !(x.ctx == ctx && x.seq == seq)) } else b.core c :=
  b.core_foldl_modCore (g := fun n => n) (fun _ _ h => h) _ List.nodup_range c

theorem Block.ctx_dropLaunch (ctx seq x : Nat) : (b.dropLaunch ctx seq).ctx x = b.ctx x :=
  List.foldlRecOn (motive := fun c : Block => c.ctx x = b.ctx x) (List.range 16) _ rfl fun _ hc _ _ => hc

/-- The entry of a launch that is no longer open ends with the status of its first stop, or OK. -/
theorem Block.launchDone_of_closed {ctx seq : Nat} (h : b.launchOpen ctx seq = false) : ∃ det, b.launchDone ctx seq =
    (b.dropLaunch ctx seq).finishEntry ctx seq ((b.firstStop ctx seq).elim stOK (·.status)) det := by
  unfold launchDone
  rw [if_neg (by rw [h]; decide)]
  cases b.firstStop ctx seq with
  | none => exact ⟨_, rfl⟩
  | some r => exact ⟨_, rfl⟩

theorem Core.done_of_finishKernel {k : Core} {kid : Nat} {x : Kernel} (hx : x ∈ (k.finishKernel kid).kernels) (hkid : x.kid = kid) :
    x.done = true := by
  obtain ⟨y, -, rfl⟩ := List.mem_map.mp hx
  split at hkid
  · next h => rw [if_pos h]
  · next h => exact absurd hkid h

/-- Once a kernel is done, no kernel of its identity on the core is other than done, and every scratchpad and program is as it was. -/
theorem Block.kernelDone_kept (t : Block) (ht : t = b.kernelDone core ker) : (∀ x ∈ (t.core core).kernels, x.kid = ker.kid → x.done = true) ∧
    ∀ c, (t.core c).scratch = (b.core c).scratch ∧ (t.core c).prog = (b.core c).prog := by
  have hsame := b.core_kernelEnded_same core ker
  have hother := (b.kernelEnded_atCore core ker).1
  have hkept (c : Nat) : ((b.kernelEnded core ker).core c).scratch = (b.core c).scratch ∧ ((b.kernelEnded core ker).core c).prog = (b.core c).prog := by
    by_cases hc : c = core
    · subst hc
      rw [hsame]
      exact ⟨rfl, rfl⟩
    · rw [hother c hc]
      exact ⟨rfl, rfl⟩
  have hdone (x : Kernel) (hx : x ∈ ((b.kernelEnded core ker).core core).kernels) (hkid : x.kid = ker.kid) : x.done = true :=
    Core.done_of_finishKernel (hsame ▸ hx) hkid
  rw [kernelDone_eq] at ht
  generalize b.kernelEnded core ker = b1 at ht hkept hdone
  cases hopen : b1.launchOpen ker.ctx ker.seq with
  | true =>
    rw [launchDone, if_pos hopen] at ht
    rw [ht]
    exact ⟨hdone, hkept⟩
  | false =>
    obtain ⟨det, hends⟩ := b1.launchDone_of_closed hopen
    have hdrop := b1.core_dropLaunch ker.ctx ker.seq
    have hstores : t.stores = (b1.dropLaunch ker.ctx ker.seq).stores := by rw [ht, hends, stores_finishEntry]
    generalize b1.dropLaunch ker.ctx ker.seq = b2 at hdrop hstores
    have hcore (c : Nat) : (t.core c).stores = (b2.core c).stores := congrArg (fun y => y.1 c) hstores
    refine ⟨fun x hx hkid => ?_, fun c => ?_⟩
    · have hmem : (x.kid, x.done) ∈ (b2.core core).kernels.map (fun x => (x.kid, x.done)) := by
        have hpairs : (t.core core).kernels.map (fun x => (x.kid, x.done)) = (b2.core core).kernels.map (fun x => (x.kid, x.done)) :=
          congrArg (fun y => y.2.2) (hcore core)
        exact hpairs ▸ List.mem_map.mpr ⟨x, hx, rfl⟩
      obtain ⟨y, hy, hpair⟩ := List.mem_map.mp hmem
      obtain ⟨hykid, hydone⟩ := Prod.mk.inj hpair
      rw [hdrop] at hy
      refine hydone ▸ hdone y ?_ (hykid.trans hkid)
      split at hy
      · exact List.mem_of_mem_filter hy
      · exact hy
    · obtain ⟨hscratch, hprog⟩ := hkept c
      have hstays : (b2.core c).scratch = (b1.core c).scratch ∧ (b2.core c).prog = (b1.core c).prog := by
        rw [hdrop]
        split <;> exact ⟨rfl, rfl⟩
      exact ⟨((congrArg (fun y => y.1) (hcore c)).trans hstays.1).trans hscratch, ((congrArg (fun y => y.2.1) (hcore c)).trans hstays.2).trans hprog⟩

theorem Core.mem_finishKernel_iff {k : Core} {kid : Nat} {x : Kernel} :
    (x ∈ (k.finishKernel kid).kernels ∧ x.done = false) ↔ (x ∈ k.kernels ∧ x.done = false ∧ x.kid ≠ kid) := by
  constructor
  · rintro ⟨hx, hdone⟩
    have hkid : x.kid ≠ kid := fun hkid => by rw [done_of_finishKernel hx hkid] at hdone; cases hdone
    obtain ⟨y, hy, hyx⟩ := List.mem_map.mp hx
    split at hyx
    · next h => exact absurd (hyx ▸ h) hkid
    · exact ⟨hyx ▸ hy, hdone, hkid⟩
  · rintro ⟨hx, hdone, hkid⟩
    exact ⟨List.mem_map.mpr ⟨x, hx, if_neg hkid⟩, hdone⟩

/-- The launch stays open where other work of it is left. -/
theorem Block.launchOpen_kernelEnded : (b.kernelEnded core ker).launchOpen ker.ctx ker.seq = true ↔ ∃ c < 16,
    (∃ x ∈ (b.core c).kernels, x.ctx = ker.ctx ∧ x.seq = ker.seq ∧ x.done = false ∧ (c ≠ core ∨ x.kid ≠ ker.kid)) ∨
      ∃ w ∈ (b.core c).waiting, w.ctx = ker.ctx ∧ w.seq = ker.seq := by
  have hsame := b.core_kernelEnded_same core ker
  have hother := (b.kernelEnded_atCore core ker).1
  generalize b.kernelEnded core ker = b1 at hsame hother ⊢
  have hkernels (c : Nat) (x : Kernel) : (x ∈ (b1.core c).kernels ∧ x.done = false) ↔
      (x ∈ (b.core c).kernels ∧ x.done = false ∧ (c ≠ core ∨ x.kid ≠ ker.kid)) := by
    by_cases hc : c = core
    · subst hc
      rw [hsame, Core.mem_finishKernel_iff]
      simp
    · rw [hother c hc]
      simp [hc]
  have hwaiting (c : Nat) : (b1.core c).waiting = (b.core c).waiting := by
    by_cases hc : c = core
    · subst hc
      rw [hsame]
      rfl
    · rw [hother c hc]
  rw [launchOpen_iff]
  refine exists_congr fun c => and_congr_right fun _ => or_congr (exists_congr fun x => ?_) (by rw [hwaiting])
  have := hkernels c x
  tauto

theorem Block.firstStop_kernelEnded (ctx seq : Nat) : (b.kernelEnded core ker).firstStop ctx seq = b.firstStop ctx seq := by
  have hsame := b.core_kernelEnded_same core ker
  have hother := (b.kernelEnded_atCore core ker).1
  refine firstStop_congr (fun n => ?_) ctx seq
  by_cases hn : n = core
  · subst hn
    rw [hsame, Core.finishKernel, List.map_map]
    refine List.map_congr_left fun x _ => ?_
    dsimp only [Function.comp]
    split <;> rfl
  · rw [hother n hn]

end

/-! ### Kernels start, end and switch -/

theorem answers_kernelDone {core : Nat} {s : State} {ker : Kernel} (hup : s.coreUp core = true)
    (hker : (s.core core).kernels.find? (fun x => (x.state == .halted || x.state == .stopped) && !x.done && (s.core core).drained x.kid) = some ker) :
    Answers (.kernelDone core) s (fun t => t.toBlock = s.kernelDone core ker) := by
  refine answers_of_run (f := fun b => b.kernelDone core ker) ?_ rfl
  show execKernelDone core s = _
  simp only [execKernelDone, State.run_eq]
  rw [if_neg (by rw [hup]; decide), hker]

/-- What the change of context before a start leaves for it. -/
theorem Core.Switched.start {k k' : Core} {bd : Binding} (h : k.Switched k' bd.ctx) (w : Waiting) (q : SeqState) (now : Nat) :
    let t := k'.start bd w q now
    t.cur = bd.ctx + 1 ∧ t.seq w.ctx = q ∧
    (∃ x, t.kernels = k.kernels ++ [x] ∧ x.kid = w.kid ∧ x.ctx = w.ctx ∧ x.seq = w.seq ∧ x.step = w.step ∧ x.state = .running ∧ x.done = false) ∧
    t.waiting = k.waiting.filter (fun x => x.kid != w.kid) ∧
    (∀ p, bd.slotFirst ≤ 2 * p + 1 → 2 * p < bd.slotFirst + bd.slotCount → SSet.has t.swap p = false) ∧
    (∀ m < 4, (t.mover m).prefetch = []) ∧
    { t with
        seqs := [], cur := 0, lastPos := none, kernels := [], waiting := [], prog := [], progBad := [], old := [], binds := []
        movers := [], swap := [], sliceAt := 0, quantum := 0, seqProg := 0, busyFrom := 0 } =
      { k with
        seqs := [], cur := 0, lastPos := none, kernels := [], waiting := [], prog := [], progBad := [], old := [], binds := []
        movers := [], swap := [], sliceAt := 0, quantum := 0, seqProg := 0, busyFrom := 0 } := by
  obtain ⟨hcur', -, -, hframe'⟩ := h
  have hkernels : k'.kernels = k.kernels := (congrArg (fun y : Core => y.kernels) hframe' :)
  have hwaiting : k'.waiting = k.waiting := (congrArg (fun y : Core => y.waiting) hframe' :)
  obtain ⟨hcur, hseq, hker, hwait, hswap, hprefetch, hframe⟩ := k'.start_spec bd w q now
  refine ⟨hcur.trans hcur', hseq, hkernels ▸ hker, hwaiting ▸ hwait, hswap, hprefetch, ?_⟩
  exact (congrArg (fun y : Core => { y with cur := 0, lastPos := none, sliceAt := 0, quantum := 0 }) hframe :).trans
    (congrArg (fun y : Core => { y with kernels := [], waiting := [], prog := [], progBad := [], old := [], binds := [], swap := [] }) hframe' :)

/-- Settles O14: a start and a switch are `Core.start_spec` and `Block.switchTo_spec`; a kernel that is done leaves its launch open
where other work of it is left (`Block.launchOpen_kernelEnded`), and else the entry ends (`ended_finishEntry`). -/
theorem kernelsStartEndAndSwitch : Obligations.KernelsStartEndAndSwitch := by
  unfold Obligations.KernelsStartEndAndSwitch
  refine ⟨fun core s bd w hup hfree hready htake hruns hunits hwaiting hclaim => ?_, fun core s ker hup hker => ?_,
    fun core s bd hup hcur habort hready hne htake hruns => ?_⟩
  · refine (answers_kernelStart hup hfree hready htake hruns hunits hwaiting hclaim).mono fun t ht => ?_
    have hatcore := s.startKernel_atCoreBanked core bd w
    have hcore := s.core_startKernel core bd w
    obtain ⟨hswitch, hswitched⟩ := s.switchTo_spec core bd
    have hself : (s.switchTo core bd).self = s.self := by rw [Block.self, hswitch.time_weave.2]; rfl
    obtain ⟨hcur, hseq, hker, hwait, hswap, hprefetch, hframe⟩ := hswitched.start w (startState s.self core bd w) (s.switchTo core bd).time.keeper
    rw [hself] at hcore
    rw [← hcore, ← ht] at hcur hseq hker hwait hswap hprefetch hframe
    rw [← ht] at hatcore
    refine ⟨hcur, ?_, hker, hwait, hswap, hprefetch, hframe, hatcore⟩
    rw [hseq]
    exact ⟨rfl, rfl, rfl, rfl, rfl, rfl, rfl, rfl, rfl, rfl, rfl, rfl, rfl, rfl, fun n hn _ => sel_startState _ _ _ _ hn⟩
  · refine (answers_kernelDone hup hker).mono fun t ht => ?_
    obtain ⟨hdone, hkept⟩ := s.kernelDone_kept core ker t.toBlock ht
    refine ⟨hdone, hkept, fun hopen => ?_, fun hclosed e hentry hunfinished huncompleted hheld hstep => ?_⟩
    · have hstays := (s.launchOpen_kernelEnded core ker).mpr hopen
      rw [Block.kernelDone_eq, Block.launchDone, if_pos hstays] at ht
      obtain ⟨hcores, hblock⟩ := s.kernelEnded_atCore core ker
      have hcore := s.core_kernelEnded_same core ker
      rw [← ht] at hcores hblock hcore
      rw [hcore]
      exact ⟨rfl, rfl, hcores, hblock⟩
    · have hends : (s.kernelEnded core ker).launchOpen ker.ctx ker.seq = false := by
        rw [Bool.eq_false_iff, ne_eq, s.launchOpen_kernelEnded core ker]
        rintro ⟨c, hc, ⟨x, hx, hctx, hseq, hdone, hother⟩ | ⟨w, hw, hctx, hseq⟩⟩
        · obtain hfinished | ⟨hsame, hkid⟩ := (hclosed c hc).1 x hx hctx hseq
          · exact absurd hfinished (by simp [hdone])
          · exact hother.elim (fun h => h hsame) (fun h => h hkid)
        · exact (hclosed c hc).2 w hw hctx hseq
      obtain ⟨det, hlaunch⟩ := Block.launchDone_of_closed _ hends
      rw [Block.kernelDone_eq, hlaunch, s.firstStop_kernelEnded core ker] at ht
      have hctx : ((s.kernelEnded core ker).dropLaunch ker.ctx ker.seq).ctx ker.ctx = s.ctx ker.ctx :=
        (Block.ctx_dropLaunch ..).trans (s.ctx_kernelEnded ..)
      exact ended_finishEntry (hctx ▸ hentry) hunfinished huncompleted hheld (hctx ▸ hstep) ht
  · refine (answers_quantumEnd hup hcur habort hready hne htake hruns).mono fun t ht => ?_
    obtain ⟨hatcore, hswitched⟩ := (s.advanceTo ((s.core core).sliceAt + (s.core core).quantum * 1000)).switchTo_spec core bd
    rw [← ht] at hatcore hswitched
    obtain ⟨htime, hcores, hctxs, hblock⟩ := Block.atCoreBanked_of_time hatcore
    obtain ⟨hcur', hseq, hprefetch, hframe⟩ := hswitched
    exact ⟨hcur', htime, hseq, hprefetch hne.symm, hframe, hcores, hctxs, hblock⟩

end Sys2Proof.Machine
end

section
/-!
Messages that act on one context: floe configuration, context information, events and tune sessions (R143, R268, R329, R330, R342).
-/
namespace Sys2Proof.Machine

theorem Block.ctx_mbTake (b : Block) (page : Nat) (m : List Byte) : (b.mbTake page m).ctx = b.ctx :=
  (b.leaves_mbTake page m).observe (·.ctx)

/-- A context exists where its number is one and its state is not FREE. -/
theorem Block.ctxLives_eq_true {b : Block} {ctx : Nat} : b.ctxLives ctx = true ↔ ctx < 64 ∧ (b.ctx ctx).state ≠ 0 := by
  simp [ctxLives]

/-- An operation whose work changes one context and replies OK satisfies `Message` with that change as its effect; its work may
take the contexts to be those from before the message was taken. -/
theorem message_of_modCtx {mk : Nat → Instr} {op : Nat} {f : Nat → Block → List Byte → Block}
    (hexec : ∀ page s, exec (mk page) s = s.run (·.mbOp page op (f page)))
    {ok : State → Nat → List Byte → Prop} {pl : State → Nat → List Byte → List Byte}
    {who : Nat → List Byte → Nat} {g : List Byte → Ctx → Ctx}
    (hwork : ∀ page s m, ok s page m → (s.mbTake page m).ctx = s.ctx →
      f page (s.mbTake page m) m = ((s.mbTake page m).modCtx (who page m) (g m)).mbReply page m stOK (pl s page m)) :
    Message mk op ok stOK pl (fun s page m => s.modCtx (who page m) (g m)) :=
  message_of_reply hexec fun page s m _ hok =>
    ⟨_, hwork page s m hok (s.ctx_mbTake page m), rfl, (s.leaves_mbTake page m).map (·.modCtx (who page m) (g m))⟩

/-! ### The configuration and the place of a context (R268, R330) -/

theorem message_ctxFloeConfig : Message .ctxFloeConfig 0x0105
    (fun s page m => msgCtx page m < 64 ∧ (s.ctx (msgCtx page m)).state ≠ 0 ∧ (s.ctx (msgCtx page m)).floe = none ∧
      FloeCfg.ok ⟨mPl m⟩ = true)
    stOK (fun _ _ _ => []) (fun s page m => s.modCtx (msgCtx page m) (fun x => { x with floe := some ⟨mPl m⟩ })) :=
  message_of_modCtx (fun _ _ => rfl) fun page s m ⟨hctx, hstate, hfloe, hsound⟩ htake => by
    refine if_neg ?_
    simp [htake, hctx, hstate, hfloe, hsound]

theorem message_ctxInfo : Message .ctxInfo 0x0106 (fun s page m => msgCtx page m < 64 ∧ (s.ctx (msgCtx page m)).state ≠ 0)
    stOK (fun s page m =>
      let x := s.ctx (msgCtx page m)
      natLe 8 x.last ++ natLe 8 x.latch ++ natLe 8 x.skipped ++ natLe 4 x.mbRepeats ++ natLe 4 x.fetchSlot ++
        natLe 8 x.curStep ++ natLe 8 (x.last + 1) ++ natLe 8 (if x.gap then x.foundSeq else 0))
    (fun s _ _ => s.toBlock) :=
  message_of_reply (fun _ _ => rfl) fun page s m _ hok => by
    have htake := s.ctx_mbTake page m
    have hlives : (s.mbTake page m).ctxLives (msgCtx page m) = true := Block.ctxLives_eq_true.mpr (htake ▸ hok)
    refine ⟨s.mbTake page m, ?_, rfl, s.leaves_mbTake page m⟩
    simp only [hlives, htake, Bool.not_true, Bool.false_eq_true, if_false]

/-! ### Events and tune sessions of the page's context (R143, R329, R342) -/

theorem message_eventSet : Message .eventSet 0x0107 (fun _ page m => page < 64 ∧ fld (mPl m) 0 2 ≤ 4095)
    stOK (fun s page m => natLe 8 ((s.ctx page).event (fld (mPl m) 0 2)).toNat)
    (fun s page m => s.modCtx page (fun x =>
      { x with events := SMap.set 0#64 x.events (fld (mPl m) 0 2) (BitVec.ofNat 64 (fld (mPl m) 8 8)) })) :=
  message_of_modCtx (fun _ _ => rfl) fun page s m ⟨hpage, hevent⟩ htake => by
    rw [← htake]
    exact if_neg (by omega)

theorem message_tuneOpen : Message .tuneOpen 0x0108
    (fun s page m => SSet.has (s.ctx page).grants (fld (mPl m) 2 1) = true ∧ 1 ≤ fld (mPl m) 0 2 ∧ fld (mPl m) 0 2 ≤ 512 ∧
      (s.ctx page).tune = none)
    stOK (fun _ _ _ => []) (fun s page m => s.modCtx page (fun x =>
      { x with tune := some ⟨fld (mPl m) 0 2, fld (mPl m) 2 1, BitVec.ofNat 64 (fld (mPl m) 8 8)⟩ })) :=
  message_of_modCtx (fun _ _ => rfl) fun page s m ⟨hgrant, hlow, hhigh, hclosed⟩ htake => by
    have hgranted : ¬(!SSet.has ((s.mbTake page m).ctx page).grants (fld (mPl m) 2 1)) = true := by simp [htake, hgrant]
    have hsound : ¬(fld (mPl m) 0 2 = 0 ∨ 512 < fld (mPl m) 0 2 ∨ ((s.mbTake page m).ctx page).tune.isSome = true) := by
      simp only [htake, hclosed, Option.isSome_none, Bool.false_eq_true, or_false]
      omega
    exact (if_neg hgranted).trans (if_neg hsound)

theorem message_tuneClose : Message .tuneClose 0x0109
    (fun s page m => (s.ctx page).tune.isSome = true ∧ (s.mbTake page m).stochRuns page = false)
    stOK (fun _ _ _ => []) (fun s page _ => s.modCtx page (fun x => { x with tune := none })) :=
  message_of_modCtx (who := fun page _ => page) (g := fun _ x => { x with tune := none }) (fun _ _ => rfl)
    fun page s m ⟨hopen, hidle⟩ htake => by
    refine if_neg ?_
    simp [htake, Option.isSome_iff_ne_none.mp hopen, hidle]

/-- Settles O30: taking a message leaves the contexts as they were, so each operation's check comes out as on the state, and its
work is the change of the one context (`message_of_modCtx`). -/
theorem contextMessagesAct : Obligations.ContextMessagesAct := by
  unfold Obligations.ContextMessagesAct
  exact ⟨⟨message_ctxFloeConfig, message_ctxInfo, message_eventSet⟩, message_tuneOpen, message_tuneClose⟩

end Sys2Proof.Machine
end

section
/-!
The canonical form of the memories that O59 speaks of, and the rules by which an operation keeps it. Every operation has a lemma
`canon_<operation>`: it keeps the form of the block it works on; one that goes on with an operation it is given keeps it where that
one does. The bytes themselves change in a write (`Mem.wf_write`), a clear (`Mem.wf_clear`) and an erasure (`SMap.wfFrom_keep`);
every other lemma follows its operation through its choices down to these. Elab.async is off here, as in the tests: several hundred
proofs side by side take more memory than the check allows.
-/
namespace Sys2Proof.Machine
open Block
set_option Elab.async false

theorem Block.canon_iff {b : Block} :
    b.Canon ↔ Mem.wf b.hostMem = true ∧ Mem.wf b.dram.mem = true ∧ Mem.wf b.firn.mem = true :=
  ⟨fun ⟨a, b, c⟩ => ⟨a, b, c⟩, fun ⟨a, b, c⟩ => ⟨a, b, c⟩⟩

theorem Block.canon_ite {p : Prop} [Decidable p] {x y : Block} (hx : x.Canon) (hy : y.Canon) : (if p then x else y).Canon := by
  split
  · exact hx
  · exact hy

theorem Block.canon_foldl {α : Type} (f : Block → α → Block) (hf : ∀ b x, b.Canon → (f b x).Canon) (l : List α) {b : Block} (h : b.Canon) :
    (l.foldl f b).Canon := by
  induction l generalizing b with
  | nil => exact h
  | cons x l ih => exact ih (hf b x h)

theorem Block.canon_foldl_fst {α β : Type} (f : Block × β → α → Block × β) (hf : ∀ r x, r.1.Canon → (f r x).1.Canon) (l : List α)
    (r : Block × β) (h : r.1.Canon) : (l.foldl f r).1.Canon := by
  induction l generalizing r with
  | nil => exact h
  | cons x l ih => exact ih _ (hf r x h)

section
variable {b : Block} (h : b.Canon)
include h

theorem Block.canon_withWeave (w : Weave) : Block.Canon { b with weave := w } := ⟨h.host, h.dram, h.firn⟩

theorem Block.canon_withCtxs (w : SMap Ctx) : Block.Canon { b with ctxs := w } := ⟨h.host, h.dram, h.firn⟩

theorem Block.canon_withSec (w : Sec) : Block.Canon { b with sec := w } := ⟨h.host, h.dram, h.firn⟩

theorem Block.canon_withRim (w : Rim) : Block.Canon { b with rim := w } := ⟨h.host, h.dram, h.firn⟩

theorem Block.canon_withPower (w : Power) : Block.Canon { b with power := w } := ⟨h.host, h.dram, h.firn⟩

end

end Sys2Proof.Machine
end

section
/-!
The canonical form through the state operations and the traces.
-/
namespace Sys2Proof.Machine
open Block
set_option Elab.async false

section
variable {b : Block} (h : b.Canon)
include h

@[simp] theorem Block.canon_setCore (c x) : (b.setCore c x).Canon := by
  grind only [setCore, canon_iff]

theorem Block.canon_modCore (c f) : (b.modCore c f).Canon := by
  grind only [modCore, canon_setCore]

theorem Block.canon_setPart (p x) : (b.setPart p x).Canon := by
  grind only [setPart, canon_iff]

theorem Block.canon_modPart (p f) : (b.modPart p f).Canon := by
  grind only [modPart, canon_setPart]

theorem Block.canon_setCtx (n x) : (b.setCtx n x).Canon := by
  grind only [setCtx, canon_iff]

theorem Block.canon_modCtx (n f) : (b.modCtx n f).Canon := by
  grind only [modCtx, canon_setCtx]

theorem Block.canon_setMbox (p x) : (b.setMbox p x).Canon := by
  grind only [setMbox, canon_iff]

theorem Block.canon_modMbox (p f) : (b.modMbox p f).Canon := by
  grind only [modMbox, canon_setMbox]

theorem Block.canon_setPort (p x) : (b.setPort p x).Canon := by
  grind only [setPort, canon_iff]

@[simp] theorem Block.canon_modPort (p f) : (b.modPort p f).Canon := by
  grind only [modPort, canon_setPort]

theorem Block.canon_setIsland (i x) : (b.setIsland i x).Canon := by
  grind only [setIsland, canon_iff]

theorem Block.canon_setRing (r x) : (b.setRing r x).Canon := by
  grind only [setRing, canon_iff]

theorem Block.canon_draw : b.draw.2.Canon := by
  grind only [draw, canon_iff]

theorem Block.canon_stamp (isl carried) : (b.stamp isl carried).2.Canon := by
  grind only [stamp, canon_setIsland]

theorem Block.canon_cross (src dst) : (b.cross src dst).Canon := by
  grind only [cross, canon_stamp]

theorem Block.canon_crossTo (src dsts) : (b.crossTo src dsts).Canon := by
  grind only [crossTo, canon_cross, canon_foldl]

theorem Block.canon_crossFrom (srcs dst) : (b.crossFrom srcs dst).Canon := by
  grind only [crossFrom, canon_cross, canon_foldl]

theorem Block.canon_dramWrite (off data bad) : (b.dramWrite off data bad).Canon :=
  ⟨h.host, Mem.wf_write _ _ _ h.dram, h.firn⟩

theorem Block.canon_hostWrite (a data bad) : (b.hostWrite a data bad).Canon :=
  ⟨Mem.wf_write _ _ _ h.host, h.dram, h.firn⟩

theorem Block.canon_ownWrite (pa data) : (b.ownWrite pa data).Canon := by
  grind only [ownWrite, canon_dramWrite, canon_hostWrite]

theorem Block.canon_request (k a n d x) : (b.request k a n d x).Canon := by
  grind only [request, canon_iff]

theorem Block.canon_traceDrop (r) : (b.traceDrop r).Canon := by
  grind only [traceDrop, canon_setRing, canon_ownWrite]

theorem Block.canon_traceLand (r rec) : (b.traceLand r rec).Canon := by
  grind only [traceLand, canon_setRing, canon_ownWrite]

theorem Block.canon_traceSend (r) : (b.traceSend r).Canon := by
  grind only [traceSend, canon_request]

theorem Block.canon_traceMoved (r) : (b.traceMoved r).Canon := by
  grind only [traceMoved, canon_traceLand, canon_foldl, canon_setRing, canon_traceSend]

theorem Block.canon_traceAnswer (r addr data ok) : (b.traceAnswer r addr data ok).Canon := by
  grind only [traceAnswer, canon_traceSend, canon_traceLand, canon_setRing, canon_traceDrop, canon_hostWrite]

theorem Block.canon_log (stamp code part isl arg) : (b.log stamp code part isl arg).Canon := by
  grind only [log, canon_iff]

theorem Block.canon_emitAt (stamp isl event ctx step arg) : (b.emitAt stamp isl event ctx step arg).Canon := by
  grind only [emitAt, canon_log, canon_setIsland, canon_traceDrop, canon_traceLand, canon_traceSend, canon_setRing]

theorem Block.canon_emit (isl event ctx step arg) : (b.emit isl event ctx step arg).Canon := by
  grind only [emit, canon_emitAt, canon_stamp]

theorem Block.canon_emitEach (isls event ctx step arg) : (b.emitEach isls event ctx step arg).Canon := by
  grind only [emitEach, canon_emit, canon_foldl]

theorem Block.canon_emitCtx (isl event ctx arg) : (b.emitCtx isl event ctx arg).Canon := by
  grind only [emitCtx, canon_emit]

theorem Block.canon_anyStatus : b.anyStatus.2.Canon := by
  grind only [anyStatus, canon_draw]

end

end Sys2Proof.Machine
end

section
/-!
The canonical form through the front end, the aborts and the completions of entries.
-/
namespace Sys2Proof.Machine
open Block
set_option Elab.async false

section
variable {b : Block} (h : b.Canon)
include h

theorem Block.canon_tracePoison (pa n) : (b.tracePoison pa n).Canon := by
  grind only [tracePoison, canon_emit, canon_foldl]

theorem Block.canon_firnPoison (pa n) : (b.firnPoison pa n).Canon := by
  grind only [firnPoison, canon_emit, canon_iff, canon_foldl]

theorem Block.canon_delivered (pa n) : (b.delivered pa n).Canon := by
  grind only [delivered, canon_firnPoison, canon_tracePoison]

theorem Block.canon_grantDenied (ctx pa n) : (b.grantDenied ctx pa n).Canon := by
  grind only [grantDenied, canon_emit]

theorem Block.canon_hostError (st? addr) : (b.hostError st? addr).Canon := by
  unfold hostError
  grind only [canon_emit, canon_anyStatus]

theorem Block.canon_hostPut (a data) : (b.hostPut a data).1.Canon := by
  grind only [hostPut, canon_hostWrite, canon_hostError]

theorem Block.canon_hostMissed (a n) : (b.hostMissed a n).Canon := by
  grind only [hostMissed, canon_hostError]

theorem Block.canon_hostRead (a n no f) (hno : ∀ c, c.Canon → (no c).Canon) (hf : ∀ d, (f d).Canon) :
    (b.hostRead a n no f).Canon := by
  grind only [hostRead, canon_hostMissed]

theorem Block.canon_feWrite (ctx va data) : (b.feWrite ctx va data).1.Canon := by
  grind only [feWrite, canon_foldl_fst, canon_dramWrite, canon_hostPut]

theorem Block.canon_askTrans (kind va acc) : (b.askTrans kind va acc).Canon := by
  grind only [askTrans, canon_request]

theorem Block.canon_feGate (ctx ranges acc f) (hf : f.Canon) : (b.feGate ctx ranges acc f).Canon := by
  grind only [feGate, canon_askTrans]

theorem Block.canon_feFailed (ctx va n acc) : (b.feFailed ctx va n acc).Canon := by
  grind only [feFailed, canon_foldl_fst, canon_modCtx, canon_grantDenied, canon_tracePoison, canon_hostError, canon_delivered]

theorem Block.canon_feSeen (ctx va n) : (b.feSeen ctx va n).Canon := by
  grind only [feSeen, canon_crossFrom]

theorem Block.canon_feThrough (ctx va n no f) (hno : ∀ c st, c.Canon → (no c st).Canon) (hf : ∀ c d, c.Canon → (f c d).Canon) :
    (b.feThrough ctx va n no f).Canon := by
  grind only [feThrough, canon_feGate, canon_feSeen, canon_feFailed]

theorem Block.canon_unpark (core m) : (b.unpark core m).Canon := by
  grind only [unpark, canon_modCtx, canon_iff, canon_modCore]

theorem Block.canon_unparkAttn (core ctx) : (b.unparkAttn core ctx).Canon := by
  grind only [unparkAttn, canon_unpark]

theorem Block.canon_cancelMovers (core p) : (b.cancelMovers core p).Canon := by
  grind only [cancelMovers, canon_emitCtx, canon_foldl, canon_modCore, canon_unpark]

theorem Block.canon_bank (core) : (b.bank core).Canon := by
  grind only [bank, canon_modCore, canon_modCtx]

theorem Block.canon_abortKernel (core kid other) : (b.abortKernel core kid other).Canon := by
  grind only [abortKernel, canon_modCore, canon_cancelMovers, canon_emitCtx, canon_bank]

theorem Block.canon_retireGroups (ctx) : (b.retireGroups ctx).Canon := by
  grind only [retireGroups, canon_modCtx, canon_iff]

theorem Block.canon_emitStep (event ctx lo hi) : (b.emitStep event ctx lo hi).Canon := by
  grind only [emitStep, canon_emit]

theorem Block.canon_acceptAbort (ctx scope seqs kids drop page other) :
    (b.acceptAbort ctx scope seqs kids drop page other).Canon := by
  grind only [acceptAbort, canon_iff, canon_foldl, canon_unparkAttn, canon_modCore, canon_abortKernel, canon_crossTo, canon_modCtx,
    canon_emitStep]

theorem Block.canon_retireStep (ctx why) : (b.retireStep ctx why).Canon := by
  grind only [retireStep, canon_retireGroups, canon_modCtx, canon_emitStep]

theorem Block.canon_dropStep (ctx why page) : (b.dropStep ctx why page).Canon := by
  grind only [dropStep, canon_acceptAbort, canon_retireStep]

theorem Block.canon_abortCtx (ctx page) : (b.abortCtx ctx page).Canon := by
  grind only [abortCtx, canon_acceptAbort, canon_retireStep]

theorem Block.canon_raiseVector (v) : (b.raiseVector v).Canon := by
  grind only [raiseVector, canon_request]

theorem Block.canon_sendDone (ctx) : (b.sendDone ctx).Canon := by
  grind only [sendDone, canon_modCtx, canon_raiseVector, canon_request]

theorem Block.canon_riseDone (ctx) : (b.riseDone ctx).Canon := by
  grind only [riseDone, canon_sendDone, canon_setCtx]

theorem Block.canon_completeEntry (ctx seq status) : (b.completeEntry ctx seq status).Canon := by
  grind only [completeEntry, canon_modCtx, canon_emitCtx]

theorem Block.canon_finishEntry (ctx seq status detail) : (b.finishEntry ctx seq status detail).Canon := by
  grind only [finishEntry, canon_modCtx, canon_dropStep, canon_riseDone, canon_completeEntry]

theorem Block.canon_crossFront (core) : (b.crossFront core).Canon := by
  grind only [crossFront, canon_cross]

theorem Block.canon_stopKernel (core kid at_ rep) : (b.stopKernel core kid at_ rep).Canon := by
  grind only [stopKernel, canon_crossFront, canon_cancelMovers, canon_modCore, canon_emit, canon_bank, canon_acceptAbort]

theorem Block.canon_poisonSeen (isl part ctx step) : (b.poisonSeen isl part ctx step).Canon := by
  grind only [poisonSeen, canon_emit, canon_modPart, canon_modCtx]

theorem Block.canon_preciseStop (core ctx status detail) : (b.preciseStop core ctx status detail).Canon := by
  grind only [preciseStop, canon_stopKernel, canon_poisonSeen]

@[simp] theorem Block.canon_engineStopAt (core o status detail) : (b.engineStopAt core o status detail).Canon := by
  grind only [engineStopAt, canon_stopKernel, canon_poisonSeen, canon_modCore, canon_emitCtx]

theorem Block.canon_failDesc (core m d status block) : (b.failDesc core m d status block).Canon := by
  grind only [failDesc, canon_stopKernel, canon_cross, canon_modCore, canon_unpark, canon_poisonSeen, canon_emitAt, canon_stamp]

end

end Sys2Proof.Machine
end

section
/-!
The canonical form through the sequencers and the engines.
-/
namespace Sys2Proof.Machine
open Block
set_option Elab.async false

section
variable {b : Block} (h : b.Canon)
include h

theorem Block.canon_issue (core id f) (hf : ∀ r, (f r).Canon) : (b.issue core id f).Canon := by
  grind only [issue, canon_preciseStop]

theorem Block.canon_issued (core ctx q) : (b.issued core ctx q).Canon := by
  grind only [issued, canon_modCore]

theorem Block.canon_waitOn (core ctx w) : (b.waitOn core ctx w).Canon := by
  grind only [waitOn, canon_modCore]

theorem Block.canon_switchTo (core bd) : (b.switchTo core bd).Canon := by
  grind only [switchTo, canon_modCore, canon_bank, canon_emitCtx]

theorem Block.canon_startKernel (core bd w) : (b.startKernel core bd w).Canon := by
  grind only [startKernel, canon_emit, canon_cross, canon_modCore, canon_setCore, canon_switchTo]

@[simp] theorem Block.canon_takeNext (core) : (b.takeNext core).Canon := by
  grind only [takeNext, canon_switchTo, canon_startKernel]

theorem Block.canon_launchDone (ctx seq) : (b.launchDone ctx seq).Canon := by
  grind only [launchDone, canon_finishEntry, canon_modCore, canon_foldl]

@[simp] theorem Block.canon_kernelDone (core ker) : (b.kernelDone core ker).Canon := by
  grind only [kernelDone, canon_launchDone, canon_crossFront, canon_modCore, canon_emit]

@[simp] theorem Block.canon_halt (core) : (b.halt core).Canon := by
  grind only [halt, canon_issue, canon_switchTo, canon_emit, canon_modCore, canon_bank, canon_issued]

@[simp] theorem Block.canon_loop (core) : (b.loop core).Canon := by
  grind only [loop, canon_preciseStop, canon_issued, canon_issue]

@[simp] theorem Block.canon_br (core) : (b.br core).Canon := by
  grind only [br, canon_preciseStop, canon_issued, canon_issue]

theorem Block.canon_flagFails (core ctx a st) : (b.flagFails core ctx a st).Canon := by
  grind only [flagFails, canon_waitOn, canon_feGate, canon_preciseStop, canon_feFailed]

@[simp] theorem Block.canon_waitev (core) : (b.waitev core).Canon := by
  grind only [waitev, canon_issue, canon_preciseStop, canon_issued, canon_modCore, canon_cross, canon_waitOn, canon_flagFails]

@[simp] theorem Block.canon_depmark (core) : (b.depmark core).Canon := by
  grind only [depmark, canon_preciseStop, canon_issued, canon_modCore, canon_cross, canon_issue]

@[simp] theorem Block.canon_stampOp (core) : (b.stampOp core).Canon := by
  grind only [stampOp, canon_issued, canon_emit, canon_issue]

theorem Block.canon_tagIssue (core op f) (hf : ∀ r l, (f r l).Canon) : (b.tagIssue core op f).Canon := by
  grind only [tagIssue, canon_issue, canon_preciseStop]

@[simp] theorem Block.canon_tagSet (core op full) : (b.tagSet core op full).Canon := by
  grind only [tagSet, canon_issued, canon_modCore, canon_tagIssue]

@[simp] theorem Block.canon_tagWait (core op full) : (b.tagWait core op full).Canon := by
  grind only [tagWait, canon_issued, canon_waitOn, canon_tagIssue]

@[simp] theorem Block.canon_tagTest (core) : (b.tagTest core).Canon := by
  grind only [tagTest, canon_issued, canon_tagIssue]

@[simp] theorem Block.canon_swapHalf (core) : (b.swapHalf core).Canon := by
  grind only [swapHalf, canon_issued, canon_modCore, canon_tagIssue]

theorem Block.canon_setQueue (core bd qsel l) : (b.setQueue core bd qsel l).Canon := by
  grind only [setQueue, canon_modCore, canon_modPart]

theorem Block.canon_crossQueue (core qsel) : (b.crossQueue core qsel).Canon := by
  grind only [crossQueue, canon_cross]

theorem Block.canon_queueCross (core qsel) : (b.queueCross core qsel).Canon := by
  grind only [queueCross, canon_cross]

@[simp] theorem Block.canon_hqPush (core op try_) : (b.hqPush core op try_).Canon := by
  grind only [hqPush, canon_issue, canon_preciseStop, canon_waitOn, canon_issued, canon_setQueue, canon_crossQueue]

@[simp] theorem Block.canon_hqPop (core op try_) : (b.hqPop core op try_).Canon := by
  grind only [hqPop, canon_issue, canon_preciseStop, canon_waitOn, canon_issued, canon_modCore, canon_setQueue, canon_queueCross]

theorem Block.canon_enqueue (core e r vals da db q) : (b.enqueue core e r vals da db q).Canon := by
  grind only [enqueue, canon_issued, canon_modCore]

theorem Block.canon_engineIssue (core id e f) (hf : ∀ r, (f r).Canon) : (b.engineIssue core id e f).Canon := by
  grind only [engineIssue, canon_issue]

@[simp] theorem Block.canon_tmma (core) : (b.tmma core).Canon := by
  grind only [tmma, canon_engineIssue, canon_preciseStop, canon_enqueue]

@[simp] theorem Block.canon_vecIssue (core op) : (b.vecIssue core op).Canon := by
  grind only [vecIssue, canon_engineIssue, canon_preciseStop, canon_enqueue]

@[simp] theorem Block.canon_sfuIssue (core fn) : (b.sfuIssue core fn).Canon := by
  grind only [sfuIssue, canon_preciseStop, canon_enqueue, canon_engineIssue]

end

end Sys2Proof.Machine
end

section
/-!
The canonical form through the ports, the inbound packets and the movers.
-/
namespace Sys2Proof.Machine
open Block
set_option Elab.async false

section
variable {b : Block} (h : b.Canon)
include h

theorem Block.canon_portSend (p vc o) : (b.portSend p vc o).Canon := by
  grind only [portSend, canon_modPort]

theorem Block.canon_sendOut (o) : (b.sendOut o).Canon := by
  grind only [sendOut, canon_portSend, canon_emit, canon_modPort]

theorem Block.canon_linkAccept (pk) : (b.linkAccept pk).1.Canon := by
  grind only [linkAccept, canon_cross, canon_stamp, canon_setPort]

theorem Block.canon_snoopSend (lines) : (b.snoopSend lines).Canon := by
  grind only [snoopSend, canon_foldl, canon_iff]

theorem Block.canon_applyResp (core reqId st retry old) : (b.applyResp core reqId st retry old).Canon := by
  grind only [applyResp, canon_modCore, canon_crossTo, canon_emit, canon_cross, canon_failDesc]

theorem Block.canon_winWrite (w off data bad) : (b.winWrite w off data bad).Canon := by
  grind only [winWrite, canon_foldl, canon_modPart, canon_cross, canon_dramWrite]

theorem Block.canon_winRead (w off) : (b.winRead w off).Canon := by
  grind only [winRead, canon_cross, canon_tracePoison]

theorem Block.canon_countStale (ctx) : (b.countStale ctx).Canon := by
  grind only [countStale, canon_modCtx]

theorem Block.canon_inCheck (pk off n atomic) : (b.inCheck pk off n atomic).1.Canon := by
  grind only [inCheck, canon_countStale, canon_emit, canon_modPort]

theorem Block.canon_answer (pk st retry old) : (b.answer pk st retry old).Canon := by
  unfold answer
  grind only [canon_applyResp, canon_emit, canon_sendOut]

theorem Block.canon_modGroup (pk group f) : (b.modGroup pk group f).Canon := by
  grind only [modGroup, canon_iff]

theorem Block.canon_releaseFinal (w hd value group) : (b.releaseFinal w hd value group).Canon := by
  unfold releaseFinal
  refine canon_answer (canon_emit (canon_withWeave (canon_winWrite ?_ _ _ _ _) _) ..) ..
  exact canon_foldl _ (fun _ _ hc => canon_modCore hc ..) _ h

theorem Block.canon_tryRelease (w pk group) : (b.tryRelease w pk group).Canon := by
  grind only [tryRelease, canon_releaseFinal]

theorem Block.canon_inWrite (pk group data) : (b.inWrite pk group data).1.Canon := by
  grind only [inWrite, canon_inCheck, canon_snoopSend, canon_tryRelease, canon_modGroup, canon_modCtx, canon_winWrite]

theorem Block.canon_inFinal (pk group value count) : (b.inFinal pk group value count).1.Canon := by
  grind only [inFinal, canon_inCheck, canon_snoopSend, canon_releaseFinal, canon_emit, canon_modCtx, canon_modGroup]

theorem Block.canon_inAtomic (pk op value compare) : (b.inAtomic pk op value compare).1.Canon := by
  grind only [inAtomic, canon_inCheck, canon_snoopSend, canon_winRead, canon_winWrite, canon_modCtx]

theorem Block.canon_inFail (w pk st reason) : (b.inFail w pk st reason).1.Canon := by
  grind only [inFail, canon_emit]

theorem Block.canon_inBlock (w pk group bad blk) : (b.inBlock w pk group bad blk).1.Canon := by
  grind only [inBlock, canon_inFail, canon_iff, canon_snoopSend, canon_winWrite, canon_tryRelease, canon_modGroup, canon_modCtx]

theorem Block.canon_inEnc (pk group frag last data) : (b.inEnc pk group frag last data).1.Canon := by
  grind only [inEnc, canon_inCheck, canon_inBlock, canon_modGroup, canon_iff]

@[simp] theorem Block.canon_hubRun (i) : (b.hubRun i).Canon := by
  unfold hubRun
  grind only [canon_answer, canon_inWrite, canon_iff, canon_inFinal, canon_inAtomic, canon_inEnc]

theorem Block.canon_transmit (o) : (b.transmit o).Canon := by
  grind only [transmit, canon_sendOut, canon_hubRun]

theorem Block.canon_sendLive (core r) : (b.sendLive core r).Canon := by
  grind only [sendLive, canon_transmit, canon_foldl, canon_modCore]

@[simp] theorem Block.canon_mov (core) : (b.mov core).Canon := by
  grind only [mov, canon_issue, canon_preciseStop, canon_issued, canon_emit, canon_modCore, canon_cross]

theorem Block.canon_touch (core m ctx va) : (b.touch core m ctx va).Canon := by
  grind only [touch, canon_modCore]

theorem Block.canon_touchRuns (core m ctx runs) : (b.touchRuns core m ctx runs).Canon := by
  grind only [touchRuns, canon_touch, canon_foldl]

theorem Block.canon_fillTlb (core m e) : (b.fillTlb core m e).Canon := by
  grind only [fillTlb, canon_modCore, canon_modPart]

theorem Block.canon_fillWalks (p l) : (b.fillWalks p l).Canon := by
  grind only [fillWalks, canon_modPart]

theorem Block.canon_shareSpend (core cls n) : (b.shareSpend core cls n).Canon := by
  grind only [shareSpend, canon_modCore]

theorem Block.canon_parkOn (core m d va acc) : (b.parkOn core m d va acc).Canon := by
  grind only [parkOn, canon_modCore, canon_emit]

theorem Block.canon_access (core m d ranges wr block f) (hf : ∀ l, (f l).Canon) : (b.access core m d ranges wr block f).Canon := by
  grind only [access, canon_parkOn, canon_failDesc, canon_grantDenied, canon_snoopSend]

theorem Block.canon_askHost (core m id i host) : (b.askHost core m id i host).Canon := by
  grind only [askHost, canon_foldl, canon_request]

theorem Block.canon_modDesc (core m id f) : (b.modDesc core m id f).Canon := by
  grind only [modDesc, canon_modCore]

theorem Block.canon_modPiece (core m id i f) : (b.modPiece core m id i f).Canon := by
  grind only [modPiece, canon_modDesc]

theorem Block.canon_movStep (core m) : (b.movStep core m).Canon := by
  grind only [movStep, canon_modCore]

theorem Block.canon_decodeFail (core m d st n reason) : (b.decodeFail core m d st n reason).Canon := by
  grind only [decodeFail, canon_failDesc, canon_emit]

theorem Block.canon_codecOpen (core m d f) (hf : ∀ d c, c.Canon → (f d c).Canon) : (b.codecOpen core m d f).Canon := by
  unfold codecOpen
  split
  · exact hf _ _ h
  · refine canon_access h _ _ _ _ _ _ _ fun runs => ?_
    have hr : ((runs.foldl (fun b r => b.delivered r.2.2 r.2.1) b).touchRuns core m d.ctx runs).Canon :=
      canon_touchRuns (canon_foldl _ (fun _ _ hc => canon_delivered hc ..) _ h) ..
    have hfail (st n r) := canon_decodeFail hr core m d st n r
    have hgo (x g) := hf x _ (canon_modDesc hr core m d.id g)
    extract_lets s c go
    have hgo (pa) : (go c pa).Canon := by
      unfold go
      split
      · exact hfail ..
      · exact hgo ..
    split
    · exact hfail ..
    · split
      · exact hfail ..
      · split
        · exact hgo _
        · refine canon_access hr _ _ _ _ _ _ _ fun rr => ?_
          split
          · split
            · exact canon_failDesc hr ..
            · exact hgo _
          · exact hr

theorem Block.canon_codecIssue (core m d i p) : (b.codecIssue core m d i p).Canon := by
  grind only [codecIssue, canon_codecOpen, canon_access, canon_failDesc, canon_askHost, canon_modPiece, canon_crossFrom, canon_foldl,
    canon_delivered, canon_touchRuns, canon_shareSpend]

theorem Block.canon_keepEntry (core m d p) : (b.keepEntry core m d p).Canon := by
  grind only [keepEntry, canon_modCore]

theorem Block.canon_markStop (core m d x) : (b.markStop core m d x).Canon := by
  grind only [markStop, canon_modCore, canon_emit]

theorem Block.canon_ahead (core m ctx va acc) : (b.ahead core m ctx va acc).Canon := by
  grind only [ahead, canon_fillTlb, canon_fillWalks, canon_askTrans]

theorem Block.canon_lookAhead (core m d i p) : (b.lookAhead core m d i p).Canon := by
  grind only [lookAhead, canon_ahead]

theorem Block.canon_srcMarkers (core m id i) : (b.srcMarkers core m id i).Canon := by
  grind only [srcMarkers, canon_modCore]

theorem Block.canon_readPiece (core m d i p seen served) : (b.readPiece core m d i p seen served).Canon := by
  unfold readPiece
  grind only [canon_modCore, canon_srcMarkers, canon_lookAhead, canon_askHost, canon_modPiece, canon_emit, canon_crossFrom,
    canon_delivered, canon_foldl, canon_touchRuns, canon_modDesc, canon_shareSpend, canon_access]

theorem Block.canon_issuePiece (core m d i p) : (b.issuePiece core m d i p).Canon := by
  grind only [issuePiece, canon_failDesc, canon_modCore, canon_lookAhead, canon_codecIssue, canon_readPiece]

@[simp] theorem Block.canon_pieceIssue (core m) : (b.pieceIssue core m).Canon := by
  grind only [pieceIssue, canon_markStop, canon_issuePiece]

theorem Block.canon_landWrites (core m d i l) : (b.landWrites core m d i l).1.Canon := by
  grind only [landWrites, canon_foldl_fst, canon_modCore, canon_modPart, canon_dramWrite, canon_foldl, canon_request]

theorem Block.canon_destWait (core m d slot) : (b.destWait core m d slot).Canon := by
  grind only [destWait, canon_modDesc, canon_emit]

theorem Block.canon_landPiece (core m d i p slots l bad runs) : (b.landPiece core m d i p slots l bad runs).Canon := by
  grind only [landPiece, canon_modCore, canon_movStep, canon_modDesc, canon_keepEntry, canon_landWrites, canon_crossTo, canon_touchRuns,
    canon_shareSpend, canon_decodeFail, canon_failDesc]

theorem Block.canon_landLocal (core m d i p) : (b.landLocal core m d i p).Canon := by
  grind only [landLocal, canon_destWait, canon_failDesc, canon_landPiece, canon_access]

theorem Block.canon_landRemote (core m d i p) : (b.landRemote core m d i p).Canon := by
  grind only [landRemote, canon_failDesc, canon_sendLive, canon_foldl, canon_cross, canon_movStep, canon_modCore, canon_modDesc,
    canon_keepEntry, canon_shareSpend]

theorem Block.canon_landNext (core m i f) (hf : ∀ d p, (f d p).Canon) : (b.landNext core m i f).Canon := by
  grind only [landNext, canon_iff]

@[simp] theorem Block.canon_pieceLanding (core m i) : (b.pieceLanding core m i).Canon := by
  grind only [pieceLanding, canon_landRemote, canon_landLocal, canon_landNext]

@[simp] theorem Block.canon_codecBlockDone (core m i) : (b.codecBlockDone core m i).Canon := by
  grind only [codecBlockDone, canon_landLocal, canon_cross, canon_decodeFail, canon_landNext]

theorem Block.canon_readBack (core m id i at_ addr len ok poison) : (b.readBack core m id i at_ addr len ok poison).Canon := by
  grind only [readBack, canon_modDesc, canon_iff, canon_modPiece, canon_cross]

theorem Block.canon_flagRemote (core m d) : (b.flagRemote core m d).Canon := by
  grind only [flagRemote, canon_failDesc, canon_sendLive, canon_modCore, canon_cross, canon_shareSpend]

theorem Block.canon_flagLocal (core m d) : (b.flagLocal core m d).Canon := by
  grind only [flagLocal, canon_movStep, canon_modDesc, canon_modPart, canon_cross, canon_access, canon_failDesc, canon_dramWrite,
    canon_touchRuns, canon_shareSpend]

@[simp] theorem Block.canon_finalSend (core m) : (b.finalSend core m).Canon := by
  grind only [finalSend, canon_flagRemote, canon_flagLocal]

theorem Block.canon_descPush (core d c) (hc : b.descPush core d = some c) : c.Canon := by
  unfold descPush at hc
  grind only [canon_setQueue, canon_cross]

@[simp] theorem Block.canon_descDone (core m) : (b.descDone core m).Canon := by
  grind only [descDone, canon_descPush, canon_finishEntry, canon_cross, canon_modCore, canon_movStep, canon_emit]

end

end Sys2Proof.Machine
end

section
/-!
The canonical form through the mailboxes, the companion link and the translations.
-/
namespace Sys2Proof.Machine
open Block
set_option Elab.async false

section
variable {b : Block} (h : b.Canon)
include h

theorem Block.canon_mbPump (page) : (b.mbPump page).Canon := by
  grind only [mbPump, canon_setMbox]

theorem Block.canon_mbNotice (page op tag ctx st pl) : (b.mbNotice page op tag ctx st pl).Canon := by
  grind only [mbNotice, canon_mbPump, canon_setMbox]

theorem Block.canon_mbReply (page m st pl) : (b.mbReply page m st pl).Canon := by
  grind only [mbReply, canon_modMbox]

theorem Block.canon_mbTake (page m) : (b.mbTake page m).Canon := by
  grind only [mbTake, canon_modMbox, canon_emitCtx]

theorem Block.canon_mbRepeat (page m t) : (b.mbRepeat page m t).Canon := by
  grind only [mbRepeat, canon_modMbox, canon_modCtx, canon_emitCtx]

theorem Block.canon_mbDrainN (page n) : (b.mbDrainN page n).Canon := by
  induction n generalizing b with
  | zero => exact h
  | succ n ih =>
    unfold mbDrainN
    grind only [canon_mbRepeat, canon_mbReply, canon_mbTake]

theorem Block.canon_mbDrain (page) : (b.mbDrain page).Canon := by
  grind only [mbDrain, canon_mbPump, canon_mbDrainN]

theorem Block.canon_mbOpIf (page op p f) (hf : ∀ c m, c.Canon → (f c m).Canon) : (b.mbOpIf page op p f).Canon := by
  grind only [mbOpIf, canon_mbDrain, canon_mbTake]

theorem Block.canon_mbOp (page op f) (hf : ∀ c m, c.Canon → (f c m).Canon) : (b.mbOp page op f).Canon := by
  grind only [mbOp, canon_mbOpIf]

theorem Block.canon_mbOpAt (page op rs acc f) (hf : ∀ c m, c.Canon → (f c m).Canon) : (b.mbOpAt page op rs acc f).Canon := by
  grind only [mbOpAt, canon_feGate, canon_mbDrain, canon_mbTake]

theorem Block.canon_mbBusy (page m aborts parts) : (b.mbBusy page m aborts parts).Canon := by
  grind only [mbBusy, canon_modMbox]

theorem Block.canon_mbFinish (page st pl) : (b.mbFinish page st pl).Canon := by
  grind only [mbFinish, canon_mbDrain, canon_modMbox, canon_mbReply]

theorem Block.canon_bufWrite (page addr data) : (b.bufWrite page addr data).1.Canon := by
  grind only [bufWrite, canon_feWrite, canon_feFailed, canon_hostPut]

theorem Block.canon_bufMissed (page addr n) : (b.bufMissed page addr n).Canon := by
  grind only [bufMissed, canon_feFailed, canon_hostMissed]

theorem Block.canon_mbPosted (page) : (b.mbPosted page).Canon := by
  grind only [mbPosted, canon_setMbox, canon_mbDrain]

@[simp] theorem Block.canon_mbPost (page msg) : (b.mbPost page msg).Canon := by
  grind only [mbPost, canon_mbPosted, canon_modMbox]

@[simp] theorem Block.canon_outPop (page) : (b.outPop page).Canon := by
  grind only [outPop, canon_mbDrain, canon_modMbox]

theorem Block.canon_mbInWrite (page off v) : (b.mbInWrite page off v).Canon := by
  grind only [mbInWrite, canon_mbPosted, canon_modMbox]

theorem Block.canon_statusWrite (page v) : (b.statusWrite page v).Canon := by
  grind only [statusWrite, canon_outPop, canon_modMbox]

@[simp] theorem Block.canon_registerWrite (page off v) : (b.registerWrite page off v).Canon := by
  grind only [registerWrite, canon_mbInWrite, canon_statusWrite, canon_iff]

theorem Block.canon_modTreleb (f) : (b.modTreleb f).Canon := by
  grind only [modTreleb, canon_iff]

theorem Block.canon_dropSnoop (line) : (b.dropSnoop line).Canon := by
  grind only [dropSnoop, canon_modPart, canon_modTreleb]

theorem Block.canon_rerunWaiting : b.rerunWaiting.Canon := by
  grind only [rerunWaiting, canon_hubRun, canon_foldl, canon_iff]

theorem Block.canon_snoopLand (line d poison) : (b.snoopLand line d poison).Canon := by
  grind only [snoopLand, canon_dramWrite, canon_cross]

@[simp] theorem Block.canon_snpAck (line modified) : (b.snpAck line modified).Canon := by
  unfold snpAck
  grind only [canon_rerunWaiting, canon_dropSnoop, canon_snoopLand]

theorem Block.canon_faultNotice (kind ctx addr seq) : (b.faultNotice kind ctx addr seq).Canon := by
  grind only [faultNotice, canon_mbNotice]

theorem Block.canon_doneFailed (ctx) : (b.doneFailed ctx).Canon := by
  grind only [doneFailed, canon_sendDone, canon_modCtx, canon_faultNotice, canon_emitCtx]

theorem Block.canon_intrDropped (v) : (b.intrDropped v).Canon := by
  grind only [intrDropped, canon_faultNotice, canon_foldl, canon_emit, canon_anyStatus]

theorem Block.canon_writeAnswered (core m id i) : (b.writeAnswered core m id i).Canon := by
  grind only [writeAnswered, canon_movStep, canon_modDesc, canon_cross]

theorem Block.canon_reqFailed (r) : (b.reqFailed r).Canon := by
  grind only [reqFailed, canon_readBack, canon_hostError, canon_failDesc, canon_writeAnswered, canon_doneFailed, canon_intrDropped,
    canon_traceAnswer]

theorem Block.canon_reqDone (r) : (b.reqDone r).Canon := by
  grind only [reqDone, canon_modCore, canon_writeAnswered, canon_hostWrite, canon_sendDone, canon_emitCtx, canon_modCtx, canon_cross,
    canon_traceAnswer]

theorem Block.canon_retireReq (tag) : (b.retireReq tag).Canon := by
  grind only [retireReq, canon_modTreleb]

theorem Block.canon_staleAnswer : b.staleAnswer.Canon := by
  grind only [staleAnswer, canon_modTreleb]

@[simp] theorem Block.canon_cmp (tag status) : (b.cmp tag status).Canon := by
  grind only [cmp, canon_staleAnswer, canon_reqFailed, canon_retireReq, canon_reqDone]

@[simp] theorem Block.canon_cmpd (tag status poison) : (b.cmpd tag status poison).Canon := by
  grind only [cmpd, canon_staleAnswer, canon_readBack, canon_retireReq, canon_reqFailed]

@[simp] theorem Block.canon_trelebNak (lseq) : (b.trelebNak lseq).Canon := by
  grind only [trelebNak, canon_modTreleb]

@[simp] theorem Block.canon_trelebIdle (lack) : (b.trelebIdle lack).Canon := by
  grind only [trelebIdle, canon_modTreleb]

theorem Block.canon_answerCompanion (tag st data bad) : (b.answerCompanion tag st data bad).Canon := by
  grind only [answerCompanion, canon_modTreleb, canon_iff]

theorem Block.canon_filterLine (line) : (b.filterLine line).Canon := by
  grind only [filterLine, canon_modPart, canon_snoopSend]

@[simp] theorem Block.canon_dramAperture (tag off cache len data) : (b.dramAperture tag off cache len data).Canon := by
  unfold dramAperture
  grind only [canon_answerCompanion, canon_dramWrite, canon_cross, canon_filterLine, canon_foldl, canon_tracePoison]

theorem Block.canon_modFaults (f) : (b.modFaults f).Canon := by
  grind only [modFaults, canon_iff]

theorem Block.canon_endParked (core m va st) : (b.endParked core m va st).Canon := by
  grind only [endParked, canon_failDesc, canon_modCore, canon_unpark]

theorem Block.canon_fault (core m va acc kind level) : (b.fault core m va acc kind level).Canon := by
  grind only [fault, canon_endParked, canon_modCtx, canon_modFaults, canon_emitAt, canon_stamp, canon_cross, canon_modCore]

theorem Block.canon_resume (core m e acc) : (b.resume core m e acc).Canon := by
  grind only [resume, canon_unpark, canon_cross, canon_fillTlb, canon_modCore, canon_emit, canon_failDesc]

@[simp] theorem Block.canon_tlbResume (stream) : (b.tlbResume stream).Canon := by
  grind only [tlbResume, canon_resume, canon_fillWalks, canon_modCore, canon_request, canon_fault, canon_endParked, canon_tracePoison]

theorem Block.canon_frontAnswer (part ctx va e?) : (b.frontAnswer part ctx va e?).Canon := by
  unfold frontAnswer
  grind only [canon_modPart, canon_modCtx]

@[simp] theorem Block.canon_transResp (tag base size rights) : (b.transResp tag base size rights).Canon := by
  unfold transResp
  have hr := canon_retireReq h tag
  have hc (d) := canon_cross hr trelebIsl d
  split
  · exact h
  · split
    · exact canon_staleAnswer h
    · grind only [canon_staleAnswer, canon_resume, canon_fault, canon_fillTlb, canon_frontAnswer]

theorem Block.canon_writeFaultBlock : b.writeFaultBlock.1.Canon := by
  grind only [writeFaultBlock, canon_hostPut]

theorem Block.canon_showOverflow : b.showOverflow.Canon := by
  grind only [showOverflow, canon_foldl, canon_modCtx]

theorem Block.canon_pauseTimers (ids) : (b.pauseTimers ids).Canon := by
  grind only [pauseTimers, canon_modCore, canon_foldl]

theorem Block.canon_settleOverflow : b.settleOverflow.Canon := by
  grind only [settleOverflow, canon_showOverflow, canon_modFaults]

theorem Block.canon_writeBatch (fs) : (b.writeBatch fs).1.Canon := by
  grind only [writeBatch, canon_foldl_fst, canon_hostPut, canon_writeFaultBlock, canon_modFaults, canon_iff, canon_raiseVector,
    canon_emit, canon_pauseTimers]

theorem Block.canon_faultOrBatch (id) : (b.faultOrBatch id).2.Canon := by
  grind only [faultOrBatch, canon_draw]

theorem Block.canon_noRoom (fs) : (b.noRoom fs).Canon := by
  grind only [noRoom, canon_showOverflow, canon_emit, canon_faultOrBatch, canon_pauseTimers, canon_writeFaultBlock, canon_modFaults]

theorem Block.canon_closeBatch (fs) : (b.closeBatch fs).Canon := by
  grind only [closeBatch, canon_showOverflow, canon_noRoom, canon_writeBatch]

@[simp] theorem Block.canon_faultQueueConfig (page) : (b.faultQueueConfig page).Canon := by
  grind only [faultQueueConfig, canon_mbReply, canon_modFaults, canon_writeFaultBlock, canon_mbOp]

theorem Block.canon_rewalk (f) : (b.rewalk f).Canon := by
  grind only [rewalk, canon_modCtx, canon_modCore, canon_modFaults]

theorem Block.canon_failFault (f) : (b.failFault f).Canon := by
  grind only [failFault, canon_modFaults, canon_endParked, canon_cross]

theorem Block.canon_replyEntry (e statusAt) : (b.replyEntry e statusAt).1.Canon := by
  grind only [replyEntry, canon_modFaults, canon_rewalk, canon_failFault]

@[simp] theorem Block.canon_faultReply (page) : (b.faultReply page).Canon := by
  grind only [faultReply, canon_mbOp, canon_mbReply, canon_hostMissed, canon_closeBatch, canon_writeFaultBlock, canon_settleOverflow,
    canon_modFaults, canon_foldl, canon_hostPut, canon_replyEntry]

theorem Block.canon_migrateLand (g) : (b.migrateLand g).Canon := by
  grind only [migrateLand, canon_emit, canon_hostPut, canon_dramWrite, canon_cross]

@[simp] theorem Block.canon_migrateDone (part) : (b.migrateDone part).Canon := by
  grind only [migrateDone, canon_rewalk, canon_hostPut, canon_modFaults, canon_hostMissed, canon_migrateLand]

theorem Block.canon_dropTranslations (ctx va len) : (b.dropTranslations ctx va len).Canon := by
  grind only [dropTranslations, canon_foldl, canon_modCore, canon_retireReq, canon_modCtx, canon_modTreleb, canon_modPart]

theorem Block.canon_startInval (ctx va len whom) : (b.startInval ctx va len whom).Canon := by
  grind only [startInval, canon_iff, canon_dropTranslations]

theorem Block.canon_invalTrace (ctx) : (b.invalTrace ctx).Canon := by
  grind only [invalTrace, canon_emit, canon_draw]

theorem Block.canon_dropContext (ctx) : (b.dropContext ctx).Canon := by
  grind only [dropContext, canon_invalTrace, canon_dropTranslations, canon_startInval]

@[simp] theorem Block.canon_tlbInvalidate (page) : (b.tlbInvalidate page).Canon := by
  grind only [tlbInvalidate, canon_mbReply, canon_mbBusy, canon_startInval, canon_mbOp]

@[simp] theorem Block.canon_inval (ctx va len) : (b.inval ctx va len).Canon := by
  grind only [inval, canon_startInval, canon_modTreleb]

end

end Sys2Proof.Machine
end

section
/-!
The canonical form through the windows, the domain and tenancy.
-/
namespace Sys2Proof.Machine
open Block
set_option Elab.async false

section
variable {b : Block} (h : b.Canon)
include h

@[simp] theorem Block.canon_arrive (pk o f) (hf : ∀ c, c.Canon → (f c).Canon) : (b.arrive pk o f).Canon := by
  grind only [arrive, canon_sendOut, canon_linkAccept]

@[simp] theorem Block.canon_takeResp (pk status count retry old) : (b.takeResp pk status count retry old).Canon := by
  grind only [takeResp, canon_countStale, canon_emit, canon_applyResp, canon_foldl]

@[simp] theorem Block.canon_nak (port lseq) : (b.nak port lseq).Canon := by
  grind only [nak, canon_modPort]

@[simp] theorem Block.canon_idleFlit (port lack) : (b.idleFlit port lack).Canon := by
  grind only [idleFlit, canon_modPort]

theorem Block.canon_portDown (port st reason) : (b.portDown port st reason).Canon := by
  grind only [portDown, canon_emit, canon_modPort]

@[simp] theorem Block.canon_portStatus (page) : (b.portStatus page).Canon := by
  grind only [portStatus, canon_mbReply, canon_mbOp]

theorem Block.canon_winFailed (ctx p) : (b.winFailed ctx p).Canon := by
  grind only [winFailed, canon_tracePoison]

theorem Block.canon_windowOpenDo (page m) : (b.windowOpenDo page m).Canon := by
  unfold windowOpenDo
  extract_lets p id sp fl atomics base len n x no range peers
  have hno (c : Block) (hc : c.Canon) (r : Nat) : (no c r).Canon := canon_mbReply hc ..
  clear_value no range
  have hp : peers.1.Canon := by
    unfold peers
    grind only [canon_feFailed]
  clear_value peers
  obtain ⟨c, _ | l⟩ := peers <;> grind only [canon_winFailed, canon_mbReply, canon_emit, canon_withWeave]

@[simp] theorem Block.canon_windowOpen (page) : (b.windowOpen page).Canon := by
  grind only [windowOpen, canon_windowOpenDo, canon_mbOpAt]

theorem Block.canon_closeWindow (w) : (b.closeWindow w).Canon := by
  grind only [closeWindow, canon_answer, canon_foldl, canon_emit, canon_iff]

theorem Block.canon_closeWindows (p) : (b.closeWindows p).Canon := by
  grind only [closeWindows, canon_closeWindow, canon_foldl]

@[simp] theorem Block.canon_windowClose (page) : (b.windowClose page).Canon := by
  grind only [windowClose, canon_mbOp, canon_mbReply, canon_rerunWaiting, canon_closeWindow]

theorem Block.canon_modDomain (f) : (b.modDomain f).Canon := by
  grind only [modDomain, canon_iff]

theorem Block.canon_ctlSend (p type fields) : (b.ctlSend p type fields).Canon := by
  grind only [ctlSend, canon_modPort]

theorem Block.canon_ctlArrive (port) : (b.ctlArrive port).Canon := by
  grind only [ctlArrive, canon_cross, canon_modPort]

@[simp] theorem Block.canon_control (port f) (hf : ∀ c, c.Canon → (f c).Canon) : (b.control port f).Canon := by
  grind only [control, canon_ctlArrive]

theorem Block.canon_modTime (f) : (b.modTime f).Canon := by
  grind only [modTime, canon_iff]

theorem Block.canon_sendTime (ports) : (b.sendTime ports).Canon := by
  grind only [sendTime, canon_ctlSend, canon_foldl]

@[simp] theorem Block.canon_timeQuery (page) : (b.timeQuery page).Canon := by
  grind only [timeQuery, canon_mbReply, canon_mbOp]

theorem Block.canon_sendAssign (p) : (b.sendAssign p).Canon := by
  grind only [sendAssign, canon_ctlSend]

theorem Block.canon_sendGroup (p group g) : (b.sendGroup p group g).Canon := by
  grind only [sendGroup, canon_ctlSend]

@[simp] theorem Block.canon_portUp (port t) : (b.portUp port t).Canon := by
  grind only [portUp, canon_emit, canon_modPort, canon_sendTime, canon_sendGroup, canon_foldl, canon_sendAssign]

theorem Block.canon_applyTopology : b.applyTopology.Canon := by
  grind only [applyTopology, canon_portDown, canon_modPort, canon_foldl]

theorem Block.canon_sendJoined (count) : (b.sendJoined count).Canon := by
  grind only [sendJoined, canon_ctlSend]

theorem Block.canon_defineDone : b.defineDone.Canon := by
  grind only [defineDone, canon_mbFinish, canon_modDomain]

@[simp] theorem Block.canon_joinedMsg (port count) : (b.joinedMsg port count).Canon := by
  grind only [joinedMsg, canon_sendJoined, canon_modDomain, canon_defineDone, canon_control]

theorem Block.canon_installGroup (d) : (b.installGroup d).Canon := by
  grind only [installGroup, canon_iff]

theorem Block.canon_forwardGroup (d) : (b.forwardGroup d).Canon := by
  grind only [forwardGroup, canon_sendGroup, canon_foldl]

@[simp] theorem Block.canon_groupDefinition (port d) : (b.groupDefinition port d).Canon := by
  grind only [groupDefinition, canon_sendJoined, canon_forwardGroup, canon_installGroup, canon_control]

@[simp] theorem Block.canon_jobGroupSet (page) : (b.jobGroupSet page).Canon := by
  grind only [jobGroupSet, canon_mbOp, canon_mbReply, canon_defineDone, canon_mbBusy, canon_modDomain, canon_forwardGroup,
    canon_installGroup, canon_bufMissed]

theorem Block.canon_setPoints (p) : (b.setPoints p).Canon := by
  grind only [setPoints, canon_modCore, canon_foldl]

theorem Block.canon_releaseTile (p ctx) : (b.releaseTile p ctx).Canon := by
  grind only [releaseTile, canon_modPart, canon_closeWindows]

theorem Block.canon_releaseRanges (core ctx) : (b.releaseRanges core ctx).Canon := by
  grind only [releaseRanges, canon_releaseTile, canon_modCore, canon_bank]

theorem Block.canon_releaseCore (core ctx) : (b.releaseCore core ctx).Canon := by
  grind only [releaseCore, canon_dropContext, canon_releaseRanges]

theorem Block.canon_bind (ctx p) : (b.bind ctx p).Canon := by
  grind only [bind, canon_modCore, canon_modPart]

@[simp] theorem Block.canon_coreBind (page) : (b.coreBind page).Canon := by
  grind only [coreBind, canon_mbOp, canon_mbReply, canon_bind]

@[simp] theorem Block.canon_coreUnbind (page) : (b.coreUnbind page).Canon := by
  grind only [coreUnbind, canon_mbReply, canon_mbBusy, canon_abortCtx, canon_mbOp]

@[simp] theorem Block.canon_sliceConfig (page) : (b.sliceConfig page).Canon := by
  grind only [sliceConfig, canon_mbReply, canon_modCore, canon_mbOp]

theorem Block.canon_assignPart (p) : (b.assignPart p).Canon := by
  grind only [assignPart, canon_setPoints, canon_modPart]

theorem Block.canon_reassign (p) : (b.reassign p).Canon := by
  grind only [reassign, canon_assignPart, canon_releaseCore, canon_foldl]

@[simp] theorem Block.canon_partitionAssign (page) : (b.partitionAssign page).Canon := by
  grind only [partitionAssign, canon_mbReply, canon_assignPart, canon_mbBusy, canon_abortCtx, canon_foldl, canon_mbOp]

@[simp] theorem Block.canon_countersRead (page) : (b.countersRead page).Canon := by
  grind only [countersRead, canon_mbOpAt, canon_mbReply, canon_bufWrite]

@[simp] theorem Block.canon_powerRead (page) : (b.powerRead page).Canon := by
  grind only [powerRead, canon_mbReply, canon_draw, canon_mbOp]

end

end Sys2Proof.Machine
end

section
/-!
The canonical form through the models and the floe.
-/
namespace Sys2Proof.Machine
open Block
set_option Elab.async false

section
variable {b : Block} (h : b.Canon)
include h

theorem Block.canon_modFirn (f : Firn → Firn) (hf : ∀ x : Firn, Mem.wf x.mem = true → Mem.wf (f x).mem = true) :
    (b.modFirn f).Canon :=
  ⟨h.host, h.dram, hf _ h.firn⟩

omit h in
theorem Firn.mem_countPrograms (es : List Nat) (f : Firn) : (es.foldl Firn.countProgram f).mem = f.mem := by
  induction es generalizing f with
  | nil => rfl
  | cons e es ih => exact ih _

theorem Block.canon_countPrograms (es : List Nat) : (b.modFirn fun f => es.foldl Firn.countProgram f).Canon :=
  canon_modFirn h _ fun x hx => by rw [Firn.mem_countPrograms]; exact hx

theorem Block.canon_modModel (m f) : (b.modModel m f).Canon := by
  grind only [modModel, canon_modFirn]

theorem Block.canon_dirCommit : b.dirCommit.Canon := by
  refine canon_modFirn h _ fun x hx => ?_
  unfold Firn.commit
  split <;> exact hx

theorem Block.canon_modelState (m st) : (b.modelState m st).Canon := by
  grind only [modelState, canon_emit, canon_modModel, canon_dirCommit]

theorem Block.canon_firnRead (x a n) : (b.firnRead x a n).1.Canon := by
  grind only [firnRead, canon_foldl_fst, canon_firnPoison]

theorem Block.canon_firnProgram (x a data) : (b.firnProgram x a data).Canon :=
  canon_foldl _ (fun _ _ hc => canon_modFirn hc _ fun _ hx => Mem.wf_write _ _ _ hx) _ h

theorem Block.canon_eraseExtents (m : Nat) : (b.eraseExtents m).Canon :=
  canon_modFirn h _ fun x hx =>
    SMap.wfFrom_keep 0#8 x.mem none (fun k => !(SMap.get 0 x.owner (k / 2097152) == m)) hx

theorem Block.canon_pkgMissed (addr) : (b.pkgMissed addr).Canon := by
  grind only [pkgMissed, canon_hostMissed]

theorem Block.canon_tagRegions (m dramLen hostLen absent) : (b.tagRegions m dramLen hostLen absent).Canon := by
  grind only [tagRegions, canon_iff]

theorem Block.canon_dramClear (base len) : (b.dramClear base len).Canon :=
  ⟨h.host, Mem.wf_clear _ _ _ h.dram, h.firn⟩

theorem Block.canon_releasePlaced (m) : (b.releasePlaced m).Canon := by
  grind only [releasePlaced, canon_iff, canon_dramClear, canon_foldl]

theorem Block.canon_releaseRegions (m) : (b.releaseRegions m).Canon := by
  grind only [releaseRegions, canon_iff, canon_dramClear, canon_foldl]

theorem Block.canon_firnNotice (op tag reason value) : (b.firnNotice op tag reason value).Canon := by
  grind only [firnNotice, canon_mbNotice]

theorem Block.canon_beginInstall (o) : (b.beginInstall o).Canon := by
  grind only [beginInstall, canon_pkgMissed, canon_modFirn, canon_modelState, canon_tagRegions, canon_iff]

theorem Block.canon_firnOver : b.firnOver.Canon := by
  grind only [firnOver, canon_iff, canon_modFirn]

theorem Block.canon_installFailed (o reason) : (b.installFailed o reason).Canon := by
  grind only [installFailed, canon_firnNotice, canon_emit, canon_modFirn, canon_firnOver, canon_releaseRegions, canon_eraseExtents,
    canon_dirCommit]

@[simp] theorem Block.canon_modelInstall (page) : (b.modelInstall page).Canon := by
  grind only [modelInstall, canon_mbReply, canon_beginInstall, canon_mbOp]

theorem Block.canon_writePlaced (x t off data) : (b.writePlaced x t off data).1.Canon := by
  grind only [writePlaced, canon_dramWrite, canon_hostPut]

theorem Block.canon_tensorRead (x t) : (b.tensorRead x t).1.Canon := by
  grind only [tensorRead, canon_firnRead, canon_tracePoison, canon_hostMissed]

theorem Block.canon_badTensors (x ts) : (b.badTensors x ts).1.Canon := by
  grind only [badTensors, canon_foldl_fst, canon_tensorRead]

theorem Block.canon_programChunk (x p seen lo data) : (b.programChunk x p seen lo data).1.Canon := by
  refine canon_foldl_fst _ (fun r q hr => ?_) _ _ h
  split
  · exact hr
  · extract_lets d ext w
    split
    · exact canon_countPrograms (canon_firnProgram hr ..) _
    · exact canon_writePlaced hr ..

theorem Block.canon_chunks (o x key p n) : (b.chunks o x key p n).1.Canon := by
  grind only [chunks, canon_foldl_fst, canon_hostMissed, canon_programChunk]

theorem Block.canon_installPart (o) : (b.installPart o).Canon := by
  grind only [installPart, canon_chunks, canon_draw]

@[simp] theorem Block.canon_installEnd : b.installEnd.Canon := by
  grind only [installEnd, canon_installFailed, canon_installPart, canon_chunks, canon_badTensors, canon_modelState, canon_firnNotice,
    canon_emit, canon_firnOver, canon_tagRegions, canon_modModel]

@[simp] theorem Block.canon_modelInstallCancel (page) : (b.modelInstallCancel page).Canon := by
  grind only [modelInstallCancel, canon_mbOp, canon_mbReply, canon_installFailed, canon_installPart, canon_firnNotice, canon_firnOver]

@[simp] theorem Block.canon_modelRestorePlaced (page) : (b.modelRestorePlaced page).Canon := by
  grind only [modelRestorePlaced, canon_mbReply, canon_modFirn, canon_mbOp]

theorem Block.canon_restoreWork (o) : (b.restoreWork o).1.Canon := by
  grind only [restoreWork, canon_pkgMissed, canon_chunks, canon_tagRegions, canon_modModel, canon_releasePlaced, canon_badTensors]

@[simp] theorem Block.canon_modelRestoreEnd : b.modelRestoreEnd.Canon := by
  grind only [modelRestoreEnd, canon_firnNotice, canon_firnOver, canon_modelState, canon_restoreWork]

@[simp] theorem Block.canon_modelRemove (page) : (b.modelRemove page).Canon := by
  grind only [modelRemove, canon_mbReply, canon_modelState, canon_modFirn, canon_mbOp]

theorem Block.canon_finishRemoval (m) : (b.finishRemoval m).Canon := by
  grind only [finishRemoval, canon_emit, canon_dirCommit, canon_modFirn, canon_releaseRegions, canon_eraseExtents]

@[simp] theorem Block.canon_modelRemoveEnd : b.modelRemoveEnd.Canon := by
  grind only [modelRemoveEnd, canon_firnNotice, canon_firnOver, canon_finishRemoval]

@[simp] theorem Block.canon_modelGrant (page) : (b.modelGrant page).Canon := by
  grind only [modelGrant, canon_mbReply, canon_modCtx, canon_mbOp]

theorem Block.canon_revoke (ctx id) : (b.revoke ctx id).Canon := by
  grind only [revoke, canon_modCtx]

@[simp] theorem Block.canon_modelRevoke (page) : (b.modelRevoke page).Canon := by
  grind only [modelRevoke, canon_mbReply, canon_revoke, canon_mbBusy, canon_abortCtx, canon_mbOp]

theorem Block.canon_toBuffer (page m data) : (b.toBuffer page m data).Canon := by
  grind only [toBuffer, canon_mbReply, canon_bufWrite]

theorem Block.canon_bufferOp (page op data) : (b.bufferOp page op data).Canon := by
  grind only [bufferOp, canon_mbOpAt, canon_mbReply, canon_toBuffer]

@[simp] theorem Block.canon_modelList (page) : (b.modelList page).Canon := by
  grind only [modelList, canon_bufferOp]

@[simp] theorem Block.canon_modelDirectoryRead (page) : (b.modelDirectoryRead page).Canon := by
  grind only [modelDirectoryRead, canon_bufferOp]

@[simp] theorem Block.canon_firnStatus (page) : (b.firnStatus page).Canon := by
  grind only [firnStatus, canon_bufferOp]

@[simp] theorem Block.canon_variantBuild (page) : (b.variantBuild page).Canon := by
  grind only [variantBuild, canon_mbReply, canon_modFirn, canon_iff, canon_mbOp]

theorem Block.canon_buildRead (id e) : (b.buildRead id e).1.Canon := by
  have hread := canon_firnRead h
  obtain ⟨read, hb⟩ : ∃ r, b.firnRead = r := ⟨_, rfl⟩
  obtain ⟨get, hg⟩ : ∃ g, Block.hostGet = g := ⟨_, rfl⟩
  rw [buildRead, hb, hg]
  rw [hb] at hread
  generalize hr : (if id = 0 then (b, Except.ok (List.replicate (fld e 24 8) 0#8)) else _) = r
  have hc : r.1.Canon := by
    split at hr
    · exact hr ▸ h
    · split at hr
      · exact hr ▸ h
      · split at hr <;> subst hr <;> next hm => exact (congrArg Prod.fst hm) ▸ hread ..
  obtain ⟨c, _ | d⟩ := r
  · exact hc
  · dsimp only
    split
    · exact canon_hostMissed hc ..
    · exact hc

theorem Block.canon_buildInputs (id es) : (b.buildInputs id es).1.Canon := by
  refine canon_foldl_fst _ (fun r e hr => ?_) _ _ h
  split
  · exact hr
  · split <;> next hb => exact (congrArg Prod.fst hb) ▸ canon_buildRead hr ..

theorem Block.canon_buildSpoils (u) : (b.buildSpoils u).Canon := by
  grind only [buildSpoils, canon_dramWrite, canon_iff]

theorem Block.canon_buildWrite (base id ins) : (b.buildWrite base id ins).1.Canon := by
  grind only [buildWrite, canon_foldl_fst, canon_dramWrite]

theorem Block.canon_buildVerify (base spec ins at_) : (b.buildVerify base spec ins at_).1.Canon := by
  unfold buildVerify
  split
  · unfold Option.elim
    split
    · exact canon_tracePoison h ..
    · exact h
  · exact canon_foldl_fst _ (fun r o hr => by exact canon_hostPut hr ..) _ (b, none) h

theorem Block.canon_buildWork (u) : (b.buildWork u).1.Canon := by
  unfold buildWork
  grind only [canon_hostMissed, canon_buildInputs, canon_buildSpoils, canon_buildVerify, canon_buildWrite]

theorem Block.canon_buildDoomed (u) : (b.buildDoomed u).1.Canon := by
  grind only [buildDoomed, canon_buildSpoils]

@[simp] theorem Block.canon_buildEnd : b.buildEnd.Canon := by
  grind only [buildEnd, canon_firnNotice, canon_emit, canon_modFirn, canon_iff, canon_buildDoomed, canon_buildWork]

theorem Block.canon_recheck (m) : (b.recheck m).Canon := by
  grind only [recheck, canon_iff, canon_badTensors, canon_modelState]

@[simp] theorem Block.canon_placedRecheckDone (part) : (b.placedRecheckDone part).Canon := by
  grind only [placedRecheckDone, canon_recheck, canon_foldl]

@[simp] theorem Block.canon_scanDone : b.scanDone.Canon := by
  grind only [scanDone, canon_emit, canon_dirCommit, canon_modFirn, canon_modModel, canon_foldl]

theorem Block.canon_ringFree (ctx op free f) (hf : ∀ c e, c.Canon → (f c e).Canon) : (b.ringFree ctx op free f).Canon := by
  grind only [ringFree, canon_iff]

theorem Block.canon_ringTurn (ctx op f) (hf : ∀ c e, c.Canon → (f c e).Canon) : (b.ringTurn ctx op f).Canon := by
  grind only [ringTurn, canon_ringFree]

@[simp] theorem Block.canon_ctxFloeConfig (page) : (b.ctxFloeConfig page).Canon := by
  grind only [ctxFloeConfig, canon_mbReply, canon_modCtx, canon_mbOp]

theorem Block.canon_opWrite (ctx via va data) : (b.opWrite ctx via va data).1.Canon := by
  grind only [opWrite, canon_foldl_fst, canon_dramWrite, canon_cross, canon_hostPut]

theorem Block.canon_streamUse (core ctx va) : (b.streamUse core ctx va).Canon := by
  grind only [streamUse, canon_fillTlb, canon_fillWalks, canon_touch]

theorem Block.canon_opSeen (ctx via l) : (b.opSeen ctx via l).Canon := by
  unfold opSeen
  grind only [canon_crossFrom, canon_streamUse, canon_foldl]

theorem Block.canon_parkAttn (core ctx va acc) : (b.parkAttn core ctx va acc).Canon := by
  grind only [parkAttn, canon_modCore, canon_emitCtx]

theorem Block.canon_opFailed (ctx via e) : (b.opFailed ctx via e).Canon := by
  grind only [opFailed, canon_modCtx, canon_tracePoison, canon_grantDenied, canon_hostError, canon_delivered]

theorem Block.canon_putEnt (ctx f r i l e) : (b.putEnt ctx f r i l e).1.Canon := by
  grind only [putEnt, canon_opWrite]

theorem Block.canon_floeEach (f : Block → Nat → Nat → FloeRes) (hf : ∀ b i l q, b.Canon → f b i l = q → q.1.Canon) (idx) :
    (floeEach f b idx).1.Canon := by
  refine canon_foldl_fst _ (fun st il hst => ?_) _ _ h
  split
  · exact hst
  · exact hf _ _ _ _ hst rfl

theorem Block.canon_putLen (ctx f s len stamp) : (b.putLen ctx f s len stamp).1.Canon := by
  rw [putLen]
  split
  · exact h
  · exact canon_opWrite h ..

theorem Block.canon_setLen (ctx f s len) : (b.setLen ctx f s len).1.Canon :=
  canon_putLen (canon_stamp h ..) ..

theorem Block.canon_floeTrace (event ctx s i l hi) : (b.floeTrace event ctx s i l hi).Canon := by
  grind only [floeTrace, canon_emitCtx]

theorem Block.canon_commitEnt (ctx f r s w i l) : (b.commitEnt ctx f r s w i l).1.Canon := by
  generalize hq : b.commitEnt ctx f r s w i l = q
  rw [commitEnt] at hq
  split at hq
  · exact hq ▸ h
  · split at hq
    · exact hq ▸ h
    · extract_lets p at hq
      have hp : p.1.Canon := canon_putEnt h ..
      split at hq
      · exact hq ▸ canon_floeTrace hp ..
      · exact hq ▸ hp

theorem Block.canon_commitSeq (ctx f s) : (b.commitSeq ctx f s).1.Canon := by
  generalize hq : b.commitSeq ctx f s = q
  rw [commitSeq] at hq
  split at hq
  · exact hq ▸ h
  · next r _ =>
    have hst (w idx) := canon_floeEach h (fun b i l => b.commitEnt ctx f r s w i l) (fun _ _ _ _ hb hq => hq ▸ canon_commitEnt hb ..) idx
    extract_lets w st fab sb p at hq
    have hp : p.1.Canon := canon_putLen (canon_stamp (hst ..) ..) ..
    split at hq
    · exact hq ▸ hst ..
    · split at hq
      · exact hq ▸ hp
      · exact hq ▸ canon_emitAt hp ..

theorem Block.canon_floeCommit (ctx) : (b.floeCommit ctx).1.Canon := by
  rw [floeCommit]
  split
  · exact h
  · extract_lets r
    have hr : r.1.Canon := by
      refine canon_foldl_fst _ (fun st s hst => ?_) _ (b, none) h
      generalize hc : commitSeq st.1 ctx _ s = c
      have hc : c.1.Canon := hc ▸ canon_commitSeq hst ..
      obtain ⟨c, _ | e⟩ := c
      · exact hc
      · exact canon_opFailed hc ..
    exact canon_modCtx hr ctx fun x => { x with appends := [] }

theorem Block.canon_floeDiscard (ctx) : (b.floeDiscard ctx).Canon := by
  grind only [floeDiscard, canon_modCtx, canon_floeTrace, canon_foldl]

theorem Block.canon_floeRefused : (b.floeRefused).1.Canon := h

@[simp] theorem Block.canon_floeInit (ctx f p) : (b.floeInit ctx f p).1.Canon := by
  rw [floeInit]
  grind only [canon_floeRefused, canon_opWrite, canon_stamp]

@[simp] theorem Block.canon_floeBind (ctx f r p) : (b.floeBind ctx f r p).1.Canon := by
  rw [floeBind]
  grind only [canon_floeRefused, canon_foldl_fst, canon_opWrite]

@[simp] theorem Block.canon_floeRelease (ctx f r p) : (b.floeRelease ctx f r p).1.Canon := by
  generalize hq : b.floeRelease ctx f r p = q
  rw [floeRelease] at hq
  split at hq
  · exact hq ▸ canon_floeRefused h
  · split at hq
    · exact hq ▸ h
    · extract_lets w at hq
      have hw : w.1.Canon := by
        refine canon_floeEach h _ (fun c i l q hc hq => ?_) _
        beta_reduce at hq
        split at hq
        · exact hq ▸ hc
        · extract_lets w at hq
          have hw : w.1.Canon := canon_putEnt hc ..
          split at hq
          · exact hq ▸ canon_floeTrace hw ..
          · exact hq ▸ hw
      split at hq
      · exact hq ▸ hw
      · exact hq ▸ canon_setLen hw ..

@[simp] theorem Block.canon_floeTruncate (ctx f r p) : (b.floeTruncate ctx f r p).1.Canon := by
  generalize hq : b.floeTruncate ctx f r p = q
  rw [floeTruncate] at hq
  split at hq
  · exact hq ▸ canon_floeRefused h
  · split at hq
    · exact hq ▸ h
    · extract_lets w at hq
      have hw : w.1.Canon := by
        refine canon_floeEach h _ (fun c i l q hc hq => ?_) _
        beta_reduce at hq
        split at hq
        · exact hq ▸ hc
        · extract_lets st w at hq
          have hw : w.1.Canon := canon_putEnt hc ..
          clear_value st
          split at hq
          · exact hq ▸ hc
          · split at hq
            · exact hq ▸ canon_floeTrace hw ..
            · exact hq ▸ hw
      split at hq
      · exact hq ▸ hw
      · exact hq ▸ canon_setLen hw ..

@[simp] theorem Block.canon_floeShare (ctx f r p) : (b.floeShare ctx f r p).1.Canon := by
  generalize hq : b.floeShare ctx f r p = q
  rw [floeShare] at hq
  split at hq
  · exact hq ▸ canon_floeRefused h
  · split at hq
    · exact hq ▸ h
    · extract_lets idx at hq
      split at hq
      · exact hq ▸ canon_floeRefused h
      · split at hq
        · exact hq ▸ h
        · exact hq ▸ h
        · next sr _ _ _ _ _ _ _ =>
          have hw (idx) := canon_floeEach h (fun b i l => match b.floeEnt ctx none f sr i l with
            | .error e => (b, some e)
            | .ok e => b.putEnt ctx f r i l e) (fun c i l q hc hq => by
              split at hq
              · exact hq ▸ hc
              · exact hq ▸ canon_putEnt hc ..) idx
          split at hq
          · exact hq ▸ hw _
          · exact hq ▸ canon_setLen (hw _) ..

theorem Block.canon_opWaits (c : Block) (ctx via e) (hc : b.opWaits ctx via e = some c) : c.Canon := by
  unfold opWaits at hc
  grind only [canon_snoopSend, canon_askTrans, canon_parkAttn]

theorem Block.canon_floeEnd (ctx seq r) (hr : r.1.Canon) : (b.floeEnd ctx seq r).Canon := by
  grind only [floeEnd, canon_finishEntry, canon_opWaits, canon_opFailed]

@[simp] theorem Block.canon_floeOp (ctx k work) (hw : ∀ c f r p, c.Canon → (work c f r p).1.Canon) : (b.floeOp ctx k work).Canon := by
  refine canon_ringTurn h _ _ _ fun c e hc => ?_
  dsimp only
  split
  · exact canon_finishEntry hc ..
  · split
    · exact hc
    · refine canon_feThrough hc _ _ _ _ _ (fun _ _ hb => canon_finishEntry hb ..) fun c p hc => ?_
      have hend (r : FloeRes) (hr : r.1.Canon) : (c.floeEnd ctx e.seq r).Canon := canon_floeEnd hc _ _ _ hr
      have hfin (st) := canon_finishEntry hc ctx e.seq st []
      split
      · exact hfin _
      · split
        · exact hc
        · split
          · exact hfin _
          · split
            · exact hend _ (hw _ _ _ _ hc)
            · split
              · exact hend (c, _) hc
              · split
                · exact hfin _
                · exact hend _ (hw _ _ _ _ (canon_opSeen hc ..))

end

end Sys2Proof.Machine
end

section
/-!
The canonical form through the vector units and attention.
-/
namespace Sys2Proof.Machine
open Block
set_option Elab.async false

section
variable {b : Block} (h : b.Canon)
include h

theorem Block.canon_noteAppend (ctx f p s w n) : (b.noteAppend ctx f p s w n).Canon := by
  grind only [noteAppend, canon_floeTrace, canon_foldl, canon_modCtx]

theorem Block.canon_writeRows (ctx via f r p s w n row) : (b.writeRows ctx via f r p s w n row).1.Canon := by
  refine canon_foldl_fst _ (fun st t hst => ?_) _ _ h
  split
  · exact hst
  · extract_lets c src
    split
    · exact hst
    · exact hst
    · refine canon_foldl_fst _ (fun st o hst => ?_) _ _ (canon_opSeen hst ..)
      split
      · exact hst
      · exact canon_opWrite hst ..

theorem Block.canon_attnEntry (ctx via f p t) : (b.attnEntry ctx via f p t).1.Canon := by
  rw [attnEntry]
  split
  · exact h
  · extract_lets x w
    split
    · exact h
    · split
      · exact h
      · split
        · exact h
        · split
          · exact h
          · exact canon_writeRows (canon_noteAppend h ..) ..

theorem Block.canon_attnUnit (ctx via f a u kept) : (b.attnUnit ctx via f a u kept).1.Canon := by
  rw [attnUnit]
  split
  · exact h
  · refine canon_foldl_fst _ (fun st i hst => ?_) _ _ (canon_opSeen h ..)
    split
    · exact hst
    · extract_lets t h
      split
      · exact hst
      · exact canon_opWrite hst ..

theorem Block.canon_attnRelease (ctx core) : (b.attnRelease ctx core).Canon := by
  grind only [attnRelease, canon_unparkAttn, canon_modCore, canon_iff]

theorem Block.canon_attnFail (ctx seq st layer s) : (b.attnFail ctx seq st layer s).Canon := by
  grind only [attnFail, canon_finishEntry, canon_poisonSeen, canon_modCtx, canon_emitCtx]

theorem Block.canon_attnFinish (ctx a) : (b.attnFinish ctx a).Canon := by
  grind only [attnFinish, canon_foldl, canon_attnRelease, canon_modCore, canon_finishEntry, canon_modCtx, canon_attnFail]

theorem Block.canon_attnDeal (ctx core seq) : (b.attnDeal ctx core seq).Canon := by
  grind only [attnDeal, canon_modCtx, canon_modCore]

theorem Block.canon_attnBegin (ctx f a) : (b.attnBegin ctx f a).Canon := by
  obtain ⟨entry, he⟩ : ∃ g, Block.attnEntry = g := ⟨_, rfl⟩
  have hentry (c : Block) (hc : c.Canon) (via t) : (entry c ctx via f a.block t).1.Canon := he ▸ canon_attnEntry hc ..
  have hc := canon_crossTo h (fabIsl (b.ctx ctx).part) (a.cores.map movIsl)
  rw [attnBegin, he]
  generalize hq : List.foldl (_ : Block × List (Except OpErr Nat) → List Byte → _) _ a.batch = r
  have hr : r.1.Canon := by
    rw [← hq]
    refine canon_foldl_fst _ (fun st t hst => ?_) _ _ hc
    exact hentry _ hst ..
  clear hq
  have hd : (r.2.foldl (fun b e => match e with | .error e => b.opFailed ctx (some (a.cores.headD 0)) e | .ok _ => b) r.1).Canon := by
    refine canon_foldl _ (fun _ _ hb => ?_) _ hr
    split
    · exact canon_opFailed hb ..
    · exact hb
  split
  · next hw =>
    obtain ⟨x, -, hx⟩ := List.exists_of_findSome?_eq_some hw
    split at hx
    · exact canon_opWaits hc _ _ _ _ hx
    · cases hx
  · dsimp only
    split
    · exact canon_attnFinish (canon_modCtx hd ..) ..
    · refine canon_foldl _ (fun _ _ hb => ?_) _ (canon_modCtx hd ..)
      grind only [canon_takeNext, canon_attnDeal]

theorem Block.canon_attnBatch (ctx f a go) (hgo : ∀ c a, c.Canon → (go c a).Canon) : (b.attnBatch ctx f a go).Canon := by
  grind only [attnBatch, canon_feThrough, canon_attnFail, canon_modCtx]

@[simp] theorem Block.canon_attn (ctx) : (b.attn ctx).Canon := by
  grind only [attn, canon_ringFree, canon_attnFail, canon_attnBegin, canon_attnBatch]

theorem Block.canon_unitEnds (ctx core a u s er) : (b.unitEnds ctx core a u s er).Canon := by
  grind only [unitEnds, canon_attnFinish, canon_attnDeal, canon_crossFront, canon_modCore, canon_unparkAttn, canon_modCtx]

theorem Block.canon_keepProj (ctx core f a p) (hp : b.keepProj ctx core f a = .ok p) : p.1.Canon := by
  unfold keepProj at hp
  grind only [canon_modCtx, canon_opSeen]

@[simp] theorem Block.canon_attnUnitDone (core) : (b.attnUnitDone core).Canon := by
  have hkeep := canon_keepProj h
  obtain ⟨keep, hk⟩ : ∃ k, b.keepProj = k := ⟨_, rfl⟩
  rw [attnUnitDone, hk]
  rw [hk] at hkeep
  split
  · exact h
  · extract_lets ctx via
    split
    · split
      · exact h
      · split
        · exact h
        · extract_lets s finish
          have hfin (c : Block) (r : FloeRes) (hc : c.Canon) (hr : r.1.Canon) : (finish c r).Canon := by
            unfold finish
            grind only [canon_unitEnds, canon_opWaits, canon_opFailed]
          obtain ⟨fin, hf⟩ : ∃ g, finish = g := ⟨_, rfl⟩
          rw [hf] at hfin ⊢
          split
          · exact hfin _ (b, _) h h
          · next hp =>
            have hp := hkeep _ _ _ _ _ hp
            exact hfin _ _ hp (canon_attnUnit hp ..)
    · exact h

end

end Sys2Proof.Machine
end

section
/-!
The canonical form through the steps, resets and the tile controllers.
-/
namespace Sys2Proof.Machine
open Block
set_option Elab.async false

section
variable {b : Block} (h : b.Canon)
include h

theorem Block.canon_dropEntry (ctx e st) : (b.dropEntry ctx e st).Canon := by
  grind only [dropEntry, canon_completeEntry, canon_modCtx]

theorem Block.canon_drained (ctx) : (b.drained ctx).Canon := by
  grind only [drained, canon_modCtx, canon_emitStep]

theorem Block.canon_drainN (ctx n) : (b.drainN ctx n).Canon := by
  induction n generalizing b with
  | zero => exact h
  | succ n ih =>
    unfold drainN
    grind only [canon_drained, canon_dropEntry]

theorem Block.canon_drainStep (ctx) : (b.drainStep ctx).Canon := by
  grind only [drainStep, canon_riseDone, canon_drainN]

theorem Block.canon_scrubCore (core ctx) : (b.scrubCore core ctx).Canon := by
  grind only [scrubCore, canon_modCore]

theorem Block.canon_emptyTqs (ctx) : (b.emptyTqs ctx).Canon := by
  grind only [emptyTqs, canon_modPart]

theorem Block.canon_scrubAll (ctx) : (b.scrubAll ctx).Canon := by
  grind only [scrubAll, canon_emptyTqs, canon_scrubCore, canon_foldl, canon_crossTo, canon_floeDiscard]

theorem Block.canon_endKids (a) : (b.endKids a).Canon := by
  grind only [endKids, canon_foldl, canon_crossFront, canon_modCore, canon_cross, canon_emit]

theorem Block.canon_dropKernels (ctx seq) : (b.dropKernels ctx seq).Canon := by
  grind only [dropKernels, canon_modCore, canon_foldl]

theorem Block.canon_endEntries (ctx seqs) : (b.endEntries ctx seqs).Canon := by
  grind only [endEntries, canon_modCtx, canon_finishEntry, canon_dropKernels, canon_foldl]

theorem Block.canon_settleStep (ctx ended endSt) : (b.settleStep ctx ended endSt).Canon := by
  grind only [settleStep, canon_modCtx, canon_drainStep]

theorem Block.canon_closeEntries (ctx p st) : (b.closeEntries ctx p st).Canon := by
  grind only [closeEntries, canon_dropEntry, canon_foldl]

theorem Block.canon_endScope (a) : (b.endScope a).Canon := by
  grind only [endScope, canon_riseDone, canon_settleStep, canon_closeEntries, canon_dropKernels, canon_foldl, canon_scrubAll]

theorem Block.canon_finishAbort (a) : (b.finishAbort a).Canon := by
  grind only [finishAbort, canon_launchDone, canon_foldl, canon_scrubCore, canon_attnRelease, canon_iff, canon_emitStep, canon_endKids,
    canon_endEntries, canon_endScope]

theorem Block.canon_nested (ctx) : (b.nested ctx).Canon := by
  grind only [nested, canon_finishEntry]

theorem Block.canon_openStep (ctx) : (b.openStep ctx).Canon := by
  grind only [openStep, canon_nested, canon_modCtx, canon_emitStep]

theorem Block.canon_lateAtOnce (ctx e) : (b.lateAtOnce ctx e).Canon := by
  grind only [lateAtOnce, canon_drainStep, canon_dropEntry, canon_scrubAll, canon_retireGroups, canon_emitStep, canon_modCtx]

@[simp] theorem Block.canon_stepBegin (ctx) : (b.stepBegin ctx).Canon := by
  grind only [stepBegin, canon_ringTurn, canon_openStep, canon_modCtx, canon_lateAtOnce, canon_finishEntry, canon_nested]

theorem Block.canon_commitStep (ctx e) : (b.commitStep ctx e).Canon := by
  grind only [commitStep, canon_riseDone, canon_modCtx, canon_closeEntries, canon_floeCommit, canon_retireGroups, canon_emitStep]

@[simp] theorem Block.canon_stepEnd (ctx) : (b.stepEnd ctx).Canon := by
  refine canon_ringTurn h _ _ _ fun c e hc => ?_
  dsimp only
  split
  · exact canon_finishEntry hc ..
  · split
    · exact hc
    · split
      · exact canon_dropStep hc ..
      · split
        · exact canon_finishEntry hc ..
        · split
          · next hw =>
            obtain ⟨x, -, hx⟩ := Option.bind_eq_some_iff.mp hw
            exact canon_opWaits hc _ _ _ _ hx
          · exact canon_commitStep hc ..
  · exact hc

theorem Block.canon_modChan (ch f) : (b.modChan ch f).Canon := by
  grind only [modChan, canon_iff]

theorem Block.canon_scrubTo (ch line) : (b.scrubTo ch line).Canon := by
  grind only [scrubTo, canon_emit, canon_modChan]

@[simp] theorem Block.canon_dramPatrolScrub (ch line f) : (b.dramPatrolScrub ch line f).Canon := by
  grind only [dramPatrolScrub, canon_scrubTo, canon_emit, canon_modPart, canon_modChan, canon_iff]

@[simp] theorem Block.canon_scratchpadPatrolSweep (core tile g f) : (b.scratchpadPatrolSweep core tile g f).Canon := by
  grind only [scratchpadPatrolSweep, canon_emit, canon_modPart, canon_modCore]

theorem Block.canon_resetTrace (event part trigger) : (b.resetTrace event part trigger).Canon := by
  grind only [resetTrace, canon_emit]

theorem Block.canon_resetCtx (ctx) : (b.resetCtx ctx).Canon := by
  grind only [resetCtx, canon_riseDone, canon_settleStep, canon_modCtx, canon_closeEntries, canon_floeDiscard, canon_retireStep]

theorem Block.canon_escalateOps (part ids) : (b.escalateOps part ids).Canon := by
  grind only [escalateOps, canon_foldl, canon_mbNotice, canon_revoke, canon_modMbox, canon_mbReply]

theorem Block.canon_dropRecords (part) : (b.dropRecords part).Canon := by
  grind only [dropRecords, canon_traceDrop, canon_foldl, canon_setRing, canon_iff]

theorem Block.canon_resetHub (part) : (b.resetHub part).Canon := by
  grind only [resetHub, canon_iff, canon_modFaults, canon_unpark, canon_foldl]

theorem Block.canon_resetStores (part) : (b.resetStores part).Canon := by
  grind only [resetStores, canon_iff, canon_modFirn]

theorem Block.canon_takeKeys (part) : (b.takeKeys part).Canon := by
  grind only [takeKeys, canon_iff, canon_modPart, canon_draw]

theorem Block.canon_clearNew (part) : (b.clearNew part).Canon := by
  grind only [clearNew, canon_modPart, canon_foldl, canon_modChan, canon_dramClear]

theorem Block.canon_newKeys (part) : (b.newKeys part).Canon := by
  grind only [newKeys, canon_clearNew, canon_takeKeys]

@[simp] theorem Block.canon_rimLog (code part arg) : (b.rimLog code part arg).Canon := by
  grind only [rimLog, canon_log, canon_stamp]

theorem Block.canon_updateLost : b.updateLost.Canon := by
  grind only [updateLost, canon_rimLog, canon_iff, canon_draw]

theorem Block.canon_updateLostIn (part) : (b.updateLostIn part).Canon := by
  grind only [updateLostIn, canon_updateLost]

theorem Block.canon_resetBegin (part trigger) : (b.resetBegin part trigger).Canon := by
  grind only [resetBegin, canon_rerunWaiting, canon_newKeys, canon_modPart, canon_modCore, canon_foldl, canon_updateLostIn,
    canon_resetStores, canon_resetHub, canon_bank, canon_escalateOps, canon_modCtx, canon_resetCtx, canon_iff, canon_emitStep,
    canon_resetTrace, canon_dropRecords]

theorem Block.canon_zeroTile (part) : (b.zeroTile part).Canon := by
  grind only [zeroTile, canon_modPart, canon_modCore, canon_foldl]

theorem Block.canon_zeroIslands (part) : (b.zeroIslands part).Canon := by
  grind only [zeroIslands, canon_setIsland, canon_foldl]

theorem Block.canon_flushDone (ctx) : (b.flushDone ctx).Canon := by
  unfold flushDone
  extract_lets x r
  have hr : r.1.Canon := by
    refine canon_foldl_fst _ (fun r w hr => ?_) _ (b, true) h
    grind only [canon_raiseVector, canon_hostPut]
  exact canon_modCtx hr ..

theorem Block.canon_endCtx (ctx) : (b.endCtx ctx).Canon := by
  grind only [endCtx, canon_setCtx, canon_setMbox, canon_dropContext, canon_releaseRanges, canon_foldl, canon_closeWindows,
    canon_hostPut, canon_flushDone, canon_iff]

theorem Block.canon_opRest (o) : (b.opRest o).Canon := by
  grind only [opRest, canon_endCtx, canon_releaseCore, canon_reassign, canon_revoke]

theorem Block.canon_afterOps (part) : (b.afterOps part).Canon := by
  grind only [afterOps, canon_mbNotice, canon_opRest, canon_modMbox, canon_foldl]

theorem Block.canon_disable (part perm) : (b.disable part perm).Canon := by
  grind only [disable, canon_modelState, canon_foldl, canon_rerunWaiting, canon_zeroTile, canon_dropRecords, canon_endCtx,
    canon_afterOps, canon_modPart, canon_updateLostIn, canon_resetStores, canon_resetHub, canon_iff, canon_resetCtx, canon_resetTrace]

theorem Block.canon_removeAll : b.removeAll.Canon := by
  grind only [removeAll, canon_modCtx, canon_foldl, canon_finishRemoval]

theorem Block.canon_zeroEnd : b.zeroEnd.Canon := by
  grind only [zeroEnd, canon_mbFinish, canon_iff, canon_removeAll]

theorem Block.canon_serveAgain (part) : (b.serveAgain part).Canon := by
  grind only [serveAgain, canon_mbDrain, canon_sendDone, canon_foldl, canon_rerunWaiting, canon_afterOps, canon_resetTrace, canon_modCtx,
    canon_modPart]

theorem Block.canon_resumeWalks (part) : (b.resumeWalks part).Canon := by
  grind only [resumeWalks, canon_foldl, canon_modCore]

@[simp] theorem Block.canon_partitionResetEnd (part) : (b.partitionResetEnd part).Canon := by
  grind only [partitionResetEnd, canon_zeroEnd, canon_disable, canon_resumeWalks, canon_serveAgain]

theorem Block.canon_failReset (part) : (b.failReset part).Canon := by
  grind only [failReset, canon_zeroEnd, canon_disable, canon_modPart]

@[simp] theorem Block.canon_heartbeat (part) : (b.heartbeat part).Canon := by
  grind only [heartbeat, canon_modPart]

@[simp] theorem Block.canon_controlUncorrectable (part) : (b.controlUncorrectable part).Canon := by
  grind only [controlUncorrectable, canon_resetBegin, canon_resetTrace]

theorem Block.canon_abortOver (id) : (b.abortOver id).Canon := by
  grind only [abortOver, canon_foldl, canon_mbFinish, canon_opRest, canon_modMbox]

@[simp] theorem Block.canon_abortDone (id) : (b.abortDone id).Canon := by
  grind only [abortDone, canon_abortOver, canon_foldl, canon_finishAbort]

@[simp] theorem Block.canon_doorbellWrite (ctx v) : (b.doorbellWrite ctx v).Canon := by
  grind only [doorbellWrite, canon_emitCtx, canon_modCtx]

theorem Block.canon_ringGap (ctx found) : (b.ringGap ctx found).Canon := by
  grind only [ringGap, canon_mbNotice, canon_emitCtx, canon_modCtx]

theorem Block.canon_ringLost (ctx addr) : (b.ringLost ctx addr).Canon := by
  grind only [ringLost, canon_faultNotice, canon_modCtx]

theorem Block.canon_fetchSlot (ctx) : (b.fetchSlot ctx).Canon := by
  grind only [fetchSlot, canon_ringLost, canon_modCtx, canon_ringGap, canon_emitCtx, canon_hostRead]

theorem Block.canon_fetchN (ctx first n) : (b.fetchN ctx first n).Canon := by
  induction n generalizing b first with
  | zero => exact h
  | succ n ih =>
    unfold fetchN
    grind only [canon_fetchSlot]

@[simp] theorem Block.canon_ringFetch (ctx) : (b.ringFetch ctx).Canon := by
  grind only [ringFetch, canon_modCtx, canon_drainStep, canon_nested, canon_emitCtx, canon_fetchN, canon_cross]

theorem Block.canon_dispatched (ctx e) : (b.dispatched ctx e).Canon := by
  grind only [dispatched, canon_emitCtx, canon_modCtx]

theorem Block.canon_dispatchAttn (ctx e) : (b.dispatchAttn ctx e).Canon := by
  grind only [dispatchAttn, canon_modCtx, canon_dispatched, canon_feThrough]

@[simp] theorem Block.canon_dispatch (ctx) : (b.dispatch ctx).Canon := by
  grind only [dispatch, canon_finishEntry, canon_dispatchAttn, canon_dispatched]

theorem Block.canon_accessFailed (ctx seq detail st) : (b.accessFailed ctx seq detail st).Canon := by
  grind only [accessFailed, canon_finishEntry, canon_poisonSeen]

theorem Block.canon_launchWaits (ctx e cores hd w p) : (b.launchWaits ctx e cores hd w p).Canon := by
  grind only [launchWaits, canon_modCtx, canon_modCore, canon_foldl, canon_iff]

theorem Block.canon_launchImage (ctx e cores hd go) (hgo : ∀ c w, c.Canon → (go c w).Canon) :
    (b.launchImage ctx e cores hd go).Canon := by
  grind only [launchImage, canon_feThrough, canon_accessFailed, canon_finishEntry]

theorem Block.canon_launchParams (ctx e n go) (hgo : ∀ c w, c.Canon → (go c w).Canon) : (b.launchParams ctx e n go).Canon := by
  grind only [launchParams, canon_feThrough, canon_accessFailed]

@[simp] theorem Block.canon_launch (ctx) : (b.launch ctx).Canon := by
  grind only [launch, canon_ringTurn, canon_finishEntry, canon_feThrough, canon_accessFailed, canon_launchImage, canon_launchParams,
    canon_launchWaits]

theorem Block.canon_copyTaken (ctx core m e bd raw) : (b.copyTaken ctx core m e bd raw).Canon := by
  grind only [copyTaken, canon_finishEntry, canon_emit, canon_modCtx, canon_setCore, canon_cross, canon_iff]

@[simp] theorem Block.canon_copy (ctx) : (b.copy ctx).Canon := by
  grind only [copy, canon_ringFree, canon_finishEntry, canon_accessFailed, canon_copyTaken, canon_feThrough]

theorem Block.canon_setEvent (ctx n v) : (b.setEvent ctx n v).Canon := by
  grind only [setEvent, canon_modCtx]

@[simp] theorem Block.canon_eventRecord (ctx) : (b.eventRecord ctx).Canon := by
  grind only [eventRecord, canon_finishEntry, canon_setEvent, canon_ringTurn]

@[simp] theorem Block.canon_eventWait (ctx) : (b.eventWait ctx).Canon := by
  grind only [eventWait, canon_finishEntry, canon_ringTurn]

@[simp] theorem Block.canon_eventSet (page) : (b.eventSet page).Canon := by
  grind only [eventSet, canon_mbReply, canon_setEvent, canon_mbOp]

@[simp] theorem Block.canon_ctxCreate (page) : (b.ctxCreate page).Canon := by
  grind only [ctxCreate, canon_mbReply, canon_setCtx, canon_hostPut, canon_mbOp]

@[simp] theorem Block.canon_ctxDestroy (page) : (b.ctxDestroy page).Canon := by
  grind only [ctxDestroy, canon_mbReply, canon_mbBusy, canon_abortCtx, canon_modCtx, canon_mbOp]

theorem Block.canon_resumeWrites (ctx done rec_) : (b.resumeWrites ctx done rec_).1.Canon := by
  grind only [resumeWrites, canon_foldl_fst, canon_hostPut]

@[simp] theorem Block.canon_ctxResume (page) : (b.ctxResume page).Canon := by
  grind only [ctxResume, canon_mbReply, canon_resumeWrites, canon_raiseVector, canon_modCtx, canon_mbOp]

theorem Block.canon_askedAbort (c : Block) (ctx p page) (hc : b.askedAbort ctx p page = some c) : c.Canon := by
  unfold askedAbort at hc
  grind only [canon_acceptAbort, canon_dropStep, canon_abortCtx]

@[simp] theorem Block.canon_ctxAbort (page) : (b.ctxAbort page).Canon := by
  grind only [ctxAbort, canon_mbOp, canon_mbReply, canon_mbBusy, canon_askedAbort]

@[simp] theorem Block.canon_ctxInfo (page) : (b.ctxInfo page).Canon := by
  grind only [ctxInfo, canon_mbReply, canon_mbOp]

@[simp] theorem Block.canon_tuneOpen (page) : (b.tuneOpen page).Canon := by
  grind only [tuneOpen, canon_mbReply, canon_modCtx, canon_mbOp]

@[simp] theorem Block.canon_tuneClose (page) : (b.tuneClose page).Canon := by
  grind only [tuneClose, canon_mbReply, canon_modCtx, canon_mbOp]

theorem Block.canon_placeRing (pa log2 mode) : (b.placeRing pa log2 mode).1.Canon := by
  grind only [placeRing, canon_dramWrite, canon_hostPut]

@[simp] theorem Block.canon_traceRingConfig (page) : (b.traceRingConfig page).Canon := by
  grind only [traceRingConfig, canon_mbReply, canon_setRing, canon_emitEach, canon_traceMoved, canon_placeRing, canon_mbOp]

end

end Sys2Proof.Machine
end

section
/-!
The canonical form through the Rim controller, the security island and power.
-/
namespace Sys2Proof.Machine
open Block
set_option Elab.async false

section
variable {b : Block} (h : b.Canon)
include h

@[simp] theorem Block.canon_modRim (f) : (b.modRim f).Canon := by
  grind only [modRim, canon_iff]

@[simp] theorem Block.canon_rimOut (m) : (b.rimOut m).Canon := by
  grind only [rimOut, canon_modRim]

theorem Block.canon_rimOk (d) : (b.rimOk d).Canon := by
  grind only [rimOk, canon_rimOut]

theorem Block.canon_rimNo (reason) : (b.rimNo reason).Canon := by
  grind only [rimNo, canon_rimOut]

@[simp] theorem Block.canon_rimStatus : b.rimStatus.Canon := by
  grind only [rimStatus, canon_rimOk]

@[simp] theorem Block.canon_logInfo : b.logInfo.Canon := by
  grind only [logInfo, canon_rimOk]

@[simp] theorem Block.canon_logRead (seq) : (b.logRead seq).Canon := by
  grind only [logRead, canon_rimOk]

@[simp] theorem Block.canon_logProgrammed : b.logProgrammed.Canon := by
  grind only [logProgrammed, canon_modRim, canon_rimLog, canon_iff]

@[simp] theorem Block.canon_watchdogSet (mask ms) : (b.watchdogSet mask ms).Canon := by
  grind only [watchdogSet, canon_rimNo, canon_rimOk, canon_rimLog, canon_modPart, canon_foldl]

@[simp] theorem Block.canon_partitionReset (part) : (b.partitionReset part).Canon := by
  grind only [partitionReset, canon_rimNo, canon_resetBegin, canon_rimOk, canon_rimLog]

@[simp] theorem Block.canon_mgmtRingSet (inbound outbound vector) : (b.mgmtRingSet inbound outbound vector).Canon := by
  grind only [mgmtRingSet, canon_rimNo, canon_rimOk, canon_modRim]

theorem Block.canon_mgmtFail : b.mgmtFail.Canon := by
  grind only [mgmtFail, canon_modRim]

theorem Block.canon_mgmtWrite (p) : (b.mgmtWrite p).Canon := by
  grind only [mgmtWrite, canon_modRim, canon_hostPut, canon_mgmtFail]

theorem Block.canon_mgmtRead (n) : (b.mgmtRead n).Canon := by
  induction n generalizing b with
  | zero => exact h
  | succ n ih =>
    unfold mgmtRead
    grind only [canon_mgmtFail, canon_hostError, canon_modRim]

@[simp] theorem Block.canon_mgmtRingPoll : b.mgmtRingPoll.Canon := by
  grind only [mgmtRingPoll, canon_mgmtRead, canon_foldl, canon_mgmtWrite, canon_modRim, canon_raiseVector]

theorem Block.canon_clampSet (cause level) : (b.clampSet cause level).Canon := by
  grind only [clampSet, canon_setPoints, canon_foldl, canon_iff, canon_rimLog]

theorem Block.canon_threshold (id which reading) : (b.threshold id which reading).Canon := by
  grind only [threshold, canon_rimLog, canon_rimOut]

theorem Block.canon_dimmReading (part r) : (b.dimmReading part r).Canon := by
  grind only [dimmReading, canon_modChan, canon_emit, canon_foldl]

@[simp] theorem Block.canon_sensorSample (id reading isOpen) : (b.sensorSample id reading isOpen).Canon := by
  unfold sensorSample
  split
  · exact h
  · extract_lets thermal opn r old above new b₁ b₂ b₃ b₄ b₅ a
    have h₁ : b₁.Canon := canon_modRim h ..
    have h₂ : b₂.Canon := canon_ite (canon_rimLog h₁ ..) h₁
    have h₃ : b₃.Canon := canon_ite h₂ (canon_threshold h₂ ..)
    have h₄ : b₄.Canon := canon_ite h₃ (canon_threshold h₃ ..)
    have h₅ : b₅.Canon := canon_ite (canon_dimmReading h₄ ..) h₄
    exact canon_ite (canon_clampSet h₅ ..) h₅

@[simp] theorem Block.canon_clamp (cause level) : (b.clamp cause level).Canon := by
  grind only [clamp, canon_clampSet]

@[simp] theorem Block.canon_clampRelease (cause level) : (b.clampRelease cause level).Canon := by
  grind only [clampRelease, canon_clampSet]

@[simp] theorem Block.canon_pldmPlatform (r) : (b.pldmPlatform r).Canon := by
  unfold pldmPlatform
  grind only [canon_rimOut, canon_modRim]

theorem Block.canon_updateLog (stage reason) : (b.updateLog stage reason).Canon := by
  grind only [updateLog, canon_rimLog]

@[simp] theorem Block.canon_requestUpdate (len) : (b.requestUpdate len).Canon := by
  grind only [requestUpdate, canon_rimOut, canon_modRim]

theorem Block.canon_updateTo (u stage) : (b.updateTo u stage).Canon := by
  grind only [updateTo, canon_modRim, canon_updateLog]

theorem Block.canon_updateFails (u reason) : (b.updateFails u reason).Canon := by
  grind only [updateFails, canon_updateLog, canon_modRim]

@[simp] theorem Block.canon_updateStageEnd (image) : (b.updateStageEnd image).Canon := by
  grind only [updateStageEnd, canon_updateTo, canon_updateFails, canon_modRim, canon_rimOut, canon_updateLog]

theorem Block.canon_modSec (f) : (b.modSec f).Canon := by
  grind only [modSec, canon_iff]

theorem Block.canon_secLog (code arg) : (b.secLog code arg).Canon := by
  grind only [secLog, canon_log, canon_stamp, canon_cross]

theorem Block.canon_attestQueue (page tag nonce addr len) : (b.attestQueue page tag nonce addr len).Canon := by
  grind only [attestQueue, canon_modSec]

@[simp] theorem Block.canon_attest (page) : (b.attest page).Canon := by
  grind only [attest, canon_mbReply, canon_attestQueue, canon_mbOp]

theorem Block.canon_attestDeliver (a rep) : (b.attestDeliver a rep).Canon := by
  grind only [attestDeliver, canon_rimOut, canon_mbNotice, canon_bufWrite]

@[simp] theorem Block.canon_attestWritten : b.attestWritten.Canon := by
  grind only [attestWritten, canon_attestDeliver, canon_modSec, canon_feGate]

@[simp] theorem Block.canon_identityRead (page) : (b.identityRead page).Canon := by
  grind only [identityRead, canon_mbReply, canon_bufWrite, canon_mbOpAt]

@[simp] theorem Block.canon_challengeIssue (page) : (b.challengeIssue page).Canon := by
  grind only [challengeIssue, canon_mbReply, canon_modSec, canon_draw, canon_mbOpIf]

theorem Block.canon_zeroiseStores : b.zeroiseStores.Canon := by
  grind only [zeroiseStores, canon_buildEnd, canon_modFirn, canon_installFailed, canon_firnNotice, canon_firnOver]

@[simp] theorem Block.canon_vendorRequest (nonce) : (b.vendorRequest nonce).Canon := by
  grind only [vendorRequest, canon_rimOut, canon_attestQueue]

theorem Block.canon_modPower (f) : (b.modPower f).Canon := by
  grind only [modPower, canon_iff]

@[simp] theorem Block.canon_senseOpen (rail) : (b.senseOpen rail).Canon := by
  grind only [senseOpen, canon_rimLog, canon_modPower]

theorem Block.canon_startDisable (part) : (b.startDisable part).Canon := by
  grind only [startDisable, canon_disable, canon_modRim]

@[simp] theorem Block.canon_pmicFault (ch status) : (b.pmicFault ch status).Canon := by
  grind only [pmicFault, canon_emit, canon_rimLog, canon_modPower, canon_failReset, canon_resetBegin, canon_startDisable]

theorem Block.canon_channelTrained (ch why) : (b.channelTrained ch why).Canon := by
  grind only [channelTrained, canon_emit, canon_modChan]

@[simp] theorem Block.canon_trainDone (ch ok) : (b.trainDone ch ok).Canon := by
  grind only [trainDone, canon_channelTrained, canon_startDisable, canon_modChan, canon_emit, canon_clearNew, canon_failReset]

theorem Block.canon_stepEnds (n ok next) : (b.stepEnds n ok next).Canon := by
  grind only [stepEnds, canon_modPower, canon_rimLog]

theorem Block.canon_advanceFloor : b.advanceFloor.Canon := by
  grind only [advanceFloor, canon_secLog, canon_modSec]

theorem Block.canon_upTrain (ok) : (b.upTrain ok).Canon := by
  grind only [upTrain, canon_stepEnds, canon_newKeys, canon_foldl, canon_startDisable]

theorem Block.canon_checkModel (ok m) : (b.checkModel ok m).Canon := by
  grind only [checkModel, canon_dirCommit, canon_modFirn, canon_eraseExtents, canon_finishRemoval, canon_modelState, canon_tagRegions]

theorem Block.canon_upFirn (ok) : (b.upFirn ok).Canon := by
  grind only [upFirn, canon_stepEnds, canon_checkModel, canon_foldl, canon_draw, canon_modFirn]

theorem Block.canon_upGetis (ok) : (b.upGetis ok).Canon := by
  grind only [upGetis, canon_stepEnds, canon_startDisable, canon_foldl, canon_draw]

@[simp] theorem Block.canon_scalarOp (core op f) : (b.scalarOp core op f).Canon := by
  grind only [scalarOp, canon_issued, canon_issue]

@[simp] theorem Block.canon_ldp (core) : (b.ldp core).Canon := by
  grind only [ldp, canon_preciseStop, canon_issued, canon_issue]

@[simp] theorem Block.canon_lidx (core) : (b.lidx core).Canon := by
  grind only [lidx, canon_issue, canon_preciseStop, canon_issued]

end

end Sys2Proof.Machine
end

section
/-!
The canonical form through the time, the link states, start-up and zeroisation.
-/
namespace Sys2Proof.Machine
open Block
set_option Elab.async false

section
variable {b : Block} (h : b.Canon)
include h

theorem Block.canon_linkState (st w) : (b.linkState st w).Canon :=
  canon_emit (canon_modTreleb h _) ..

theorem Block.canon_timeState (st) : (b.timeState st).Canon := by
  grind only [timeState, canon_emit, canon_modTime]

theorem Block.canon_domainState (st) : (b.domainState st).Canon :=
  canon_mbNotice (canon_emit (canon_modDomain h _) ..) ..

theorem Block.canon_powerState (st c) : (b.powerState st c).Canon := by
  grind only [powerState, canon_rimLog, canon_iff]

theorem Block.canon_stopAll : b.stopAll.Canon := by
  grind only [stopAll, canon_updateLost, canon_iff]

theorem Block.canon_coldPackage : b.coldPackage.Canon := ⟨h.host, rfl, h.firn⟩

@[simp] theorem Block.canon_advanceTo (t) : (b.advanceTo t).Canon := by
  grind only [advanceTo, canon_iff]

@[simp] theorem Block.canon_creditTimeout (core ctx) : (b.creditTimeout core ctx).Canon := by
  grind only [creditTimeout, canon_modCore, canon_advanceTo]

@[simp] theorem Block.canon_snoopTimeout (line) : (b.snoopTimeout line).Canon := by
  grind only [snoopTimeout, canon_rerunWaiting, canon_emit, canon_modTreleb, canon_dropSnoop, canon_advanceTo, canon_iff]

@[simp] theorem Block.canon_completionTimeout (tag) : (b.completionTimeout tag).Canon := by
  grind only [completionTimeout, canon_modTreleb, canon_retireReq, canon_advanceTo, canon_reqFailed, canon_iff]

@[simp] theorem Block.canon_intrFailed (tag) : (b.intrFailed tag).Canon := by
  grind only [intrFailed, canon_intrDropped, canon_modTreleb, canon_retireReq, canon_advanceTo, canon_iff]

theorem Block.canon_trained (failed reversed) : (b.trained failed reversed).Canon := by
  grind only [trained, canon_modTreleb, canon_linkState, canon_iff]

@[simp] theorem Block.canon_linkTrainingEnd (failed reversed) : (b.linkTrainingEnd failed reversed).Canon := by
  grind only [linkTrainingEnd, canon_trained]

@[simp] theorem Block.canon_linkRetrain : b.linkRetrain.Canon := by
  grind only [linkRetrain, canon_linkState, canon_advanceTo]

@[simp] theorem Block.canon_recovery : b.recovery.Canon := by
  grind only [recovery, canon_linkState, canon_modTreleb, canon_iff]

theorem Block.canon_linkDown : b.linkDown.Canon := by
  grind only [linkDown, canon_rerunWaiting, canon_foldl, canon_reqFailed, canon_modPart, canon_modTreleb, canon_linkState]

@[simp] theorem Block.canon_recoveryEnd (failed reversed) : (b.recoveryEnd failed reversed).Canon := by
  grind only [recoveryEnd, canon_linkDown, canon_modTreleb, canon_trained]

@[simp] theorem Block.canon_hostNoResponse (stream) : (b.hostNoResponse stream).Canon := by
  grind only [hostNoResponse, canon_fault, canon_retireReq, canon_advanceTo, canon_frontAnswer]

@[simp] theorem Block.canon_faultBatchClose : b.faultBatchClose.Canon := by
  grind only [faultBatchClose, canon_closeBatch, canon_advanceTo]

@[simp] theorem Block.canon_encTimeout (i) : (b.encTimeout i).Canon := by
  grind only [encTimeout, canon_advanceTo, canon_iff]

@[simp] theorem Block.canon_groupExpired (i) : (b.groupExpired i).Canon := by
  grind only [groupExpired, canon_emit, canon_advanceTo, canon_iff]

@[simp] theorem Block.canon_retryResend (core reqId) : (b.retryResend core reqId).Canon := by
  grind only [retryResend, canon_foldl, canon_transmit, canon_modCore, canon_advanceTo]

@[simp] theorem Block.canon_remoteTimeout (core reqId) : (b.remoteTimeout core reqId).Canon := by
  grind only [remoteTimeout, canon_failDesc, canon_cross, canon_emit, canon_modCore, canon_advanceTo]

@[simp] theorem Block.canon_retryExhausted (port) : (b.retryExhausted port).Canon := by
  grind only [retryExhausted, canon_portDown, canon_advanceTo]

@[simp] theorem Block.canon_timeMessageSend : b.timeMessageSend.Canon := by
  grind only [timeMessageSend, canon_sendTime, canon_modTime, canon_advanceTo]

theorem Block.canon_timeAccept (port t) : (b.timeAccept port t).Canon := by
  grind only [timeAccept, canon_timeState, canon_modTime, canon_emit, canon_iff]

@[simp] theorem Block.canon_masterLost : b.masterLost.Canon := by
  grind only [masterLost, canon_domainState, canon_emit, canon_modTime, canon_timeState, canon_advanceTo]

@[simp] theorem Block.canon_timeDistribution : b.timeDistribution.Canon := by
  grind only [timeDistribution, canon_advanceTo, canon_iff]

@[simp] theorem Block.canon_portRetrain (port) : (b.portRetrain port).Canon := by
  grind only [portRetrain, canon_modPort, canon_advanceTo]

theorem Block.canon_noDomain : b.noDomain.Canon := canon_withWeave (canon_modDomain h _) _

theorem Block.canon_becomeMaster (p tag) : (b.becomeMaster p tag).Canon := by
  grind only [becomeMaster, canon_foldl, canon_sendAssign, canon_domainState, canon_timeState, canon_applyTopology, canon_modDomain,
    canon_iff]

theorem Block.canon_takeOver : b.takeOver.Canon := by
  grind only [takeOver, canon_foldl, canon_sendAssign, canon_domainState, canon_timeState, canon_modDomain]

@[simp] theorem Block.canon_domainReady : b.domainReady.Canon := by
  grind only [domainReady, canon_domainState, canon_modDomain, canon_advanceTo]

@[simp] theorem Block.canon_groupUnreachable : b.groupUnreachable.Canon := by
  grind only [groupUnreachable, canon_mbFinish, canon_modDomain, canon_advanceTo]

@[simp] theorem Block.canon_marginScan : b.marginScan.Canon := by
  grind only [marginScan, canon_modFirn, canon_advanceTo]

@[simp] theorem Block.canon_cadenceTick (ctx) : (b.cadenceTick ctx).Canon := by
  grind only [cadenceTick, canon_openStep, canon_advanceTo]

@[simp] theorem Block.canon_deadlinePassed (ctx) : (b.deadlinePassed ctx).Canon := by
  grind only [deadlinePassed, canon_dropStep, canon_advanceTo]

@[simp] theorem Block.canon_tileResetRelease (part) : (b.tileResetRelease part).Canon := by
  grind only [tileResetRelease, canon_emitEach, canon_modPart, canon_zeroIslands, canon_zeroTile, canon_dropRecords, canon_advanceTo]

@[simp] theorem Block.canon_resetFailed (part) : (b.resetFailed part).Canon := by
  grind only [resetFailed, canon_failReset, canon_advanceTo]

@[simp] theorem Block.canon_watchdog (part engine) : (b.watchdog part engine).Canon := by
  grind only [watchdog, canon_resetBegin, canon_modPart, canon_emit, canon_advanceTo]

@[simp] theorem Block.canon_heartbeatLost (part) : (b.heartbeatLost part).Canon := by
  grind only [heartbeatLost, canon_resetBegin, canon_resetTrace, canon_advanceTo]

@[simp] theorem Block.canon_halt_ (cause) : (b.halt_ cause).Canon := by
  grind only [halt_, canon_stopAll, canon_emit, canon_iff]

@[simp] theorem Block.canon_abortEscalate (id) : (b.abortEscalate id).Canon := by
  grind only [abortEscalate, canon_resetBegin, canon_advanceTo]

theorem Block.canon_startUp (why) : (b.startUp why).Canon := by
  grind only [startUp, canon_updateLost, canon_powerState, canon_coldPackage, canon_iff]

@[simp] theorem Block.canon_moduleReset (force) : (b.moduleReset force).Canon := by
  grind only [moduleReset, canon_rimNo, canon_startUp, canon_rimOk, canon_rimLog]

@[simp] theorem Block.canon_recoveryUpdate (image) : (b.recoveryUpdate image).Canon := by
  grind only [recoveryUpdate, canon_rimOut, canon_updateLog, canon_startUp, canon_rimLog, canon_modRim]

@[simp] theorem Block.canon_rimLockstep : b.rimLockstep.Canon := by
  grind only [rimLockstep, canon_modRim, canon_updateLost, canon_iff]

@[simp] theorem Block.canon_rimStart : b.rimStart.Canon := by
  grind only [rimStart, canon_rimLog, canon_modRim, canon_iff]

@[simp] theorem Block.canon_selfTestFails (test) : (b.selfTestFails test).Canon := by
  grind only [selfTestFails, canon_halt_, canon_draw, canon_modSec, canon_foldl, canon_modPart, canon_secLog, canon_iff]

@[simp] theorem Block.canon_drbgReseed (ok) : (b.drbgReseed ok).Canon := by
  grind only [drbgReseed, canon_selfTestFails, canon_modSec]

@[simp] theorem Block.canon_inputApplied (mv) : (b.inputApplied mv).Canon := by
  grind only [inputApplied, canon_startUp, canon_modPower]

@[simp] theorem Block.canon_powerOff : b.powerOff.Canon := by
  grind only [powerOff, canon_coldPackage, canon_iff]

@[simp] theorem Block.canon_protectedOff (cause) : (b.protectedOff cause).Canon := by
  grind only [protectedOff, canon_powerState, canon_modPower, canon_stopAll]

@[simp] theorem Block.canon_railFault (rail kind reading) : (b.railFault rail kind reading).Canon := by
  grind only [railFault, canon_modPower, canon_protectedOff, canon_rimLog]

theorem Block.canon_startHalt : b.startHalt.Canon := by
  grind only [startHalt, canon_modRim, canon_stopAll, canon_iff]

theorem Block.canon_upRom (ok) : (b.upRom ok).Canon := by
  grind only [upRom, canon_stepEnds, canon_modSec, canon_modRim, canon_startHalt, canon_secLog, canon_draw, canon_iff]

theorem Block.canon_upImage (ok) : (b.upImage ok).Canon := by
  grind only [upImage, canon_powerState, canon_stepEnds, canon_advanceFloor, canon_modRim, canon_rimLog, canon_iff]

theorem Block.canon_upRails (ok) : (b.upRails ok).Canon := by
  grind only [upRails, canon_powerState, canon_modPower, canon_stepEnds, canon_protectedOff, canon_rimLog, canon_draw]

theorem Block.canon_upHub (ok) : (b.upHub ok).Canon := by
  grind only [upHub, canon_startHalt, canon_stepEnds, canon_iff]

theorem Block.canon_upReady : b.upReady.Canon := by
  grind only [upReady, canon_mbDrain, canon_foldl, canon_setPoints, canon_modPower, canon_stepEnds, canon_rimLog, canon_modRim,
    canon_modPart, canon_iff]

@[simp] theorem Block.canon_powerUpStep (ok) : (b.powerUpStep ok).Canon := by
  grind only [powerUpStep, canon_upRom, canon_upImage, canon_upRails, canon_upHub, canon_upTrain, canon_upFirn, canon_upGetis,
    canon_upReady]

theorem Block.canon_tick : b.tick.Canon := by
  grind only [tick, canon_advanceTo]

theorem Block.canon_zeroise : b.zeroise.Canon := by
  refine canon_foldl _ (fun c p hc => ?_) _ (canon_advanceTo (canon_zeroiseStores (canon_withCtxs (canon_modSec h _) _)) _)
  grind only [canon_newKeys, canon_resetBegin, canon_modPart]

theorem Block.canon_zeroiseFor (page m kind) : (b.zeroiseFor page m kind).Canon := by
  grind only [zeroiseFor, canon_zeroise, canon_mbBusy, canon_zeroEnd, canon_modSec, canon_secLog, canon_iff]

theorem Block.canon_withToken (page m scope) (f : Block → Block) (hf : ∀ c : Block, c.Canon → (f c).Canon) :
    (b.withToken page m scope f).Canon := by
  grind only [withToken, canon_mbReply, canon_secLog, canon_bufMissed, canon_modSec]

@[simp] theorem Block.canon_zeroiseVolatile (page) : (b.zeroiseVolatile page).Canon := by
  grind only [zeroiseVolatile, canon_mbOpIf, canon_mbReply, canon_zeroiseFor]

@[simp] theorem Block.canon_zeroiseDecommission (page) : (b.zeroiseDecommission page).Canon := by
  grind only [zeroiseDecommission, canon_mbOpIf, canon_mbReply, canon_zeroiseFor, canon_withToken]

@[simp] theorem Block.canon_debugUnlock (page) : (b.debugUnlock page).Canon := by
  grind only [debugUnlock, canon_mbOpIf, canon_mbReply, canon_zeroiseFor, canon_withToken]

@[simp] theorem Block.canon_domainConfig (page) : (b.domainConfig page).Canon := by
  refine canon_mbOp h _ _ _ fun c m hc => ?_
  extract_lets p role tag d no yes plain resumes e
  have hno (r) : (no r).Canon := canon_mbReply hc ..
  have hyes (x : Block) (hx : x.Canon) : (yes x).Canon := canon_mbReply hx ..
  refine canon_ite (hno _) (canon_ite (hno _) (canon_ite (hno _) (canon_ite (hno _) (canon_ite (hno _) ?_))))
  clear_value no yes role
  split
  · exact canon_ite (hyes _ hc) (hyes _ (canon_domainState (canon_timeState (canon_modTime (canon_noDomain hc) _) _) _))
  · exact canon_ite (hyes _ hc) (hyes _ (canon_domainState (canon_timeState (canon_modDomain hc _) _) _))
  · exact hyes _ (canon_ite (canon_takeOver hc) (canon_becomeMaster hc ..))

@[simp] theorem Block.canon_timeMessage (port master tag t) : (b.timeMessage port master tag t).Canon := by
  grind only [timeMessage, canon_control, canon_domainState, canon_timeAccept, canon_sendTime]

@[simp] theorem Block.canon_assign (port a) : (b.assign port a).Canon := by
  grind only [assign, canon_control, canon_domainState, canon_sendJoined, canon_foldl, canon_sendAssign, canon_applyTopology,
    canon_modDomain, canon_iff]

theorem Block.canon_invalAnswered : b.invalAnswered.Canon := by
  grind only [invalAnswered, canon_startInval, canon_modTreleb]

@[simp] theorem Block.canon_invalidateDone : b.invalidateDone.Canon := by
  grind only [invalidateDone, canon_mbFinish, canon_invalTrace, canon_invalAnswered, canon_iff]

end

end Sys2Proof.Machine
end

section
/-!
Every step keeps the memories canonical.
-/
namespace Sys2Proof.Machine
open Block
set_option Elab.async false

theorem canon_exec (c : Instr) (s : State) (h : s.toBlock.Canon) : ∃ t, exec c s = .next t ∧ t.toBlock.Canon := by
  cases c <;> refine ⟨_, rfl, ?_⟩ <;> dsimp only
  -- The commands that give an operation what to go on with; every other one is an operation, or a choice of one.
  case floeOpInit => exact canon_floeOp h _ _ _ fun _ _ _ _ hc => canon_floeInit hc ..
  case floeOpBind => exact canon_floeOp h _ _ _ fun _ _ _ _ hc => canon_floeBind hc ..
  case floeOpRelease => exact canon_floeOp h _ _ _ fun _ _ _ _ hc => canon_floeRelease hc ..
  case floeOpTruncate => exact canon_floeOp h _ _ _ fun _ _ _ _ hc => canon_floeTruncate hc ..
  case floeOpShare => exact canon_floeOp h _ _ _ fun _ _ _ _ hc => canon_floeShare hc ..
  case write => exact canon_arrive h _ _ _ fun _ hc => canon_hubRun hc ..
  case final => exact canon_arrive h _ _ _ fun _ hc => canon_hubRun hc ..
  case atomic => exact canon_arrive h _ _ _ fun _ hc => canon_hubRun hc ..
  case enc => exact canon_arrive h _ _ _ fun _ hc => canon_hubRun hc ..
  case resp => exact canon_arrive h _ _ _ fun _ hc => canon_takeResp hc ..
  case timeReply => exact canon_control h _ _ fun _ hc => canon_modPort hc ..
  all_goals (repeat' split) <;> simp [h]

/-- Settles O59: every command's meaning keeps the memories canonical, and so does the tick. -/
theorem stepsKeepMemoriesCanonical : Obligations.StepsKeepMemoriesCanonical := by
  intro s t h hs
  unfold step at hs
  split at hs
  · cases hs
    exact canon_tick h
  · next c rest _ =>
    obtain ⟨u, hu, hc⟩ := canon_exec c { s with pending := rest } h
    cases hu.symm.trans hs
    exact hc

end Sys2Proof.Machine
end

section
/-!
A change of the block beside trace and log: what is done on a block that differs in trace and log alone, and what of it stays.
-/
namespace Sys2Proof.Machine

section
variable {b c d : Block}

/-- A change of what trace and log leave alone goes on beside them. -/
theorem Traced.map (h : Traced b c) (g : Block → Block) (hquiet : ∀ x : Block, (g x).quiet = g x.quiet := by exact fun _ => rfl)
    (hmuted : ∀ x : Block, (g x).muted = g x.muted := by exact fun _ => rfl)
    (hrings : ∀ x : Block, (g x).rings = x.rings := by exact fun _ => rfl) : Traced (g b) (g c) :=
  ⟨(hquiet c).trans ((congrArg g h.1).trans (hquiet b).symm),
    fun hp => (hmuted c).trans ((congrArg g (h.2 fun r => by have := hp r; rwa [Block.ring, hrings] at this)).trans (hmuted b).symm)⟩

/-- Trace and log beside a change that `f` hides. -/
theorem Traced.leaves_of (h : Traced d c) {f : Block → Block} (hquiet : f d.quiet = f b.quiet := by rfl)
    (hmuted : f d.muted = f b.muted := by rfl) (hrings : d.rings = b.rings := by rfl) : Leaves f b c :=
  ⟨(congrArg f h.1).trans hquiet, fun hp => (congrArg f (h.2 fun r => by rw [Block.ring, hrings]; exact hp r)).trans hmuted⟩

/-- More may be hidden. -/
theorem Leaves.comp {f : Block → Block} (h : Leaves f b c) (g : Block → Block) : Leaves (fun x => g (f x)) b c :=
  ⟨congrArg g h.1, fun hp => congrArg g (h.2 hp)⟩

/-- With no ring placed, no record reaches the DRAM tier. -/
theorem Traced.dram (h : Traced b c) (hp : ∀ r, (b.ring r).placed = none) : c.dram = b.dram := by
  have := congrArg (fun x => x.dram) (h.2 hp)
  exact this

theorem Traced.chan (h : Traced b c) (ch : Nat) : SMap.get ({} : Chan) c.dram.chans ch = SMap.get {} b.dram.chans ch := by
  rw [h.chans]

theorem Traced.part (h : Traced b c) (p : Nat) : c.part p = b.part p := by
  simp only [Block.part, h.parts]

end

end Sys2Proof.Machine
end

section
/-!
Patrols of the DRAM tier, the scratchpads and the tile buffers (R151, R263, R264).
-/
namespace Sys2Proof

theorem SSet.has_foldl_insert (l : List Nat) (m : SSet) (j : Nat) :
    SSet.has (l.foldl SSet.insert m) j = true ↔ j ∈ l ∨ SSet.has m j = true := by
  induction l generalizing m with
  | nil => simp
  | cons x l ih =>
    rw [List.foldl_cons, ih, SSet.has_insert, Bool.or_eq_true, decide_eq_true_eq, List.mem_cons]
    tauto

end Sys2Proof

namespace Sys2Proof.Machine

/-! ### A line of the DRAM tier (R263, R264) -/

/-- Where a channel's patrol goes on once it has read a line. -/
def scrubNext (line : Nat) : Nat := if line + 1 = chanLines then 0 else line + 1

/-- A channel's state in the DRAM tier. -/
def Block.chan (b : Block) (ch : Nat) : Chan := SMap.get {} b.dram.chans ch

section
variable (b : Block) (ch line : Nat) (f : Chan → Chan)

theorem Block.chan_modChan_same : (b.modChan ch f).chan ch = f (b.chan ch) := SMap.get_put_same ..

theorem Block.chan_modChan_other {c : Nat} (hc : c ≠ ch) : (b.modChan ch f).chan c = b.chan c := SMap.get_put_other _ _ _ _ _ hc

/-- A patrol that has read a line goes on behind it; beside that it only leaves records of passes. -/
theorem Block.scrubTo_traced : Traced (b.modChan ch fun c => { c with scrubAt := scrubNext line }) (b.scrubTo ch line) := by
  unfold scrubTo scrubNext
  have hpass (p : Prop) [Decidable p] (x : Block) (i e y n a : Nat) : Traced x (if p then x.emit i e y n a else x) := by
    split
    · exact emit_traced ..
    · exact .refl _
  split
  · exact ((hpass ..).map (·.modChan ch _)).trans (emit_traced ..)
  · exact (hpass ..).map (·.modChan ch _)

end

/-- A channel's patrol has read a line and found a correctable word, which is counted. -/
def Block.patrolCorrected (b : Block) (ch line : Nat) : Block :=
  ((b.modChan ch fun c => { c with scrubAt := scrubNext line }).modChan ch fun c => { c with corrected := c.corrected + 1 }).modPart (ch / 6)
    (·.countCorrected b.time.keeper)

/-- A channel's patrol has read an uncorrectable line, which is counted. -/
def Block.patrolUncorrectable (b : Block) (ch line : Nat) : Block :=
  ((b.modChan ch fun c => { c with scrubAt := scrubNext line }).modChan ch fun c => { c with uncorr := c.uncorr + 1 }).modPart (ch / 6)
    (fun t => { t with uncorr := t.uncorr + 1 })

/-- A line is stored poisoned: it fails no other check (R255). -/
def Block.poisonLine (b : Block) (l : Nat) : Block :=
  { b with dram := { b.dram with poison := SSet.insert b.dram.poison l, fails := SMap.set 0 b.dram.fails l 0 } }

section
variable {ch line : Nat} {b : Block} (hserves : ¬(24 ≤ ch ∨ chanLines ≤ line ∨ (!b.getisUp) = true ∨ (b.part (ch / 6)).state ≠ 0))
include hserves

theorem Block.dramPatrolScrub_clean : Traced (b.modChan ch fun c => { c with scrubAt := scrubNext line }) (b.dramPatrolScrub ch line .clean) := by
  rw [dramPatrolScrub, if_neg hserves]
  exact b.scrubTo_traced ch line

theorem Block.dramPatrolScrub_corrected : Traced (b.patrolCorrected ch line) (b.dramPatrolScrub ch line .corrected) := by
  have hscrub := b.scrubTo_traced ch line
  have hkeeper : (b.scrubTo ch line).time.keeper = b.time.keeper := by rw [hscrub.time]; rfl
  rw [dramPatrolScrub, if_neg hserves]
  refine Traced.trans ?_ (emit_traced ..)
  change Traced _ (((b.scrubTo ch line).modChan ch _).modPart (ch / 6) (·.countCorrected (b.scrubTo ch line).time.keeper))
  rw [hkeeper]
  exact (hscrub.map (·.modChan ch fun c => { c with corrected := c.corrected + 1 })).map (·.modPart (ch / 6) (·.countCorrected b.time.keeper))

theorem Block.dramPatrolScrub_uncorrectable : ∃ c, Traced (b.patrolUncorrectable ch line) c ∧
    Traced (c.poisonLine (lineOf ch line)) (b.dramPatrolScrub ch line .uncorrectable) := by
  rw [dramPatrolScrub, if_neg hserves]
  exact ⟨_, ((b.scrubTo_traced ch line).map (·.modChan ch fun c => { c with uncorr := c.uncorr + 1 })).map
    (·.modPart (ch / 6) fun t => { t with uncorr := t.uncorr + 1 }), emit_traced ..⟩

end

/-! What a patrol leaves of the parts and channels. -/

section
variable {b c d : Block} {ch : Nat}

/-- `c` agrees with `b` on the other channels and partitions. -/
def Block.PatrolFrame (b : Block) (ch : Nat) (c : Block) : Prop :=
  (∀ p, p ≠ ch / 6 → c.part p = b.part p) ∧ ∀ x, x ≠ ch → c.chan x = b.chan x

theorem Block.PatrolFrame.trans (h : b.PatrolFrame ch c) (h' : c.PatrolFrame ch d) : b.PatrolFrame ch d :=
  ⟨fun p hp => (h'.1 p hp).trans (h.1 p hp), fun x hx => (h'.2 x hx).trans (h.2 x hx)⟩

theorem Traced.patrolFrame (h : Traced b c) (ch : Nat) : b.PatrolFrame ch c := ⟨fun p _ => h.part p, fun x _ => h.chan x⟩

theorem Block.patrolFrame_modChan (b : Block) (ch : Nat) (f : Chan → Chan) : b.PatrolFrame ch (b.modChan ch f) :=
  ⟨fun _ _ => rfl, fun _ hx => b.chan_modChan_other ch f hx⟩

theorem Block.patrolFrame_modPart (b : Block) (ch : Nat) (f : Part → Part) : b.PatrolFrame ch (b.modPart (ch / 6) f) :=
  ⟨fun _ hp => b.part_setPart_other _ _ _ hp, fun _ _ => rfl⟩

/-- A patrol counts what it found of a line in its channel and its partition, beside going on behind the line. -/
theorem Block.patrolFrame_found (b : Block) (ch line : Nat) (f : Chan → Chan) (g : Part → Part) :
    b.PatrolFrame ch (((b.modChan ch fun c => { c with scrubAt := scrubNext line }).modChan ch f).modPart (ch / 6) g) :=
  ((b.patrolFrame_modChan ch _).trans (patrolFrame_modChan _ ch _)).trans (patrolFrame_modPart _ ch _)

theorem Block.chan_found (b : Block) (ch line : Nat) (f : Chan → Chan) (g : Part → Part) :
    (((b.modChan ch fun c => { c with scrubAt := scrubNext line }).modChan ch f).modPart (ch / 6) g).chan ch =
      f { b.chan ch with scrubAt := scrubNext line } :=
  (chan_modChan_same _ ch f).trans (congrArg f (chan_modChan_same b ch _))

end

/-- An uncorrectable line is poisoned, and no byte of the tier changes (R255). -/
theorem Block.dram_patrolUncorrectable {b c d : Block} {ch line l : Nat} (hc : Traced (b.patrolUncorrectable ch line) c)
    (hd : Traced (c.poisonLine l) d) (hp : ∀ r, (b.ring r).placed = none) : { d.dram with chans := [] } =
      { b.dram with chans := [], poison := SSet.insert b.dram.poison l, fails := SMap.set 0 b.dram.fails l 0 } := by
  rw [hd.dram (hc.rings hp)]
  change { c.dram with chans := [], poison := SSet.insert c.dram.poison l, fails := SMap.set 0 c.dram.fails l 0 } = _
  rw [hc.dram hp]
  rfl

/-! ### A granule of a scratchpad or a tile buffer (R151) -/

theorem mem_granuleWords_poisoned (g : Nat) (p : SSet) : ∀ w ∈ granuleWords g, SSet.has ((granuleWords g).foldl SSet.insert p) w = true :=
  fun w hw => (SSet.has_foldl_insert _ _ w).mpr (.inl hw)

section
variable {b : Block} {core : Nat} {tile : Bool} {g : Nat} (hup : b.coreUp core = true)
include hup

theorem Block.scratchpadPatrolSweep_clean : b.scratchpadPatrolSweep core tile g .clean = b := by
  simp [scratchpadPatrolSweep, hup]

theorem Block.scratchpadPatrolSweep_corrected : Traced (b.setPart (partOf core) ((b.part (partOf core)).countCorrected b.time.keeper))
    (b.scratchpadPatrolSweep core tile g .corrected) := by
  rw [scratchpadPatrolSweep, hup]
  exact emit_traced ..

theorem Block.scratchpadPatrolSweep_tile : b.scratchpadPatrolSweep core true g .uncorrectable = b.modPart (partOf core) fun t =>
    { t with uncorr := t.uncorr + 1, tilePoison := (granuleWords g).foldl SSet.insert t.tilePoison } := by
  rw [scratchpadPatrolSweep, hup]
  rfl

theorem Block.scratchpadPatrolSweep_core : b.scratchpadPatrolSweep core false g .uncorrectable =
    (b.modPart (partOf core) fun t => { t with uncorr := t.uncorr + 1 }).modCore core fun k =>
      { k with poison := (granuleWords g).foldl SSet.insert k.poison } := by
  rw [scratchpadPatrolSweep, hup]
  rfl

end

/-- Settles O27: a patrol does what it found on the block beside the traces it leaves (`Traced`), so parts, channels and lines
read as after the count alone. -/
theorem patrolsCountAndPoison : Obligations.PatrolsCountAndPoison := by
  unfold Obligations.PatrolsCountAndPoison
  refine ⟨fun ch line s hch hline hup hpart => ?_, fun core tile g s hup => ?_⟩
  · have hserves : ¬(24 ≤ ch ∨ chanLines ≤ line ∨ (!s.getisUp) = true ∨ (s.part (ch / 6)).state ≠ 0) := by
      simp [hup, hpart]
      omega
    have hexec (x : Finding) : exec (.dramPatrolScrub ch line x) s = s.run (·.dramPatrolScrub ch line x) := rfl
    refine ⟨answers_of_run (hexec _) ?_, answers_of_run (hexec _) ?_, answers_of_run (hexec _) ?_⟩
    · have h := Block.dramPatrolScrub_clean hserves
      exact ⟨(s.patrolFrame_modChan ch _).trans (h.patrolFrame ch), (h.chan ch).trans (s.chan_modChan_same ch _), h.part _, h.leaves_of⟩
    · have h := Block.dramPatrolScrub_corrected hserves
      exact ⟨(s.patrolFrame_found ch line _ _).trans (h.patrolFrame ch), (h.chan ch).trans (s.chan_found ch line _ _),
        (h.part _).trans (Block.part_setPart_same ..), h.leaves_of⟩
    · obtain ⟨c, hc, h⟩ := Block.dramPatrolScrub_uncorrectable hserves
      refine ⟨(s.patrolFrame_found ch line _ _).trans ((hc.patrolFrame ch).trans (h.patrolFrame ch)),
        (h.chan ch).trans ((hc.chan ch).trans (s.chan_found ch line _ _)), (h.part _).trans ((hc.part _).trans (Block.part_setPart_same ..)),
        Block.dram_patrolUncorrectable hc h, ?_⟩
      have hfound : Leaves (fun b => { b with parts := [], dram := {} }) s.toBlock c := hc.leaves_of
      exact hfound.trans_of_rings (fun _ => rfl) h.leaves_of
  · have hexec (x : Finding) : exec (.scratchpadPatrolSweep core tile g x) s = s.run (·.scratchpadPatrolSweep core tile g x) := rfl
    refine ⟨answers_of_run (hexec _) ?_, answers_of_run (hexec _) (Block.scratchpadPatrolSweep_corrected (g := g) hup),
      answers_of_run (hexec _) ?_⟩
    · rw [Block.scratchpadPatrolSweep_clean hup]
    · cases tile with
      | true =>
        rw [Block.scratchpadPatrolSweep_tile hup]
        refine ⟨?_, rfl, fun _ => rfl, nofun, ?_, fun _ _ => rfl, fun p hp => Block.part_setPart_other _ _ _ _ hp, rfl⟩
        · simpa [Block.modPart] using mem_granuleWords_poisoned g _
        · simp [Block.modPart]
      | false =>
        rw [Block.scratchpadPatrolSweep_core hup]
        refine ⟨?_, ?_, nofun, ?_, ?_, fun c hc => Block.core_setCore_other _ _ _ _ hc, fun p hp => Block.part_setPart_other _ _ _ _ hp, rfl⟩
        · simpa [Block.modPart, Block.modCore] using mem_granuleWords_poisoned g _
        all_goals simp [Block.modPart, Block.modCore]

end Sys2Proof.Machine
end

section
/-!
FINAL and ATOMIC of a mover: what goes before the flag, the flag that lands and the request that is sent (R167, R180).
-/
namespace Sys2Proof.Machine

/-! ### One mover -/

theorem Mover.mem_modDesc {v : Mover} {d : Desc} (hd : d ∈ v.queue) (f : Desc → Desc) : f d ∈ (v.modDesc d.id f).queue :=
  List.mem_map.mpr ⟨d, hd, if_pos rfl⟩

theorem Mover.mem_of_landHead {v : Mover} {d : Desc} (h : v.landHead = some d) : d ∈ v.queue := List.mem_of_find?_eq_some h

/-- Beside the stamps of islands, `c` is `b` with a stream of the core used: translations of the mover and issued bytes. -/
def Block.Streamed (b : Block) (core m : Nat) (c : Block) : Prop :=
  (∀ x, x ≠ core → c.core x = b.core x) ∧ { c with cores := [], islands := [] } = { b with cores := [], islands := [] } ∧
    { c.core core with movers := [], spent := [] } = { b.core core with movers := [], spent := [] } ∧
    ((c.core core).mover m).queue = ((b.core core).mover m).queue

section
variable {b c d : Block} {core m : Nat}

theorem Block.Streamed.trans (h : b.Streamed core m c) (h' : c.Streamed core m d) : b.Streamed core m d := by
  obtain ⟨hothers, hblock, hcore, hqueue⟩ := h
  obtain ⟨hothers', hblock', hcore', hqueue'⟩ := h'
  exact ⟨fun x hx => (hothers' x hx).trans (hothers x hx), hblock'.trans hblock, hcore'.trans hcore, hqueue'.trans hqueue⟩

theorem Block.Streamed.refl : b.Streamed core m b := ⟨fun _ _ => rfl, rfl, rfl, rfl⟩

theorem Block.streamed_modCore {f : Core → Core}
    (hframe : { f (b.core core) with movers := [], spent := [] } = { b.core core with movers := [], spent := [] })
    (hqueue : ((f (b.core core)).mover m).queue = ((b.core core).mover m).queue) : b.Streamed core m (b.modCore core f) := by
  refine ⟨fun x hx => b.core_setCore_other _ _ _ hx, rfl, ?_, ?_⟩
  · rw [modCore_eq, core_setCore_same, hframe]
  · rw [modCore_eq, core_setCore_same, hqueue]

theorem Block.streamed_cross (b : Block) (core m i j : Nat) : b.Streamed core m (b.cross i j) := by
  rw [b.cross_eq]
  exact ⟨fun _ _ => rfl, rfl, rfl, rfl⟩

theorem Block.streamed_shareSpend (b : Block) (core m cls n : Nat) : b.Streamed core m (b.shareSpend core cls n) := by
  unfold shareSpend
  split
  · exact .refl
  · exact streamed_modCore rfl rfl

theorem Block.streamed_touch (b : Block) (core m ctx va : Nat) : b.Streamed core m (b.touch core m ctx va) := by
  have hmover (f : Mover → Mover) (hf : ∀ v, (f v).queue = v.queue) : b.Streamed core m (b.modCore core fun k => k.modMover m f) :=
    streamed_modCore rfl (by rw [Core.modMover_eq, Core.mover_setMover_same, hf])
  unfold touch
  dsimp only
  split
  · exact hmover _ fun _ => rfl
  · split
    · exact hmover _ fun _ => rfl
    · exact .refl

theorem Block.streamed_touchRuns (b : Block) (core m ctx : Nat) (runs : List (Nat × Nat × Nat)) :
    b.Streamed core m (b.touchRuns core m ctx runs) :=
  List.foldlRecOn (motive := fun c : Block => b.Streamed core m c) runs _ .refl fun _ hc r _ => hc.trans (streamed_touch _ core m ctx r.1)

end

/-- The core on which the FINAL or ATOMIC of a mover has been sent. -/
def Core.flagSent (k : Core) (m : Nat) (d : Desc) (gs : List OutGroup) : Core :=
  { k.modMover m (·.modDesc d.id fun d => { d with sentOut := true }) with groups := gs }

/-! ### The flag of a local FINAL -/

/-- The flag of a descriptor has landed: it is acknowledged, and the mover has made progress. -/
def Block.flagLanded (b : Block) (core m : Nat) (d : Desc) : Block :=
  (b.modDesc core m d.id (fun d => { d with sentOut := true, acked := true })).movStep core m

section
variable (b : Block) (core m : Nat) (d : Desc)

theorem Block.core_flagLanded_other {x : Nat} (hx : x ≠ core) : (b.flagLanded core m d).core x = b.core x :=
  (core_setCore_other _ _ _ _ hx).trans (core_setCore_other _ _ _ _ hx)

theorem Block.core_flagLanded_same : (b.flagLanded core m d).core core =
    { (b.core core).modMover m (·.modDesc d.id (fun d => { d with sentOut := true, acked := true })) with
      movProg := SMap.put (b.core core).movProg m b.time.keeper } := by
  simp [flagLanded, movStep, modDesc]

/-- The descriptor whose flag has landed is in the mover's queue, sent and acknowledged. -/
theorem Block.exists_flagLanded {d : Desc} (hd : d ∈ ((b.core core).mover m).queue) :
    ∃ d' ∈ (((b.flagLanded core m d).core core).mover m).queue, d'.id = d.id ∧ d'.sentOut = true ∧ d'.acked = true := by
  refine ⟨{ d with sentOut := true, acked := true }, ?_, rfl, rfl, rfl⟩
  rw [core_flagLanded_same]
  have hmover : ({ (b.core core).modMover m (·.modDesc d.id (fun d => { d with sentOut := true, acked := true })) with
      movProg := SMap.put (b.core core).movProg m b.time.keeper } : Core).mover m =
        ((b.core core).mover m).modDesc d.id (fun d => { d with sentOut := true, acked := true }) := Core.mover_setMover_same ..
  rw [hmover]
  exact Mover.mem_modDesc hd _

end

theorem linkBytes_single (core a pa : Nat) : linkBytes core [(a, 8, pa)] = if acrossLink core pa then 8 else 0 := by
  cases hacross : acrossLink core pa <;> simp [linkBytes, hacross]

theorem Block.access_go {b : Block} {core m : Nat} {d : Desc} {ranges : List (Nat × Nat)} {wr : Bool} {runs : List (Nat × Nat × Nat)}
    (h : b.needs core m d.ctx ranges wr = .go runs) (n : Nat) (f : List (Nat × Nat × Nat) → Block) :
    b.access core m d ranges wr n f = f runs := by
  rw [access, h]

theorem Block.flagLocal_dram {b : Block} {core m pa : Nat} {d : Desc} (hsp : d.dstSp = 2) (hearlier : (b.core core).earlierLanded d = true)
    (hneeds : b.needs core m d.ctx [(d.dst, 8)] true = .go [(d.dst, 8, pa)]) (hspace : bits pa 51 48 = 0)
    (hshare : b.shareFree core 1 (linkBytes core [(d.dst, 8, pa)]) = true) : b.flagLocal core m d =
      ((((b.shareSpend core 1 (linkBytes core [(d.dst, 8, pa)])).touchRuns core m d.ctx [(d.dst, 8, pa)]).cross (movIsl core)
        (memIsl pa)).dramWrite (bits pa 47 0) ((d.raw.drop 8).take 8) []).flagLanded core m d := by
  rw [flagLocal]
  extract_lets _
  rw [if_neg (by simp [hearlier]), if_neg (by omega), access_go hneeds]
  simp only [List.head?_cons]
  rw [if_neg (by simpa using hspace), if_neg (by simp [hshare])]
  rfl

section
variable {b : Block} {core m : Nat} {d : Desc} (hup : b.coreUp core = true) (hm : m < 4)
  (hhead : ((b.core core).mover m).landHead = some d)
include hup hm hhead

theorem Block.finalSend_eq (hop : d.op ≠ 0) :
    b.finalSend core m = if d.dstSp = 3 then b.flagRemote core m d else b.flagLocal core m d := by
  rw [finalSend, if_neg (by simp [hup]; omega), hhead]
  exact if_neg hop

theorem Block.finalSend_tile (hop : d.op = 1) (hsp : d.dstSp = 1) (hearlier : (b.core core).earlierLanded d = true) :
    b.finalSend core m = (((b.cross (movIsl core) (fabIsl (partOf core))).modPart (partOf core) fun t =>
      t.tileWrite (((b.part (partOf core)).rangeOf d.ctx).1 + d.dst) ((d.raw.drop 8).take 8) []).flagLanded core m d) := by
  rw [finalSend_eq hup hm hhead (by omega), if_neg (by omega), flagLocal, if_neg (by simp [hearlier]), if_pos hsp]
  rfl

theorem Block.finalSend_dram {pa : Nat} (hop : d.op = 1) (hsp : d.dstSp = 2) (hearlier : (b.core core).earlierLanded d = true)
    (hneeds : b.needs core m d.ctx [(d.dst, 8)] true = .go [(d.dst, 8, pa)]) (hspace : bits pa 51 48 = 0)
    (hshare : b.shareFree core 1 (if acrossLink core pa then 8 else 0) = true) :
    ∃ c, b.Streamed core m c ∧ b.finalSend core m = (c.dramWrite (bits pa 47 0) ((d.raw.drop 8).take 8) []).flagLanded core m d := by
  refine ⟨(((b.shareSpend core 1 (linkBytes core [(d.dst, 8, pa)])).touchRuns core m d.ctx [(d.dst, 8, pa)]).cross (movIsl core) (memIsl pa)),
    ((b.streamed_shareSpend ..).trans (Block.streamed_touchRuns ..)).trans (Block.streamed_cross ..), ?_⟩
  rw [finalSend_eq hup hm hhead (by omega), if_neg (by omega)]
  exact flagLocal_dram hsp hearlier hneeds hspace (linkBytes_single core d.dst pa ▸ hshare)

/-- A FINAL whose group has been sent, or an ATOMIC, for another module: its request is live once the mover's stream is spent. -/
theorem Block.finalSend_remote (hop : d.op = 1 ∨ d.op = 2) (hsp : d.dstSp = 3) (htarget : b.targetOk d = true)
    (hgroup : d.op = 1 → (b.core core).groupSent d = true ∧ ((b.core core).live.filter (fun r => r.kind == 1)).length < 64)
    (hlive : (b.core core).live.length < 512) (hshare : b.shareFree core 2 8 = true) :
    ∃ c o gs, b.Streamed core m c ∧ o.dst = d.target ∧ b.finalSend core m = (c.modCore core (·.flagSent m d gs)).sendLive core
        ⟨(b.core core).reqCtr, d.ctx, d.op, m, d.id, 0, d.target, d.window, d.group, d.step, b.time.keeper, [o], none⟩ := by
  have hgo : ¬((d.op = 1 ∧ (!(b.core core).groupSent d ∨ 64 ≤ ((b.core core).live.filter (fun r => r.kind == 1)).length)) ∨
      512 ≤ (b.core core).live.length ∨ !b.shareFree core 2 8) := by
    rintro (⟨hfinal, hnot⟩ | hnot | hnot)
    · obtain ⟨hsent, hfinals⟩ := hgroup hfinal
      simp [hsent] at hnot
      omega
    · omega
    · simp [hshare] at hnot
  rw [finalSend_eq hup hm hhead (by omega), if_pos hsp, flagRemote]
  rw [if_neg (by simp [htarget]), if_neg hgo]
  extract_lets _ o c c'
  have hstream : b.Streamed core m c := (b.streamed_shareSpend ..).trans (Block.streamed_cross ..)
  have htime : c'.time = b.time := (congrArg (fun x : Block => x.time) hstream.2.1 :)
  rw [htime]
  exact ⟨c, o, _, hstream, rfl, rfl⟩

end

/-! ### Packets that are sent -/

/-- The block with other ports. -/
def Block.withPorts (b : Block) (ps : SMap Port) : Block := { b with weave := { b.weave with ports := ps } }

/-- A packet goes to a port, or is discarded and counted at one: beside trace, nothing but the ports differs. -/
theorem Block.sendOut_ports (b : Block) (o : Out) : ∃ ps, Traced (b.withPorts ps) (b.sendOut o) := by
  unfold sendOut
  extract_lets d
  split
  · exact ⟨b.weave.ports, .refl _⟩
  · split
    · exact ⟨_, .refl _⟩
    · exact ⟨_, emit_traced ..⟩

/-- A core with one more live request (R405). -/
def Core.withLive (k : Core) (r : LiveReq) : Core := { k with live := k.live ++ [r], reqCtr := (k.reqCtr + 1) % 65536 }

theorem Block.sendLive_single {b : Block} {core : Nat} {r : LiveReq} {o : Out} (hpackets : r.packets = [o]) (hdst : o.dst ≠ b.self) :
    ∃ ps, Traced ((b.modCore core (·.withLive r)).withPorts ps) (b.sendLive core r) := by
  have hself : ¬o.dst = (b.modCore core (·.withLive r)).self := hdst
  rw [sendLive, hpackets]
  change ∃ ps, Traced _ ((b.modCore core (·.withLive r)).transmit o)
  rw [transmit, if_neg hself]
  exact sendOut_ports _ o

theorem Block.Streamed.leaves {b c : Block} {core m : Nat} (h : b.Streamed core m c) : Leaves (fun b => { b with cores := [] }) b c := by
  obtain ⟨-, hblock, -, -⟩ := h
  exact ⟨(congrArg Block.quiet hblock :), fun _ => (congrArg Block.muted hblock :)⟩

/-! ### FINAL_SEND -/

section
variable {core m : Nat} {s : State} {d : Desc} (hup : s.coreUp core = true) (hm : m < 4)
  (hhead : ((s.core core).mover m).landHead = some d)
include hup hm hhead

theorem answers_finalSend_tile (hop : d.op = 1) (hsp : d.dstSp = 1) (hearlier : (s.core core).earlierLanded d = true) :
    Answers (.finalSend core m) s (fun t =>
      (t.part (partOf core)).tile = Mem.write (s.part (partOf core)).tile
        (((s.part (partOf core)).rangeOf d.ctx).1 + d.dst) ((d.raw.drop 8).take 8) ∧
      { t.part (partOf core) with tile := [], tilePoison := [] } = { s.part (partOf core) with tile := [], tilePoison := [] } ∧
      (∀ x, x ≠ partOf core → t.part x = s.part x) ∧
      { t.core core with movers := [], movProg := [] } = { s.core core with movers := [], movProg := [] } ∧
      (∀ c, c ≠ core → t.core c = s.core c) ∧ Leaves (fun b => { b with cores := [], parts := [] }) s.toBlock t.toBlock ∧
      ∃ d' ∈ ((t.core core).mover m).queue, d'.id = d.id ∧ d'.sentOut = true ∧ d'.acked = true) := by
  refine answers_of_run (f := (·.finalSend core m)) rfl ?_
  rw [Block.finalSend_tile hup hm hhead hop hsp hearlier]
  have hcross := s.toBlock.cross_traced (movIsl core) (fabIsl (partOf core))
  have hcores := s.toBlock.core_cross (movIsl core) (fabIsl (partOf core))
  generalize s.toBlock.cross (movIsl core) (fabIsl (partOf core)) = c at hcross hcores
  generalize hb : (c.modPart (partOf core) fun t =>
    t.tileWrite (((s.part (partOf core)).rangeOf d.ctx).1 + d.dst) ((d.raw.drop 8).take 8) []) = b
  have hcore : ∀ x, b.core x = s.core x := fun x => hb ▸ hcores x
  have hpart : b.part (partOf core) = (s.part (partOf core)).tileWrite (((s.part (partOf core)).rangeOf d.ctx).1 + d.dst)
      ((d.raw.drop 8).take 8) [] := by
    rw [← hb, Block.modPart_eq, Block.part_setPart_same, hcross.part]
  have hother : ∀ x, x ≠ partOf core → b.part x = s.part x := fun x hx => by
    rw [← hb, Block.modPart_eq, Block.part_setPart_other _ _ _ _ hx, hcross.part]
  have hleaves : Leaves (fun b => { b with cores := [], parts := [] }) s.toBlock b := by
    rw [← hb]
    exact (hcross.leaves _).trans_of_rings (fun _ => rfl) ⟨rfl, fun _ => rfl⟩
  have hframe := b.core_flagLanded_same core m d
  refine ⟨congrArg Part.tile hpart, ?_, hother, ?_, fun x hx => (b.core_flagLanded_other core m d hx).trans (hcore x),
    hleaves.trans_of_rings (fun _ => rfl) ⟨rfl, fun _ => rfl⟩,
    b.exists_flagLanded core m ((hcore core).symm ▸ Mover.mem_of_landHead hhead)⟩
  · exact congrArg (fun y : Part => { y with tile := [], tilePoison := [] }) hpart
  · rw [← hcore, hframe]
    rfl

theorem answers_finalSend_dram {pa : Nat} (hop : d.op = 1) (hsp : d.dstSp = 2) (hearlier : (s.core core).earlierLanded d = true)
    (hneeds : s.needs core m d.ctx [(d.dst, 8)] true = .go [(d.dst, 8, pa)]) (hspace : bits pa 51 48 = 0)
    (hshare : s.shareFree core 1 (if acrossLink core pa then 8 else 0) = true) :
    Answers (.finalSend core m) s (fun t => t.dram = (s.toBlock.dramWrite (bits pa 47 0) ((d.raw.drop 8).take 8) []).dram ∧
      { t.core core with movers := [], movProg := [], spent := [] } = { s.core core with movers := [], movProg := [], spent := [] } ∧
      (∀ c, c ≠ core → t.core c = s.core c) ∧ Leaves (fun b => { b with cores := [], dram := {} }) s.toBlock t.toBlock ∧
      ∃ d' ∈ ((t.core core).mover m).queue, d'.id = d.id ∧ d'.sentOut = true ∧ d'.acked = true) := by
  obtain ⟨c, hstream, hsend⟩ := Block.finalSend_dram hup hm hhead hop hsp hearlier hneeds hspace hshare
  refine answers_of_run (f := (·.finalSend core m)) rfl ?_
  rw [hsend]
  have hleaves : Leaves (fun b => { b with cores := [] }) s.toBlock c := hstream.leaves
  obtain ⟨hothers, hblock, hcore, hqueue⟩ := hstream
  have hdram : c.dram = s.dram := (congrArg (fun x : Block => x.dram) hblock :)
  have hframe := (c.dramWrite (bits pa 47 0) ((d.raw.drop 8).take 8) []).core_flagLanded_same core m d
  refine ⟨?_, ?_, fun x hx => (Block.core_flagLanded_other _ core m d hx).trans (hothers x hx), ?_,
    Block.exists_flagLanded _ core m (d := d) ?_⟩
  · show (c.dramWrite (bits pa 47 0) ((d.raw.drop 8).take 8) []).dram = _
    rw [Block.dramWrite, Block.dramWrite, hdram]
  · rw [hframe]
    exact (congrArg (fun y : Core => { y with movProg := [] }) hcore :)
  · have hhidden : Leaves (fun b => { b with cores := [], dram := {} }) s.toBlock c := hleaves.comp fun x => { x with dram := {} }
    exact hhidden.trans_of_rings (fun _ => rfl) ⟨rfl, fun _ => rfl⟩
  · exact hqueue.symm ▸ Mover.mem_of_landHead hhead

theorem answers_finalSend_remote (hop : d.op = 1 ∨ d.op = 2) (hsp : d.dstSp = 3) (htarget : s.targetOk d = true)
    (hgroup : d.op = 1 → (s.core core).groupSent d = true ∧ ((s.core core).live.filter (fun r => r.kind == 1)).length < 64)
    (hlive : (s.core core).live.length < 512) (hshare : s.shareFree core 2 8 = true) (hself : d.target ≠ s.self) :
    Answers (.finalSend core m) s (fun t =>
      (∃ r, (t.core core).live = (s.core core).live ++ [r] ∧ r.reqId = (s.core core).reqCtr ∧ r.ctx = d.ctx ∧ r.kind = d.op ∧
        r.mover = m ∧ r.desc = d.id ∧ r.target = d.target ∧ r.window = d.window ∧ r.group = d.group ∧
        r.step = d.step ∧ r.sentAt = s.time.keeper) ∧
      { t.core core with movers := [], live := [], reqCtr := 0, groups := [], spent := [] } =
        { s.core core with movers := [], live := [], reqCtr := 0, groups := [], spent := [] } ∧
      (∀ c, c ≠ core → t.core c = s.core c) ∧ Leaves (fun b => { b with cores := [], weave := {} }) s.toBlock t.toBlock ∧
      ∃ d' ∈ ((t.core core).mover m).queue, d'.id = d.id ∧ d'.sentOut = true) := by
  obtain ⟨c, o, gs, hstream, hdst, hsend⟩ := Block.finalSend_remote hup hm hhead hop hsp htarget hgroup hlive hshare
  refine answers_of_run (f := (·.finalSend core m)) rfl ?_
  rw [hsend]
  have hleaves : Leaves (fun b => { b with cores := [] }) s.toBlock c := hstream.leaves
  obtain ⟨hothers, hblock, hcore, hqueue⟩ := hstream
  generalize hr : LiveReq.mk .. = r
  obtain ⟨ps, htraced⟩ := Block.sendLive_single (b := c.modCore core (·.flagSent m d gs)) (core := core) (r := r) (o := o) (by rw [← hr])
    (by rw [hdst]; exact fun h => hself (h.trans (congrArg (fun x : Block => x.self) hblock :)))
  generalize (c.modCore core (·.flagSent m d gs)).sendLive core r = b at htraced
  have hsame : b.core core = ((c.core core).flagSent m d gs).withLive r :=
    (htraced.core core).trans ((Block.core_setCore_same ..).trans (congrArg (·.withLive r) (Block.core_setCore_same ..)))
  have hother (x : Nat) (hx : x ≠ core) : b.core x = s.core x :=
    (htraced.core x).trans ((Block.core_setCore_other _ _ _ _ hx).trans ((Block.core_setCore_other _ _ _ _ hx).trans (hothers x hx)))
  have hfields (y : Core) : { (y.flagSent m d gs).withLive r with movers := [], live := [], reqCtr := 0, groups := [], spent := [] } =
      { y with movers := [], live := [], reqCtr := 0, groups := [], spent := [] } := rfl
  refine ⟨⟨r, ?_, ?_⟩, ?_, hother, ?_, ⟨{ d with sentOut := true }, ?_, rfl, rfl⟩⟩
  · rw [hsame]
    exact (congrArg (fun y : Core => y.live ++ [r]) hcore :)
  · rw [← hr]
    exact ⟨rfl, rfl, rfl, rfl, rfl, rfl, rfl, rfl, rfl, rfl⟩
  · rw [hsame, hfields]
    exact (congrArg (fun y : Core => { y with live := [], reqCtr := 0, groups := [] }) hcore :)
  · have hhidden : Leaves (fun b => { b with cores := [], weave := {} }) s.toBlock c := hleaves.comp fun x => { x with weave := {} }
    exact hhidden.trans_of_rings (fun _ => rfl) htraced.leaves_of
  · rw [hsame]
    show _ ∈ (((c.core core).setMover m _).mover m).queue
    rw [Core.mover_setMover_same]
    exact Mover.mem_modDesc (hqueue.symm ▸ Mover.mem_of_landHead hhead) _

end

end Sys2Proof.Machine
end

section
/-!
DESC_DONE: the oldest descriptor of a mover leaves with its push, and with a COPY its entry (R185, R338).
-/
namespace Sys2Proof.Machine

/-! ### The descriptor leaves -/

/-- The block on which the oldest descriptor of a mover has left its queue. -/
def Block.descLeft (b : Block) (core m : Nat) (d : Desc) : Block :=
  ((b.emit (movIsl core) 0x0101 d.ctx d.step (d.arg m)).modCore core
    (·.modMover m fun v => { v with queue := v.queue.drop 1 })).movStep core m

section
variable (b : Block) (core m : Nat) (d : Desc)

theorem Block.core_descLeft : (b.descLeft core m d).core core =
    { (b.core core).modMover m fun v => { v with queue := v.queue.drop 1 } with
      movProg := SMap.put (b.core core).movProg m b.time.keeper } := by
  have htraced := b.emit_traced (movIsl core) 0x0101 d.ctx d.step (d.arg m)
  have hcore := htraced.core core
  have htime := htraced.time
  unfold descLeft
  generalize b.emit (movIsl core) 0x0101 d.ctx d.step (d.arg m) = c at hcore htime
  simp [movStep, hcore, htime]

theorem Block.descLeft_atCore : b.AtCore core (b.descLeft core m d) := by
  unfold descLeft movStep
  exact (((b.emit_traced ..).atCore core).setCore _).setCore _

theorem Block.parts_descLeft : (b.descLeft core m d).parts = b.parts :=
  (b.emit_traced (movIsl core) 0x0101 d.ctx d.step (d.arg m)).parts

theorem Block.ctxs_descLeft : (b.descLeft core m d).ctxs = b.ctxs :=
  (b.emit_traced (movIsl core) 0x0101 d.ctx d.step (d.arg m)).ctxs

theorem Block.mover_descLeft_same :
    ((b.descLeft core m d).core core).mover m = { (b.core core).mover m with queue := ((b.core core).mover m).queue.drop 1 } := by
  rw [core_descLeft]
  exact Core.mover_setMover_same ..

theorem Block.mover_descLeft_other {x : Nat} (hx : x ≠ m) :
    ((b.descLeft core m d).core core).mover x = (b.core core).mover x := by
  rw [core_descLeft]
  exact Core.mover_setMover_other _ _ _ _ hx

end

section
variable {b c : Block} {core m : Nat} {d : Desc} {rest : List Desc} (hup : b.coreUp core = true) (hm : m < 4)
  (hqueue : ((b.core core).mover m).queue = d :: rest) (hlanded : d.landed = true) (hpush : b.descPush core d = some c)
include hup hm hqueue hlanded hpush

theorem Block.descDone_eq : b.descDone core m =
    match ((c.descLeft core m d).core core).kernels.find? (fun x => x.kid == d.kid && x.isCopy) with
    | none => c.descLeft core m d
    | some ker => (((c.descLeft core m d).modCore core
        (fun k => { k with kernels := k.kernels.filter (fun x => x.kid != ker.kid) })).cross (movIsl core) (fabIsl (partOf core))).finishEntry
          ker.ctx ker.seq stOK [] := by
  rw [descDone, if_neg (by simp [hup]; omega), hqueue]
  dsimp only
  rw [if_neg (by simp [hlanded]), hpush]
  rfl

theorem Block.descDone_plain (hkernels : ∀ k ∈ (c.core core).kernels, k.kid = d.kid → k.isCopy = false) :
    b.descDone core m = c.descLeft core m d := by
  have hnone : ((c.descLeft core m d).core core).kernels.find? (fun x => x.kid == d.kid && x.isCopy) = none := by
    rw [core_descLeft]
    refine List.find?_eq_none.mpr fun x hx h => ?_
    simp only [Bool.and_eq_true, beq_iff_eq] at h
    rw [hkernels x hx h.1] at h
    exact absurd h.2 (by decide)
  rw [descDone_eq hup hm hqueue hlanded hpush, hnone]

end

section
variable {b : Block} {core : Nat} {d : Desc}

theorem Block.descPush_none (h : d.push = false) : b.descPush core d = some b := by
  simp [descPush, h]

theorem Block.descPush_some {bd : Binding} {l : List W32} (h : d.push = true) (hbind : (b.core core).bind? d.ctx = some bd)
    (hqueue : b.queueOf core bd d.qsel = some l) (hroom : l.length < 64) :
    b.descPush core d = some ((b.cross (movIsl core) (if d.qsel < 16 then arrIsl core else fabIsl (partOf core))).setQueue core bd d.qsel
      (l ++ [BitVec.ofNat 32 (fld d.raw 48 4)])) := by
  rw [descPush, if_neg (by simp [h]), hbind]
  dsimp only
  rw [hqueue]
  exact if_neg (by omega)

/-- A core's queue is stored in the core, a tile's in its partition. -/
theorem Block.setQueue_frame (b : Block) (core : Nat) (bd : Binding) (q : Nat) (l : List W32) :
    { (b.setQueue core bd q l).core core with hq := [] } = { b.core core with hq := [] } ∧
      Leaves (fun b => { b with cores := [], parts := [] }) b (b.setQueue core bd q l) := by
  unfold setQueue
  split
  · rw [modCore_eq, core_setCore_same]
    exact ⟨rfl, rfl, fun _ => rfl⟩
  · exact ⟨rfl, rfl, fun _ => rfl⟩

end

/-! ### The end of an entry outside a step -/

/-- Beside one context, Treleb, trace and log, nothing differs. -/
def Block.AtCtx (b : Block) (ctx : Nat) (c : Block) : Prop :=
  (∀ x, x ≠ ctx → c.ctx x = b.ctx x) ∧ c.cores = b.cores ∧ Leaves (fun b => { b with ctxs := [], treleb := {} }) b c

section
variable {b c d : Block} {ctx : Nat}

theorem Block.AtCtx.refl : b.AtCtx ctx b := ⟨fun _ _ => rfl, rfl, rfl, fun _ => rfl⟩

theorem Block.AtCtx.trans (h : b.AtCtx ctx c) (h' : c.AtCtx ctx d) : b.AtCtx ctx d := by
  obtain ⟨hctxs, hcores, hleaves⟩ := h
  obtain ⟨hctxs', hcores', hleaves'⟩ := h'
  exact ⟨fun x hx => (hctxs' x hx).trans (hctxs x hx), hcores'.trans hcores, hleaves.trans_of_rings (fun _ => rfl) hleaves'⟩

theorem Traced.atCtx (h : Traced b c) (ctx : Nat) : b.AtCtx ctx c :=
  ⟨fun x _ => by rw [Block.ctx, Block.ctx, h.ctxs], h.cores, h.leaves _⟩

theorem Block.atCtx_setCtx (b : Block) (ctx : Nat) (x : Ctx) : b.AtCtx ctx (b.setCtx ctx x) :=
  ⟨fun _ hy => b.ctx_setCtx_other ctx x _ hy, rfl, rfl, fun _ => rfl⟩

theorem Block.atCtx_raiseVector (b : Block) (ctx v : Nat) : b.AtCtx ctx (b.raiseVector v) := by
  unfold raiseVector
  split
  · exact .refl
  · exact ⟨fun _ _ => rfl, rfl, rfl, fun _ => rfl⟩

theorem Block.atCtx_sendDone (b : Block) (ctx : Nat) : b.AtCtx ctx (b.sendDone ctx) := by
  unfold sendDone
  extract_lets x
  split
  · exact .refl
  · split
    · exact .refl
    · split
      · exact .refl
      · split
        · exact (b.atCtx_raiseVector ..).trans (atCtx_setCtx ..)
        · exact ⟨fun _ hy => ctx_setCtx_other _ ctx _ _ hy, rfl, rfl, fun _ => rfl⟩

theorem Block.atCtx_riseDone (b : Block) (ctx : Nat) : b.AtCtx ctx (b.riseDone ctx) := by
  cases htop : ((b.ctx ctx).entries.takeWhile (fun e => e.state == .completed)).getLast? with
  | none =>
    rw [riseDone_of_none htop]
    exact .refl
  | some top =>
    rw [riseDone_of_some htop]
    exact (b.atCtx_setCtx ..).trans (atCtx_sendDone ..)

theorem Block.atCtx_completeEntry (b : Block) (ctx seq st : Nat) : b.AtCtx ctx (b.completeEntry ctx seq st) := by
  unfold completeEntry
  extract_lets x
  split
  · exact .refl
  · split
    · exact .refl
    · exact ((b.emitCtx_traced ..).atCtx ctx).trans (atCtx_setCtx ..)

/-- An entry that stands outside a step and is not held ends with the work of its own context. -/
theorem Block.atCtx_finishEntry {seq st : Nat} {e : Entry} {det : List Byte} (hentry : (b.ctx ctx).entry? seq = some e)
    (hheld : e.held = false) (hstep : (b.ctx ctx).inStep e = false) : b.AtCtx ctx (b.finishEntry ctx seq st det) := by
  unfold finishEntry
  extract_lets x
  rw [hentry]
  dsimp only
  split
  · exact .refl
  · rw [if_neg (by simp [x, hstep]), if_neg (by simp [x, hheld, hstep])]
    exact ((b.atCtx_setCtx ..).trans (atCtx_completeEntry ..)).trans (atCtx_riseDone ..)

end

/-! ### DESC_DONE -/

section
variable {core m : Nat} {s : State} {d : Desc} {rest : List Desc} (hup : s.coreUp core = true) (hm : m < 4)
  (hqueue : ((s.core core).mover m).queue = d :: rest) (hlanded : d.landed = true)
include hup hm hqueue hlanded

theorem answers_descDone (hpush : d.push = false) (hkernels : ∀ k ∈ (s.core core).kernels, k.kid = d.kid → k.isCopy = false) :
    Answers (.descDone core m) s (fun t => (t.core core).mover m = { (s.core core).mover m with queue := rest } ∧
      (∀ x, x ≠ m → (t.core core).mover x = (s.core core).mover x) ∧
      { t.core core with movers := [], movProg := [] } = { s.core core with movers := [], movProg := [] } ∧
      (∀ c, c ≠ core → t.core c = s.core c) ∧ Leaves (fun b => { b with cores := [] }) s.toBlock t.toBlock) := by
  refine answers_of_run (f := (·.descDone core m)) rfl ?_
  rw [Block.descDone_plain hup hm hqueue hlanded (Block.descPush_none hpush) hkernels]
  obtain ⟨hothers, hleaves⟩ := s.descLeft_atCore core m d
  refine ⟨?_, fun x hx => s.mover_descLeft_other core m d hx, ?_, hothers, hleaves⟩
  · rw [Block.mover_descLeft_same, hqueue]
    rfl
  · rw [Block.core_descLeft]
    rfl

theorem answers_descDone_push {bd : Binding} {l : List W32} (hpush : d.push = true) (hbind : (s.core core).bind? d.ctx = some bd)
    (hq : s.queueOf core bd d.qsel = some l) (hroom : l.length < 64)
    (hkernels : ∀ k ∈ (s.core core).kernels, k.kid = d.kid → k.isCopy = false) :
    Answers (.descDone core m) s (fun t => (t.core core).mover m = { (s.core core).mover m with queue := rest } ∧
      (∀ x, x ≠ m → (t.core core).mover x = (s.core core).mover x) ∧
      t.queueOf core bd d.qsel = some (l ++ [BitVec.ofNat 32 (fld d.raw 48 4)]) ∧
      (∀ bd' q, ¬ sameQueue bd.pos d.qsel bd'.pos q → t.queueOf core bd' q = s.queueOf core bd' q) ∧
      { t.core core with movers := [], movProg := [], hq := [] } = { s.core core with movers := [], movProg := [], hq := [] } ∧
      (∀ x, { t.part x with tqs := [] } = { s.part x with tqs := [] }) ∧
      (∀ c, c ≠ core → t.core c = s.core c) ∧ Leaves (fun b => { b with cores := [], parts := [] }) s.toBlock t.toBlock) := by
  have hdescPush := Block.descPush_some hpush hbind hq hroom
  have honly := onlyQueue_setQueue (ctx := d.ctx) hq (movIsl core) (if d.qsel < 16 then arrIsl core else fabIsl (partOf core))
    (l ++ [BitVec.ofNat 32 (fld d.raw 48 4)])
  have hcross := s.toBlock.cross_traced (movIsl core) (if d.qsel < 16 then arrIsl core else fabIsl (partOf core))
  have hframe := (s.toBlock.cross (movIsl core) (if d.qsel < 16 then arrIsl core else fabIsl (partOf core))).setQueue_frame core bd d.qsel
    (l ++ [BitVec.ofNat 32 (fld d.raw 48 4)])
  generalize s.toBlock.cross (movIsl core) (if d.qsel < 16 then arrIsl core else fabIsl (partOf core)) = b at hdescPush honly hcross hframe
  generalize b.setQueue core bd d.qsel (l ++ [BitVec.ofNat 32 (fld d.raw 48 4)]) = c at hdescPush honly hframe
  obtain ⟨hstored, hkept, hcores, hparts, -⟩ := honly
  obtain ⟨hcore, hsets⟩ := hframe
  rw [hcross.core] at hcore
  have hkernelsc : (c.core core).kernels = (s.core core).kernels := (congrArg (fun y : Core => y.kernels) hcore :)
  have hmovers (x : Nat) : (c.core core).mover x = (s.core core).mover x := (congrArg (fun y : Core => y.mover x) hcore :)
  refine answers_of_run (f := (·.descDone core m)) rfl ?_
  rw [Block.descDone_plain hup hm hqueue hlanded hdescPush (hkernelsc ▸ hkernels)]
  obtain ⟨hothers, hleaves⟩ := c.descLeft_atCore core m d
  have hcongr (y : Binding) (q : Nat) : (c.descLeft core m d).queueOf core y q = c.queueOf core y q :=
    Block.queueOf_congr (by rw [Block.core_descLeft]; rfl) (c.parts_descLeft core m d) y q
  refine ⟨?_, fun x hx => (c.mover_descLeft_other core m d hx).trans (hmovers x), (hcongr ..).trans hstored,
    fun y q hy => (hcongr y q).trans (hkept y q hy), ?_, fun x => ?_, fun x hx => (hothers x hx).trans (hcores x hx), ?_⟩
  · rw [Block.mover_descLeft_same, hmovers, hqueue]
    rfl
  · rw [Block.core_descLeft]
    exact (congrArg (fun y : Core => { y with movers := [], movProg := [] }) hcore :)
  · rw [← hparts x, Block.part, Block.parts_descLeft]
    rfl
  · have hstores : Leaves (fun b => { b with cores := [], parts := [] }) s.toBlock c := (hcross.leaves _).trans_of_rings (fun _ => rfl) hsets
    exact hstores.trans_of_rings (fun _ => rfl) (hleaves.comp fun x => { x with parts := [] })

theorem answers_descDone_copy {ker : Kernel} {e : Entry} (hpush : d.push = false)
    (hker : (s.core core).kernels.find? (fun x => x.kid == d.kid && x.isCopy) = some ker) (hentry : (s.ctx ker.ctx).entry? ker.seq = some e)
    (hunfinished : e.state ≠ .finished) (huncompleted : e.state ≠ .completed) (hheld : e.held = false)
    (hstep : (s.ctx ker.ctx).inStep e = false) :
    Answers (.descDone core m) s (fun t => ((t.core core).mover m).queue = rest ∧ t.Ended ker.ctx ker.seq stOK ∧
      (t.core core).kernels = (s.core core).kernels.filter (fun x => x.kid != ker.kid) ∧
      { t.core core with movers := [], movProg := [], kernels := [] } = { s.core core with movers := [], movProg := [], kernels := [] } ∧
      (∀ c, c ≠ core → t.core c = s.core c) ∧ (∀ x, x ≠ ker.ctx → t.ctx x = s.ctx x) ∧
      Leaves (fun b => { b with cores := [], ctxs := [], treleb := {} }) s.toBlock t.toBlock) := by
  refine answers_of_run (f := (·.descDone core m)) rfl ?_
  have hkernels : ((s.toBlock.descLeft core m d).core core).kernels.find? (fun x => x.kid == d.kid && x.isCopy) = some ker := by
    rw [Block.core_descLeft]
    exact hker
  rw [Block.descDone_eq hup hm hqueue hlanded (Block.descPush_none hpush), hkernels]
  dsimp only
  obtain ⟨hothers, hleaves⟩ := s.descLeft_atCore core m d
  have hcore := s.core_descLeft core m d
  have hctxs := s.ctxs_descLeft core m d
  generalize s.toBlock.descLeft core m d = b at hothers hleaves hcore hctxs
  generalize hc : (b.modCore core (fun k => { k with kernels := k.kernels.filter (fun x => x.kid != ker.kid) })).cross (movIsl core)
    (fabIsl (partOf core)) = c
  have hcross : Traced (b.modCore core (fun k => { k with kernels := k.kernels.filter (fun x => x.kid != ker.kid) })) c :=
    hc ▸ Block.cross_traced ..
  have hctx (x : Nat) : c.ctx x = s.ctx x := by
    rw [Block.ctx, hcross.ctxs]
    exact congrArg (SMap.get {} · x) hctxs
  rw [← hctx] at hentry hstep
  obtain ⟨hends, hcores, hends'⟩ := Block.atCtx_finishEntry (st := stOK) (det := []) hentry hheld hstep
  have hended (t : State) (ht : t.toBlock = c.finishEntry ker.ctx ker.seq stOK []) : t.Ended ker.ctx ker.seq stOK :=
    ended_finishEntry hentry hunfinished huncompleted hheld hstep ht
  have hsame : (c.finishEntry ker.ctx ker.seq stOK []).core core =
      { (s.core core).modMover m fun v => { v with queue := v.queue.drop 1 } with
        movProg := SMap.put (s.core core).movProg m s.time.keeper
        kernels := (s.core core).kernels.filter (fun x => x.kid != ker.kid) } := by
    rw [Block.core, hcores]
    refine (hcross.core core).trans ((Block.core_setCore_same ..).trans ?_)
    rw [hcore]
    rfl
  refine ⟨?_, hended _ rfl, ?_, ?_, fun x hx => ?_, fun x hx => (hends x hx).trans (hctx x), ?_⟩
  · rw [hsame]
    exact (congrArg Mover.queue (Core.mover_setMover_same ..)).trans (congrArg (List.drop 1) hqueue)
  · rw [hsame]
  · rw [hsame]
    rfl
  · rw [Block.core, hcores]
    exact (hcross.core x).trans ((Block.core_setCore_other _ _ _ _ hx).trans (hothers x hx))
  · have hleft : Leaves (fun b => { b with cores := [], ctxs := [], treleb := {} }) s.toBlock b :=
      hleaves.comp fun x => { x with ctxs := [], treleb := {} }
    have hleft' : Leaves (fun b => { b with cores := [], ctxs := [], treleb := {} }) s.toBlock c :=
      hleft.trans_of_rings (fun _ => rfl) hcross.leaves_of
    exact hleft'.trans_of_rings (fun _ => rfl) (hends'.comp fun x => { x with cores := [] })

end

/-! ### Credits come back (R198, R200) -/

/-- An ended descriptor of a context whose credits come back by a time. -/
def Desc.creditDue (ctx now : Nat) (d : Desc) : Bool := d.ctx == ctx && decide (d.endedAt + 200000 ≤ now)

/-- A mover without the ended descriptors whose credits have come back. -/
def Mover.freeCredits (due : Desc → Bool) (v : Mover) : Mover := { v with dying := v.dying.filter (fun d => !due d) }

/-- A core on which the credits of a context's ended descriptors have come back by a time. -/
def Core.creditsBack (k : Core) (ctx now : Nat) : Core :=
  { (List.range 4).foldl (fun k m => k.modMover m (Mover.freeCredits (Desc.creditDue ctx now))) k with
    live := k.live.filter (fun r => !(((k.dyingOf ctx).filter (Desc.creditDue ctx now)).map (·.id)).contains r.desc) }

theorem Core.foldl_modMover_frame (f : Mover → Mover) (l : List Nat) (k : Core) :
    { l.foldl (fun k m => k.modMover m f) k with movers := [] } = { k with movers := [] } := by
  induction l generalizing k with
  | nil => rfl
  | cons m l ih => exact ih (k.modMover m f)

section
variable (k : Core) (ctx now : Nat)

theorem Core.creditsBack_frame : { k.creditsBack ctx now with movers := [], live := [] } = { k with movers := [], live := [] } := by
  have hfold := foldl_modMover_frame (Mover.freeCredits (Desc.creditDue ctx now)) (List.range 4) k
  exact (congrArg (fun y : Core => { y with live := [] }) hfold :)

theorem Core.mover_creditsBack {m : Nat} (hm : m < 4) :
    (k.creditsBack ctx now).mover m = (k.mover m).freeCredits (Desc.creditDue ctx now) :=
  (k.mover_foldl_modMover (fun _ => Mover.freeCredits (Desc.creditDue ctx now)) List.nodup_range m).trans (if_pos (List.mem_range.mpr hm))

theorem Core.mem_dyingOf {d : Desc} : d ∈ k.dyingOf ctx ↔ d.ctx = ctx ∧ ∃ m < 4, d ∈ (k.mover m).dying := by
  simp only [dyingOf, List.mem_flatMap, List.mem_range, List.mem_filter, beq_iff_eq]
  tauto

theorem Core.mem_live_creditsBack {r : LiveReq} : r ∈ (k.creditsBack ctx now).live ↔ r ∈ k.live ∧
    ∀ m < 4, ∀ d ∈ (k.mover m).dying, d.ctx = ctx → d.endedAt + 200000 ≤ now → d.id ≠ r.desc := by
  simp only [creditsBack, List.mem_filter, Bool.not_eq_true', ← Bool.not_eq_true, List.contains_iff_mem, List.mem_map, mem_dyingOf,
    Desc.creditDue, Bool.and_eq_true, beq_iff_eq, decide_eq_true_eq]
  refine and_congr_right fun _ => ⟨fun h m hm d hd hctx hdue hid => h ⟨d, ⟨⟨hctx, m, hm, hd⟩, hctx, hdue⟩, hid⟩, ?_⟩
  rintro h ⟨d, ⟨⟨hctx, m, hm, hd⟩, -, hdue⟩, hid⟩
  exact h m hm d hd hctx hdue hid

end

theorem answers_creditTimeout {core ctx : Nat} {s : State} {t0 : Nat} (h : (((s.core core).dyingOf ctx).map (·.endedAt)).min? = some t0) :
    Answers (.creditTimeout core ctx) s (fun t => t.toBlock = (s.toBlock.advanceTo (t0 + 200000)).modCore core
      (·.creditsBack ctx (s.toBlock.advanceTo (t0 + 200000)).time.keeper)) := by
  refine answers_of_run (f := (·.creditTimeout core ctx)) rfl ?_
  show s.creditTimeout core ctx = _
  rw [Block.creditTimeout, h]
  rfl

/-- Settles O17: a flag lands, or its request is sent, once the stream has done its part (`Block.Streamed`); a descriptor leaves
its mover beside its push (`Block.descLeft`), and a COPY's entry ends in its own context (`Block.atCtx_finishEntry`); the credits of
ended descriptors come back at their time (`Core.creditsBack`). -/
theorem descriptorsEnd : Obligations.DescriptorsEnd := by
  unfold Obligations.DescriptorsEnd
  refine ⟨⟨fun _ _ _ _ hup hm hhead hop hsp hearlier => answers_finalSend_tile hup hm hhead hop hsp hearlier,
    fun _ _ _ _ _ hup hm hhead hop hsp hearlier hneeds hspace hshare => answers_finalSend_dram hup hm hhead hop hsp hearlier hneeds hspace hshare,
    fun _ _ _ _ hup hm hhead hop hsp htarget hgroup hlive hshare hself =>
      answers_finalSend_remote hup hm hhead hop hsp htarget hgroup hlive hshare hself⟩,
    ⟨fun _ _ _ _ _ hup hm hqueue hlanded hpush hkernels => answers_descDone hup hm hqueue hlanded hpush hkernels,
    fun _ _ _ _ _ _ _ hup hm hqueue hlanded hpush hbind hq hroom hkernels =>
      answers_descDone_push hup hm hqueue hlanded hpush hbind hq hroom hkernels,
    fun _ _ _ _ _ _ _ hup hm hqueue hlanded hpush hker hentry hunfinished huncompleted hheld hstep =>
      answers_descDone_copy hup hm hqueue hlanded hpush hker hentry hunfinished huncompleted hheld hstep⟩,
    fun core ctx s t0 h => (answers_creditTimeout h).mono fun t ht => ?_⟩
  have hcore : t.core core = (s.core core).creditsBack ctx (s.toBlock.advanceTo (t0 + 200000)).time.keeper := by
    rw [ht]
    exact Block.core_setCore_same ..
  have htime : t.time = (s.toBlock.advanceTo (t0 + 200000)).time := by rw [ht]; rfl
  rw [hcore, htime]
  refine ⟨rfl, ⟨fun c hc => ?_, ?_, stampsOnly_of ?_⟩, Core.creditsBack_frame .., fun m hm => Core.mover_creditsBack _ ctx _ hm,
    fun r => Core.mem_live_creditsBack ..⟩
  · rw [ht]
    exact Block.core_setCore_other _ _ _ _ hc
  · rw [ht]
    rfl
  · rw [ht]
    rfl

end Sys2Proof.Machine
end

section
/-!
A FINAL that waits for its group (R166, R427), against `State.Lands` with no bytes at an offset inside a line.
-/
namespace Sys2Proof.Machine

/-- A window of context 0 over one page of the DRAM tier that admits module 1. -/
def pageWindow : Window := ⟨5, 0, false, true, 0, 4096, [(1, none)], [(0, 4096, 0)]⟩

/-- A request of module 1 for that window at offset 8, inside the page's first line. -/
def midLinePkt : Pkt := ⟨0, 0, 0, true, false, 0, 0, 0, 1, 5, 0, 0, 8, 0, 0⟩

/-- Module 0 of a chain of two with that window open; the page's first line fails the check of a read (R255). -/
def failingLine : State :=
  { weave := { domain := { state := 2, sizeX := 2, sizeY := 1, sizeZ := 1, idValid := true, master := 1, parallel := 1 }
               ports := [(0, { state := 2 })], windows := [pageWindow] }
    dram := { fails := [(0, 1)] } }

theorem failingLine_inbound : failingLine.Inbound midLinePkt pageWindow midLinePkt.off 8 false := by decide

/-- The FINAL waits for the two writes of its group, and the line stays as it is. -/
theorem final_failingLine_keeps_poison :
    (match exec (.final midLinePkt 0 1#64 2) failingLine with | .next t => t.dram.poison | _ => []) = [] := by decide

/-- A landing of no bytes inside a line is one empty run (`pageRuns`), which `Block.dramWrite` takes for a write of a part of the
line: the line's merge fails, and it is stored poisoned. -/
theorem winWrite_nil_poisons : (failingLine.toBlock.winWrite pageWindow midLinePkt.off [] []).dram.poison = [0] := by decide

/-- Refutes O40: a held FINAL leaves the DRAM tier alone, but `State.Lands` with no bytes asks for what a landing of no bytes at the
FINAL's place makes of it, and inside a line that fails a check such a landing poisons the line. -/
theorem not_inboundRequestsTakeEffect : ¬ Obligations.InboundRequestsTakeEffect := by
  unfold Obligations.InboundRequestsTakeEffect
  rintro ⟨-, -, hwaits, -⟩
  obtain ⟨t, hexec, -, ⟨-, hdram⟩, -⟩ := hwaits midLinePkt 0 1#64 2 failingLine pageWindow failingLine_inbound (by decide) (by decide)
    (by decide)
  have hkept := final_failingLine_keeps_poison
  rw [hexec] at hkept
  change t.dram.poison = [] at hkept
  have hpoisoned : t.dram.poison = [0] := (congrArg Dram.poison (hdram fun _ => rfl)).trans winWrite_nil_poisons
  exact absurd (hkept.symm.trans hpoisoned) (by decide)

end Sys2Proof.Machine
end

section
/-!
What the answer to a request leaves of Weave and of the mailboxes, at another module or at this module's own core (R403, R405, R409).
-/
namespace Sys2Proof.Machine

/-- What no stop, no abort and no packet sent changes: the state of Weave without its ports, and the mailboxes. -/
def Block.served (b : Block) : Weave × SMap Mbox := ({ b.weave with ports := [] }, b.mboxes)

section
variable (b : Block)

theorem Block.served_of_traced {c : Block} (h : Traced b c) : c.served = b.served := by
  unfold served
  rw [h.weave, h.mboxes]

theorem Block.served_modCore (core : Nat) (f : Core → Core) : (b.modCore core f).served = b.served := rfl

theorem Block.served_modCtx (ctx : Nat) (f : Ctx → Ctx) : (b.modCtx ctx f).served = b.served := rfl

theorem Block.served_foldl {α : Type} (f : Block → α → Block) (h : ∀ b x, (f b x).served = b.served) (l : List α) (b : Block) :
    (l.foldl f b).served = b.served :=
  List.foldlRecOn (motive := fun c : Block => c.served = b.served) l f rfl fun c hc x _ => (h c x).trans hc

theorem Block.served_emit (i e x n a : Nat) : (b.emit i e x n a).served = b.served := b.served_of_traced (b.emit_traced ..)

theorem Block.served_emitCtx (i e x a : Nat) : (b.emitCtx i e x a).served = b.served := b.served_emit ..

theorem Block.served_cross (i j : Nat) : (b.cross i j).served = b.served := b.served_of_traced (b.cross_traced ..)

theorem Block.served_crossTo (src : Nat) (dsts : List Nat) : (b.crossTo src dsts).served = b.served :=
  served_foldl _ (fun b _ => b.served_cross ..) _ _

/-! ### Stops and aborts -/

theorem Block.served_unpark (core m : Nat) : (b.unpark core m).served = b.served := by
  unfold unpark
  dsimp only
  split
  · rfl
  · rfl

theorem Block.served_unparkAttn (core ctx : Nat) : (b.unparkAttn core ctx).served = b.served := by
  unfold unparkAttn
  dsimp only
  split
  · exact b.served_unpark ..
  · rfl

theorem Block.served_cancelMovers (core : Nat) (p : Desc → Bool) : (b.cancelMovers core p).served = b.served := by
  refine served_foldl _ (fun b m => ?_) _ _
  dsimp only
  split
  · rfl
  · rw [served_foldl _ fun b d => b.served_emitCtx .., served_modCore]
    split
    · exact b.served_unpark ..
    · rfl

theorem Block.served_bank (core : Nat) : (b.bank core).served = b.served := by
  unfold bank
  dsimp only
  split
  · rfl
  · rfl

theorem Block.served_abortKernel (core kid : Nat) (other : Bool) : (b.abortKernel core kid other).served = b.served := by
  unfold abortKernel
  dsimp only
  split
  · split
    · rfl
    · rfl
  · split
    · exact served_cancelMovers ..
    · rw [apply_ite served, served_emitCtx, ite_self, served_cancelMovers, served_modCore, served_bank]

theorem Block.served_acceptAbort (ctx scope : Nat) (seqs : List Nat) (kids : List (Nat × Nat)) (drop : Nat) (page : Option Nat)
    (other : Bool) : (b.acceptAbort ctx scope seqs kids drop page other).served = b.served := by
  unfold acceptAbort
  dsimp only
  refine (served_foldl (fun b c => b.unparkAttn c ctx) (fun b c => b.served_unparkAttn ..) _ _).trans ?_
  refine (served_foldl _ (fun b c => b.served_modCore ..) _ _).trans ?_
  rw [served_foldl _ fun b ck => (served_abortKernel ..).trans (b.served_crossTo ..), served_modCtx]
  exact b.served_emit ..

theorem Block.served_stopKernel (core kid : Nat) (at_ : Option Nat) (rep : StopReport) : (b.stopKernel core kid at_ rep).served = b.served := by
  unfold stopKernel
  dsimp only
  cases (b.core core).kernels.find? (fun x => x.kid == kid) with
  | none => rfl
  | some ker =>
    dsimp only
    generalize hc : crossFront _ core = c
    have hserved : c.served = b.served := by
      rw [← hc, crossFront, served_cross, apply_ite served, served_cancelMovers, ite_self, served_modCore, served_emit, apply_ite served,
        served_bank, ite_self]
    rw [apply_ite served, apply_ite served, served_acceptAbort, apply_ite served, served_acceptAbort, ite_self, ite_self, hserved, ite_self]

theorem Block.served_poisonSeen (isl part ctx step : Nat) : (b.poisonSeen isl part ctx step).served = b.served := by
  unfold poisonSeen
  exact served_emit ..

theorem Block.served_failDesc (core m : Nat) (d : Desc) (status block : Nat) : (b.failDesc core m d status block).served = b.served := by
  unfold failDesc
  extract_lets d' sb b1 b2 b3 b4
  have hemit : b1.served = b.served := b.served_emit ..
  have hseen : b2.served = b.served := by
    rw [show b2 = _ from rfl, apply_ite served, served_poisonSeen, ite_self, hemit]
  have hparked : b3.served = b.served := by
    rw [show b3 = _ from rfl, apply_ite served, served_unpark, ite_self, hseen]
  exact (served_stopKernel ..).trans ((served_cross ..).trans hparked)

/-! ### Answers -/

theorem Block.served_applyResp (core reqId st : Nat) (retry : Bool) (old : Option W64) :
    (b.applyResp core reqId st retry old).served = b.served := by
  unfold applyResp
  split
  · rfl
  · next r _ =>
    split
    · rfl
    · extract_lets b1 d? b2 b3 b4 b5
      have hgone : b1.served = b.served := rfl
      have hback : b2.served = b.served := by
        unfold b2
        clear b2 b3 b4 b5
        clear_value d? b1
        split
        · exact hgone
        · split
          · dsimp only
            split
            · exact hgone
            · exact (served_modCore ..).trans ((served_crossTo ..).trans hgone)
          · exact hgone
      split
      · exact (served_modCore ..).trans ((served_cross ..).trans hback)
      · have htrace : b5.served = b.served := (served_emit ..).trans hback
        clear_value b5 d?
        cases d? with
        | none => exact htrace
        | some d =>
          dsimp only
          split
          · exact htrace
          · exact (served_failDesc ..).trans ((served_cross ..).trans htrace)

theorem Block.served_withPorts (ps : SMap Port) : (b.withPorts ps).served = b.served := rfl

theorem Block.served_sendOut (o : Out) : (b.sendOut o).served = b.served := by
  obtain ⟨ps, h⟩ := b.sendOut_ports o
  exact (served_of_traced _ h).trans (b.served_withPorts ps)

theorem Block.served_answer (h : Pkt) (st : Nat) (retry : Bool) (old : Option W64) : (b.answer h st retry old).served = b.served := by
  unfold answer
  extract_lets b1
  have htrace : b1.served = b.served := by
    rw [show b1 = _ from rfl, apply_ite served, served_emit, ite_self]
  split
  · exact (served_applyResp ..).trans htrace
  · exact (served_sendOut ..).trans htrace

end

end Sys2Proof.Machine
end

section
/-!
A request that arrives at a port and is refused at its window (R403, R404, R424).
-/
namespace Sys2Proof.Machine

/-! ### Arrival -/

/-- The block that has taken a packet from its link: its ports and stamps differ. -/
def Block.taken (b : Block) (ps : SMap Port) (is : SMap Island) : Block := { b.withPorts ps with islands := is }

theorem Block.linkAccept_of_arrives {s : State} {h : Pkt} (harrives : s.Arrives h) :
    ∃ ps is, s.linkAccept h = (s.toBlock.taken ps is, true) := by
  obtain ⟨hport, hrun, hcrc, hlseq, -, -⟩ := harrives
  unfold linkAccept
  extract_lets t ok b
  have hok : ok = true := by simp [ok, t, hcrc, hlseq]
  rw [if_neg (by simp [t, hport, hrun]), hok, if_pos rfl, cross_eq]
  exact ⟨_, _, rfl⟩

theorem Block.arrive_of_arrives {s : State} {h : Pkt} (harrives : s.Arrives h) (o : Out) (f : Block → Block) :
    s.arrive h o f = f (s.linkAccept h).1 := by
  obtain ⟨ps, is, haccept⟩ := linkAccept_of_arrives harrives
  obtain ⟨-, -, -, -, hid, hdst⟩ := harrives
  have hid' : (s.toBlock.taken ps is).weave.domain.idValid = true := hid
  have hdst' : h.dst = (s.toBlock.taken ps is).self := hdst
  rw [arrive, haccept]
  dsimp only
  rw [if_neg (by simp), if_neg (by simp [hid']), if_pos hdst']

/-! ### The response -/

theorem Block.pickPort_congr {b c : Block} (h : c.weave = b.weave) (dir : Nat) : c.pickPort dir = b.pickPort dir := by
  unfold pickPort port
  rw [h]

/-- Where a port leads to its destination, a packet sent is in that port's retry buffer (R404, R410). -/
theorem Block.mem_buf_sendOut {b : Block} {o : Out} {dir p : Nat} (hroute : b.weave.domain.route b.self o.dst = some dir)
    (hpick : b.pickPort dir = some p) : ∃ x ∈ ((b.sendOut o).port p).buf, ∃ vc lack, x.bytes = o.bytes vc x.lseq lack := by
  have hsend : b.sendOut o = b.portSend p (b.weave.domain.vc o.src b.self dir) o := by
    rw [sendOut]
    dsimp only
    rw [hroute]
    dsimp only
    rw [hpick]
  rw [hsend, portSend, modPort, port, setPort, SMap.get_put_same]
  exact ⟨_, List.mem_append_right _ (List.mem_singleton_self _), _, _, rfl⟩

/-- A refusal goes to another module as R403's response, with its record. -/
theorem Block.answer_refused {b : Block} {h : Pkt} {st : Nat} (hst : st ≠ 0) (hsrc : h.src ≠ b.self) :
    ∃ c, Traced b c ∧ b.answer h st false none = c.sendOut (respOut b.self h st none) := by
  have htraced := b.emit_traced hubIsl 0x0403 h.ctx h.step (h.port % 18 + st * 2 ^ 8 + h.window * 2 ^ 16)
  refine ⟨_, htraced, ?_⟩
  have hself : (b.emit hubIsl 0x0403 h.ctx h.step (h.port % 18 + st * 2 ^ 8 + h.window * 2 ^ 16)).self = b.self := by
    rw [self, htraced.weave]
    rfl
  rw [answer, if_neg hst, hself, if_neg hsrc]
  rfl

/-! ### The checks of R424 -/

section
variable {b : Block} {h : Pkt}

theorem Block.inCheck_closed (hwindow : b.window? h.window = none) (off n : Nat) (atomic : Bool) :
    b.inCheck h off n atomic = (b, some (.resp stClosed false none), none) := by
  rw [inCheck, hwindow]

/-- A request of no peer, or outside the window, is refused once its step and the partition let it pass. -/
theorem Block.inCheck_rights {w : Window} (hwindow : b.window? h.window = some w)
    (hstep : h.inStep = false ∨ h.step = 0 ∨ stepAbove h.step (b.ctx w.ctx).retired = true) (hpart : (b.part (b.ctx w.ctx).part).state ≠ 1)
    {n : Nat} (hbad : w.len < h.off + n ∨ ∀ p ∈ w.peers, ¬ (p.1 = h.src ∧ (p.2 = none ∨ p.2 = some h.ctx))) :
    b.inCheck h h.off n false = (b, some (.resp stRights false none), none) := by
  rw [inCheck, hwindow]
  dsimp only
  rw [if_neg (by rintro ⟨hin, hne, habove⟩; simp_all), if_neg hpart]
  split
  · rfl
  · next hpeers =>
    refine if_pos (.inl (hbad.resolve_right fun hnone => hpeers ?_))
    simp only [Bool.not_eq_true', List.any_eq_false, Bool.and_eq_true, beq_iff_eq]
    rintro ⟨src, ctx⟩ hp ⟨hsrc, hctx⟩
    refine hnone _ hp ⟨hsrc, ?_⟩
    cases ctx with
    | none => exact .inl rfl
    | some c => exact .inr (congrArg some (beq_iff_eq.mp hctx))

end

/-! ### A WRITE that is refused -/

theorem Block.hubRun_refused {b : Block} {h : Pkt} {group st : Nat} {data : List Byte}
    (hcheck : b.inCheck h h.off data.length false = (b, some (.resp st false none), none)) :
    b.hubRun (.write h group data) = b.answer h st false none := by
  rw [hubRun, inWrite, hcheck]

theorem answers_write_refused {s : State} {h : Pkt} {group st : Nat} {data : List Byte} (harrives : s.Arrives h) (hsrc : h.src ≠ s.self)
    (hst : st ≠ 0) (hcheck : ∀ ps is, (s.toBlock.taken ps is).inCheck h h.off data.length false =
      (s.toBlock.taken ps is, some (.resp st false none), none)) :
    Answers (.write h group data) s (fun t => t.weave.groups = s.weave.groups ∧ t.parts = s.parts ∧ t.cores = s.cores ∧ t.ctxs = s.ctxs ∧
      ((∀ r, (s.ring r).placed = none) → t.dram = s.dram) ∧
      ∀ dir p, s.weave.domain.route s.self h.src = some dir → (s.linkAccept h).1.pickPort dir = some p →
        ∃ x ∈ (t.port p).buf, ∃ vc lack, x.bytes = (respOut s.self h st none).bytes vc x.lseq lack) := by
  refine answers_of_run (f := fun b => b.arrive h (outPkt h 0x10 false (h.off + (data.length - 1) * 2 ^ 40 + group * 2 ^ 48) data)
    (fun b => b.hubRun (.write h group data))) rfl ?_
  dsimp only
  rw [Block.arrive_of_arrives harrives]
  obtain ⟨ps, is, haccept⟩ := Block.linkAccept_of_arrives harrives
  rw [haccept]
  dsimp only
  rw [Block.hubRun_refused (hcheck ps is)]
  obtain ⟨c, hrecord, hanswer⟩ := Block.answer_refused (b := s.toBlock.taken ps is) (h := h) hst hsrc
  rw [hanswer]
  obtain ⟨ps', hsent⟩ := c.sendOut_ports (respOut (s.toBlock.taken ps is).self h st none)
  have htraced : Traced ((s.toBlock.taken ps is).withPorts ps') (c.sendOut (respOut (s.toBlock.taken ps is).self h st none)) :=
    (hrecord.map (·.withPorts ps')).trans hsent
  refine ⟨(congrArg Weave.groups htraced.weave :), htraced.parts, htraced.cores, htraced.ctxs, htraced.dram, fun dir p hroute hpick => ?_⟩
  refine Block.mem_buf_sendOut (dir := dir) ?_ ((Block.pickPort_congr hrecord.weave dir).trans hpick)
  rw [Block.self, hrecord.weave]
  exact hroute

theorem answers_write_closed_or_rights {s : State} {h : Pkt} {group st : Nat} {data : List Byte} (harrives : s.Arrives h)
    (hsrc : h.src ≠ s.self) (hwhy : (s.window? h.window = none ∧ st = stClosed) ∨
      (∃ w, s.window? h.window = some w ∧ (h.inStep = false ∨ h.step = 0 ∨ stepAbove h.step (s.ctx w.ctx).retired = true) ∧
        (s.part (s.ctx w.ctx).part).state ≠ 1 ∧ st = stRights ∧
        (w.len < h.off + data.length ∨ ∀ p ∈ w.peers, ¬ (p.1 = h.src ∧ (p.2 = none ∨ p.2 = some h.ctx))))) :
    Answers (.write h group data) s (fun t => t.weave.groups = s.weave.groups ∧ t.parts = s.parts ∧ t.cores = s.cores ∧ t.ctxs = s.ctxs ∧
      ((∀ r, (s.ring r).placed = none) → t.dram = s.dram) ∧
      ∀ dir p, s.weave.domain.route s.self h.src = some dir → (s.linkAccept h).1.pickPort dir = some p →
        ∃ x ∈ (t.port p).buf, ∃ vc lack, x.bytes = (respOut s.self h st none).bytes vc x.lseq lack) := by
  obtain ⟨hwindow, rfl⟩ | ⟨w, hwindow, hstep, hpart, rfl, hbad⟩ := hwhy
  · exact answers_write_refused harrives hsrc (by decide) fun ps is =>
      Block.inCheck_closed (b := s.toBlock.taken ps is) hwindow _ _ _
  · exact answers_write_refused harrives hsrc (by decide) fun ps is =>
      Block.inCheck_rights (b := s.toBlock.taken ps is) hwindow hstep hpart hbad

end Sys2Proof.Machine
end

section
/-!
Bytes that land in a window (R150, R421, R422).
-/
namespace Sys2Proof

/-! ### Runs of a range -/

/-- Bytes written run by run (offset, length) of `l` from `a` on. -/
def Mem.writeRuns (m : Mem) (a : Nat) (l : List Byte) (runs : List (Nat × Nat)) : Mem :=
  runs.foldl (fun m r => Mem.write m (a + r.1) ((l.drop r.1).take r.2)) m

theorem Mem.byte_write (m : Mem) (a : Nat) (l : List Byte) (h : Mem.wf m = true) (x : Nat) :
    Mem.byte (Mem.write m a l) x = if a ≤ x ∧ x < a + l.length then l.getD (x - a) 0 else Mem.byte m x := by
  split
  · next hx =>
    have hat := Mem.byte_write_in m a l (x - a) h (by omega)
    rw [show a + (x - a) = x by omega] at hat
    rw [hat, List.getD_eq_getElem]
  · next hx => exact Mem.byte_write_out m a l x (by omega)

/-- A byte of one of the runs is written, every other stays. -/
theorem Mem.byte_writeRuns (a : Nat) (l : List Byte) (runs : List (Nat × Nat)) (m : Mem) (h : Mem.wf m = true) (x : Nat) :
    Mem.byte (Mem.writeRuns m a l runs) x =
      if a ≤ x ∧ x < a + l.length ∧ ∃ r ∈ runs, r.1 ≤ x - a ∧ x - a < r.1 + r.2 then l.getD (x - a) 0 else Mem.byte m x := by
  induction runs generalizing m with
  | nil => simp [writeRuns]
  | cons r runs ih =>
    rw [writeRuns, List.foldl_cons]
    refine (ih _ (Mem.wf_write m _ _ h)).trans ?_
    rw [Mem.byte_write m _ _ h, List.length_take, List.length_drop]
    by_cases hrange : a ≤ x ∧ x < a + l.length
    · by_cases hlater : ∃ r ∈ runs, r.1 ≤ x - a ∧ x - a < r.1 + r.2
      · rw [if_pos ⟨hrange.1, hrange.2, hlater⟩, if_pos]
        obtain ⟨y, hy, hxy⟩ := hlater
        exact ⟨hrange.1, hrange.2, y, List.mem_cons_of_mem _ hy, hxy⟩
      · rw [if_neg fun hx => hlater hx.2.2]
        by_cases hrun : r.1 ≤ x - a ∧ x - a < r.1 + r.2
        · rw [if_pos ⟨by omega, by omega⟩, if_pos ⟨hrange.1, hrange.2, r, List.mem_cons_self, hrun⟩,
            List.getD_eq_getElem _ _ (by simp; omega), List.getElem_take, List.getElem_drop, List.getD_eq_getElem _ _ (by omega)]
          congr 1
          omega
        · rw [if_neg (by omega), if_neg]
          rintro ⟨-, -, y, hy, hxy⟩
          obtain rfl | hy := List.mem_cons.mp hy
          · exact hrun hxy
          · exact hlater ⟨y, hy, hxy⟩
    · rw [if_neg fun hx => hrange ⟨hx.1, hx.2.1⟩, if_neg (by omega), if_neg fun hx => hrange ⟨hx.1, hx.2.1⟩]

theorem pageRuns_cover {a n i : Nat} (hi : i < n) : ∃ r ∈ Machine.pageRuns a n, r.1 ≤ i ∧ i < r.1 + r.2 := by
  refine ⟨_, List.mem_map.mpr ⟨(a + i) / 4096 - a / 4096, ?_, rfl⟩, ?_⟩
  · rw [List.mem_range]
    omega
  · dsimp only
    omega

/-- The runs of a range, written, are the range written (R150). -/
theorem Mem.byte_writeRuns_pageRuns (m : Mem) (a b : Nat) (l : List Byte) (h : Mem.wf m = true) (x : Nat) :
    Mem.byte (Mem.writeRuns m a l (Machine.pageRuns b l.length)) x =
      if a ≤ x ∧ x < a + l.length then l.getD (x - a) 0 else Mem.byte m x := by
  rw [Mem.byte_writeRuns a l _ m h]
  by_cases hx : a ≤ x ∧ x < a + l.length
  · rw [if_pos hx, if_pos ⟨hx.1, hx.2, pageRuns_cover (by omega)⟩]
  · rw [if_neg hx, if_neg fun h => hx ⟨h.1, h.2.1⟩]

end Sys2Proof

namespace Sys2Proof.Machine

/-! ### A run that lands -/

/-- One run of a landing in a window. -/
def Block.winPut (w : Window) (off : Nat) (data : List Byte) (bad : List Nat) (b : Block) (r : Nat × Nat) : Block :=
  let d := (data.drop r.1).take r.2
  let bd := (bad.filter (fun i => decide (r.1 ≤ i ∧ i < r.1 + r.2))).map (fun i => i - r.1)
  match b.spot w (off + r.1) with
  | .tile p a => (b.cross hubIsl (fabIsl p)).modPart p (fun t => t.tileWrite a d bd)
  | .dram a => (b.cross hubIsl (dramIsl (chanOf a))).dramWrite a d bd

theorem Block.winWrite_eq (b : Block) (w : Window) (off : Nat) (data : List Byte) (bad : List Nat) :
    b.winWrite w off data bad = (pageRuns (w.base + off) data.length).foldl (winPut w off data bad) b := rfl

section
variable {w : Window} (off : Nat) (data : List Byte) (bad : List Nat)

/-- A run that lands in a TILE window. -/
theorem Block.winPut_tile (hw : w.tile = true) (b : Block) (r : Nat × Nat) : b.winPut w off data bad r =
    (b.cross hubIsl (fabIsl (b.ctx w.ctx).part)).modPart (b.ctx w.ctx).part (fun t =>
      t.tileWrite (((b.part (b.ctx w.ctx).part).rangeOf w.ctx).1 + w.base + (off + r.1)) ((data.drop r.1).take r.2)
        ((bad.filter (fun i => decide (r.1 ≤ i ∧ i < r.1 + r.2))).map (fun i => i - r.1))) := by
  rw [winPut, spot, hw]
  rfl

/-- Runs that land in a TILE window are in the owner's tile buffer; its ranges, the other partitions and the DRAM tier stay. -/
theorem Block.foldl_winPut_tile (hw : w.tile = true) (runs : List (Nat × Nat)) (b : Block) :
    let p := (b.ctx w.ctx).part
    let c := runs.foldl (winPut w off data bad) b
    c.dram = b.dram ∧ (∀ q, q ≠ p → c.part q = b.part q) ∧
      (c.part p).tile = Mem.writeRuns (b.part p).tile (((b.part p).rangeOf w.ctx).1 + w.base + off) data runs := by
  induction runs generalizing b with
  | nil => exact ⟨rfl, fun _ _ => rfl, rfl⟩
  | cons r runs ih =>
    obtain ⟨hdram, hothers, htile⟩ := ih (b.winPut w off data bad r)
    rw [List.foldl_cons]
    have hput := b.winPut_tile off data bad hw r
    have hcross := b.cross_traced hubIsl (fabIsl (b.ctx w.ctx).part)
    have hcrossed : (b.cross hubIsl (fabIsl (b.ctx w.ctx).part)).dram = b.dram := (congrArg (fun x : Block => x.dram) (b.cross_eq _ _) :)
    generalize b.cross hubIsl (fabIsl (b.ctx w.ctx).part) = c at hput hcross hcrossed
    generalize b.winPut w off data bad r = d at hdram hothers htile hput ⊢
    have hctx : d.ctx w.ctx = b.ctx w.ctx := by
      rw [hput]
      exact congrArg (SMap.get {} · w.ctx) hcross.ctxs
    rw [hctx] at hothers htile
    have hother (q : Nat) (hq : q ≠ (b.ctx w.ctx).part) : d.part q = b.part q := by
      rw [hput]
      exact (Block.part_setPart_other _ _ _ _ hq).trans (hcross.part q)
    have hsame : d.part (b.ctx w.ctx).part = (b.part (b.ctx w.ctx).part).tileWrite
        (((b.part (b.ctx w.ctx).part).rangeOf w.ctx).1 + w.base + (off + r.1)) ((data.drop r.1).take r.2)
        ((bad.filter (fun i => decide (r.1 ≤ i ∧ i < r.1 + r.2))).map (fun i => i - r.1)) := by
      rw [hput, modPart_eq, part_setPart_same, hcross.part]
    refine ⟨hdram.trans ?_, fun q hq => (hothers q hq).trans (hother q hq), htile.trans ?_⟩
    · rw [hput]
      exact hcrossed
    · rw [hsame, Mem.writeRuns, Mem.writeRuns, List.foldl_cons, ← Nat.add_assoc]
      rfl

theorem byte_winWrite_tile (b : Block) (hw : w.tile = true) (hwf : Mem.wf (b.part (b.ctx w.ctx).part).tile = true) :
    let p := (b.ctx w.ctx).part
    let at_ := ((b.part p).rangeOf w.ctx).1 + w.base + off
    let c := b.winWrite w off data bad
    c.dram = b.dram ∧ (∀ q, q ≠ p → c.part q = b.part q) ∧
      ∀ a, Mem.byte (c.part p).tile a =
        if at_ ≤ a ∧ a < at_ + data.length then data.getD (a - at_) 0 else Mem.byte (b.part p).tile a := by
  obtain ⟨hdram, hothers, htile⟩ := b.foldl_winPut_tile off data bad hw (pageRuns (w.base + off) data.length)
  refine ⟨hdram, hothers, fun a => ?_⟩
  rw [b.winWrite_eq, htile]
  exact Mem.byte_writeRuns_pageRuns _ _ _ _ hwf a

/-- A run that lands in the DRAM tier. -/
theorem Block.winPut_dram {b : Block} {r : Nat × Nat} {a : Nat} (hspot : b.spot w (off + r.1) = .dram a) :
    (b.winPut w off data bad r).parts = b.parts ∧
      (b.winPut w off data bad r).dram.mem = Mem.write b.dram.mem a ((data.drop r.1).take r.2) := by
  rw [winPut, hspot]
  dsimp only
  rw [cross_eq]
  exact ⟨rfl, rfl⟩

variable {va n po : Nat}

theorem Block.spot_page (hw : w.tile = false) (hpages : w.pages = [(va, n, po)]) (b : Block) (o : Nat) :
    b.spot w o = .dram (if va ≤ w.base + o ∧ w.base + o < va + n then po + (w.base + o - va) else 0) := by
  rw [spot, if_neg (by simp [hw])]
  dsimp only
  rw [hpages]
  by_cases hin : va ≤ w.base + o ∧ w.base + o < va + n
  · simp [hin]
  · simp only [List.find?_cons, List.find?_nil, hin, decide_false, if_false]

/-- A run that lands in a VIRT window of one page is at its place in the page; an empty one may be anywhere. -/
theorem Block.winPut_page (hw : w.tile = false) (hpages : w.pages = [(va, n, po)]) (hlo : va ≤ w.base + off) (b : Block) {r : Nat × Nat}
    (hhi : w.base + off + data.length ≤ va + n) : (b.winPut w off data bad r).parts = b.parts ∧
      (b.winPut w off data bad r).dram.mem = Mem.write b.dram.mem (po + (w.base + off - va) + r.1) ((data.drop r.1).take r.2) := by
  obtain ⟨hparts, hmem⟩ := winPut_dram off data bad (b.spot_page hw hpages (off + r.1)) (r := r)
  refine ⟨hparts, hmem.trans ?_⟩
  by_cases hr : r.1 < data.length
  · rw [if_pos (by omega)]
    congr 1
    omega
  · rw [List.drop_eq_nil_of_le (by omega), List.take_nil]
    rfl

theorem byte_winWrite_page (b : Block) (hw : w.tile = false) (hpages : w.pages = [(va, n, po)]) (hlo : va ≤ w.base + off)
    (hhi : w.base + off + data.length ≤ va + n) (hwf : Mem.wf b.dram.mem = true) :
    let at_ := po + (w.base + off - va)
    let c := b.winWrite w off data bad
    c.parts = b.parts ∧ ∀ a, Mem.byte c.dram.mem a =
      if at_ ≤ a ∧ a < at_ + data.length then data.getD (a - at_) 0 else Mem.byte b.dram.mem a := by
  have hruns (runs : List (Nat × Nat)) (b : Block) : (runs.foldl (Block.winPut w off data bad) b).parts = b.parts ∧
      (runs.foldl (Block.winPut w off data bad) b).dram.mem = Mem.writeRuns b.dram.mem (po + (w.base + off - va)) data runs := by
    induction runs generalizing b with
    | nil => exact ⟨rfl, rfl⟩
    | cons r runs ih =>
      obtain ⟨hparts, hmem⟩ := b.winPut_page off data bad hw hpages hlo (r := r) hhi
      obtain ⟨hparts', hmem'⟩ := ih (b.winPut w off data bad r)
      exact ⟨hparts'.trans hparts, hmem'.trans (congrArg (Mem.writeRuns · _ data runs) hmem)⟩
  obtain ⟨hparts, hmem⟩ := hruns (pageRuns (w.base + off) data.length) b
  refine ⟨hparts, fun a => ?_⟩
  rw [b.winWrite_eq, hmem]
  exact Mem.byte_writeRuns_pageRuns _ _ _ _ hwf a

end

end Sys2Proof.Machine
end

section
/-!
WINDOW_OPEN and WINDOW_CLOSE (R421–R423, R426).
-/
namespace Sys2Proof.Machine

/-- Where only mailboxes differ, what hides them and more sees no difference. -/
theorem Leaves.of_sansMail {b c d : Block} {g : Block → Block} (h : Leaves (fun x => g x.sansMail) b c) (hd : d.sansMail = c.sansMail) :
    Leaves (fun x => g x.sansMail) b d :=
  ⟨(congrArg (fun x : Block => g x.quiet) hd :).trans h.1, fun hp => (congrArg (fun x : Block => g x.muted) hd :).trans (h.2 hp)⟩

/-! ### WINDOW_OPEN -/

/-- The block with one more open window. -/
def Block.withWindow (b : Block) (w : Window) : Block := { b with weave := { b.weave with windows := b.weave.windows ++ [w] } }

/-- The window that a message opens over pages to peers. -/
def openedWindow (page : Nat) (m : List Byte) (peers : List (Nat × Option Nat)) (pages : List (Nat × Nat × Nat)) : Window :=
  ⟨fld (mPl m) 0 2, page, fld (mPl m) 2 1 == 1, bit (fld (mPl m) 3 1) 0, fld (mPl m) 8 8, fld (mPl m) 16 8, peers, pages⟩

/-- The range of a WINDOW_OPEN is allowed, over these pages (R421, R422). -/
def Block.rangeOpens (b : Block) (page : Nat) (m : List Byte) (pages : List (Nat × Nat × Nat)) : Prop :=
  (fld (mPl m) 2 1 = 1 ∧ fld (mPl m) 8 8 + fld (mPl m) 16 8 ≤ ((b.part (b.ctx page).part).rangeOf page).2 ∧ pages = []) ∨
    (fld (mPl m) 2 1 = 2 ∧ b.winVirt page (fld (mPl m) 8 8) (fld (mPl m) 16 8) (bit (fld (mPl m) 3 1) 0) = some pages)

/-- A WINDOW_OPEN names its peers (R421). -/
def Block.peersOpen (b : Block) (page : Nat) (m : List Byte) (peers : List (Nat × Option Nat)) : Prop :=
  (peerList (mPl m) = true ∧
      ∃ d, b.feRead page (fld (mPl m) 24 8) (4 * fld (mPl m) 6 2) = .ok d ∧ listPeers d (fld (mPl m) 6 2) = some peers) ∨
    (bit (fld (mPl m) 3 1) 1 = true ∧ fld (mPl m) 6 2 = 0 ∧ b.groupPeers page (fld (mPl m) 4 2) = some peers)

theorem peerList_flag {p : List Byte} (h : peerList p = true) : bit (fld p 3 1) 1 = false := by
  simp [peerList] at h
  tauto

/-- A WINDOW_OPEN that passes every check leaves the window, its record and the reply. -/
theorem Block.windowOpenDo_opens {b : Block} {page : Nat} {m : List Byte} {peers : List (Nat × Option Nat)}
    {pages : List (Nat × Nat × Nat)} (hflags : fld (mPl m) 3 1 ≤ 3) (hrsv : rsv (mPl m) 32 24 = true)
    (hfree : b.window? (fld (mPl m) 0 2) = none) (hbase : fld (mPl m) 8 8 % 64 = 0) (hlen : fld (mPl m) 16 8 % 64 = 0)
    (hne : fld (mPl m) 16 8 ≠ 0) (hrange : b.rangeOpens page m pages) (hpeers : b.peersOpen page m peers)
    (hmodule : b.weave.windows.length < 4096) (hctx : (b.weave.windows.filter (fun w => w.ctx == page)).length < 256)
    (hdomain : 2 ≤ b.weave.domain.state) : b.windowOpenDo page m =
      ((b.withWindow (openedWindow page m peers pages)).emit hubIsl 0x0409 page (b.ctx page).curStep (fld (mPl m) 0 2 * 2 ^ 16)).mbReply
        page m stOK [] := by
  unfold windowOpenDo
  extract_lets p id sp fl atomics base len n x no range? peers?
  have hsp : sp = 1 ∨ sp = 2 := hrange.imp (·.1) (·.1)
  have hpages : range? = some pages := by
    unfold range?
    obtain ⟨htile, hfits, rfl⟩ | ⟨hvirt, hpages⟩ := hrange
    · rw [if_pos htile]
      exact if_pos hfits
    · rw [if_neg (show ¬sp = 1 from fun h => absurd (hvirt.symm.trans h) (by decide))]
      exact hpages
  have hfields : ¬(3 < fl ∨ (!rsv p 32 24) = true ∨ sp = 0 ∨ 2 < sp) := by
    rintro (h | h | h)
    · exact absurd h (Nat.not_lt.mpr hflags)
    · exact absurd ((congrArg not hrsv).symm.trans h) (by decide)
    · clear_value sp
      omega
  have haligned : ¬(base % 64 ≠ 0 ∨ len % 64 ≠ 0 ∨ len = 0) := by
    rintro (h | h | h)
    · exact h hbase
    · exact h hlen
    · exact hne h
  have hclosed : ¬(b.window? id).isSome = true := by rw [show b.window? id = none from hfree]; decide
  rw [if_neg hfields, if_neg hclosed, if_neg haligned, hpages]
  dsimp only
  have hnamed : peers? = (b, some peers) := by
    unfold peers?
    obtain ⟨hlist, d, hread, hpeers⟩ | ⟨hflag, hnone, hpeers⟩ := hpeers
    · rw [if_neg (by rw [show bit fl 1 = false from peerList_flag hlist]; decide), if_neg (by rw [show peerList p = true from hlist]; decide),
        show b.feRead page (fld p 24 8) (4 * n) = .ok d from hread]
      exact congrArg (Prod.mk b) hpeers
    · rw [if_pos hflag, if_pos hnone]
      exact congrArg (Prod.mk b) hpeers
  rw [hnamed]
  dsimp only
  rw [if_neg (by omega), if_neg (by omega)]
  rfl

theorem Block.windowOpen_of_turn {b : Block} {page : Nat} {m : List Byte} (h : b.mbTurn page 0x0401 = some m)
    (hwaits : b.winWaits page (mPl m) = false)
    (hstall : peerList (mPl m) = true → b.feStall page [(fld (mPl m) 24 8, 4 * fld (mPl m) 6 2)] 1 = none) :
    b.windowOpen page = ((b.mbTake page m).windowOpenDo page m).mbDrain page := by
  rw [windowOpen, h]
  dsimp only
  rw [if_neg (by simp [hwaits])]
  refine mbOpAt_of_turn h (fun _ => ?_) _
  cases hlist : peerList (mPl m) with
  | true => exact hstall hlist
  | false => rfl

theorem answers_windowOpen {page : Nat} {s : State} {m : List Byte} {peers : List (Nat × Option Nat)} {pages : List (Nat × Nat × Nat)}
    (hturn : s.Turn page 0x0401 m) (hflags : fld (mPl m) 3 1 ≤ 3) (hrsv : rsv (mPl m) 32 24 = true)
    (hfree : s.window? (fld (mPl m) 0 2) = none) (hbase : fld (mPl m) 8 8 % 64 = 0) (hlen : fld (mPl m) 16 8 % 64 = 0)
    (hne : fld (mPl m) 16 8 ≠ 0) (hwaits : s.winWaits page (mPl m) = false)
    (hstall : peerList (mPl m) = true → s.feStall page [(fld (mPl m) 24 8, 4 * fld (mPl m) 6 2)] 1 = none)
    (hrange : (s.mbTake page m).rangeOpens page m pages) (hpeers : (s.mbTake page m).peersOpen page m peers)
    (hmodule : s.weave.windows.length < 4096) (hctx : (s.weave.windows.filter (fun w => w.ctx == page)).length < 256)
    (hdomain : 2 ≤ s.weave.domain.state) :
    Answers (.windowOpen page) s (fun t => t.Replied page m stOK [] ∧
      t.weave = { s.weave with windows := s.weave.windows ++ [openedWindow page m peers pages] } ∧
      Leaves (fun b => { b with mboxes := [], weave := {} }) s.toBlock t.toBlock) := by
  have htaken := s.toBlock.leaves_mbTake page m
  have hweave : (s.mbTake page m).weave = s.weave := htaken.observe (fun b : Block => b.weave)
  have hopens := Block.windowOpenDo_opens (b := s.mbTake page m) hflags hrsv (by rw [Block.window?, hweave]; exact hfree) hbase hlen hne
    hrange hpeers (hweave ▸ hmodule) (hweave ▸ hctx) (hweave ▸ hdomain)
  have hrecord := ((s.mbTake page m).withWindow (openedWindow page m peers pages)).emit_traced hubIsl 0x0409 page
    ((s.mbTake page m).ctx page).curStep (fld (mPl m) 0 2 * 2 ^ 16)
  have hexec : exec (.windowOpen page) s = .next { s with toBlock := s.windowOpen page } := rfl
  rw [Block.windowOpen_of_turn hturn.1 hwaits hstall, hopens] at hexec
  refine (answers_of_reply hturn hexec hrecord.mboxes).mono fun t ⟨hreplied, _, _, hblock⟩ => ⟨hreplied, ?_, ?_⟩
  · refine (congrArg Block.weave hblock).trans (hrecord.weave.trans ?_)
    rw [← hweave]
    rfl
  · have hmail : Leaves (fun b => { b with mboxes := [], weave := {} }) s.toBlock (s.mbTake page m) := htaken.comp fun x => { x with weave := {} }
    have hleft : Leaves (fun b => { b with mboxes := [], weave := {} }) s.toBlock _ :=
      hmail.trans_of_rings (fun _ => rfl) hrecord.leaves_of
    exact Leaves.of_sansMail (g := fun x => { x with weave := {} }) hleft hblock

/-! ### WINDOW_CLOSE -/

theorem Block.closeWindow_served (b : Block) (w : Window) : (b.closeWindow w).served = ({ b.weave with
    ports := [], windows := b.weave.windows.filter (fun x => x.id != w.id), groups := b.weave.groups.filter (fun g => g.window != w.id) },
      b.mboxes) := by
  unfold closeWindow
  refine (served_foldl _ (fun b f => b.served_answer ..) _ _).trans ?_
  exact served_emit ..

theorem Block.rerunWaiting_of_nil {b : Block} (h : b.weave.waiting = []) : b.rerunWaiting = b := by
  rw [rerunWaiting, h]
  show { b with weave := { b.weave with waiting := [] } } = b
  rw [← h]

/-- With no FINAL held there, the close leaves its record and nothing else beside the window and its groups. -/
theorem Block.closeWindow_leaves {b : Block} {w : Window} (hheld : ∀ g ∈ b.weave.groups, g.window = w.id → g.final = none) :
    Leaves (fun b => { b with weave := { b.weave with windows := [], groups := [] } }) b (b.closeWindow w) := by
  have hnone : b.weave.groups.filterMap (fun g => if g.window = w.id then g.final else none) = [] := by
    refine List.filterMap_eq_nil_iff.mpr fun g hg => ?_
    split
    · next hid => exact hheld g hg hid
    · rfl
  rw [closeWindow, hnone]
  exact (emit_traced ..).leaves_of

theorem answers_windowClose {page : Nat} {s : State} {m : List Byte} {w : Window} (hturn : s.Turn page 0x0402 m)
    (hwindow : s.window? (fld (mPl m) 0 2) = some w) (howner : w.ctx = page) (hwaiting : s.weave.waiting = []) :
    Answers (.windowClose page) s (fun t => t.Replied page m stOK [] ∧
      t.weave.windows = s.weave.windows.filter (fun x => x.id != w.id) ∧
      t.weave.groups = s.weave.groups.filter (fun g => g.window != w.id) ∧
      ((∀ g ∈ s.weave.groups, g.window = w.id → g.final = none) →
        Leaves (fun b => { b with mboxes := [], weave := { b.weave with windows := [], groups := [] } }) s.toBlock t.toBlock)) := by
  have htaken := s.toBlock.leaves_mbTake page m
  have hweave : (s.mbTake page m).weave = s.weave := htaken.observe (fun b : Block => b.weave)
  obtain ⟨hserved, hboxes⟩ := Prod.mk.inj ((s.mbTake page m).closeWindow_served w)
  have hclosed : ((s.mbTake page m).closeWindow w).rerunWaiting = (s.mbTake page m).closeWindow w :=
    Block.rerunWaiting_of_nil ((congrArg Weave.waiting hserved).trans ((congrArg Weave.waiting hweave).trans hwaiting))
  have hexec : exec (.windowClose page) s = .next { s with toBlock := s.windowClose page } := rfl
  have hop : s.windowClose page = (((s.mbTake page m).closeWindow w).mbReply page m stOK []).mbDrain page := by
    rw [Block.windowClose, Block.mbOp_of_turn hturn.1,
      show (s.mbTake page m).window? (fld (mPl m) 0 2) = some w by rw [Block.window?, hweave]; exact hwindow]
    dsimp only
    rw [if_neg (not_not.mpr howner), hclosed]
  rw [hop] at hexec
  refine (answers_of_reply hturn hexec hboxes).mono fun t ⟨hreplied, _, _, hblock⟩ => ?_
  have hleft : t.weave = ((s.mbTake page m).closeWindow w).weave := (congrArg (fun x : Block => x.weave) hblock :)
  refine ⟨hreplied, ?_, ?_, fun hheld => ?_⟩
  · rw [hleft, ← hweave]
    exact congrArg Weave.windows hserved
  · rw [hleft, ← hweave]
    exact congrArg Weave.groups hserved
  · have hmail : Leaves (fun b => { b with mboxes := [], weave := { b.weave with windows := [], groups := [] } }) s.toBlock (s.mbTake page m) :=
      htaken.comp fun x => { x with weave := { x.weave with windows := [], groups := [] } }
    have hclose := (Block.closeWindow_leaves (b := s.mbTake page m) (w := w) (hweave ▸ hheld)).comp fun x => { x with mboxes := [] }
    exact Leaves.of_sansMail (g := fun x => { x with weave := { x.weave with windows := [], groups := [] } })
      (hmail.trans_of_rings (fun _ => rfl) hclose) hblock

/-- Settles O41: an operation on a window ends in its reply (`answers_of_reply`); held FINALs that it answers touch neither windows nor
groups (`Block.closeWindow_served`); the runs of a landing are the range that lands (`Mem.byte_writeRuns_pageRuns`); a refused request
leaves the response on a port (`Block.mem_buf_sendOut`). -/
theorem windowsOpenCloseAndCheck : Obligations.WindowsOpenCloseAndCheck := by
  unfold Obligations.WindowsOpenCloseAndCheck
  refine ⟨⟨fun page s m peers pages hturn hflags hrsv hfree hbase hlen hne hrange hpeers hmodule hctx hdomain => ?_,
    fun _ _ _ _ hturn hwindow howner hwaiting => answers_windowClose hturn hwindow howner hwaiting⟩,
    ⟨fun b _ off data bad hw hwf => byte_winWrite_tile off data bad b hw hwf,
    fun b _ off data bad _ _ _ hw hpages hlo hhi hwf => byte_winWrite_page off data bad b hw hpages hlo hhi hwf⟩,
    fun _ _ _ _ _ harrives hsrc hwhy => answers_write_closed_or_rights harrives hsrc hwhy⟩
  have htaken := s.toBlock.leaves_mbTake page m
  have hlimit : (s.mbTake page m).part ((s.mbTake page m).ctx page).part = s.part (s.ctx page).part :=
    htaken.observe (fun b : Block => b.part (b.ctx page).part)
  have hgroup (g : Nat) : (s.mbTake page m).groupPeers page g = s.groupPeers page g :=
    htaken.observe (fun b : Block => b.groupPeers page g)
  refine answers_windowOpen hturn hflags hrsv hfree hbase hlen hne ?_ (fun hlist => ?_) ?_ ?_ hmodule hctx hdomain
  · obtain ⟨htile, -⟩ | ⟨-, hwaits, -⟩ := hrange
    · simp [Block.winWaits, htile]
    · exact hwaits
  · obtain ⟨-, hstall, -⟩ | ⟨hflag, -⟩ := hpeers
    · exact hstall
    · rw [peerList_flag hlist] at hflag
      cases hflag
  · obtain ⟨htile, hfits, hpages⟩ | ⟨hvirt, -, hpages⟩ := hrange
    · exact .inl ⟨htile, hlimit ▸ hfits, hpages⟩
    · exact .inr ⟨hvirt, hpages⟩
  · obtain ⟨hlist, -, hread⟩ | ⟨hflag, hnone, hpeers⟩ := hpeers
    · exact .inl ⟨hlist, hread⟩
    · exact .inr ⟨hflag, hnone, (hgroup _).trans hpeers⟩

end Sys2Proof.Machine
end

section
/-!
PIECE_ISSUE and last-read markers (R154, R174): a marker finds its descriptor by the descriptor's number.
-/
namespace Sys2Proof.Machine

/-- Descriptor 1: a COPY of the scratchpad's first 8 bytes to `dst`, in one piece, with SRC_TAG as given. -/
def copyOfNumberOne (dst : Byte) (srcTag : Byte) (st : PState) : Desc where
  id := 1
  ctx := 0
  kid := 1
  step := 0
  pc := 0
  movId := 0
  raw := padTo 0#8 64 ([0#8, 0#8, 1#8, 0#8, srcTag] ++ List.replicate 11 0#8 ++ dst :: List.replicate 7 0#8 ++ [8#8, 0#8, 0#8, 0#8, 1#8, 0#8, 1#8])
  swap := []
  pieces := [{ freshPiece 0 0 0 8 with state := st }]
  srcSeen := []
  dstSeen := []
  waiting := false
  sentOut := false
  acked := false
  failed := false
  group := 0

/-- Two COPYs of one number in a mover's queue, whose source slot is FULL: the first frees the slot after its last read (SRC_TAG 2)
and has been read; the second, which leaves tags alone (SRC_TAG 0), is the next to issue. -/
def twoOfOneNumber : State :=
  { cores := [(0, { tags := [0], movers := [(0, { queue := [copyOfNumberOne 64 2 .fetched, copyOfNumberOne 128 0 .pending] })] })] }

/-- The issue of the second COPY's piece empties the slot: `Block.srcMarkers` takes the first descriptor of that number. -/
theorem pieceIssue_twoOfOneNumber_tags : ((twoOfOneNumber.toBlock.pieceIssue 0 0).core 0).tags = [] := by decide

/-- What PIECE_ISSUE answers is the block that `Block.pieceIssue` gives. -/
theorem Answers.block_pieceIssue {core m : Nat} {s : State} {P : State → Prop} (h : Answers (.pieceIssue core m) s P) :
    ∃ t, t.toBlock = s.toBlock.pieceIssue core m ∧ P t := by
  obtain ⟨t, hexec, -, hP⟩ := h
  injection hexec with hnext
  exact ⟨t, congrArg State.toBlock hnext.symm, hP⟩

/-- Refutes O16: its first clause keeps the core's tags where the issuing descriptor has no last-read marker, in every state that
meets its hypotheses, and these do not ask that the numbers in a queue differ (as `Core.accept` gives them). A descriptor of the same
number further ahead then lends its marker to the read, and a slot that the statement keeps FULL is emptied. -/
theorem not_moversMoveTheirPieces : ¬ Obligations.MoversMoveTheirPieces := by
  unfold Obligations.MoversMoveTheirPieces
  rintro ⟨hissue, -⟩
  obtain ⟨t, hblock, -, -, htags, -⟩ := (hissue 0 0 twoOfOneNumber (copyOfNumberOne 128 0 .pending) 0 (freshPiece 0 0 0 8) []
    (by decide) (by decide) (by decide) (by decide) (by decide) (by decide) (by decide) (by decide) (by decide) (by decide) (by decide)
    (by decide) (by decide) (by decide)).block_pieceIssue
  have hkept := htags (.inr (by decide))
  rw [hblock, pieceIssue_twoOfOneNumber_tags] at hkept
  exact absurd hkept (by decide)

end Sys2Proof.Machine
end

section
/-!
What reading and programming Firn, the DRAM tier and host memory leaves of the rest (R150, R205, R217, R237).
-/
namespace Sys2Proof.Machine

/-- The block without what trace and log change, the bytes of its stores, what Firn counts of them, and the free values drawn. -/
abbrev Block.sansBytes (b : Block) : Block :=
  { b.quiet with
    freeCtr := 0
    firn := { b.firn with mem := [], poison := [], suspect := [], programs := [], written := 0, uncorr := 0 } }

/-- `c` is `b` after work on bytes: beside trace and log, only bytes of stores, what Firn counts of them, and the free values drawn
differ. -/
structure Block.BytesOnly (b c : Block) : Prop where
  same : c.sansBytes = b.sansBytes

section
variable {b c d : Block}

theorem Block.BytesOnly.refl : b.BytesOnly b := ⟨rfl⟩
theorem Block.BytesOnly.trans (h : b.BytesOnly c) (h' : c.BytesOnly d) : b.BytesOnly d := ⟨h'.same.trans h.same⟩

theorem Traced.bytesOnly (h : Traced b c) : b.BytesOnly c :=
  ⟨congrArg (fun x : Block => { x with
    freeCtr := 0
    firn := { x.firn with mem := [], poison := [], suspect := [], programs := [], written := 0, uncorr := 0 } }) h.1⟩

section
variable (h : b.BytesOnly c)
include h

theorem Block.BytesOnly.time : c.time = b.time := (congrArg (fun x : Block => x.time) h.same :)
theorem Block.BytesOnly.cores : c.cores = b.cores := (congrArg (fun x : Block => x.cores) h.same :)
theorem Block.BytesOnly.ctxs : c.ctxs = b.ctxs := (congrArg (fun x : Block => x.ctxs) h.same :)
theorem Block.BytesOnly.mboxes : c.mboxes = b.mboxes := (congrArg (fun x : Block => x.mboxes) h.same :)
theorem Block.BytesOnly.sec : c.sec = b.sec := (congrArg (fun x : Block => x.sec) h.same :)
theorem Block.BytesOnly.regions : c.dram.regions = b.dram.regions := (congrArg (fun x : Block => x.dram.regions) h.same :)
theorem Block.BytesOnly.models : c.firn.models = b.firn.models := (congrArg (fun x : Block => x.firn.models) h.same :)
theorem Block.BytesOnly.owner : c.firn.owner = b.firn.owner := (congrArg (fun x : Block => x.firn.owner) h.same :)
theorem Block.BytesOnly.hostRegions : c.firn.hostRegions = b.firn.hostRegions := (congrArg (fun x : Block => x.firn.hostRegions) h.same :)
theorem Block.BytesOnly.model : c.model = b.model := (congrArg (fun x : Block => x.model) h.same :)

end

theorem Block.bytesOnly_foldl {α : Type} {f : Block → α → Block} (hf : ∀ (b : Block) x, b.BytesOnly (f b x)) (l : List α) (b : Block) :
    b.BytesOnly (l.foldl f b) :=
  List.foldlRecOn (motive := fun c : Block => b.BytesOnly c) l f .refl fun _ hc x _ => hc.trans (hf _ x)

theorem Block.bytesOnly_foldl_fst {α β : Type} {f : Block × β → α → Block × β} (hf : ∀ (r : Block × β) x, r.1.BytesOnly (f r x).1)
    (l : List α) (b : Block) (y : β) : b.BytesOnly (l.foldl f (b, y)).1 :=
  List.foldlRecOn (motive := fun c : Block × β => b.BytesOnly c.1) l f .refl fun _ hc x _ => hc.trans (hf _ x)

end

section
variable (b : Block)

theorem Block.bytesOnly_emit (i e x n a : Nat) : b.BytesOnly (b.emit i e x n a) := (b.emit_traced ..).bytesOnly

theorem Block.bytesOnly_hostError (st : Option Nat) (a : Nat) : b.BytesOnly (b.hostError st a) := by
  have hdraw : b.BytesOnly b.anyStatus.2 := ⟨rfl⟩
  unfold hostError
  dsimp only
  split
  · exact b.bytesOnly_emit ..
  · exact hdraw.trans (bytesOnly_emit ..)

theorem Block.bytesOnly_hostMissed (a n : Nat) : b.BytesOnly (b.hostMissed a n) := by
  unfold hostMissed
  split
  · exact .refl
  · exact b.bytesOnly_hostError ..

theorem Block.bytesOnly_hostPut (a : Nat) (data : List Byte) : b.BytesOnly (b.hostPut a data).1 := by
  unfold hostPut
  split
  · exact ⟨rfl⟩
  · exact b.bytesOnly_hostError none a

theorem Block.bytesOnly_dramWrite (o : Nat) (data : List Byte) (bad : List Nat) : b.BytesOnly (b.dramWrite o data bad) := ⟨rfl⟩

theorem Block.bytesOnly_dramClear (base len : Nat) : b.BytesOnly (b.dramClear base len) := ⟨rfl⟩

theorem Block.bytesOnly_tracePoison (pa n : Nat) : b.BytesOnly (b.tracePoison pa n) := by
  unfold tracePoison
  dsimp only
  split
  · exact .refl
  · refine bytesOnly_foldl (fun b l => ?_) _ _
    split
    · exact b.bytesOnly_emit ..
    · exact .refl

theorem Block.bytesOnly_firnPoison (pa n : Nat) : b.BytesOnly (b.firnPoison pa n) := by
  unfold firnPoison
  dsimp only
  generalize (if bits pa 51 48 = 1 then _ else []) = bad
  split
  · exact .refl
  · have hcount : b.BytesOnly { b with firn := { b.firn with uncorr := b.firn.uncorr + 1 } } := ⟨rfl⟩
    refine hcount.trans (bytesOnly_foldl (fun b e => ?_) _ _)
    have hsuspect : b.BytesOnly { b with firn := { b.firn with suspect := SSet.insert b.firn.suspect e } } := ⟨rfl⟩
    split
    · exact .refl
    · exact hsuspect.trans (bytesOnly_emit ..)

theorem Block.bytesOnly_firnRead (x : Model) (a n : Nat) : b.BytesOnly (b.firnRead x a n).1 :=
  bytesOnly_foldl_fst (fun r _ => r.1.bytesOnly_firnPoison ..) _ b _

theorem Block.bytesOnly_firnProgram (x : Model) (a : Nat) (data : List Byte) : b.BytesOnly (b.firnProgram x a data) :=
  bytesOnly_foldl (fun _ _ => by exact ⟨rfl⟩) _ b

theorem Firn.countPrograms_eq (es : List Nat) (f : Firn) :
    es.foldl Firn.countProgram f = { f with programs := (es.foldl Firn.countProgram f).programs } :=
  List.foldlRecOn (motive := fun g : Firn => g = { f with programs := g.programs }) es _ rfl fun _ hg e _ =>
    congrArg (fun x : Firn => x.countProgram e) hg

theorem Block.bytesOnly_countPrograms (es : List Nat) : b.BytesOnly (b.modFirn fun f => es.foldl Firn.countProgram f) := by
  rw [modFirn, Firn.countPrograms_eq]
  exact ⟨rfl⟩

/-! ### Packages, tensors and chunks -/

theorem Block.bytesOnly_pkgMissed (addr : Nat) : b.BytesOnly (b.pkgMissed addr) := by
  unfold pkgMissed
  split
  · exact b.bytesOnly_hostMissed ..
  · exact b.bytesOnly_hostMissed ..

theorem Block.bytesOnly_writePlaced (x : Model) (t : Tensor) (off : Nat) (data : List Byte) :
    b.BytesOnly (b.writePlaced x t off data).1 := by
  unfold writePlaced
  split
  · split
    · exact .refl
    · exact b.bytesOnly_dramWrite ..
  · exact b.bytesOnly_hostPut ..

theorem Block.bytesOnly_tensorRead (x : Model) (t : Tensor) : b.BytesOnly (b.tensorRead x t).1 := by
  unfold tensorRead
  dsimp only
  split
  · exact b.bytesOnly_firnRead ..
  · split
    · exact .refl
    · exact b.bytesOnly_tracePoison ..
  · exact b.bytesOnly_hostMissed ..

theorem Block.bytesOnly_badTensors (x : Model) (ts : List Tensor) : b.BytesOnly (b.badTensors x ts).1 :=
  bytesOnly_foldl_fst (fun r t => by exact r.1.bytesOnly_tensorRead x t) _ b _

theorem Block.bytesOnly_programChunk (x : Model) (p : Tensor → Bool) (seen : SSet) (lo : Nat) (data : List Byte) :
    b.BytesOnly (b.programChunk x p seen lo data).1 := by
  refine bytesOnly_foldl_fst (fun r q => ?_) _ b _
  dsimp only
  split
  · exact .refl
  · split
    · exact (r.1.bytesOnly_firnProgram ..).trans (bytesOnly_countPrograms ..)
    · exact r.1.bytesOnly_writePlaced ..

theorem Block.bytesOnly_chunks (o : FirnOp) (x : Model) (key : List Byte) (p : Tensor → Bool) (n : Nat) :
    b.BytesOnly (b.chunks o x key p n).1 := by
  unfold chunks
  split
  · exact .refl
  · refine bytesOnly_foldl_fst (fun r i => ?_) _ b _
    split
    · exact .refl
    · split
      · exact r.1.bytesOnly_hostMissed ..
      · exact r.1.bytesOnly_programChunk ..

theorem Block.bytesOnly_installPart (o : FirnOp) : b.BytesOnly (b.installPart o) := by
  have hdraw : b.BytesOnly b.draw.2 := ⟨rfl⟩
  unfold installPart
  dsimp only
  split
  · exact .refl
  · exact hdraw.trans (bytesOnly_chunks ..)

/-! ### Streams of a build -/

theorem Block.bytesOnly_of_eq {β : Type} {p : Block × β} {c : Block} {y : β} (h : p = (c, y)) (hp : b.BytesOnly p.1) : b.BytesOnly c := by
  rw [h] at hp
  exact hp

/-- Firn's read stands behind a variable: the kernel would unfold its arithmetic on extents. -/
theorem Block.bytesOnly_buildRead (id : Nat) (e : List Byte) : b.BytesOnly (b.buildRead id e).1 := by
  have hfirn := b.bytesOnly_firnRead
  rw [buildRead]
  obtain ⟨read, hread⟩ : ∃ r, b.firnRead = r := ⟨_, rfl⟩
  rw [hread] at hfirn ⊢
  generalize href : (if id = 0 then _ else _ : Block × Except Nat (List Byte)) = ref
  have hb : b.BytesOnly ref.1 := by
    rw [← href]
    split
    · exact .refl
    · split
      · exact .refl
      · split <;> next hread => exact b.bytesOnly_of_eq hread (hfirn ..)
  obtain ⟨c, r | d⟩ := ref
  · exact hb
  · dsimp only
    split
    · exact hb.trans (c.bytesOnly_hostMissed ..)
    · exact hb

theorem Block.bytesOnly_buildInputs (id : Nat) (es : List (List Byte)) : b.BytesOnly (b.buildInputs id es).1 := by
  refine bytesOnly_foldl_fst (fun r e => ?_) _ b _
  split
  · exact .refl
  · next c l => split <;> next hread => exact c.bytesOnly_of_eq hread (c.bytesOnly_buildRead ..)

theorem Block.bytesOnly_buildSpoils (u : Build) : b.BytesOnly (b.buildSpoils u) := ⟨rfl⟩

theorem Block.bytesOnly_buildWrite (base id : Nat) (ins : List BuildIn) : b.BytesOnly (b.buildWrite base id ins).1 := by
  unfold buildWrite
  exact (b.bytesOnly_dramWrite ..).trans (bytesOnly_foldl_fst (fun r _ => by exact r.1.bytesOnly_dramWrite ..) _ _ _)

theorem Block.bytesOnly_buildVerify (base spec : Nat) (ins : List BuildIn) (at_ : List (Nat × Nat)) :
    b.BytesOnly (b.buildVerify base spec ins at_).1 := by
  unfold buildVerify
  split
  · unfold Option.elim
    split
    · exact bytesOnly_tracePoison ..
    · exact .refl
  · exact bytesOnly_foldl_fst (fun r o => by exact r.1.bytesOnly_hostPut ..) _ b _

theorem Block.bytesOnly_buildWork (u : Build) : b.BytesOnly (b.buildWork u).1 := by
  unfold buildWork
  dsimp only
  split
  · exact b.bytesOnly_hostMissed ..
  · split
    · exact .refl
    · split
      · exact .refl
      · split
        · next hins => exact b.bytesOnly_of_eq hins (b.bytesOnly_buildInputs ..)
        · next c ins hins =>
          have hread : b.BytesOnly c := b.bytesOnly_of_eq hins (b.bytesOnly_buildInputs ..)
          have hwritten := hread.trans (c.bytesOnly_buildWrite (fld u.payload 16 8) (fld u.payload 12 1) ins)
          split
          · next hverify => exact hwritten.trans (bytesOnly_of_eq _ hverify (bytesOnly_buildVerify ..))
          · next hverify =>
            exact (hwritten.trans (bytesOnly_of_eq _ hverify (bytesOnly_buildVerify ..))).trans (bytesOnly_buildSpoils ..)

end

end Sys2Proof.Machine
end

section
/-!
Notices, and messages whose operation goes on after the reply (R318, R322).
-/
namespace Sys2Proof.Machine

/-! ### Notices -/

section
variable (b : Block) (page op tag ctx st : Nat) (pl : List Byte)

theorem Block.inq_mbNotice (p : Nat) : ((b.mbNotice page op tag ctx st pl).mbox p).inq = (b.mbox p).inq := by
  by_cases hp : p = page
  · subst hp
    rw [mbNotice, inq_mbPump, mbox_setMbox_same]
    split <;> rfl
  · rw [mbNotice, mbox_mbPump_other _ _ hp, mbox_setMbox_other _ _ _ _ hp]

theorem Block.mem_outq_mbNotice {p : Nat} {r : List Byte} (h : r ∈ (b.mbox p).outq) : r ∈ ((b.mbNotice page op tag ctx st pl).mbox p).outq := by
  by_cases hp : p = page
  · subst hp
    refine mem_outq_mbPump _ _ ?_
    rw [mbox_setMbox_same]
    split <;> exact h
  · rw [mbNotice, mbox_mbPump_other _ _ hp, mbox_setMbox_other _ _ _ _ hp]
    exact h

/-- A message that is out or waits for a place stays so as places free (R322). -/
theorem Block.mem_mbPump {q : Nat} {r : List Byte} (h : r ∈ (b.mbox q).outq ∨ r ∈ (b.mbox q).notices) :
    r ∈ ((b.mbPump page).mbox q).outq ∨ r ∈ ((b.mbPump page).mbox q).notices := by
  by_cases hq : q = page
  · subst hq
    unfold mbPump
    dsimp only
    rw [mbox_setMbox_same]
    dsimp only
    generalize min (16 - _ - _) _ = n
    rw [List.mem_append, or_assoc, ← List.mem_append, List.take_append_drop]
    exact h
  · rwa [mbox_mbPump_other _ _ hq]

/-- A queue of notices loses its oldest at most (R322): the newest is out or waits. -/
theorem Block.mem_mbNotice : mbBytes op tag ctx 3 st pl ∈ ((b.mbNotice page op tag ctx st pl).mbox page).outq ∨
    mbBytes op tag ctx 3 st pl ∈ ((b.mbNotice page op tag ctx st pl).mbox page).notices := by
  refine mem_mbPump _ _ (.inr ?_)
  rw [mbox_setMbox_same]
  split <;> simp

end

/-- The status and the payload of the notice that ends an operation of Firn (R216). -/
theorem noticed_firnNotice (s : State) (b : Block) (op tag reason value : Nat) :
    ({ s with toBlock := b.firnNotice op tag reason value } : State).Noticed 64 op tag 0 (if reason = 0 then stOK else stInvalid)
      [BitVec.ofNat 8 (if reason = 0 then value else reason)] :=
  b.mem_mbNotice ..

/-! ### Messages -/

/-- Records of the same kind beside two blocks that differ in trace, log and mailboxes alone. -/
theorem Leaves.emit {b c : Block} (h : Leaves Block.sansMail b c) (i e x n a : Nat) :
    Leaves Block.sansMail (b.emit i e x n a) (c.emit i e x n a) := by
  have hb := b.emit_traced i e x n a
  have hc := c.emit_traced i e x n a
  refine ⟨?_, fun hp => ?_⟩
  · calc (c.emit i e x n a).quiet.sansMail = c.quiet.sansMail := congrArg Block.sansMail hc.1
      _ = b.quiet.sansMail := h.1
      _ = (b.emit i e x n a).quiet.sansMail := congrArg Block.sansMail hb.1.symm
  · have hplaced (r : Nat) : (b.ring r).placed = none :=
      (congrArg TraceRing.placed (b.site_emit i e x n a r)).symm.trans (hp r)
    have hplaced' (r : Nat) : (c.ring r).placed = none :=
      (congrArg (fun y : Block => (y.ring r).placed) (h.2 hplaced)).trans (hplaced r)
    calc (c.emit i e x n a).muted.sansMail = c.muted.sansMail := congrArg Block.sansMail (hc.2 hplaced')
      _ = b.muted.sansMail := h.2 hplaced
      _ = (b.emit i e x n a).muted.sansMail := congrArg Block.sansMail (hb.2 hplaced).symm

/-- The block that has replied differs from the one that has taken the message in its mailboxes alone. -/
theorem Block.leaves_mbReply (b : Block) (page : Nat) (m : List Byte) (st : Nat) (pl : List Byte) :
    Leaves sansMail b (b.mbReply page m st pl) := ⟨rfl, fun _ => rfl⟩

/-- An operation satisfies `Message` where it leaves the mailboxes as its reply does, whatever it does after it. -/
theorem message_of_replied {mk : Nat → Instr} {op : Nat} {f : Nat → Block → List Byte → Block}
    (hexec : ∀ page s, exec (mk page) s = s.run (·.mbOp page op (f page)))
    {ok : State → Nat → List Byte → Prop} {st : Nat} {pl : State → Nat → List Byte → List Byte}
    {eff : State → Nat → List Byte → Block}
    (hwork : ∀ page s m, s.Turn page op m → ok s page m →
      (f page (s.mbTake page m) m).mboxes = ((s.mbTake page m).mbReply page m st (pl s page m)).mboxes ∧
        Leaves Block.sansMail (eff s page m) (f page (s.mbTake page m) m)) :
    Message mk op ok st pl eff :=
  message_of_reply hexec fun page s m hturn hok => by
    obtain ⟨hboxes, heff⟩ := hwork page s m hturn hok
    refine ⟨{ f page (s.mbTake page m) m with mboxes := (s.mbTake page m).mboxes }, ?_, rfl, heff⟩
    exact congrArg (fun l => { f page (s.mbTake page m) m with mboxes := l }) hboxes

end Sys2Proof.Machine
end

section
/-!
Models, directory sets and placements of Firn (R206, R213, R214, R218).
-/
namespace Sys2Proof

theorem SMap.get_keep {α : Type} (d : α) (m : SMap α) (p : Nat → Bool) (k : Nat) :
    SMap.get d (SMap.keep m p) k = if p k = true then SMap.get d m k else d := by
  induction m with
  | nil => simp [SMap.keep, SMap.get]
  | cons x t ih =>
    obtain ⟨j, v⟩ := x
    unfold SMap.keep at ih ⊢
    by_cases hj : p j = true
    · rw [List.filter_cons_of_pos (p := fun kv : Nat × α => p kv.1) hj]
      simp only [SMap.get, ih]
      split
      · next h => rw [h, if_pos hj]
      · rfl
    · rw [List.filter_cons_of_neg (p := fun kv : Nat × α => p kv.1) hj, ih]
      split
      · next hk =>
        have hne : k ≠ j := fun h => hj (h ▸ hk)
        rw [SMap.get, if_neg hne]
      · rfl

/-- Keys that are all given one value have it, and the others keep theirs. -/
theorem SMap.get_foldl_put_const {α : Type} (d v : α) (l : List Nat) (m : SMap α) (k : Nat) :
    SMap.get d (l.foldl (fun w e => SMap.put w e v) m) k = if k ∈ l then v else SMap.get d m k := by
  induction l generalizing m with
  | nil => simp
  | cons e l ih =>
    rw [List.foldl_cons, ih]
    by_cases hke : k = e
    · subst hke
      simp [SMap.get_put_same]
    · simp [hke, SMap.get_put_other _ _ _ _ _ hke]

end Sys2Proof

namespace Sys2Proof.Machine

/-! ### Commits -/

section
variable (f : Firn)

theorem Firn.commit_eq : ∃ even odd, f.commit = { f with even := even, odd := odd, gen := f.gen + 1 } := by
  unfold commit
  split
  · exact ⟨_, _, rfl⟩
  · exact ⟨_, _, rfl⟩

theorem Firn.models_commit : f.commit.models = f.models := by
  obtain ⟨_, _, h⟩ := f.commit_eq
  rw [h]

theorem Firn.owner_commit : f.commit.owner = f.owner := by
  obtain ⟨_, _, h⟩ := f.commit_eq
  rw [h]

theorem Firn.hostRegions_commit : f.commit.hostRegions = f.hostRegions := by
  obtain ⟨_, _, h⟩ := f.commit_eq
  rw [h]

theorem Firn.op_commit : f.commit.op = f.op := by
  obtain ⟨_, _, h⟩ := f.commit_eq
  rw [h]

theorem Firn.gen_commit : f.commit.gen = f.gen + 1 := by
  obtain ⟨_, _, h⟩ := f.commit_eq
  rw [h]

/-- A commit puts the directory set as it stands in force (R218). -/
theorem Firn.inForce_commit : f.commit.inForce = f.commit.current := by
  unfold commit inForce
  split
  · next h => exact if_neg (by dsimp only; omega)
  · next h => exact if_pos (by dsimp only; omega)

end

section
variable (b : Block) (m st : Nat)

theorem Block.model_modModel_same (f : Model → Model) : (b.modModel m f).model m = f (b.model m) := SMap.get_put_same ..

theorem Block.model_modModel_other (f : Model → Model) {n : Nat} (hn : n ≠ m) : (b.modModel m f).model n = b.model n :=
  SMap.get_put_other _ _ _ _ _ hn

theorem Block.model_dirCommit : b.dirCommit.model = b.model :=
  funext fun n => congrArg (fun l => SMap.get ({} : Model) l n) b.firn.models_commit

/-- The block of a model's change of state, before its record (R206, R218). -/
def Block.modelSet : Block :=
  if st = 2 then b.modModel m (fun x => { x with state := st }) else (b.modModel m (fun x => { x with state := st })).dirCommit

theorem Block.modelState_eq : b.modelState m st = (b.modelSet m st).emit hubIsl 0x0322 0xFF 0 (m + st * 16) := rfl

/-- A model's change of state changes Firn's records alone, beside trace and log. -/
theorem Block.modelState_traced : Traced { b with firn := (b.modelState m st).firn } (b.modelState m st) := by
  have h := (b.modelSet m st).emit_traced hubIsl 0x0322 0xFF 0 (m + st * 16)
  rw [← modelState_eq] at h
  have hset : { b with firn := (b.modelState m st).firn } = b.modelSet m st := by
    rw [h.firn, modelSet]
    split <;> rfl
  rwa [hset]

theorem Block.firn_modelState : (b.modelState m st).firn = (b.modelSet m st).firn :=
  ((b.modelSet m st).emit_traced hubIsl 0x0322 0xFF 0 (m + st * 16)).firn

theorem Block.model_modelState : (b.modelState m st).model = (b.modModel m (fun x => { x with state := st })).model := by
  have h : (b.modelState m st).model = (b.modelSet m st).model := by
    unfold model
    rw [firn_modelState]
  rw [h, modelSet]
  split
  · rfl
  · exact model_dirCommit _

theorem Block.owner_modelState : (b.modelState m st).firn.owner = b.firn.owner := by
  rw [firn_modelState, modelSet]
  split
  · rfl
  · exact Firn.owner_commit _

theorem Block.op_modelState : (b.modelState m st).firn.op = b.firn.op := by
  rw [firn_modelState, modelSet]
  split
  · rfl
  · exact Firn.op_commit _

/-- VERIFYING leaves the directory set in force (R218). -/
theorem Block.inForce_modelState_verifying : (b.modelState m 2).firn.inForce = b.firn.inForce := by
  rw [firn_modelState]
  rfl

/-- Any other change of state puts the directory set in force as it then stands (R218). -/
theorem Block.inForce_modelState {st : Nat} (hst : st ≠ 2) :
    (b.modelState m st).firn.inForce = (b.modelState m st).firn.current ∧ (b.modelState m st).firn.gen = b.firn.gen + 1 := by
  rw [firn_modelState, modelSet, if_neg hst]
  exact ⟨Firn.inForce_commit _, Firn.gen_commit _⟩

end

/-- A change of state commutes with the taking of a message and its reply, but for trace and mailboxes. -/
theorem Leaves.modelState {b c : Block} (h : Leaves Block.sansMail b c) (m st : Nat) :
    Leaves Block.sansMail (b.modelState m st) (c.modelState m st) := by
  have hset : Leaves Block.sansMail (b.modelSet m st) (c.modelSet m st) := by
    unfold Block.modelSet
    split
    · exact h.map (·.modModel m _)
    · exact h.map (fun x => (x.modModel m _).dirCommit)
  exact hset.emit ..

/-! ### Extents and regions cleared -/

theorem Block.BytesOnly.map {b c : Block} (h : b.BytesOnly c) (g : Block → Block)
    (hg : ∀ x : Block, (g x).sansBytes = (g x.sansBytes).sansBytes) :
    (g b).BytesOnly (g c) :=
  ⟨(hg c).trans ((congrArg (fun x => (g x).sansBytes) h.same).trans (hg b).symm)⟩

section
variable (b : Block) (m : Nat)

/-- The block on which a model has no extent and no region, with the bytes of both as they were (R216, R222). -/
def Block.untagged : Block :=
  { b with
    dram := { b.dram with regions := b.dram.regions.filter (fun r => r.model != m) }
    firn := { b.firn with owner := b.firn.owner.filter (fun o => o.2 != m), hostRegions := b.firn.hostRegions.filter (fun r => r.model != m) } }

theorem Block.bytesOnly_cleared : (b.untagged m).BytesOnly ((b.eraseExtents m).releaseRegions m) := by
  have hclear := bytesOnly_foldl (f := fun b (r : Region) => b.dramClear r.base r.len) (fun b _ => b.bytesOnly_dramClear ..)
    ((b.eraseExtents m).dram.regions.filter (fun r => r.model == m)) (b.eraseExtents m)
  have hmap := hclear.map (fun x => { x with
    dram := { x.dram with regions := x.dram.regions.filter (fun r => r.model != m) }
    firn := { x.firn with hostRegions := x.firn.hostRegions.filter (fun r => r.model != m) } }) fun _ => rfl
  have herase : (b.untagged m).BytesOnly { b.eraseExtents m with
      dram := { (b.eraseExtents m).dram with regions := (b.eraseExtents m).dram.regions.filter (fun r => r.model != m) }
      firn := { (b.eraseExtents m).firn with hostRegions := (b.eraseExtents m).firn.hostRegions.filter (fun r => r.model != m) } } := ⟨rfl⟩
  exact herase.trans hmap

theorem Block.bytesOnly_releasePlaced :
    Block.BytesOnly { b with dram := { b.dram with regions := b.dram.regions.filter (fun r => !(r.model == m && !r.variant)) } }
      (b.releasePlaced m) :=
  (bytesOnly_foldl (f := fun b (r : Region) => b.dramClear r.base r.len) (fun b _ => b.bytesOnly_dramClear ..)
    (b.dram.regions.filter (fun r => r.model == m && !r.variant)) b).map (fun x => { x with
      dram := { x.dram with regions := x.dram.regions.filter (fun r => !(r.model == m && !r.variant)) } }) fun _ => rfl

end

end Sys2Proof.Machine
end

section
/-!
Installs, restores and removals of Firn (R213–R219, R222).
-/
namespace Sys2Proof.Machine

/-! ### An install begins -/

section
variable (b : Block) (o : FirnOp)

/-- The block on which an install is doomed with a reason (R216). -/
def Block.doom (r : Nat) : Block := b.modFirn (fun f => { f with op := some { o with doomed := some r } })

/-- The model that an install makes of a manifest and its placement (R211, R217). -/
def FirnOp.placedModel (k : Pkg) (ts : List Tensor) (ext : List Nat) : Model :=
  let p := o.payload
  let inDram := ts.any (fun t => t.place == 1)
  { state := 0, flags := k.flags, digest := k.digest, pubKey := k.pubKey, stamp := 0, tensors := ts, extents := ext,
    dramPart := if inDram then fld p 17 1 else 0xFF, dramBase := if inDram then fld p 24 8 else 0,
    dramLen := if inDram then fld p 32 8 else 0,
    hostBase := if ts.any (fun t => t.place == 2) then fld p 40 8 else 0,
    hostLen := if ts.any (fun t => t.place == 2) then fld p 48 8 else 0, days := none }

/-- The block on which an install has its extents, its placement and its content key (R217). -/
def Block.placed (k : Pkg) (ts : List Tensor) (ext : List Nat) : Block :=
  let x := o.placedModel k ts ext
  let b := b.modFirn (fun f => { f with
    models := SMap.put f.models o.model x
    owner := ext.foldl (fun w e => SMap.put w e o.model) f.owner
    op := some { o with body := k.body, bytes := k.bytes, chunks := k.chunks } })
  ({ b with sec := { b.sec with content := some k.key } }).tagRegions o.model x.dramLen x.hostLen true

/-- The tensors of a manifest placed as R213 says, in the memory that a request names. -/
def Firn.placement (f : Firn) (o : FirnOp) (k : Pkg) : Option (List Tensor × Nat) :=
  placeAll (f.freeExtents * 2097152) (fld o.payload 32 8) (fld o.payload 48 8) (k.flags == 1) k.tensors

/-- The extents that hold a number of bytes (R217). -/
def Firn.extentsFor (f : Firn) (used : Nat) : List Nat := f.choose ((used + 2097151) / 2097152)

variable {b o} {k : Pkg}

theorem Block.beginInstall_of_error {r : Nat} (h : b.readPkg (fld o.payload 0 8) = .error r) :
    b.beginInstall o = (b.doom o r).pkgMissed (fld o.payload 0 8) := by
  simp only [beginInstall, h]
  rfl

theorem Block.beginInstall_of_unfit (h : b.readPkg (fld o.payload 0 8) = .ok k) (hfit : fld o.payload 48 8 ≠ 0 ∧ k.flags = 0) :
    b.beginInstall o = b.doom o 7 := by
  simp only [beginInstall, h]
  exact if_pos hfit

theorem Block.beginInstall_of_full (h : b.readPkg (fld o.payload 0 8) = .ok k) (hfit : ¬(fld o.payload 48 8 ≠ 0 ∧ k.flags = 0))
    (hplace : b.firn.placement o k = none) : b.beginInstall o = b.doom o 6 := by
  unfold Firn.placement at hplace
  simp only [beginInstall, h]
  rw [if_neg hfit, hplace]
  rfl

theorem Block.beginInstall_of_placed {ts : List Tensor} {used : Nat} (h : b.readPkg (fld o.payload 0 8) = .ok k)
    (hfit : ¬(fld o.payload 48 8 ≠ 0 ∧ k.flags = 0)) (hplace : b.firn.placement o k = some (ts, used)) :
    b.beginInstall o = (b.placed o k ts (b.firn.extentsFor used)).modelState o.model 1 := by
  unfold Firn.placement at hplace
  simp only [beginInstall, h]
  rw [if_neg hfit, hplace]
  rfl

/-- An install is doomed: nothing but its reason is noted (R216). -/
def Block.Doomed (b c : Block) (o : FirnOp) (r : Nat) : Prop :=
  c.firn = { b.firn with op := some { o with doomed := some r } } ∧ c.sec = b.sec ∧ c.dram.regions = b.dram.regions ∧ c.cores = b.cores ∧
    c.ctxs = b.ctxs

/-- An install has its extents, its tensors their places, and its content key is held; the model is INSTALLING (R213, R217). -/
def Block.Installs (b c : Block) (o : FirnOp) (k : Pkg) (ts : List Tensor) (ext : List Nat) : Prop :=
  (c.model o.model).state = 1 ∧ (c.model o.model).tensors = ts ∧ (c.model o.model).extents = ext ∧
    (c.model o.model).digest = k.digest ∧ (∀ e ∈ ext, SMap.get 0 c.firn.owner e = o.model) ∧
    (∀ e, e ∉ ext → SMap.get 0 c.firn.owner e = SMap.get 0 b.firn.owner e) ∧
    c.firn.op = some { o with body := k.body, bytes := k.bytes, chunks := k.chunks } ∧ c.sec = { b.sec with content := some k.key } ∧
    c.cores = b.cores ∧ c.ctxs = b.ctxs

theorem Block.doomed_doom (b : Block) (o : FirnOp) (r : Nat) : b.Doomed (b.doom o r) o r := ⟨rfl, rfl, rfl, rfl, rfl⟩

theorem Block.hostMissed_traced (b : Block) (a n : Nat) : ∃ i, Traced { b with freeCtr := i } (b.hostMissed a n) := by
  unfold hostMissed
  split
  · exact ⟨b.freeCtr, .refl b⟩
  · exact ⟨b.freeCtr + 1, emit_traced ..⟩

theorem Block.pkgMissed_traced (b : Block) (addr : Nat) : ∃ i, Traced { b with freeCtr := i } (b.pkgMissed addr) := by
  unfold pkgMissed
  split
  · exact b.hostMissed_traced ..
  · exact b.hostMissed_traced ..

theorem Block.doomed_of_error {r : Nat} (h : b.readPkg (fld o.payload 0 8) = .error r) : b.Doomed (b.beginInstall o) o r := by
  rw [beginInstall_of_error h]
  obtain ⟨i, ht⟩ := (b.doom o r).pkgMissed_traced (fld o.payload 0 8)
  exact ⟨ht.firn, ht.sec, ht.regions, ht.cores, ht.ctxs⟩

theorem Block.installs_placed (b : Block) (o : FirnOp) (k : Pkg) (ts : List Tensor) (ext : List Nat) :
    b.Installs ((b.placed o k ts ext).modelState o.model 1) o k ts ext := by
  have ht := (b.placed o k ts ext).modelState_traced o.model 1
  have hmodel : ((b.placed o k ts ext).modelState o.model 1).model o.model = { o.placedModel k ts ext with state := 1 } := by
    rw [model_modelState, model_modModel_same]
    exact congrArg (fun x : Model => { x with state := 1 }) (SMap.get_put_same ..)
  have howner (e : Nat) : SMap.get 0 ((b.placed o k ts ext).modelState o.model 1).firn.owner e =
      if e ∈ ext then o.model else SMap.get 0 b.firn.owner e := by
    rw [owner_modelState]
    exact SMap.get_foldl_put_const ..
  refine ⟨by rw [hmodel], by rw [hmodel]; rfl, by rw [hmodel]; rfl, by rw [hmodel]; rfl, fun e he => ?_,
    fun e he => ?_, op_modelState .., ht.sec, ht.cores, ht.ctxs⟩
  · rw [howner, if_pos he]
  · rw [howner, if_neg he]

/-! ### MODEL_INSTALL, MODEL_RESTORE_PLACED and MODEL_REMOVE -/

theorem Leaves.hostError {b c : Block} (h : Leaves Block.sansMail b c) (a : Nat) :
    Leaves Block.sansMail (b.hostError none a) (c.hostError none a) := by
  have hfree : c.freeCtr = b.freeCtr := h.observe (·.freeCtr)
  have hdraw : Leaves Block.sansMail b.anyStatus.2 c.anyStatus.2 := h.map (·.anyStatus.2)
  have hstatus : c.anyStatus.1 = b.anyStatus.1 := by rw [Block.anyStatus, Block.draw, hfree]; rfl
  change Leaves Block.sansMail (b.anyStatus.2.emit trelebIsl 0x0421 0xFF 0 (b.anyStatus.1 + a % 2 ^ 48 * 2 ^ 8))
    (c.anyStatus.2.emit trelebIsl 0x0421 0xFF 0 (c.anyStatus.1 + a % 2 ^ 48 * 2 ^ 8))
  rw [hstatus]
  exact hdraw.emit ..

theorem Leaves.hostMissed {b c : Block} (h : Leaves Block.sansMail b c) (hhost : c.hostUp = b.hostUp) (habsent : c.hostAbsent = b.hostAbsent)
    (a n : Nat) : Leaves Block.sansMail (b.hostMissed a n) (c.hostMissed a n) := by
  unfold Block.hostMissed Block.hostAnswers
  rw [hhost, habsent]
  split
  · exact h
  · exact h.hostError a

/-- A package is read from host memory, as far as the island takes keys (R500). -/
theorem Block.readPkg_congr {b c : Block} (hget : c.hostGet = b.hostGet) (hsec : c.sec = b.sec) (addr : Nat) : c.readPkg addr = b.readPkg addr := by
  unfold readPkg
  rw [hget, hsec]

theorem Leaves.pkgMissed {b c : Block} (h : Leaves Block.sansMail b c) (hget : c.hostGet = b.hostGet) (hhost : c.hostUp = b.hostUp)
    (habsent : c.hostAbsent = b.hostAbsent) (addr : Nat) : Leaves Block.sansMail (b.pkgMissed addr) (c.pkgMissed addr) := by
  unfold Block.pkgMissed
  rw [hget]
  split
  · exact h.hostMissed hhost habsent ..
  · exact h.hostMissed hhost habsent ..

theorem Leaves.placed {b c : Block} (h : Leaves Block.sansMail b c) (o : FirnOp) (k : Pkg) (ts : List Tensor) (ext : List Nat) :
    Leaves Block.sansMail (b.placed o k ts ext) (c.placed o k ts ext) :=
  h.map (·.placed o k ts ext)

/-- How an install begins does not depend on the mailboxes. -/
theorem Block.leaves_beginInstall_mbReply (b : Block) (o : FirnOp) (page : Nat) (m : List Byte) (st : Nat) (pl : List Byte) :
    ((b.mbReply page m st pl).beginInstall o).mboxes = (b.mbReply page m st pl).mboxes ∧
      Leaves sansMail (b.beginInstall o) ((b.mbReply page m st pl).beginInstall o) := by
  have hpkg : (b.mbReply page m st pl).readPkg (fld o.payload 0 8) = b.readPkg (fld o.payload 0 8) := readPkg_congr rfl rfl _
  have hleaves := b.leaves_mbReply page m st pl
  cases h : b.readPkg (fld o.payload 0 8) with
  | error r =>
    rw [beginInstall_of_error (hpkg.trans h), beginInstall_of_error h]
    refine ⟨(bytesOnly_pkgMissed _ _).mboxes, ?_⟩
    exact (hleaves.map (·.doom o r)).pkgMissed rfl rfl rfl _
  | ok k =>
    have hfirn : (b.mbReply page m st pl).firn = b.firn := rfl
    by_cases hfit : fld o.payload 48 8 ≠ 0 ∧ k.flags = 0
    · rw [beginInstall_of_unfit (hpkg.trans h) hfit, beginInstall_of_unfit h hfit]
      exact ⟨rfl, hleaves.map (·.doom o 7)⟩
    · cases hplace : b.firn.placement o k with
      | none =>
        rw [beginInstall_of_full (hpkg.trans h) hfit (hfirn ▸ hplace), beginInstall_of_full h hfit hplace]
        exact ⟨rfl, hleaves.map (·.doom o 6)⟩
      | some p =>
        rw [beginInstall_of_placed (hpkg.trans h) hfit (hfirn ▸ hplace), beginInstall_of_placed h hfit hplace, hfirn]
        refine ⟨(modelState_traced ..).mboxes, ?_⟩
        exact (hleaves.placed o k p.1 (b.firn.extentsFor p.2)).modelState ..

end

section
variable {s : State} {page : Nat} {m : List Byte}

theorem firn_mbTake : (s.mbTake page m).firn = s.firn := (s.leaves_mbTake page m).observe (·.firn)
theorem model_mbTake : (s.mbTake page m).model = s.model := (s.leaves_mbTake page m).observe (·.model)
theorem regionsOk_mbTake : (s.mbTake page m).regionsOk = s.regionsOk := (s.leaves_mbTake page m).observe (·.regionsOk)

/-- The checks of R216 that come before the reply find nothing against an install or a restore. -/
theorem placing_accepted {st : Nat} (hidle : s.firn.op = none) (hlow : 1 ≤ fld (mPl m) 16 1) (hhigh : fld (mPl m) 16 1 ≤ 15)
    (hstate : (s.model (fld (mPl m) 16 1)).state = st) (hrsv : rsv (mPl m) 18 6 = true) (halign : fld (mPl m) 0 8 % 4096 = 0)
    (hregions : s.regionsOk (mPl m) (fld (mPl m) 16 1) = true) :
    ¬((s.mbTake page m).firn.op.isSome = true) ∧
      ¬(fld (mPl m) 16 1 = 0 ∨ 15 < fld (mPl m) 16 1 ∨ ((s.mbTake page m).model (fld (mPl m) 16 1)).state ≠ st) ∧
      ¬((!rsv (mPl m) 18 6) = true ∨ fld (mPl m) 0 8 % 4096 ≠ 0 ∨
        (!(s.mbTake page m).regionsOk (mPl m) (fld (mPl m) 16 1)) = true) := by
  rw [firn_mbTake, model_mbTake, regionsOk_mbTake]
  refine ⟨by simp [hidle], ?_, by simp [hrsv, halign, hregions]⟩
  omega

end

theorem message_modelInstall : Message .modelInstall 0x0301 (fun s _ m => s.firn.op = none ∧ 1 ≤ fld (mPl m) 16 1 ∧ fld (mPl m) 16 1 ≤ 15 ∧
      (s.model (fld (mPl m) 16 1)).state = 0 ∧ rsv (mPl m) 18 6 = true ∧ fld (mPl m) 0 8 % 4096 = 0 ∧
      s.regionsOk (mPl m) (fld (mPl m) 16 1) = true)
    stOK (fun _ _ _ => [0#8])
    (fun s page m => (s.mbTake page m).beginInstall ⟨0, mTag m, fld (mPl m) 16 1, mPl m, none, 0, 0, 0⟩) :=
  message_of_replied (fun _ _ => rfl) fun page s m _ ⟨hidle, hlow, hhigh, hstate, hrsv, halign, hregions⟩ => by
    obtain ⟨hone, hid, hfields⟩ := placing_accepted (page := page) hidle hlow hhigh hstate hrsv halign hregions
    dsimp only
    rw [if_neg hone, if_neg hid, if_neg hfields]
    exact (s.mbTake page m).leaves_beginInstall_mbReply ..

theorem message_modelRestorePlaced : Message .modelRestorePlaced 0x0303 (fun s _ m => s.firn.op = none ∧ 1 ≤ fld (mPl m) 16 1 ∧
      fld (mPl m) 16 1 ≤ 15 ∧ (s.model (fld (mPl m) 16 1)).state = 4 ∧ rsv (mPl m) 18 6 = true ∧ fld (mPl m) 0 8 % 4096 = 0 ∧
      s.regionsOk (mPl m) (fld (mPl m) 16 1) = true)
    stOK (fun _ _ _ => [0#8])
    (fun s _ m => s.toBlock.modFirn (fun f => { f with op := some ⟨1, mTag m, fld (mPl m) 16 1, mPl m, none, 0, 0, 0⟩ })) :=
  message_of_replied (fun _ _ => rfl) fun page s m _ ⟨hidle, hlow, hhigh, hstate, hrsv, halign, hregions⟩ => by
    obtain ⟨hone, hid, hfields⟩ := placing_accepted (page := page) hidle hlow hhigh hstate hrsv halign hregions
    dsimp only
    rw [if_neg hone, if_neg hid, if_neg hfields]
    exact ⟨rfl, ((s.leaves_mbTake page m).setMbox page _).map (·.modFirn _)⟩

/-! A record of the module's own asks for no read. -/

section
variable (b : Block)

theorem Block.treleb_ownWrite (pa : Nat) (l : List Byte) : (b.ownWrite pa l).treleb = b.treleb := by
  unfold ownWrite
  split <;> rfl

theorem Block.treleb_traceDrop (r : Nat) : (b.traceDrop r).treleb = b.treleb := by
  unfold traceDrop
  dsimp only
  rw [treleb_setRing]
  split
  · rfl
  · exact b.treleb_ownWrite ..

theorem Block.treleb_traceLand (r : Nat) (rec : List Byte) : (b.traceLand r rec).treleb = b.treleb := by
  unfold traceLand
  dsimp only
  split
  · rfl
  · rw [treleb_setRing, treleb_ownWrite, treleb_ownWrite]

theorem Block.reqs_traceSend (r : Nat) : ∃ l, (b.traceSend r).treleb.reqs = b.treleb.reqs ++ l ∧ ∀ q ∈ l, ∃ i, q.kind = .trace r i := by
  unfold traceSend
  dsimp only
  split
  · split
    · exact ⟨[], (List.append_nil _).symm, by simp⟩
    · exact ⟨_, rfl, by simp⟩
  · exact ⟨[], (List.append_nil _).symm, by simp⟩

/-- An event adds no request to those outstanding but for its own record (R40, R441). -/
theorem Block.reqs_emit (i e x n a : Nat) :
    ∃ l, (b.emit i e x n a).treleb.reqs = b.treleb.reqs ++ l ∧ ∀ q ∈ l, ∃ r j, q.kind = .trace r j := by
  obtain ⟨c, hc, h⟩ := b.emit_cases i e x n a
  have htreleb : c.treleb = b.treleb := (congrArg (fun y : Block => y.treleb) hc :)
  obtain h | ⟨pa, -, h | ⟨rec, h⟩ | ⟨-, w, h⟩⟩ := h
  · exact ⟨[], by rw [h, htreleb, List.append_nil], by simp⟩
  · exact ⟨[], by rw [h, treleb_traceDrop, htreleb, List.append_nil], by simp⟩
  · exact ⟨[], by rw [h, treleb_traceLand, htreleb, List.append_nil], by simp⟩
  · obtain ⟨l, hl, hkind⟩ := (c.setRing (ringOf i) { c.ring (ringOf i) with wait := (c.ring (ringOf i)).wait ++ [w] }).reqs_traceSend (ringOf i)
    refine ⟨l, ?_, fun q hq => ⟨_, hkind q hq⟩⟩
    rw [h, hl, treleb_setRing, htreleb]

theorem Block.regionRead_emit (i e x n a m : Nat) : (b.emit i e x n a).regionRead m = b.regionRead m := by
  obtain ⟨l, hreqs, htrace⟩ := b.reqs_emit i e x n a
  unfold regionRead
  rw [hreqs, firn_emit, List.any_append, Bool.or_eq_left_iff_imp, List.any_eq_true]
  rintro ⟨q, hq, hread⟩
  obtain ⟨r, j, hkind⟩ := htrace q hq
  simp [hkind] at hread

theorem Block.regionRead_mbTake (page : Nat) (m : List Byte) (id : Nat) : (b.mbTake page m).regionRead id = b.regionRead id :=
  b.regionRead_emit ..

end

theorem message_modelRemove : Message .modelRemove 0x0304 (fun s _ m => s.firn.op = none ∧ 1 ≤ fld (mPl m) 0 1 ∧ fld (mPl m) 0 1 ≤ 15 ∧
      rsv (mPl m) 1 55 = true ∧ 3 ≤ (s.model (fld (mPl m) 0 1)).state ∧ (s.model (fld (mPl m) 0 1)).state ≤ 5 ∧
      s.ctxs.any (fun c => SSet.has c.2.grants (fld (mPl m) 0 1)) = false ∧ s.regionRead (fld (mPl m) 0 1) = false ∧
      s.firn.build.any (fun u => fld u.payload 12 1 == fld (mPl m) 0 1) = false)
    stOK (fun _ _ _ => [])
    (fun s _ m => (s.toBlock.modFirn (fun f => { f with op := some ⟨2, mTag m, fld (mPl m) 0 1, mPl m, none, 0, 0, 0⟩ })).modelState
      (fld (mPl m) 0 1) 6) :=
  message_of_replied (fun _ _ => rfl) fun page s m _ ⟨hidle, hlow, hhigh, hrsv, hready, hfailed, hgrants, hread,
    hbuild⟩ => by
    have htake := s.leaves_mbTake page m
    have hctxs : (s.mbTake page m).ctxs = s.ctxs := htake.observe (·.ctxs)
    have hreads : (s.mbTake page m).regionRead (fld (mPl m) 0 1) = false := (s.toBlock.regionRead_mbTake ..).trans hread
    dsimp only
    rw [if_neg, if_neg, if_neg, if_neg]
    · exact ⟨(Block.modelState_traced ..).mboxes, ((htake.setMbox page _).map (·.modFirn _)).modelState ..⟩
    · simp [hctxs, hgrants, hreads, firn_mbTake, hbuild]
    · rw [model_mbTake]
      omega
    · simp [firn_mbTake, hidle]
    · simp only [hrsv, Bool.not_true, Bool.false_eq_true, or_false]
      omega

end Sys2Proof.Machine
end

section
/-!
How installs, restores and removals end (R214, R217, R219, R222).
-/
namespace Sys2Proof.Machine

/-! ### A model is gone -/

/-- `c` is `b` once a model's ID is free: it has no extent and no region, and the other models are as they were (R216, R222). -/
structure Block.Freed (b : Block) (m : Nat) (c : Block) : Prop where
  state : (c.model m).state = 0
  others : ∀ n, n ≠ m → c.model n = b.model n
  owner : ∀ e ∈ c.firn.owner, e.2 ≠ m
  regions : ∀ r ∈ c.dram.regions, r.model ≠ m
  hostRegions : ∀ r ∈ c.firn.hostRegions, r.model ≠ m
  cores : c.cores = b.cores
  ctxs : c.ctxs = b.ctxs
  time : c.time = b.time
  mboxes : c.mboxes = b.mboxes

section
variable {b c d : Block} {m : Nat}

theorem Block.Freed.traced (h : b.Freed m c) (ht : Traced c d) : b.Freed m d where
  state := by rw [model, ht.firn]; exact h.state
  others n hn := by rw [model, ht.firn]; exact h.others n hn
  owner := by rw [ht.firn]; exact h.owner
  regions := by rw [ht.regions]; exact h.regions
  hostRegions := by rw [ht.firn]; exact h.hostRegions
  cores := ht.cores.trans h.cores
  ctxs := ht.ctxs.trans h.ctxs
  time := ht.time.trans h.time
  mboxes := ht.mboxes.trans h.mboxes

theorem Block.Freed.dirCommit (h : b.Freed m c) : b.Freed m c.dirCommit where
  state := by rw [model_dirCommit]; exact h.state
  others n hn := by rw [model_dirCommit]; exact h.others n hn
  owner := by rw [Block.dirCommit, modFirn, Firn.owner_commit]; exact h.owner
  regions := h.regions
  hostRegions := by rw [Block.dirCommit, modFirn, Firn.hostRegions_commit]; exact h.hostRegions
  cores := h.cores
  ctxs := h.ctxs
  time := h.time
  mboxes := h.mboxes

theorem Block.Freed.firnOver (h : b.Freed m c) : b.Freed m c.firnOver :=
  ⟨h.state, h.others, h.owner, h.regions, h.hostRegions, h.cores, h.ctxs, h.time, h.mboxes⟩

end

section
variable (b : Block) (m : Nat)

/-- The extents and regions of a model are cleared and its directory goes (R216, R222). -/
theorem Block.freed_keep (scanning : Option (List Nat) → Option (List Nat)) :
    b.Freed m (((b.eraseExtents m).releaseRegions m).modFirn (fun f => { f with
      models := SMap.keep f.models (fun i => i != m), scanning := scanning f.scanning })) := by
  have h := b.bytesOnly_cleared m
  generalize (b.eraseExtents m).releaseRegions m = c at h ⊢
  have hmodel (n : Nat) : SMap.get ({} : Model) (SMap.keep c.firn.models (fun i => i != m)) n = if n = m then {} else b.model n := by
    rw [SMap.get_keep, h.models]
    by_cases hn : n = m
    · simp [hn]
    · simp only [hn, bne_iff_ne, ne_eq, not_false_eq_true, if_true, if_false]
      rfl
  refine ⟨congrArg Model.state ((hmodel m).trans (if_pos rfl)), fun n hn => (hmodel n).trans (if_neg hn), fun e he => ?_, fun r hr => ?_,
    fun r hr => ?_, h.cores, h.ctxs, h.time, h.mboxes⟩
  · have he' : e ∈ (b.untagged m).firn.owner := h.owner ▸ he
    simpa using (List.mem_filter.mp he').2
  · have hr' : r ∈ (b.untagged m).dram.regions := h.regions ▸ hr
    simpa using (List.mem_filter.mp hr').2
  · have hr' : r ∈ (b.untagged m).firn.hostRegions := h.hostRegions ▸ hr
    simpa using (List.mem_filter.mp hr').2

end

/-- `c` is `b` once an install of a model is over without success: its ID is free, no operation is under way and the content key is
gone (R216, R493). -/
structure Block.Undone (b : Block) (m : Nat) (c : Block) : Prop where
  freed : b.Freed m c
  op : c.firn.op = none
  sec : c.sec = { b.sec with content := none }

theorem Block.Undone.traced {b c d : Block} {m : Nat} (h : b.Undone m c) (ht : Traced c d) : b.Undone m d :=
  ⟨h.freed.traced ht, by rw [ht.firn]; exact h.op, ht.sec.trans h.sec⟩

theorem Block.Undone.dirCommit {b c : Block} {m : Nat} (h : b.Undone m c) : b.Undone m c.dirCommit :=
  ⟨h.freed.dirCommit, by rw [Block.dirCommit, modFirn, Firn.op_commit]; exact h.op, h.sec⟩

/-- What an install that ends otherwise than with success leaves, before its notice (R216). -/
theorem Block.installFailed_eq (b : Block) (o : FirnOp) (reason : Nat) :
    ∃ c, b.installFailed o reason = c.firnNotice 0x0301 o.tag reason 0 ∧ b.Undone o.model c := by
  have hfreed := b.freed_keep o.model id
  have hsec := (b.bytesOnly_cleared o.model).sec
  unfold installFailed
  generalize (b.eraseExtents o.model).releaseRegions o.model = cleared at hfreed hsec ⊢
  have hundone : b.Undone o.model (cleared.firnOver.modFirn (fun f => { f with models := SMap.keep f.models (fun i => i != o.model) })) :=
    ⟨hfreed.firnOver, rfl, congrArg (fun x : Sec => { x with content := none }) hsec⟩
  refine ⟨_, rfl, Undone.traced ?_ (emit_traced ..)⟩
  split
  · exact hundone
  · exact hundone.dirCommit.traced (emit_traced ..)

theorem noticed_installFailed (s : State) (b : Block) (o : FirnOp) {r : Nat} (hr : r ≠ 0) :
    ({ s with toBlock := b.installFailed o r } : State).Noticed 64 0x0301 o.tag 0 stInvalid [BitVec.ofNat 8 r] := by
  obtain ⟨c, hc, -⟩ := b.installFailed_eq o r
  rw [hc]
  simpa only [hr, if_false] using noticed_firnNotice s c 0x0301 o.tag r 0

/-! ### INSTALL_END -/

/-- The block that leads from the tensors read back, with `x` the model's placement, to the end of an install (R217, R219). -/
def Block.installReady (b : Block) (m : Nat) (x : Model) : Block :=
  ((((b.modModel m (fun y => { y with stamp := b.time.keeper })).tagRegions m x.dramLen x.hostLen false).modelState m 3).firnOver).emit
    hubIsl 0x0323 0xFF 0 m

theorem Block.model_emit (b : Block) (i e x n a : Nat) : (b.emit i e x n a).model = b.model := by
  unfold model
  rw [firn_emit]

theorem Block.model_firnOver (b : Block) : b.firnOver.model = b.model := rfl

theorem Block.model_tagRegions (b : Block) (m dramLen hostLen : Nat) (absent : Bool) : (b.tagRegions m dramLen hostLen absent).model = b.model := rfl

section
variable (b : Block) (m : Nat) (x : Model)

theorem Block.model_installReady : (b.installReady m x).model m = { b.model m with stamp := b.time.keeper, state := 3 } := by
  unfold installReady
  rw [model_emit, model_firnOver, model_modelState, model_modModel_same, model_tagRegions, model_modModel_same]

theorem Block.installReady_ends : (b.installReady m x).firn.op = none ∧ (b.installReady m x).sec = { b.sec with content := none } ∧
    (b.installReady m x).cores = b.cores ∧ (b.installReady m x).ctxs = b.ctxs ∧ (b.installReady m x).time = b.time := by
  have hready := ((b.modModel m (fun y => { y with stamp := b.time.keeper })).tagRegions m x.dramLen x.hostLen false).modelState_traced m 3
  unfold installReady
  generalize (tagRegions _ m x.dramLen x.hostLen false).modelState m 3 = c at hready ⊢
  have hover := c.firnOver.emit_traced hubIsl 0x0323 0xFF 0 m
  exact ⟨congrArg Firn.op hover.firn, hover.sec.trans (congrArg (fun y : Sec => { y with content := none }) hready.sec),
    hover.cores.trans hready.cores, hover.ctxs.trans hready.ctxs, hover.time.trans hready.time⟩

end

section
variable {s : State} {o : FirnOp} (hop : s.firn.op = some o) (hkind : o.kind = 0)
include hop hkind

theorem answers_installEnd_doomed {r : Nat} (hdoomed : o.doomed = some r) (hr : r ≠ 0) :
    Answers .installEnd s (fun t => (t.model o.model).state = 0 ∧ t.firn.op = none ∧ t.sec = { s.sec with content := none } ∧
      (∀ e ∈ t.firn.owner, e.2 ≠ o.model) ∧ (∀ g ∈ t.dram.regions, g.model ≠ o.model) ∧ t.cores = s.cores ∧ t.ctxs = s.ctxs ∧
      t.time = s.time ∧ t.Noticed 64 0x0301 o.tag 0 stInvalid [BitVec.ofNat 8 r]) := by
  refine answers_of_run (f := Block.installEnd) rfl ?_
  have hpart : s.toBlock.BytesOnly (if r = 9 then s.installPart o else s.toBlock) := by
    split
    · exact s.toBlock.bytesOnly_installPart o
    · exact .refl
  have hend : s.toBlock.installEnd = (if r = 9 then s.installPart o else s.toBlock).installFailed o r := by
    simp only [Block.installEnd, hop, hdoomed]
    exact if_neg (not_not.mpr hkind)
  rw [hend]
  generalize (if r = 9 then s.installPart o else s.toBlock) = b at hpart ⊢
  have hnotice := noticed_installFailed s b o hr
  obtain ⟨c, hc, hfreed, hnone, hsec⟩ := b.installFailed_eq o r
  rw [hc] at hnotice ⊢
  exact ⟨hfreed.state, hnone, hsec.trans (congrArg (fun x : Sec => { x with content := none }) hpart.sec), hfreed.owner, hfreed.regions,
    hfreed.cores.trans hpart.cores, hfreed.ctxs.trans hpart.ctxs, hfreed.time.trans hpart.time, hnotice⟩

/-- An install whose chunks are authentic and whose tensors read back makes the model READY (R217, R219). -/
theorem answers_installEnd_ready (hdoomed : o.doomed = none) (hwaits : s.placeWaits (s.model o.model).dramPart = false)
    (hchunks : (s.chunks o (s.model o.model) s.contentKey (fun _ => true) o.chunks).2 = true)
    (hread : ((((s.chunks o (s.model o.model) s.contentKey (fun _ => true) o.chunks).1.modelState o.model 2).badTensors (s.model o.model)
      (s.model o.model).tensors).2 = [])) :
    Answers .installEnd s (fun t => (t.model o.model).state = 3 ∧ (t.model o.model).stamp = s.time.keeper ∧ t.firn.op = none ∧
      t.sec = { s.sec with content := none } ∧ t.cores = s.cores ∧ t.ctxs = s.ctxs ∧ t.time = s.time ∧
      t.Noticed 64 0x0301 o.tag 0 stOK [3#8]) := by
  refine answers_of_run (f := Block.installEnd) rfl ?_
  have hprogrammed := s.toBlock.bytesOnly_chunks o (s.model o.model) s.contentKey (fun _ => true) o.chunks
  generalize hw : s.chunks o (s.model o.model) s.contentKey (fun _ => true) o.chunks = w at hchunks hread hprogrammed
  have hverifying := w.1.modelState_traced o.model 2
  have hverified := (w.1.modelState o.model 2).bytesOnly_badTensors (s.model o.model) (s.model o.model).tensors
  generalize hv : (w.1.modelState o.model 2).badTensors (s.model o.model) (s.model o.model).tensors = v at hread hverified
  have hend : s.toBlock.installEnd = (v.1.installReady o.model (s.model o.model)).firnNotice 0x0301 o.tag 0 3 := by
    simp only [Block.installEnd, hop, hdoomed, hw, hv]
    rw [if_neg (not_not.mpr hkind), if_neg (by simp [hwaits]), if_neg (by simp [hchunks]), if_neg (by simp [hread])]
    rfl
  obtain ⟨hnone, hsec, hcores, hctxs, htime⟩ := v.1.installReady_ends o.model (s.model o.model)
  have hkeeper : v.1.time = s.time := hverified.time.trans (hverifying.time.trans hprogrammed.time)
  have hmodel := v.1.model_installReady o.model (s.model o.model)
  rw [hend]
  obtain ⟨c, hc⟩ : ∃ c, v.1.installReady o.model (s.model o.model) = c := ⟨_, rfl⟩
  rw [hc] at hnone hsec hcores hctxs htime hmodel ⊢
  have hstate : (c.model o.model).state = 3 := by rw [hmodel]
  have hstamp : (c.model o.model).stamp = s.time.keeper := by rw [hmodel, ← hkeeper]
  have hcontent : c.sec = { s.sec with content := none } := by rw [hsec, hverified.sec, hverifying.sec, hprogrammed.sec]
  exact ⟨hstate, hstamp, hnone, hcontent, hcores.trans (hverified.cores.trans (hverifying.cores.trans hprogrammed.cores)),
    hctxs.trans (hverified.ctxs.trans (hverifying.ctxs.trans hprogrammed.ctxs)), htime.trans hkeeper, noticed_firnNotice s c 0x0301 o.tag 0 3⟩

end

end Sys2Proof.Machine
end

section
/-!
Cancels, restores and removals end (R214, R219, R222).
-/
namespace Sys2Proof.Machine

/-! ### MODEL_INSTALL_CANCEL -/

/-- A message whose turn it is has its work done, and only unsolicited messages follow where it was alone (R318, R322). -/
theorem answers_mbOp {i : Instr} {s : State} {page op : Nat} {m : List Byte} {f : Block → List Byte → Block} {c : Block} {P : State → Prop}
    (hexec : exec i s = s.run (·.mbOp page op f)) (hturn : s.Turn page op m) (hwork : f (s.mbTake page m) m = c)
    (hempty : (c.mbox page).inq = []) (hP : P { s with toBlock := c.mbPump page }) : Answers i s P := by
  refine answers_of_run hexec ?_
  rwa [Block.mbOp_of_turn hturn.1, hwork, Block.mbDrain_of_inq_nil _ _ hempty]

section
variable {s : State} {page op : Nat} {m : List Byte} (hturn : s.Turn page op m) {d : Block} {st : Nat} {pl : List Byte}
  (hboxes : d.mboxes = ((s.mbTake page m).mbReply page m st pl).mboxes)
include hturn hboxes

theorem inq_mbNotice_of_replied (p op' tag ctx st' : Nat) (pl' : List Byte) : ((d.mbNotice p op' tag ctx st' pl').mbox page).inq = [] := by
  have hbox : d.mbox page = ((s.mbTake page m).mbReply page m st pl).mbox page := by simp only [Block.mbox, hboxes]
  rw [Block.inq_mbNotice, hbox, Block.inq_mbReply, Block.inq_mbTake, hturn.2, List.drop_one, List.tail_cons]

omit hturn in
theorem replied_mbPump_mbNotice (p op' tag ctx st' : Nat) (pl' : List Byte) :
    ({ s with toBlock := (d.mbNotice p op' tag ctx st' pl').mbPump page } : State).Replied page m st pl := by
  have hbox : d.mbox page = ((s.mbTake page m).mbReply page m st pl).mbox page := by simp only [Block.mbox, hboxes]
  exact Block.mem_outq_mbPump _ _ (Block.mem_outq_mbNotice _ _ _ _ _ _ _ (hbox ▸ Block.mem_outq_mbReply ..))

end

theorem noticed_mbPump_firnNotice (s : State) (b : Block) (page op tag : Nat) {r : Nat} (hr : r ≠ 0) :
    ({ s with toBlock := (b.firnNotice op tag r 0).mbPump page } : State).Noticed 64 op tag 0 stInvalid [BitVec.ofNat 8 r] := by
  have h := noticed_firnNotice s b op tag r 0
  rw [if_neg hr, if_neg hr] at h
  exact Block.mem_mbPump _ page h

theorem answers_modelInstallCancel {page : Nat} {s : State} {m : List Byte} {o : FirnOp} (hturn : s.Turn page 0x0302 m) (hop : s.firn.op = some o)
    (hmodel : o.model = fld (mPl m) 0 1) (hkind : o.kind ≤ 1) :
    Answers (.modelInstallCancel page) s (fun t => t.Replied page m stOK [] ∧ t.firn.op = none ∧ t.sec = { s.sec with content := none } ∧
      (o.kind = 0 → (t.model o.model).state = 0 ∧ (∀ e ∈ t.firn.owner, e.2 ≠ o.model) ∧ t.Noticed 64 0x0301 o.tag 0 stInvalid [11#8]) ∧
      (o.kind = 1 → t.firn.models = s.firn.models ∧ t.Noticed 64 0x0303 o.tag 0 stInvalid [11#8]) ∧ t.cores = s.cores ∧ t.ctxs = s.ctxs) := by
  have htook : (s.mbTake page m).firn.op = some o := (congrArg Firn.op firn_mbTake).trans hop
  have htake : Leaves Block.sansMail s.toBlock ((s.mbTake page m).mbReply page m stOK []) := (s.leaves_mbTake page m).setMbox page _
  obtain ⟨c, hc⟩ : ∃ c, (s.mbTake page m).mbReply page m stOK [] = c := ⟨_, rfl⟩
  rw [hc] at htake
  obtain hzero | hone : o.kind = 0 ∨ o.kind = 1 := by omega
  · have hpart := c.bytesOnly_installPart o
    obtain ⟨d, hd, hfreed, hnone, hsec⟩ := (c.installPart o).installFailed_eq o 11
    have hboxes : d.mboxes = ((s.mbTake page m).mbReply page m stOK []).mboxes := by rw [hc, hfreed.mboxes, hpart.mboxes]
    have hcontent : d.sec = { s.sec with content := none } := by
      rw [hsec, hpart.sec]
      exact congrArg (fun x : Sec => { x with content := none }) (htake.observe (·.sec))
    refine answers_mbOp (c := d.firnNotice 0x0301 o.tag 11 0) rfl hturn ?_ (inq_mbNotice_of_replied hturn hboxes ..) ?_
    · simp only [htook, hc, hd, hzero, hmodel]
      simp
    · exact ⟨replied_mbPump_mbNotice hboxes .., hnone, hcontent,
        fun _ => ⟨hfreed.state, hfreed.owner, noticed_mbPump_firnNotice _ _ _ _ _ (by omega)⟩, fun h => by omega,
        hfreed.cores.trans (hpart.cores.trans (htake.observe (·.cores))), hfreed.ctxs.trans (hpart.ctxs.trans (htake.observe (·.ctxs)))⟩
  · obtain ⟨d, hd⟩ : ∃ d, c.firnOver = d := ⟨_, rfl⟩
    have hboxes : d.mboxes = ((s.mbTake page m).mbReply page m stOK []).mboxes := by rw [hc, ← hd]; rfl
    have hnone : d.firn.op = none := by rw [← hd]; rfl
    have hcontent : d.sec = { s.sec with content := none } := by
      rw [← hd]
      exact congrArg (fun x : Sec => { x with content := none }) (htake.observe (·.sec))
    have hmodels : d.firn.models = s.firn.models := hd ▸ htake.observe (·.firn.models)
    have hcores : d.cores = s.cores := hd ▸ htake.observe (·.cores)
    have hctxs : d.ctxs = s.ctxs := hd ▸ htake.observe (·.ctxs)
    refine answers_mbOp (c := d.firnNotice 0x0303 o.tag 11 0) rfl hturn ?_ (inq_mbNotice_of_replied hturn hboxes ..) ?_
    · simp only [htook, hc, hd, hone, hmodel]
      simp
    · exact ⟨replied_mbPump_mbNotice hboxes .., hnone, hcontent, fun h => by omega,
        fun _ => ⟨hmodels, noticed_mbPump_firnNotice _ _ _ _ _ (by omega)⟩, hcores, hctxs⟩

end Sys2Proof.Machine
end

section
/-!
Restores and removals end, and every operation of Firn settled (R213, R214, R216–R219, R222).
-/
namespace Sys2Proof.Machine

/-! ### MODEL_RESTORE_END -/

/-- `c` is `b` after placed tensors went to new places: no model has changed its state (R214). -/
structure Block.Replaced (b c : Block) : Prop where
  sec : c.sec = b.sec
  cores : c.cores = b.cores
  ctxs : c.ctxs = b.ctxs
  state : ∀ n, (c.model n).state = (b.model n).state

section
variable {b c d : Block}

theorem Block.Replaced.refl : b.Replaced b := ⟨rfl, rfl, rfl, fun _ => rfl⟩

theorem Block.Replaced.trans (h : b.Replaced c) (h' : c.Replaced d) : b.Replaced d :=
  ⟨h'.sec.trans h.sec, h'.cores.trans h.cores, h'.ctxs.trans h.ctxs, fun n => (h'.state n).trans (h.state n)⟩

theorem Block.BytesOnly.replaced (h : b.BytesOnly c) : b.Replaced c :=
  ⟨h.sec, h.cores, h.ctxs, fun n => by rw [h.model]⟩

end

section
variable (b : Block)

theorem Block.replaced_tagRegions (m dramLen hostLen : Nat) (absent : Bool) : b.Replaced (b.tagRegions m dramLen hostLen absent) :=
  ⟨rfl, rfl, rfl, fun _ => rfl⟩

theorem Block.replaced_releasePlaced (m : Nat) : b.Replaced (b.releasePlaced m) :=
  Replaced.trans (c := { b with dram := { b.dram with regions := b.dram.regions.filter (fun r => !(r.model == m && !r.variant)) } })
    ⟨rfl, rfl, rfl, fun _ => rfl⟩ (b.bytesOnly_releasePlaced m).replaced

theorem Block.replaced_modModel (m : Nat) {f : Model → Model} (hf : (f (b.model m)).state = (b.model m).state) : b.Replaced (b.modModel m f) := by
  refine ⟨rfl, rfl, rfl, fun n => ?_⟩
  by_cases hn : n = m
  · rw [hn, model_modModel_same, hf]
  · rw [model_modModel_other _ _ _ hn]

/-- A model whose placed tensors are to lie in the memory that a restore names (R214). -/
def Model.moved (x : Model) (p : List Byte) : Model :=
  let d := !(x.placed 1).isEmpty
  let h := !(x.placed 2).isEmpty
  { x with
    dramPart := if d then fld p 17 1 else 0xFF, dramBase := if d then fld p 24 8 else 0
    dramLen := if d then fld p 32 8 else 0
    hostBase := if h then fld p 40 8 else 0, hostLen := if h then fld p 48 8 else 0 }

/-- The placed tensors of the model `x` are written anew from a package and read back (R214). -/
def Block.replace (b : Block) (o : FirnOp) (k : Pkg) (x : Model) : Block × Nat :=
  let b := ((b.releasePlaced o.model).modModel o.model (fun _ => x)).tagRegions o.model x.dramLen x.hostLen true
  let w := b.chunks { o with body := k.body, bytes := k.bytes, chunks := k.chunks } x k.key (fun t => t.place != 0) k.chunks
  if !w.2 then (w.1, 9)
  else
    let v := w.1.badTensors x (x.tensors.filter (fun t => t.place != 0))
    (if v.2.isEmpty then v.1.tagRegions o.model x.dramLen x.hostLen false else v.1, if v.2.isEmpty then 0 else 10)

theorem Block.replaced_replace (o : FirnOp) (k : Pkg) {x : Model} (hx : x.state = (b.model o.model).state) : b.Replaced (b.replace o k x).1 := by
  have htagged : b.Replaced (((b.releasePlaced o.model).modModel o.model (fun _ => x)).tagRegions o.model x.dramLen x.hostLen true) :=
    ((b.replaced_releasePlaced o.model).trans ((b.releasePlaced o.model).replaced_modModel o.model
      (hx.trans ((b.replaced_releasePlaced o.model).state _).symm))).trans (replaced_tagRegions ..)
  have hwritten := htagged.trans
    (bytesOnly_chunks _ { o with body := k.body, bytes := k.bytes, chunks := k.chunks } x k.key (fun t => t.place != 0) k.chunks).replaced
  have hread := hwritten.trans (bytesOnly_badTensors _ x (x.tensors.filter (fun t => t.place != 0))).replaced
  unfold replace
  dsimp only
  split
  · exact hwritten
  · dsimp only
    split
    · exact hread.trans (replaced_tagRegions ..)
    · exact hread

/-- The work of a restore moves tensors, whatever its outcome (R214). -/
theorem Block.replaced_restoreWork (o : FirnOp) : b.Replaced (b.restoreWork o).1 := by
  rw [restoreWork]
  split
  · exact .refl
  · exact (b.bytesOnly_pkgMissed _).replaced
  · next k _ _ =>
    split
    · exact .refl
    · split
      · exact .refl
      · exact b.replaced_replace o k (x := (b.model o.model).moved o.payload) rfl

end

theorem Block.inForce_firnOver {b : Block} (h : b.firn.inForce = b.firn.current) : b.firnOver.firn.inForce = b.firnOver.firn.current := h

section
variable {s : State} {o : FirnOp} (hop : s.firn.op = some o)
include hop

theorem answers_modelRestoreEnd (hkind : o.kind = 1) (hwaits : s.placeWaits (fld o.payload 17 1) = false) :
    Answers .modelRestoreEnd s (fun t => t.firn.op = none ∧ t.sec = { s.sec with content := none } ∧ t.cores = s.cores ∧ t.ctxs = s.ctxs ∧
      ((s.restoreWork o).2 = 0 → (t.model o.model).state = 3 ∧ t.Noticed 64 0x0303 o.tag 0 stOK [3#8]) ∧
      ((s.restoreWork o).2 ≠ 0 → (t.model o.model).state = (s.model o.model).state ∧
        t.Noticed 64 0x0303 o.tag 0 stInvalid [BitVec.ofNat 8 (s.restoreWork o).2])) := by
  refine answers_of_run (f := Block.modelRestoreEnd) rfl ?_
  have hwork := s.toBlock.replaced_restoreWork o
  obtain ⟨w, hw⟩ : ∃ w, s.toBlock.restoreWork o = w := ⟨_, rfl⟩
  rw [hw] at hwork ⊢
  have hrun : s.toBlock.modelRestoreEnd = (if w.2 = 0 then w.1.modelState o.model 3 else w.1).firnOver.firnNotice 0x0303 o.tag w.2 3 := by
    simp only [Block.modelRestoreEnd, hop, hw]
    exact if_neg (by simp [hkind, hwaits])
  obtain ⟨c, hc⟩ : ∃ c, (if w.2 = 0 then w.1.modelState o.model 3 else w.1) = c := ⟨_, rfl⟩
  have hends : c.sec = s.sec ∧ c.cores = s.cores ∧ c.ctxs = s.ctxs ∧
      (c.model o.model).state = if w.2 = 0 then 3 else (s.model o.model).state := by
    rw [← hc]
    split
    · have hready := w.1.modelState_traced o.model 3
      exact ⟨hready.sec.trans hwork.sec, hready.cores.trans hwork.cores, hready.ctxs.trans hwork.ctxs,
        by rw [Block.model_modelState, Block.model_modModel_same]⟩
    · exact ⟨hwork.sec, hwork.cores, hwork.ctxs, hwork.state _⟩
  obtain ⟨hsec, hcores, hctxs, hstate⟩ := hends
  obtain ⟨hnone, hcontent⟩ : c.firnOver.firn.op = none ∧ c.firnOver.sec = { s.sec with content := none } := ⟨rfl, by rw [← hsec]; rfl⟩
  have hnotice := noticed_firnNotice s c.firnOver 0x0303 o.tag w.2 3
  replace hcores : c.firnOver.cores = s.cores := hcores
  replace hctxs : c.firnOver.ctxs = s.ctxs := hctxs
  rw [← c.model_firnOver] at hstate
  rw [hrun, hc]
  generalize c.firnOver = d at hnone hcontent hcores hctxs hstate hnotice ⊢
  refine ⟨hnone, hcontent, hcores, hctxs, fun hr => ?_, fun hr => ?_⟩
  · simp only [hr, if_true] at hstate hnotice ⊢
    exact ⟨hstate, hnotice⟩
  · simp only [hr, if_false] at hstate hnotice
    exact ⟨hstate, hnotice⟩

/-! ### MODEL_REMOVE_END -/

theorem answers_modelRemoveEnd (hkind : o.kind = 2) :
    Answers .modelRemoveEnd s (fun t => (t.model o.model).state = 0 ∧ t.firn.op = none ∧
      (∀ e ∈ t.firn.owner, e.2 ≠ o.model) ∧ (∀ r ∈ t.dram.regions, r.model ≠ o.model) ∧
      (∀ r ∈ t.firn.hostRegions, r.model ≠ o.model) ∧
      (∀ n, n ≠ o.model → t.model n = s.model n) ∧ t.firn.inForce = t.firn.current ∧
      t.cores = s.cores ∧ t.ctxs = s.ctxs ∧ t.Noticed 64 0x0304 o.tag 0 stOK [0#8]) := by
  refine answers_of_run (f := Block.modelRemoveEnd) rfl ?_
  have hrun : s.toBlock.modelRemoveEnd = (s.toBlock.finishRemoval o.model).firnOver.firnNotice 0x0304 o.tag 0 0 := by
    simp only [Block.modelRemoveEnd, hop]
    exact if_neg (not_not.mpr hkind)
  have hfreed : s.toBlock.Freed o.model (s.toBlock.finishRemoval o.model) :=
    (s.toBlock.freed_keep o.model (Option.map (fun l => l.filter (· != o.model)))).dirCommit.traced (Block.emit_traced ..)
  have hforce : (s.toBlock.finishRemoval o.model).firn.inForce = (s.toBlock.finishRemoval o.model).firn.current := by
    rw [Block.finishRemoval, Block.firn_emit]
    exact Firn.inForce_commit _
  rw [hrun]
  have hover := hfreed.firnOver
  have hnone : (s.toBlock.finishRemoval o.model).firnOver.firn.op = none := rfl
  replace hforce := Block.inForce_firnOver hforce
  generalize (s.toBlock.finishRemoval o.model).firnOver = c at hover hforce hnone ⊢
  have hnotice := noticed_firnNotice s c 0x0304 o.tag 0 0
  exact ⟨hover.state, hnone, hover.owner, hover.regions, hover.hostRegions, hover.others, hforce, hover.cores, hover.ctxs, hnotice⟩

end

/-! ### The obligation -/

/-- How an install begins, by what its package holds and where its tensors fit (R213, R217). -/
theorem beginInstall_outcomes (b : Block) (o : FirnOp) :
    match b.readPkg (fld o.payload 0 8) with
    | .error r => b.Doomed (b.beginInstall o) o r
    | .ok k =>
      if fld o.payload 48 8 ≠ 0 ∧ k.flags = 0 then b.Doomed (b.beginInstall o) o 7
      else match b.firn.placement o k with
        | none => b.Doomed (b.beginInstall o) o 6
        | some (ts, used) => b.Installs (b.beginInstall o) o k ts (b.firn.extentsFor used) := by
  split
  · next r h => exact Block.doomed_of_error h
  · next k h =>
    split
    · next hfit => exact Block.beginInstall_of_unfit h hfit ▸ b.doomed_doom o 7
    · next hfit =>
      split
      · next hplace => exact Block.beginInstall_of_full h hfit hplace ▸ b.doomed_doom o 6
      · next hplace => exact Block.beginInstall_of_placed h hfit hplace ▸ b.installs_placed ..

/-- What a model's change of state does to it and to the directory set in force (R218). -/
theorem modelState_outcomes (b : Block) (m st : Nat) : (b.modelState m st).model m = { b.model m with state := st } ∧
    (∀ n, n ≠ m → (b.modelState m st).model n = b.model n) ∧ (st = 2 → (b.modelState m st).firn.inForce = b.firn.inForce) ∧
    (st ≠ 2 → (b.modelState m st).firn.inForce = (b.modelState m st).firn.current ∧ (b.modelState m st).firn.gen = b.firn.gen + 1) := by
  refine ⟨?_, fun n hn => ?_, fun h => h ▸ b.inForce_modelState_verifying m, b.inForce_modelState m⟩
  · rw [Block.model_modelState, Block.model_modModel_same]
  · rw [Block.model_modelState, Block.model_modModel_other _ _ _ hn]

/-- Settles O33: each clause is the lemma about its instruction; what ends an operation goes through `Block.Freed`, what works on
bytes through `Block.BytesOnly`. -/
theorem firnOperationsRun : Obligations.FirnOperationsRun :=
  ⟨⟨message_modelInstall, message_modelRestorePlaced, message_modelRemove⟩, ⟨beginInstall_outcomes, modelState_outcomes⟩,
    ⟨fun _ _ hop hkind hdoomed hwaits hchunks hread => answers_installEnd_ready hop hkind hdoomed hwaits hchunks hread,
      fun _ _ _ hop hkind hdoomed hr => answers_installEnd_doomed hop hkind hdoomed hr⟩,
    fun _ _ _ _ hturn hop hmodel hkind => answers_modelInstallCancel hturn hop hmodel hkind,
    fun _ _ hop hkind hwaits => answers_modelRestoreEnd hop hkind hwaits, fun _ _ hop hkind => answers_modelRemoveEnd hop hkind⟩

end Sys2Proof.Machine
end

section
/-!
What an abort of a context leaves of time, of the grants and of the aborts before it (R209, R368, R369).
-/
namespace Sys2Proof.Machine

/-- What the stops of an abort leave: the aborts under way and their count, time, and the grants of every context. -/
structure Dues where
  aborts : List Abort
  abortId : Nat
  time : Time
  grants : Nat → SSet

def Block.dues (b : Block) : Dues := ⟨b.aborts, b.abortId, b.time, fun x => (b.ctx x).grants⟩

/-- One more abort is under way (R369). -/
def Dues.accept (d : Dues) (a : Abort) : Dues := { d with aborts := d.aborts ++ [a], abortId := d.abortId + 1 }

section
variable (b : Block)

theorem Block.dues_of_traced {c : Block} (h : Traced b c) : c.dues = b.dues := by
  unfold dues ctx
  rw [h.aborts, h.abortId, h.time, h.ctxs]

theorem Block.dues_modCore (core : Nat) (f : Core → Core) : (b.modCore core f).dues = b.dues := rfl

theorem Block.dues_modCtx (ctx : Nat) {f : Ctx → Ctx} (hf : ∀ x, (f x).grants = x.grants) : (b.modCtx ctx f).dues = b.dues := by
  refine congrArg (Dues.mk b.aborts b.abortId b.time) (funext fun x => ?_)
  by_cases hx : x = ctx
  · rw [hx, modCtx_eq, ctx_setCtx_same, hf]
  · rw [modCtx_eq, ctx_setCtx_other _ _ _ _ hx]

theorem Block.dues_foldl {α : Type} (f : Block → α → Block) (h : ∀ b x, (f b x).dues = b.dues) (l : List α) (b : Block) :
    (l.foldl f b).dues = b.dues :=
  List.foldlRecOn (motive := fun c : Block => c.dues = b.dues) l f rfl fun c hc x _ => (h c x).trans hc

theorem Block.dues_emit (i e x n a : Nat) : (b.emit i e x n a).dues = b.dues := b.dues_of_traced (b.emit_traced ..)

theorem Block.dues_emitCtx (i e x a : Nat) : (b.emitCtx i e x a).dues = b.dues := b.dues_emit ..

theorem Block.dues_crossTo (src : Nat) (dsts : List Nat) : (b.crossTo src dsts).dues = b.dues :=
  dues_foldl _ (fun b _ => b.dues_of_traced (b.cross_traced ..)) _ _

theorem Block.dues_unpark (core m : Nat) : (b.unpark core m).dues = b.dues := by
  unfold unpark
  dsimp only
  split
  · exact dues_modCtx _ _ fun _ => rfl
  · rfl

theorem Block.dues_unparkAttn (core ctx : Nat) : (b.unparkAttn core ctx).dues = b.dues := by
  unfold unparkAttn
  dsimp only
  split
  · exact b.dues_unpark ..
  · rfl

theorem Block.dues_cancelMovers (core : Nat) (p : Desc → Bool) : (b.cancelMovers core p).dues = b.dues := by
  refine dues_foldl _ (fun b m => ?_) _ _
  dsimp only
  split
  · rfl
  · rw [dues_foldl _ fun b d => b.dues_emitCtx .., dues_modCore]
    split
    · exact b.dues_unpark ..
    · rfl

theorem Block.dues_bank (core : Nat) : (b.bank core).dues = b.dues := by
  unfold bank
  dsimp only
  split
  · rfl
  · refine (dues_modCore ..).trans (b.dues_modCtx _ ?_)
    exact fun _ => rfl

theorem Block.dues_abortKernel (core kid : Nat) (other : Bool) : (b.abortKernel core kid other).dues = b.dues := by
  unfold abortKernel
  dsimp only
  split
  · split
    · rfl
    · rfl
  · split
    · exact dues_cancelMovers ..
    · rw [apply_ite dues, dues_emitCtx, ite_self, dues_cancelMovers, dues_modCore, dues_bank]

/-- An abort that is accepted is under way after those before it, and its number is used up (R369). -/
theorem Block.dues_acceptAbort (ctx scope : Nat) (seqs : List Nat) (kids : List (Nat × Nat)) (drop : Nat) (page : Option Nat)
    (other : Bool) : ∃ run, (b.acceptAbort ctx scope seqs kids drop page other).dues =
      b.dues.accept ⟨b.dues.abortId, ctx, scope, seqs, kids, b.dues.time.keeper, drop, page, run⟩ := by
  unfold acceptAbort
  dsimp only
  generalize (List.filter _ _).flatMap _ = run
  refine ⟨run, ?_⟩
  generalize hc : run.foldl (fun (b : Block) c => b.unparkAttn c ctx) _ = c
  have hdues : c.dues = b.dues := by
    rw [← hc]
    refine (dues_foldl (fun b c => b.unparkAttn c ctx) (fun b c => b.dues_unparkAttn ..) _ _).trans ?_
    refine (dues_foldl _ (fun b c => b.dues_modCore ..) _ _).trans ?_
    refine (dues_foldl _ (fun b ck => (dues_abortKernel ..).trans (b.dues_crossTo ..)) _ _).trans ?_
    refine (dues_modCtx _ _ ?_).trans (b.dues_emit ..)
    exact fun _ => rfl
  exact congrArg (fun d : Dues => d.accept ⟨d.abortId, ctx, scope, seqs, kids, d.time.keeper, drop, page, run⟩) hdues

theorem Block.dues_retireGroups (ctx : Nat) : (b.retireGroups ctx).dues = b.dues := by
  unfold retireGroups
  refine (dues_modCtx _ _ ?_).trans rfl
  exact fun _ => rfl

theorem Block.dues_retireStep (ctx why : Nat) : (b.retireStep ctx why).dues = b.dues := by
  unfold retireStep
  refine (dues_retireGroups ..).trans ((dues_modCtx _ _ ?_).trans (b.dues_emit ..))
  exact fun _ => rfl

theorem Block.mboxes_retireStep (ctx why : Nat) : (b.retireStep ctx why).mboxes = b.mboxes := (b.emit_traced ..).mboxes

/-- An abort of a context: one abort more is under way, and memories, mailboxes, time and grants are as they were (R368, R369). -/
theorem Block.abortCtx_keeps (ctx : Nat) (page : Option Nat) : (b.abortCtx ctx page).stores = b.stores ∧ (b.abortCtx ctx page).mboxes = b.mboxes ∧
    ∃ a : Abort, (b.abortCtx ctx page).dues = b.dues.accept a ∧ a.id = b.dues.abortId ∧ a.ctx = ctx ∧ a.scope = 2 ∧ a.page = page ∧
      a.t0 = b.dues.time.keeper := by
  unfold abortCtx
  dsimp only
  generalize hc : (if (b.ctx ctx).step = .waiting ∨ (b.ctx ctx).step = .opened then b.retireStep ctx 3 else b) = c
  have hretired : c.stores = b.stores ∧ c.mboxes = b.mboxes ∧ c.dues = b.dues := by
    rw [← hc]
    split
    · exact ⟨b.stores_retireStep .., b.mboxes_retireStep .., b.dues_retireStep ..⟩
    · exact ⟨rfl, rfl, rfl⟩
  obtain ⟨hstores, hboxes, hdues⟩ := hretired
  generalize List.map _ _ = seqs, List.foldl _ _ _ = kids
  obtain ⟨run, haccepted⟩ := c.dues_acceptAbort ctx 2 seqs kids 3 page false
  refine ⟨(c.stores_acceptAbort ..).trans hstores, (congrArg Prod.snd (c.served_acceptAbort ctx 2 seqs kids 3 page false)).trans hboxes,
    ⟨b.dues.abortId, ctx, 2, seqs, kids, b.dues.time.keeper, 3, page, run⟩, haccepted.trans ?_, rfl, rfl, rfl, rfl, rfl⟩
  rw [hdues]

end

end Sys2Proof.Machine
end

section
/-!
Grants, revokes and the records of Firn, settled (R209, R221, R331, R332).
-/
namespace Sys2Proof.Machine

/-! ### MODEL_GRANT and MODEL_REVOKE -/

theorem message_modelGrant : Message .modelGrant 0x0305 (fun s _ m => 1 ≤ fld (mPl m) 0 1 ∧ fld (mPl m) 0 1 ≤ 15 ∧ fld (mPl m) 1 1 = 0 ∧
      mCtx m < 64 ∧ (s.ctx (mCtx m)).state ≠ 0 ∧ (SSet.has (s.ctx (mCtx m)).grants (fld (mPl m) 0 1) = true ∨
        (s.model (fld (mPl m) 0 1)).state = 3 ∨ (s.model (fld (mPl m) 0 1)).state = 4))
    stOK (fun _ _ _ => [])
    (fun s _ m => if SSet.has (s.ctx (mCtx m)).grants (fld (mPl m) 0 1) then s.toBlock
      else s.toBlock.setCtx (mCtx m) { s.ctx (mCtx m) with grants := SSet.insert (s.ctx (mCtx m)).grants (fld (mPl m) 0 1) }) :=
  message_of_reply (fun _ _ => rfl) fun page s m _ ⟨hlow, hhigh, hflags, hctx, hcreated, hready⟩ => by
    have htake := s.leaves_mbTake page m
    dsimp only
    rw [Block.ctx_mbTake, model_mbTake, if_neg (by omega)]
    by_cases hhas : SSet.has (s.ctx (mCtx m)).grants (fld (mPl m) 0 1) = true
    · rw [if_pos hhas, if_pos hhas]
      exact ⟨_, rfl, rfl, htake⟩
    · have hstate := hready.resolve_left hhas
      rw [if_neg hhas, if_neg hhas, if_neg (by omega), Block.modCtx_eq, Block.ctx_mbTake]
      exact ⟨_, rfl, rfl, htake.map (·.setCtx (mCtx m) _)⟩

theorem message_modelRevoke : Message .modelRevoke 0x0306 (fun s _ m => 1 ≤ fld (mPl m) 0 1 ∧ fld (mPl m) 0 1 ≤ 15 ∧ fld (mPl m) 1 1 = 0 ∧
      mCtx m < 64 ∧ (s.ctx (mCtx m)).state ≠ 0)
    stOK (fun _ _ _ => [])
    (fun s _ m => if SSet.has (s.ctx (mCtx m)).grants (fld (mPl m) 0 1) then
        s.toBlock.setCtx (mCtx m) { s.ctx (mCtx m) with grants := SSet.erase (s.ctx (mCtx m)).grants (fld (mPl m) 0 1) }
      else s.toBlock) :=
  message_of_reply (fun _ _ => rfl) fun page s m _ ⟨hlow, hhigh, hflags, hctx, hcreated⟩ => by
    have htake := s.leaves_mbTake page m
    dsimp only
    rw [Block.ctx_mbTake, if_neg (by omega)]
    by_cases hhas : SSet.has (s.ctx (mCtx m)).grants (fld (mPl m) 0 1) = true
    · rw [if_pos hhas, if_neg (by simp [hhas]), if_pos hflags, Block.revoke, Block.modCtx_eq, Block.ctx_mbTake]
      exact ⟨_, rfl, rfl, htake.map (·.setCtx (mCtx m) _)⟩
    · rw [if_neg hhas, if_pos (by simp [hhas])]
      exact ⟨_, rfl, rfl, htake⟩

theorem SSet.has_insert_erase (g : SSet) (i x : Nat) :
    SSet.has (SSet.insert g i) x = (x == i || SSet.has g x) ∧ SSet.has (SSet.erase g i) x = (x != i && SSet.has g x) := by
  refine ⟨?_, ?_⟩
  · rw [SSet.has_insert, beq_eq_decide]
  · rw [SSet.has_erase, bne, beq_eq_decide, decide_not]

/-! ### A revoke with FORCE -/

theorem Block.busy_mbPump (b : Block) (page : Nat) : ((b.mbPump page).mbox page).busy = (b.mbox page).busy := by
  simp [mbPump]

/-- A grant that is held is taken only once the abort has ended, and the message waits for it (R209, R323, R331). -/
theorem answers_modelRevoke_force {page : Nat} {s : State} {m : List Byte} (hturn : s.Turn page 0x0306 m) (hlow : 1 ≤ fld (mPl m) 0 1)
    (hhigh : fld (mPl m) 0 1 ≤ 15) (hforce : fld (mPl m) 1 1 = 1) (hctx : mCtx m < 64) (hcreated : (s.ctx (mCtx m)).state ≠ 0)
    (hhas : SSet.has (s.ctx (mCtx m)).grants (fld (mPl m) 0 1) = true) :
    Answers (.modelRevoke page) s (fun t => (t.ctx (mCtx m)).grants = (s.ctx (mCtx m)).grants ∧ s.Aborting t page m (mCtx m) 2) := by
  have htake := s.leaves_mbTake page m
  have hstores : (s.mbTake page m).stores = s.stores := htake.observe (·.stores)
  have htaken : (s.mbTake page m).dues = s.dues := htake.observe (·.dues)
  obtain ⟨hmem, hboxes, a, hdues, haid, hactx, hascope, hapage, hat0⟩ := (s.mbTake page m).abortCtx_keeps (mCtx m) (some page)
  obtain ⟨c, hc⟩ : ∃ c, (s.mbTake page m).abortCtx (mCtx m) (some page) = c := ⟨_, rfl⟩
  rw [hc] at hmem hboxes hdues
  rw [htaken] at hdues haid hat0
  have haborts : c.aborts = s.aborts ++ [a] := congrArg Dues.aborts hdues
  have hgrants : (c.ctx (mCtx m)).grants = (s.ctx (mCtx m)).grants := congrArg (fun d : Dues => d.grants (mCtx m)) hdues
  have hid : (s.mbTake page m).abortId = s.abortId := congrArg Dues.abortId htaken
  have hnew : (c.newAborts (s.mbTake page m)).contains s.abortId = true := by
    have ha : a.id = s.abortId := haid
    simp [Block.newAborts, haborts, ha, hid]
  have hinq : (c.mbox page).inq = [] := by
    rw [Block.mbox, hboxes]
    exact (Block.inq_mbTake ..).trans (by rw [hturn.2, List.drop_one, List.tail_cons])
  refine answers_mbOp (c := c.mbBusy page m (c.newAborts (s.mbTake page m)) []) rfl hturn ?_ ?_ ?_
  · dsimp only
    rw [Block.ctx_mbTake, if_neg (by omega), if_neg (by simp [hhas]), if_neg (by omega), hc]
  · rw [Block.mbBusy, Block.modMbox_eq, Block.mbox_setMbox_same]
    exact hinq
  · refine ⟨hgrants, ⟨a, haborts, haid, hactx, hascope, hapage, hat0.trans ?_⟩,
      ⟨⟨mOp m, mTag m, mCtx m, mPl m, c.newAborts (s.mbTake page m), [], false⟩, ?_, rfl, rfl, rfl, rfl, hnew, rfl⟩, fun p hp => ?_,
      fun core => ?_, fun p => ?_⟩
    · exact (congrArg (fun d : Dues => d.time.keeper) hdues).symm
    · rw [Block.busy_mbPump, Block.mbBusy, Block.modMbox_eq, Block.mbox_setMbox_same]
    · rw [Block.mbox_mbPump_other _ _ hp, Block.mbBusy, Block.modMbox_eq, Block.mbox_setMbox_other _ _ _ _ hp, Block.mbox, hboxes]
      exact Block.mbox_mbTake_other _ _ _ hp
    · exact congrArg (fun d => (d.1 core).1) (hmem.trans hstores)
    · exact congrArg (fun d => d.2 p) (hmem.trans hstores)

/-! ### Buffers of R332 -/

/-- An operation of R332 with something to write satisfies `Message` where its buffer can be written. -/
theorem message_of_bufferOp {mk : Nat → Instr} {op : Nat} {data : Block → Nat → List Byte → Except Nat (List Byte)}
    (hexec : ∀ page s, exec (mk page) s = s.run (fun b => b.bufferOp page op (data b page)))
    {ok : State → Nat → List Byte → Prop} {d : State → Nat → List Byte → List Byte}
    (hdata : ∀ page s m, ok s page m → (∃ all, data s.toBlock page m = .ok all ∧ d s page m = all.take (fld (mPl m) 16 8)) ∧
      d s page m ≠ [] ∧ s.BufferOpen page m (d s page m)) :
    Message mk op ok stOK (fun s page m => natLe 8 (d s page m).length) (fun s page m => s.buffered page m (d s page m)) := by
  intro page s m hturn hok
  obtain ⟨⟨all, hall, hd⟩, hsome, haligned, hfree, hput⟩ := hdata page s m hok
  have hlength : min all.length (fld (mPl m) 16 8) = (d s page m).length := by rw [hd, List.length_take, Nat.min_comm]
  have hfull : (d s page m).isEmpty = false := by simpa using hsome
  have hrun : exec (mk page) s =
      .next { s with toBlock := ((s.buffered page m (d s page m)).mbReply page m stOK (natLe 8 (d s page m).length)).mbDrain page } := by
    rw [hexec, State.run_eq, Block.bufferOp, Block.mbOpAt_of_turn hturn.1]
    · dsimp only
      rw [hall]
      dsimp only
      rw [Block.toBuffer, ← hd]
      dsimp only
      rw [if_neg (by omega), hfull, if_neg Bool.false_ne_true, if_pos hput]
      rfl
    · intro hp
      rw [hall]
      dsimp only
      rw [if_neg (by omega), hlength]
      exact hfree hp
  refine (answers_of_reply hturn hrun (Block.mboxes_bufWrite hput)).mono fun t ⟨hreplied, hinq, hother, ht⟩ => ?_
  exact ⟨hreplied, hinq, hother, congrArg (fun x => x.quiet) ht, fun _ => congrArg (fun x => x.muted) ht⟩

/-- Settles O34: grants by their replies, the revoke with FORCE by what an abort leaves, and the records by one rule for buffers. -/
theorem grantsAndFirnRecords : Obligations.GrantsAndFirnRecords := by
  refine ⟨⟨message_modelGrant, message_modelRevoke, SSet.has_insert_erase,
    fun _ _ _ hturn hlow hhigh hforce hctx hcreated hhas => answers_modelRevoke_force hturn hlow hhigh hforce hctx hcreated hhas⟩, ?_, ?_, ?_⟩
  · exact message_of_bufferOp (data := fun b page _ => .ok (b.modelRecords page)) (fun _ _ => rfl) fun _ _ _ hok => ⟨⟨_, rfl, rfl⟩, hok⟩
  · refine message_of_bufferOp (data := fun b page m => if page < 64 ∧ !SSet.has (b.ctx page).grants (fld (mPl m) 0 1) then .error stNoGrant
      else if fld (mPl m) 0 1 = 0 ∨ 15 < fld (mPl m) 0 1 ∨ (b.model (fld (mPl m) 0 1)).state = 0 then .error stInvalid
      else .ok (((b.model (fld (mPl m) 0 1)).directory (fld (mPl m) 0 1)).drop (fld (mPl m) 24 8))) (fun _ _ => rfl) ?_
    rintro page s m ⟨hlow, hhigh, hstate, hgrant, hok⟩
    refine ⟨⟨_, ?_, rfl⟩, hok⟩
    rw [if_neg, if_neg (by omega)]
    rintro ⟨hpage, hnone⟩
    have hhas := hgrant.resolve_left (by omega)
    simp [hhas] at hnone
  · exact message_of_bufferOp (data := fun b _ _ => .ok b.firnRecord) (fun _ _ => rfl) fun _ _ _ hok => ⟨⟨_, rfl, rfl⟩, hok⟩

end Sys2Proof.Machine
end

section
/-!
Variant builds, rechecks after a reset and margin scans, settled (R214, R221, R234, R237, R238).
-/
namespace Sys2Proof.Machine

/-! ### VARIANT_BUILD and BUILD_END -/

theorem message_variantBuild : Message .variantBuild 0x030A (fun s _ m => s.firn.build = none ∧ fld (mPl m) 12 1 ≤ 15 ∧
      (fld (mPl m) 12 1 = 0 ∨ (s.model (fld (mPl m) 12 1)).state = 3) ∧ fld (mPl m) 24 8 ≠ 0 ∧
      s.dramRangeOk (fld (mPl m) 13 1) (fld (mPl m) 16 8) (fld (mPl m) 24 8) 0x100 = true ∧
      fld (mPl m) 0 8 % 64 = 0 ∧ 1 ≤ fld (mPl m) 8 4 ∧ fld (mPl m) 8 4 ≤ 65536 ∧ rsv (mPl m) 14 2 = true ∧ rsv (mPl m) 32 24 = true)
    stOK (fun _ _ _ => [0#8])
    (fun s _ m => { s.toBlock with
      firn := { s.firn with build := some ⟨mTag m, mPl m, false⟩ }
      dram := { s.dram with regions := if fld (mPl m) 12 1 = 0 then s.dram.regions
        else s.dram.regions ++ [⟨fld (mPl m) 16 8, fld (mPl m) 24 8, fld (mPl m) 12 1, true, false, []⟩] } }) :=
  message_of_replied (fun _ _ => rfl)
    fun page s m _ ⟨hidle, hid, hready, hlen, hrange, halign, hcount, hmost, hrsv, hrsv'⟩ => by
    have htake := s.leaves_mbTake page m
    have hranges : (s.mbTake page m).dramRangeOk = s.dramRangeOk := htake.observe (·.dramRangeOk)
    have hreply : Leaves Block.sansMail s.toBlock ((s.mbTake page m).mbReply page m stOK [0#8]) := htake.setMbox page _
    dsimp only
    rw [firn_mbTake, model_mbTake, hranges, if_neg (by simp [hidle]), if_neg (by omega), if_neg (by simp [hlen, hrange]),
      if_neg (by simp only [hrsv, hrsv', Bool.not_true, Bool.false_eq_true, or_false]; omega)]
    obtain ⟨c, hc⟩ : ∃ c, (s.mbTake page m).mbReply page m stOK [0#8] = c := ⟨_, rfl⟩
    rw [hc] at hreply ⊢
    split
    · exact ⟨rfl, hreply.map (·.modFirn _)⟩
    · exact ⟨rfl, hreply.map (fun x => { x with
        firn := { x.firn with build := some ⟨mTag m, mPl m, false⟩ }
        dram := { x.dram with
          regions := x.dram.regions ++ [⟨fld (mPl m) 16 8, fld (mPl m) 24 8, fld (mPl m) 12 1, true, false, []⟩] } })⟩

/-- The regions that a build leaves, by its reason (R237): its own opens, or loses its tag where the build was refused before it wrote. -/
def Build.leaves (u : Build) (r : Nat) (l : List Region) : List Region :=
  if r = 0 ∨ r = 5 then l.map (fun g => if g.variant && g.base == fld u.payload 16 8 then { g with present := true } else g)
  else l.filter (fun g => !(g.variant && g.base == fld u.payload 16 8))

theorem answers_buildEnd {s : State} {u : Build} (hbuild : s.firn.build = some u) (hwaits : s.placeWaits (fld u.payload 13 1) = false) :
    let r := (if u.doomed then s.buildDoomed u else s.buildWork u).2.1
    Answers .buildEnd s (fun t => t.firn.build = none ∧ t.firn.models = s.firn.models ∧ t.cores = s.cores ∧ t.ctxs = s.ctxs ∧
      (r = 0 → t.Noticed 64 0x030A u.tag 0 stOK [0#8]) ∧ (r ≠ 0 → t.Noticed 64 0x030A u.tag 0 stInvalid [BitVec.ofNat 8 r]) ∧
      t.dram.regions = u.leaves r s.dram.regions) := by
  have hwork : s.toBlock.BytesOnly (if u.doomed then s.buildDoomed u else s.buildWork u).1 := by
    split
    · exact s.toBlock.bytesOnly_buildSpoils u
    · exact s.toBlock.bytesOnly_buildWork u
  obtain ⟨w, hw⟩ : ∃ w, (if u.doomed then s.buildDoomed u else s.buildWork u) = w := ⟨_, rfl⟩
  rw [hw] at hwork ⊢
  refine answers_of_run (f := Block.buildEnd) rfl ?_
  obtain ⟨d, hd⟩ : ∃ d : Block, { w.1 with
      dram := { w.1.dram with regions := u.leaves w.2.1 w.1.dram.regions }, firn := { w.1.firn with build := none } } = d := ⟨_, rfl⟩
  have hended := d.emit_traced hubIsl 0x0331 0xFF 0 (w.2.2 + w.2.1 * 2 ^ 32)
  have hrun : s.toBlock.buildEnd = (d.emit hubIsl 0x0331 0xFF 0 (w.2.2 + w.2.1 * 2 ^ 32)).firnNotice 0x030A u.tag w.2.1 0 := by
    simp only [Block.buildEnd, hbuild, hw, ← hd]
    exact if_neg (by simp [hwaits])
  rw [hrun]
  generalize d.emit hubIsl 0x0331 0xFF 0 (w.2.2 + w.2.1 * 2 ^ 32) = c at hended ⊢
  have hnotice := noticed_firnNotice s c 0x030A u.tag w.2.1 0
  have hfirn : d.firn = { w.1.firn with build := none } := by rw [← hd]
  have hcores : d.cores = w.1.cores := by rw [← hd]
  have hctxs : d.ctxs = w.1.ctxs := by rw [← hd]
  have hregions : d.dram.regions = u.leaves w.2.1 w.1.dram.regions := by rw [← hd]
  have hnone : c.firn.build = none := by rw [hended.firn, hfirn]
  have hmodels : c.firn.models = s.firn.models := by rw [hended.firn, hfirn, ← hwork.models]
  refine ⟨hnone, hmodels, hended.cores.trans (hcores.trans hwork.cores), hended.ctxs.trans (hctxs.trans hwork.ctxs), fun h => ?_, fun h => ?_,
    hended.regions.trans (hregions.trans (congrArg (u.leaves w.2.1) hwork.regions))⟩
  · simpa only [h, if_true] using hnotice
  · simpa only [h, if_false] using hnotice

/-! ### Rechecks -/

/-- The placed tensors of a model that do not read back with their digests, as ranges of its regions (R214). -/
def Block.badRanges (b : Block) (m : Nat) : List (Nat × Nat) :=
  ((b.badTensors (b.model m) ((b.model m).placed 1)).2).map (fun t => ((b.model m).tensorAt t, t.length))

/-- The regions after a model's recheck: those of its placement that were closed open, but for ranges found bad (R214). -/
def recheckedRegions (m : Nat) (bad : List (Nat × Nat)) (l : List Region) : List Region :=
  l.map (fun r => if r.model = m ∧ r.variant = false ∧ r.present = false then { r with present := true, gone := bad } else r)

/-- The block of a recheck before the model's change of state. -/
def Block.reopened (b : Block) (m : Nat) : Block :=
  let w := b.badTensors (b.model m) ((b.model m).placed 1)
  { w.1 with dram := { w.1.dram with regions := recheckedRegions m (b.badRanges m) w.1.dram.regions } }

section
variable (b : Block) (m : Nat)

theorem Block.recheck_eq : b.recheck m =
    if b.badRanges m = [] ∨ (b.model m).state = 4 then b.reopened m else (b.reopened m).modelState m 4 := by
  unfold recheck reopened badRanges recheckedRegions
  simp only [Bool.not_eq_true', List.isEmpty_iff]

theorem Block.regions_reopened : (b.reopened m).dram.regions = recheckedRegions m (b.badRanges m) b.dram.regions :=
  congrArg (recheckedRegions m (b.badRanges m)) (b.bytesOnly_badTensors (b.model m) ((b.model m).placed 1)).regions

theorem Block.reopened_keeps : (b.reopened m).cores = b.cores ∧ (b.reopened m).ctxs = b.ctxs ∧ (b.reopened m).model = b.model := by
  have h := b.bytesOnly_badTensors (b.model m) ((b.model m).placed 1)
  exact ⟨h.cores, h.ctxs, h.model⟩

theorem Block.recheck_keeps : (b.recheck m).cores = b.cores ∧ (b.recheck m).ctxs = b.ctxs ∧
    (b.recheck m).dram.regions = recheckedRegions m (b.badRanges m) b.dram.regions := by
  obtain ⟨hcores, hctxs, -⟩ := b.reopened_keeps m
  have hregions := b.regions_reopened m
  rw [recheck_eq]
  split
  · exact ⟨hcores, hctxs, hregions⟩
  · have hstate := (b.reopened m).modelState_traced m 4
    exact ⟨hstate.cores.trans hcores, hstate.ctxs.trans hctxs, hstate.regions.trans hregions⟩

theorem Block.state_recheck : ((b.recheck m).model m).state = if b.badRanges m = [] then (b.model m).state else 4 := by
  obtain ⟨-, -, hmodel⟩ := b.reopened_keeps m
  rw [recheck_eq]
  by_cases hbad : b.badRanges m = []
  · rw [if_pos (.inl hbad), if_pos hbad, hmodel]
  · rw [if_neg hbad]
    split
    · next h => rw [hmodel, h.resolve_left hbad]
    · rw [model_modelState, model_modModel_same]

/-- A placement region that a recheck leaves closed was closed before, and belongs to another model. -/
theorem Block.mem_regions_recheck {r : Region} (hr : r ∈ (b.recheck m).dram.regions) (hvariant : r.variant = false) (hclosed : r.present = false) :
    r ∈ b.dram.regions ∧ r.model ≠ m := by
  obtain ⟨-, -, hregions⟩ := b.recheck_keeps m
  rw [hregions, recheckedRegions, List.mem_map] at hr
  obtain ⟨r₀, hr₀, rfl⟩ := hr
  by_cases h : r₀.model = m ∧ r₀.variant = false ∧ r₀.present = false
  · rw [if_pos h] at hclosed
    exact absurd hclosed (by simp)
  · rw [if_neg h] at hvariant hclosed ⊢
    exact ⟨hr₀, fun hm => h ⟨hm, hvariant, hclosed⟩⟩

theorem Block.foldl_recheck (l : List Nat) (b : Block) : (l.foldl recheck b).cores = b.cores ∧ (l.foldl recheck b).ctxs = b.ctxs ∧
    ∀ r ∈ (l.foldl recheck b).dram.regions, r.variant = false → r.present = false → r ∈ b.dram.regions ∧ r.model ∉ l := by
  induction l generalizing b with
  | nil => exact ⟨rfl, rfl, fun r hr _ _ => ⟨hr, List.not_mem_nil⟩⟩
  | cons m l ih =>
    obtain ⟨hcores, hctxs, hregions⟩ := ih (b.recheck m)
    obtain ⟨hcores', hctxs', -⟩ := b.recheck_keeps m
    refine ⟨hcores.trans hcores', hctxs.trans hctxs', fun r hr hvariant hclosed => ?_⟩
    obtain ⟨hmem, hl⟩ := hregions r hr hvariant hclosed
    obtain ⟨hmem', hm⟩ := b.mem_regions_recheck m hmem hvariant hclosed
    exact ⟨hmem', fun h => (List.mem_cons.mp h).elim hm hl⟩

end

theorem answers_placedRecheckDone {part : Nat} {s : State} (hreset : (s.part part).state = 0) :
    Answers (.placedRecheckDone part) s (fun t => t.cores = s.cores ∧ t.ctxs = s.ctxs ∧
      ∀ r ∈ t.dram.regions, r.variant = false → r.model ∈ s.modelsIn part → r.present = true) := by
  refine answers_of_run (f := fun b => b.placedRecheckDone part) rfl ?_
  have hrun : s.toBlock.placedRecheckDone part = ((s.modelsIn part).filter (fun m =>
      s.dram.regions.any (fun r => r.model == m && !r.variant && !r.present))).foldl Block.recheck s.toBlock := if_neg (not_not.mpr hreset)
  obtain ⟨hcores, hctxs, hregions⟩ := Block.foldl_recheck ((s.modelsIn part).filter (fun m =>
    s.dram.regions.any (fun r => r.model == m && !r.variant && !r.present))) s.toBlock
  dsimp only
  rw [hrun]
  refine ⟨hcores, hctxs, fun r hr hvariant hmodel => ?_⟩
  by_contra hpresent
  have hclosed : r.present = false := by simpa using hpresent
  obtain ⟨hmem, hnot⟩ := hregions r hr hvariant hclosed
  refine hnot (List.mem_filter.mpr ⟨hmodel, List.any_eq_true.mpr ⟨r, hmem, ?_⟩⟩)
  simp [hvariant, hclosed]

/-! ### Margin scans -/

theorem answers_marginScan {s : State} (hup : s.getisUp = true) (hidle : s.firn.scanning = none) :
    Answers .marginScan s (fun t =>
      let now := if s.firn.scanAt = 0 then s.time else s.time.pass (s.firn.scanAt + 86400000000000 - s.time.keeper)
      t.toBlock = { s.toBlock with
        time := now
        firn := { s.firn with
          scanAt := max 1 now.keeper, scans := s.firn.scans + 1
          scanning := some ((s.firn.models.filter (fun m =>
            !m.2.extents.isEmpty && (m.2.state == 3 || m.2.state == 4 || m.2.state == 5))).map (·.1)) } }) := by
  refine answers_of_run (f := Block.marginScan) rfl ?_
  dsimp only
  rw [Block.marginScan, if_neg (by simp [hup, hidle])]
  dsimp only
  split
  · rfl
  · rfl

/-- A model's estimate of a scan, with the record of one that is near its end (R221). -/
def Block.estimate (b : Block) (m : Nat) : Block :=
  let d := Config.retentionDays b.firn.scans m % 0xFFFFFFFE
  let b := b.modModel m (fun x => { x with days := some d })
  if d < 180 then b.emit hubIsl 0x0325 0xFF 0 m else b

theorem Block.estimate_traced (b : Block) (m : Nat) :
    Traced (b.modModel m (fun x => { x with days := some (Config.retentionDays b.firn.scans m % 0xFFFFFFFE) })) (b.estimate m) := by
  unfold estimate
  dsimp only
  split
  · exact emit_traced ..
  · exact .refl _

/-- The block without Firn, of which a scan notes its estimates. -/
abbrev Block.sansFirn (b : Block) : Block := { b with firn := {} }

/-- `c` is `b` once the models of a list have their estimates (R221). -/
structure Block.Estimated (b : Block) (l : List Nat) (c : Block) : Prop where
  firn : c.firn = { b.firn with models := c.firn.models }
  days : ∀ m ∈ l, c.model m = { b.model m with days := some (Config.retentionDays b.firn.scans m % 0xFFFFFFFE) }
  others : ∀ m, m ∉ l → c.model m = b.model m
  rest : Leaves sansFirn b c

section
variable {b c : Block} {l : List Nat}

theorem Block.Estimated.scans (h : b.Estimated l c) : c.firn.scans = b.firn.scans := by rw [h.firn]
theorem Block.Estimated.time (h : b.Estimated l c) : c.time = b.time := (congrArg (fun x : Block => x.time) h.rest.1 :)

theorem Block.estimated_estimate (b : Block) (m : Nat) : b.Estimated [m] (b.estimate m) := by
  have ht := b.estimate_traced m
  have hmodel (n : Nat) : (b.estimate m).model n =
      (b.modModel m (fun x => { x with days := some (Config.retentionDays b.firn.scans m % 0xFFFFFFFE) })).model n := by
    rw [model, ht.firn]
    rfl
  refine ⟨by rw [ht.firn]; rfl, fun n hn => ?_, fun n hn => ?_, ht.leaves_of⟩
  · rw [List.mem_singleton.mp hn, hmodel, model_modModel_same]
  · rw [hmodel, model_modModel_other _ _ _ (fun h => hn (List.mem_singleton.mpr h))]

theorem Block.Estimated.trans {d : Block} {l' : List Nat} (h : b.Estimated l c) (h' : c.Estimated l' d) : b.Estimated (l ++ l') d := by
  refine ⟨?_, fun m hm => ?_, fun m hm => ?_, h.rest.trans_of_rings (fun _ => rfl) h'.rest⟩
  · rw [h'.firn, h.firn]
  · by_cases hl' : m ∈ l'
    · rw [h'.days m hl', h.scans]
      by_cases hl : m ∈ l
      · rw [h.days m hl]
      · rw [h.others m hl]
    · rw [h'.others m hl', h.days m ((List.mem_append.mp hm).resolve_right hl')]
  · rw [List.mem_append, not_or] at hm
    rw [h'.others m hm.2, h.others m hm.1]

theorem Block.estimated_foldl (l : List Nat) (b : Block) : b.Estimated l (l.foldl estimate b) := by
  induction l generalizing b with
  | nil => exact ⟨rfl, fun _ h => absurd h List.not_mem_nil, fun _ _ => rfl, (Traced.refl b).leaves _⟩
  | cons m l ih => exact (b.estimated_estimate m).trans (ih _)

end

theorem answers_scanDone {s : State} {l : List Nat} (hscan : s.firn.scanning = some l) :
    Answers .scanDone s (fun t => t.firn.scanning = none ∧ t.firn.lastScan = s.time.keeper ∧ t.firn.inForce = t.firn.current ∧
      (∀ m ∈ l, t.model m = { s.model m with days := some (Config.retentionDays s.firn.scans m % 0xFFFFFFFE) }) ∧
      (∀ m, m ∉ l → t.model m = s.model m) ∧ Leaves (fun b => { b with firn := {} }) s.toBlock t.toBlock) := by
  refine answers_of_run (f := Block.scanDone) rfl ?_
  have hest := Block.estimated_foldl l s.toBlock
  have hrun : s.toBlock.scanDone = (((l.foldl Block.estimate s.toBlock).modFirn (fun f => { f with
      scanning := none, lastScan := (l.foldl Block.estimate s.toBlock).time.keeper })).dirCommit).emit hubIsl 0x0324 0xFF 0 0 := by
    rw [Block.scanDone, hscan]
    rfl
  rw [hrun]
  generalize l.foldl Block.estimate s.toBlock = c at hest ⊢
  generalize hd : c.modFirn (fun f => { f with scanning := none, lastScan := c.time.keeper }) = d
  have hdone := d.dirCommit.emit_traced hubIsl 0x0324 0xFF 0 0
  have hmodel (m : Nat) : (d.dirCommit.emit hubIsl 0x0324 0xFF 0 0).model m = c.model m := by
    rw [Block.model, hdone.firn]
    exact (congrFun d.model_dirCommit m).trans (hd ▸ rfl)
  obtain ⟨even, odd, hcommit⟩ := d.firn.commit_eq
  have hfirn : (d.dirCommit.emit hubIsl 0x0324 0xFF 0 0).firn = { d.firn with even := even, odd := odd, gen := d.firn.gen + 1 } :=
    hdone.firn.trans hcommit
  refine ⟨by rw [hfirn, ← hd]; rfl, ?_, ?_, fun m hm => (hmodel m).trans (hest.days m hm), fun m hm => (hmodel m).trans (hest.others m hm), ?_⟩
  · rw [hfirn, ← hd, ← hest.time]
    rfl
  · rw [hdone.firn]
    exact d.firn.inForce_commit
  · have hcd : Leaves Block.sansFirn c d := hd ▸ ⟨rfl, fun _ => rfl⟩
    have hdd : Leaves Block.sansFirn d d.dirCommit := ⟨rfl, fun _ => rfl⟩
    have hsame (x : Block) : x.sansFirn.rings = x.rings := rfl
    exact ((hest.rest.trans_of_rings hsame hcd).trans_of_rings hsame hdd).trans_of_rings hsame (hdone.leaves Block.sansFirn)

/-- Settles O35: builds and rechecks go through `Block.BytesOnly`, and a scan through `Block.Estimated`. -/
theorem variantsRechecksAndScans : Obligations.VariantsRechecksAndScans :=
  ⟨⟨message_variantBuild, fun _ _ hbuild hwaits => answers_buildEnd hbuild hwaits⟩, fun _ _ hreset => answers_placedRecheckDone hreset,
    fun b m => ⟨(b.recheck_keeps m).2.2, b.state_recheck m⟩, fun _ hup hidle => answers_marginScan hup hidle,
    fun _ _ hscan => answers_scanDone hscan⟩

end Sys2Proof.Machine
end
